-- ==== Sys2Proof/Word.lean ====
section
/-!
DEFINITION. The word types of the model: bytes, registers of the management window, and the keyed tables in
which sparse state is held. Nothing here depends on the device.
-/
namespace Sys2Proof

/-- A byte is 8 bits (R3). -/
abbrev Byte := BitVec 8

/-- Registers are 64 bits wide (R10). -/
abbrev Word := BitVec 64

/-- A command word of a Course is 128 bits (R72). -/
abbrev CmdWord := BitVec 128

/-- A machine coordinate in the layout of ZH_POS[17:0] (R19). -/
abbrev Coord := BitVec 18

/-- Sparse state by number: pairs of a key and a value, keys strictly rising. -/
abbrev Table (α : Type) := List (Nat × α)

end Sys2Proof
end

