-- ==== Sys2Proof/Syntax.lean ====
section
/-!
DEFINITION. The commands of the block: one constructor of `Instr` for each row of spec/opcode_table.json, and the
types of their operands. The table gives its rows no operand fields; an operand here is what the step's own rule
names: the unit concerned, a field of a command word or packet, or what the hardware observes at that step (a sensor
value, a received word, the outcome of a check).
-/
namespace Sys2Proof

/-! ### Operands of Course commands (R72, R73) -/

/-- Rounding codes (R74): 0b00 to nearest, ties to even; 0b01 stochastic. -/
inductive Rnd where
  | nearest
  | stochastic
  deriving DecidableEq, Repr

/-- The common fields of a command word (R72). -/
structure Common where
  we : Bool := false
  wSem : Nat := 0
  se : Bool := false
  sSlot : Nat := 0
  adv : Bool := false
  deriving DecidableEq, Repr

/-- A rank operand (R78): REL, and the 18 bits of RANK. -/
structure RankOp where
  rel : Bool
  rank : BitVec 18
  deriving DecidableEq, Repr

/-- The functions of VEC_OP (R77). -/
inductive VecFn where
  | add | sub | mul | max | min | scale | axpy | exp | recip | rsqrt | convert | sumrow
  deriving DecidableEq, Repr

/-- An array check as observed in a row of an array (R91, R96, R100): its place, the checksum C and the column sum S that the
array formed there, with the column that S was short in if that shows (R373), and whether a residue did not match. -/
structure ArrayFail where
  array : Nat
  row : Nat
  kBlock : Nat
  pass : Nat
  column : Nat := 0xFF
  cObs : Int := 0
  sObs : Int := 0
  residue : Bool := false
  deriving DecidableEq, Repr

/-- What the read path delivers to a command that consumes frames: sound bytes, or one of its frames, counted from 0 in
the order in which it reads them, damaged on a path that Z72 does not cover, which its CRC shows (R58). -/
inductive ReadPath where
  | clean
  | damaged (frame : Nat)
  deriving DecidableEq, Repr

/-- What the checks of the first frame that a ring takes from its staging slot find: how many of its two reads are damaged
on their way (R58, R344), and how many of its combination's two residue checks fail (R354). -/
structure RelayChecks where
  reads : Nat := 0
  combiner : Nat := 0
  deriving DecidableEq, Repr

/-- The read path as the frames after the first n see it. -/
def ReadPath.shift (p : ReadPath) (n : Nat) : ReadPath :=
  match p with
  | .damaged k => if n ≤ k then .damaged (k - n) else .clean
  | .clean => .clean

/-! ### Operands of the management plane -/

/-- The ways into the management plane (15_management.md): I3C, a torus port, or the service port; a fabric message
carries the source coordinate of its packets and FROM_SVC (R441, R444). -/
inductive Route where
  | i3c
  | fabric (src : Coord) (fromSvc : Bool)
  deriving DecidableEq, Repr

/-- A complete message (R441, R442): where it came from, its number and job, and its whole body. -/
structure Msg where
  route : Route
  mseq : BitVec 32
  jobId : BitVec 64
  body : List Byte
  deriving DecidableEq, Repr

/-! ### Packets of the fabric (R284) -/

/-- A packet: the header fields of R284 and the payload; which granules of the payload are uncorrectable, and whether
a granule of the header is (R331), as the buffer that it arrives in reads them; and the granules of the payload in which that
buffer corrects a bit, with the bit (R15, R205). -/
structure Packet where
  opc : Byte
  pflags : Byte := 0
  vc : Byte := 0
  gid : Byte := 0xFF
  dst : Coord
  src : Coord
  sliceId : BitVec 16
  windowId : BitVec 16 := 0
  offset : BitVec 48 := 0
  len : BitVec 13 := 0
  seq : BitVec 16 := 0
  tag : BitVec 16 := 0
  aux : BitVec 16 := 0
  wcnt : BitVec 16 := 0
  hchk : BitVec 16 := 0
  payload : List Byte := []
  badGranules : List Nat := []
  fixedBits : List (Nat × Nat) := []
  badHeader : Bool := false
  deriving DecidableEq, Repr

/-! ### Operands of memory steps -/

/-- What a request asks of a store (R211, R217). -/
inductive ReqKind where
  | read
  | write
  | atomic (fn : Nat) (wide : Bool)
  deriving DecidableEq, Repr

/-- A request for the stacks: its address and length, its bytes, and whether an update engine sends it (R211). -/
structure MemReq where
  id : Nat
  kind : ReqKind
  addr : Nat
  len : Nat
  data : List Byte := []
  update : Bool := false
  deriving DecidableEq, Repr

/-- A memory that the scrubber of R121 and R227 walks. -/
inductive ScrubStore where
  | scratchpad
  | clusterBuffer
  | lodge
  deriving DecidableEq, Repr

/-- A stack row that fails test 0x0B (R425, R430): its place, the failing granule and bit with the syndrome, and whether a
hard repair covered it, with the spares then left. -/
structure RowFail where
  pc : Nat
  bank : Nat
  row : Nat
  byte : Nat := 0
  bit : Nat := 0
  syndrome : Nat := 0
  repaired : Bool := true
  sparesLeft : Nat := 0
  deriving DecidableEq, Repr

/-- The passing ranges of a lane as its sweeps found them (R228): the read strobe delay and the write data delay in 1/64 unit
interval, and the reference voltage in 0.5 % steps. -/
structure LaneMargin where
  pc : Nat
  lane : Nat
  read : Int × Int
  write : Int × Int
  reference : Int × Int
  deriving DecidableEq, Repr

/-- What training and margining a stack found (R228, R229, R430): the narrowest lane with its widths and height, the ranges
of lanes, the lanes replaced (pseudo-channel and lane), the cause where the stack does not respond (0x04) or a lane fails
with no repair left (0x05), and the rows that the march found failing. -/
structure MarginResult where
  stack : Nat
  worstPc : Nat := 0
  worstLane : Nat := 0
  rdWidth : Nat := 24
  wrWidth : Nat := 24
  height : Nat := 10
  lanes : List LaneMargin := []
  repaired : List (Nat × Nat) := []
  cause : Nat := 0
  pprLeft : Nat := 0
  rowFails : List RowFail := []
  deriving DecidableEq, Repr

/-! ### What cold start observes (R418 to R432) -/

/-- A key slot of the fuses: its role bits as in MGT_KEYS, and the fused hash of its key (R414). -/
structure KeySlot where
  roles : Byte := 0
  keyHash : List Byte := []
  deriving DecidableEq, Repr

/-- A spare-map entry (R428). -/
structure SpareEntry where
  kind : Nat
  die : Nat
  unit : Nat
  element : Nat := 0
  detail : Nat := 0
  source : Nat := 0
  boot : Nat := 0
  pt : Nat := 0
  crcBad : Bool := false
  deriving DecidableEq, Repr

/-- The fuses as read at step 1 (R418): whether the block of the key slots passes its check (R415), and the factory
repairs. -/
structure FuseReport where
  readable : Bool := true
  factoryRepairs : List SpareEntry := []
  deriving DecidableEq, Repr

/-- A part that fails the self-test catalogue beyond a spare row or column (R425). -/
inductive Part where
  | cell (p : Nat)
  | cluster (c : Nat)
  | hubStop (h : Nat)
  | memoryController (m : Nat)
  | linkLogic (n : Nat)
  | glide (n : Nat)
  | lodgeSlice (i : Nat)
  | core
  | ccPair
  | mcPair
  | relayCombiner
  deriving DecidableEq, Repr

/-- One failure of a self-test: the test, where it failed, and whether a spare row or column covered it, with the row or
column that it replaces and the spare used (R425, R428). -/
structure SelfTestFail where
  test : Nat
  die : Nat
  unit : Nat
  address : Nat := 0
  bit : Nat := 0x7F
  repaired : Bool := false
  byColumn : Bool := false
  element : Nat := 0
  spare : Nat := 0
  part : Part
  deriving DecidableEq, Repr

/-- An analog check of step 4 that fails (R426). -/
inductive AnalogFail where
  | clockMonitor
  | dieClock (die : Nat)
  | supply
  | sensor (s : Nat)
  | glideConverter (n : Nat)
  | edgeChannel (port fibre chan : Nat)
  | comb (port comb : Nat)
  deriving DecidableEq, Repr

/-- A lane or bond sub-group that fails training at step 5 (R427), the spare that took its place, if any, and whether
the width that the die reports agrees, at first and after the further retrain (R371). -/
structure LaneReport where
  die : Nat
  unit : Nat
  element : Nat
  bridge : Bool
  spare : Option Nat := none
  widthAgrees : Bool := true
  deriving DecidableEq, Repr

/-- A calibration of a Glide engine (R195, R432): the verification ENOB in 2^-20 bit. -/
structure GlideCal where
  engine : Nat
  enob : Int
  deriving DecidableEq, Repr

/-- Two samples of the straps, 1 ms apart (R270). -/
structure StrapSample where
  pos1 : Coord := 0
  par1 : Bool := true
  pos2 : Coord := 0
  par2 : Bool := true
  deriving DecidableEq, Repr

/-- What a cold-start step observed, by step (R418): step 1 the fuses, step 3 whether each copy's header reads, step 4
self-test and analog failures, step 5 lanes, step 6 the stacks, step 9 the calibrations; and the samples of the straps so far, with which step 10 begins
(R270, log 141). -/
structure StepReport where
  fuses : FuseReport := {}
  headerReadsA : Bool := true
  headerReadsB : Bool := true
  selfTest : List SelfTestFail := []
  analog : List AnalogFail := []
  lanes : List LaneReport := []
  stackSet : List MarginResult := []
  glide : List GlideCal := []
  straps : StrapSample := {}
  deriving DecidableEq, Repr

/-- A run on the arrays of a host cell, of a station or of an engine's oldest shadow frame, and what their checks show (R100,
R163, R197). -/
structure HostRun where
  unit : Nat
  checks : List ArrayFail := []
  deriving DecidableEq, Repr

/-! ### What the optics observe -/

/-- One channel of a margin test: the bit errors counted over 2^27 bits at launch powers reduced by 3.0 dB, 3.5 dB and so on
(R268). -/
structure ChannelMargin where
  fibre : Nat
  chan : Nat
  errors : List Nat
  deriving DecidableEq, Repr

/-- A pilot sample: pilot vector, output port and ADC code (R190, R191). -/
structure PilotSample where
  j : Nat
  r : Nat
  code : Int
  deriving DecidableEq, Repr

/-- The repeats of one pilot at one port over a drift window: the sum of the codes and of their squares (R193). -/
structure PilotRepeats where
  j : Nat
  r : Nat
  sum : Int
  sumSq : Nat
  deriving DecidableEq, Repr

/-- The end of a confirmation run (R360). -/
inductive ConfirmRun where
  | passes
  | failsThenPasses
  | failsTwice
  deriving DecidableEq, Repr

/-- The light that a port loses in running (R273). -/
inductive LightLoss where
  | channel (fibre chan : Nat)
  | allFibres
  deriving DecidableEq, Repr

/-- What a fast retrain's end reports: rings that did not relock on their channel, the peer's expected SEQ by lane, and
whether the die's report of the trained width agrees at first and after the further retrain (R274, R371). -/
structure RetrainReport where
  badRings : List (Nat × Nat) := []
  acks : List (Nat × Nat) := []
  widthAgreesFirst : Bool := true
  widthAgreesAgain : Bool := true
  durationNs : Nat := 16000
  deriving DecidableEq, Repr

/-- The commands of the block, in the order of the table. -/
inductive Instr where
  -- device states, supplies and pins
  | resetAssert
  | standbyPowerLost
  | standbyEntry (refPresent : Bool)
  | pwrEnAssert
  | pgoodAssert
  | pgoodTimeout
  | pgoodLost
  | drainReqPinAssert
  | drainReqPinDeassert
  | pwrLimitAssert
  | pwrLimitRelease
  | rootPllLoss (refPresent : Bool)
  | clockLoss (die : Nat)
  | lockstepMismatch (courseControllers : Bool)
  | tripComparator (die comp : Nat)
  | coldStartStepEnd (report : StepReport)
  | coldStartStepLimit
  | drained
  | drainLimit
  -- Course commands
  | nop (st : Nat) (cf : Common)
  | semWait (st : Nat) (cf : Common) (sem count : Nat)
  | semSignal (st : Nat) (cf : Common) (slot count : Nat)
  | loop (st : Nat) (cf : Common) (count : Nat)
  | endLoop (st : Nat) (cf : Common)
  | halt (st : Nat) (cf : Common)
  | step (st : Nat) (cf : Common)
  | semRemote (st : Nat) (cf : Common) (rank : RankOp) (station sem count : Nat)
  | mmClear (st : Nat) (cf : Common) (acc : Nat)
  | mmRun (st : Nat) (cf : Common) (a b acc : Nat) (path : ReadPath) (checks : List ArrayFail)
  | mmRunCommit (st : Nat)
  | arrayRepeat (st : Nat) (checks : List ArrayFail)
  | mmDrain (st : Nat) (cf : Common) (o acc fmt : Nat) (rnd : Rnd) (clr : Bool)
  | vecOp (st : Nat) (cf : Common) (fn : VecFn) (a b o fmt : Nat) (rnd : Rnd) (imm : BitVec 32) (path : ReadPath)
  | glLoad (st : Nat) (cf : Common) (w map : Nat) (path : ReadPath)
  | glRun (st : Nat) (cf : Common) (i o fmt : Nat) (rnd : Rnd) (adc : List (List (List Int))) (path : ReadPath) (checks : List ArrayFail)
  | glRunComplete (run : HostRun)
  | updStep (st : Nat) (cf : Common) (row set : Nat)
  | updFrame (engine st frame : Nat) (path : ReadPath)
  | updStepComplete (st : Nat)
  | cpTiles (st : Nat) (cf : Common) (i o count : Nat) (path : ReadPath)
  | operationList (st : Nat) (cf : Common) (o count : Nat) (path : ReadPath)
  | cpRemote (st : Nat) (cf : Common) (i : Nat) (rank : RankOp) (window slot count : Nat) (path : ReadPath)
  | colRs (st : Nat) (cf : Common) (i o count : Nat) (path : ReadPath)
  | colAg (st : Nat) (cf : Common) (i o count : Nat) (path : ReadPath)
  | colDigest (st : Nat) (cf : Common) (object : Nat)
  | collectiveComplete (st : Nat)
  | rdTiles (st : Nat) (cf : Common) (object o first count : Nat) (path : ReadPath)
  | wrTiles (st : Nat) (cf : Common) (object i first count : Nat) (path : ReadPath)
  | winRelease (st : Nat) (cf : Common) (first count : Nat)
  -- stations at run
  | signalArrival (first : Nat) (others : List Nat)
  | watchdog (st : Nat)
  | tileCrcReread (st : Nat) (path : ReadPath)
  | ticketGrant (pool : Nat) (ballast : List ArrayFail)
  | rampDownStart (cell : Nat) (ballast : List ArrayFail)
  | rampDownComplete (cell : Nat)
  | ticketRecall (pool : Nat)
  | stackBurstRelease (m : Nat)
  -- jobs and placement
  | manifest (m : Msg)
  | placementJobStart
  | placementConfirmation
  | placementGlideLeave (engine : Nat)
  | placementGlideReturn (engine : Nat)
  | rotationDue (cluster : Nat)
  | rotationBoundary (cluster : Nat)
  | rotationTimeout (cluster : Nat)
  | rotationCopyComplete (cluster : Nat) (writeFault : Bool)
  | cellTestComplete (pcell : Nat) (failures : List SelfTestFail) (badPatterns : List Nat)
  | inPlaceTestDue (cluster : Nat)
  | fullTest
  | confirmationComplete (run : ConfirmRun) (check : ArrayFail)
  | bucketLeak
  | watchRelease
  | heartbeat
  | telemetry
  -- Glide engines
  | fastWindow (engine st : Nat) (codes : List (List Int))
  | driftWindow (engine st : Nat)
  | shadowRecompute (run : HostRun)
  | glideRecalTrigger (engine code : Nat)
  | recalibrationComplete (cal : GlideCal)
  | retrackComplete (engine : Nat)
  | recalRetry (engine : Nat)
  | glideMapSwitch (engine : Nat)
  | tuningUpdate (engine : Nat)
  -- memory
  | stackRequest (req : MemReq)
  | correctionWriteback (m : Nat) (line : Nat)
  | scratchpadWriteback (line : Nat)
  | lodgeRequest (req : MemReq)
  | lodgeFillReturn (unit : Nat)
  | scratchpadScrub (store : ScrubStore) (unit line : Nat)
  | stackScrub (m : Nat) (unit : Nat)
  | rowTest (m pc bank row : Nat) (failingBit : Option Nat) (sparesLeft : Nat)
  | strobeTracking (m pc lane : Nat) (step : Int) (limit : Option MarginResult)
  | marginGo (results : List MarginResult)
  | stackFailed (m cause : Nat)
  | dmaTransactionComplete (st : Nat)
  -- optical links
  | lightDetected (port : Nat) (fibres : List Nat)
  | trainingWord (port fibre chan : Nat) (word : BitVec 128) (rtt : Nat)
  | marginTest (port : Nat) (results : List ChannelMargin) (dark : List Nat)
  | trainingLimit (port : Nat)
  | linkFrame (port lane : Nat) (frame : List Byte)
  | linkRetryRequest (port lane ack : Nat)
  | replayTimeout (port lane : Nat)
  | correctedSymbolWindow (port fibre chan : Nat)
  | lightLost (port : Nat) (loss : LightLoss)
  | bridgeLineCheckFail (port bundle lane : Nat)
  | combFailure (port : Nat) (linePower : Int)
  | fastRetrainComplete (port : Nat) (report : RetrainReport)
  | loopbackTest (port : Nat) (fieldsFullSet : Bool)
  | hold (port : Nat) (value : Bool)
  | retrainGo (port : Nat)
  -- fabric
  | packetArrival (port : Nat) (p : Packet)
  | write (p : Packet)
  | store (p : Packet)
  | load (p : Packet)
  | atom (p : Packet)
  | atomF (p : Packet)
  | signal (p : Packet)
  | refetch (p : Packet)
  | far (p : Packet)
  | relay (p : Packet) (checks : RelayChecks)
  | relayTally (p : Packet)
  | ack (p : Packet)
  | data (p : Packet)
  | result (p : Packet)
  | farRsp (p : Packet)
  | relayAck (p : Packet)
  | mgtPacket (port : Nat) (p : Packet)
  | ordPacketRelease (src : Coord)
  | combineEntryClose (port entry : Nat)
  -- sensors and steps
  | sensorReading (sensor : Nat) (t : Int)
  | stepConfirmation (sensor : Nat) (neighbours : List Int)
  | stepEnd
  -- messages to the device
  | regRead (m : Msg)
  | regWrite (m : Msg)
  | sliceTable (m : Msg)
  | start (m : Msg)
  | drain (m : Msg)
  | msgDrainRelease (m : Msg)
  | fence (m : Msg)
  | suspect (m : Msg)
  | pack (m : Msg)
  | image (m : Msg)
  | clearBench (m : Msg)
  | clearSparemap (m : Msg)
  | raiseMinSvn (m : Msg)
  | debugUnlock (m : Msg)
  | messageResponse (mseq : BitVec 32) (chunkOff : Nat)
  | messageResendTimeout (mseq : BitVec 32) (chunkOff : Nat)
  | partialMessageTimeout (route : Route)
  -- the I3C target
  | entdaa (addr : BitVec 7)
  | rstdaa
  | enec
  | disec
  | getpid
  | getbcr
  | getdcr
  | getstatus
  | i3cRegisterWrite (frame : List Byte)
  | i3cSetReadPointer (frame : List Byte)
  | i3cPrivateRead
  | i3cMailboxAppend (frame : List Byte)
  | i3cMailboxDiscard (frame : List Byte)
  | i3cSelectOutbound (frame : List Byte)
  -- register writes with behaviour of their own
  | drainGo
  | drainRelease
  | powerdown
  | fenceGo (port : Nat)
  | tstGo (target : Nat)
  | onDemandTestEnd (failures : List SelfTestFail)
  | jrnlSelWrite (value : Word)
  | bucketCtlWrite (value : Word)
  | poolBudgetWrite (pool : Nat) (value : Word)
  | limitWWrite (value : Word)
  | satCounterClear (offset : Nat) (value : Word)
  | registerWrite (offset : Nat) (bytes : Nat) (value : Word)
  | capacityMapWrite
  | journalFlush (writeOk : Bool)
  -- clocks, codewords, schedulers and credits
  | referenceClockLoss
  | poweredTimeTick
  | codeword (port fibre chan : Nat) (symbols : List Nat)
  | pseudoChannelCommand (m pc : Nat) (refresh : Option Nat)
  | creditReturn (port vc flits : Nat)
  deriving DecidableEq, Repr

end Sys2Proof
end

