-- ==== Sys2Proof/Decode.lean ====
section
/-!
DEFINITION. The command that a word spells by the table's bits. No row of spec/opcode_table.json gives bits (each has an
empty field list), so no word spells a command (log 2).
-/
namespace Sys2Proof

/-- The command that a word spells: none, since no row of the table gives bits (log 2). -/
def decodeTableWord (_nbits _w : Nat) : Option Instr := none

end Sys2Proof
end

