-- ==== Sys2Proof/Machine/Bits.lean ====
section
/-!
DEFINITION. Bit fields (R4), little-endian byte strings (R5) and keyed tables. Everything that the formats of the spec
share, said once.
-/
namespace Sys2Proof.Machine

/-! ### Bit fields of naturals -/

/-- Bits [hi:lo] of a number (R4). -/
def bits (n hi lo : Nat) : Nat := n / 2 ^ lo % 2 ^ (hi + 1 - lo)

/-- Bit n of a number. -/
def bit (n i : Nat) : Bool := n / 2 ^ i % 2 = 1

/-- A truth value as 0 or 1. -/
def b2n (b : Bool) : Nat := if b then 1 else 0

/-- The two's-complement value of a field of w bits. -/
def signedOf (w n : Nat) : Int := if n < 2 ^ (w - 1) then (n : Int) else (n : Int) - 2 ^ w

/-- The two's-complement field of w bits that holds an integer. -/
def fieldOf (w : Nat) (x : Int) : Nat := (x % (2 ^ w : Int)).toNat

/-- An unsigned value held to w bits by saturation. -/
def satTo (w n : Nat) : Nat := min n (2 ^ w - 1)

/-- The bits of a mask, in ascending order, among the first w. -/
def maskBits (w n : Nat) : List Nat := (List.range w).filter (bit n ·)

/-- The mask whose bits are listed. -/
def maskOf (l : List Nat) : Nat := l.foldl (fun m i => if bit m i then m else m + 2 ^ i) 0

/-! ### Byte strings -/

/-- The number that a byte string holds, lowest byte first (R5). -/
def leNat : List Byte → Nat
  | [] => 0
  | b :: r => b.toNat + 256 * leNat r

/-- A number as a byte string of a given length, lowest byte first (R5). -/
def natLe : Nat → Nat → List Byte
  | 0, _ => []
  | k + 1, n => BitVec.ofNat 8 n :: natLe k (n / 256)

/-- Bytes at an offset. -/
def sub (l : List Byte) (off len : Nat) : List Byte := (l.drop off).take len

/-- A field of a structure in bytes: its value at an offset and length. -/
def fld (l : List Byte) (off len : Nat) : Nat := leNat (sub l off len)

/-- The byte at an offset, 0 beyond the end. -/
def byteAt (l : List Byte) (off : Nat) : Byte := l.getD off 0

/-- A byte string with some of its bytes replaced from an offset. -/
def splice (l : List Byte) (off : Nat) (b : List Byte) : List Byte :=
  l.take off ++ b ++ l.drop (off + b.length)

/-- A byte string of a given length, cut or filled with zeros. -/
def padTo (n : Nat) (l : List Byte) : List Byte := l.take n ++ List.replicate (n - l.length) 0

/-- Every byte is zero. -/
def allZero (l : List Byte) : Bool := l.all (· == 0)

/-- A byte string in pieces of k bytes. -/
def chunksOf (k : Nat) (l : List Byte) : List (List Byte) :=
  (List.range ((l.length + k - 1) / k)).map fun i => sub l (i * k) k

/-! ### Sorting -/

/-- A list with an item put before the first that does not come ahead of it. -/
def insertBy {α : Type} (le : α → α → Bool) (x : α) : List α → List α
  | [] => [x]
  | y :: r => if le x y then x :: y :: r else y :: insertBy le x r

/-- A list in order; equals keep their places. -/
def sortBy {α : Type} (l : List α) (le : α → α → Bool) : List α := l.foldr (insertBy le) []

/-! ### Tables -/

/-- The value at a key, if listed. -/
def look {α : Type} (t : Table α) (k : Nat) : Option α :=
  match t with
  | [] => none
  | (k', v) :: r => if k' = k then some v else look r k

/-- The value at a key, with what an unlisted key reads as. -/
def lookD {α : Type} (t : Table α) (k : Nat) (d : α) : α := (look t k).getD d

/-- The table with a key's value set, keys kept rising. -/
def put {α : Type} (t : Table α) (k : Nat) (v : α) : Table α :=
  match t with
  | [] => [(k, v)]
  | (k', v') :: r => if k < k' then (k, v) :: (k', v') :: r else if k = k' then (k, v) :: r else (k', v') :: put r k v

/-- The table without a key. -/
def del {α : Type} (t : Table α) (k : Nat) : Table α := t.filter (·.1 != k)

/-- The table with a key's value changed, from what it reads as. -/
def upd {α : Type} (t : Table α) (k : Nat) (d : α) (f : α → α) : Table α := put t k (f (lookD t k d))

/-- The list with its i-th element changed. -/
def updAt {α : Type} (l : List α) (i : Nat) (f : α → α) : List α :=
  match l, i with
  | [], _ => []
  | a :: r, 0 => f a :: r
  | a :: r, i + 1 => a :: updAt r i f

/-- The element at a position of a list that is filled with d beyond its end, changed. -/
def setGrow {α : Type} (l : List α) (i : Nat) (d : α) (v : α) : List α :=
  (l ++ List.replicate (i + 1 - l.length) d).set i v

end Sys2Proof.Machine
end

