-- ==== Sys2Proof/Machine/Crc.lean ====
section
/-!
DEFINITION. The check values of the spec: CRC-32C of tile frames (R56), CRC-32 of link frames (R259), CRC-16 of
training words and packet headers (R266, R285) and CRC-8 of I3C frames (R452).
-/
namespace Sys2Proof.Machine

/-- One bit of a reflected CRC. -/
def crcBitR (poly c : BitVec 32) : BitVec 32 := if c.getLsbD 0 then (c >>> 1) ^^^ poly else c >>> 1

/-- One byte of a reflected 32-bit CRC. -/
def crcByteR (poly c : BitVec 32) (b : Byte) : BitVec 32 :=
  Nat.repeat (crcBitR poly) 8 (c ^^^ b.setWidth 32)

/-- A reflected 32-bit CRC with initial value and final exclusive-or 0xFFFF_FFFF. -/
def crc32R (poly : BitVec 32) (l : List Byte) : BitVec 32 :=
  (l.foldl (crcByteR poly) 0xFFFFFFFF) ^^^ 0xFFFFFFFF

/-- CRC-32C (R56). -/
def crc32c (l : List Byte) : BitVec 32 := crc32R 0x82F63B78 l

/-- The CRC-32 of a link frame (R259). -/
def crc32 (l : List Byte) : BitVec 32 := crc32R 0xEDB88320 l

/-- One bit of the CRC-16. -/
def crcBit16 (c : BitVec 16) : BitVec 16 := if c.getLsbD 15 then (c <<< 1) ^^^ 0x1021 else c <<< 1

/-- The CRC-16 of R266 and R285. -/
def crc16 (l : List Byte) : BitVec 16 :=
  l.foldl (fun (c : BitVec 16) (b : Byte) => Nat.repeat crcBit16 8 (c ^^^ ((b.setWidth 16) <<< (8 : Nat)))) 0xFFFF

/-- One bit of the CRC-8. -/
def crcBit8 (c : BitVec 8) : BitVec 8 := if c.getLsbD 7 then (c <<< 1) ^^^ 0x07 else c <<< 1

/-- The CRC-8 of R452. -/
def crc8 (l : List Byte) : BitVec 8 := l.foldl (fun c b => Nat.repeat crcBit8 8 (c ^^^ b)) 0

end Sys2Proof.Machine
end

