-- ==== Sys2Proof/Config.lean ====
section
/-!
DEFINITION. What an implementation fixes and the manual leaves open: constants without a body, so that no proof can see
their values. Each is named in an assumption log entry.
-/
namespace Sys2Proof.Config

/-- MGT_NONCE takes a new value from the on-chip random source (R466): the value drawn n-th (log 5). -/
opaque freeNonce : Nat → BitVec 64

/-- EXP of a binary32 operand with no value that R77 bounds: an infinity (log 6). -/
opaque vecExp : BitVec 32 → BitVec 32

/-- Which of the binary32 results within 1 unit in the last place EXP gives (R77, log 6). -/
opaque vecExpPick : BitVec 32 → Fin 3

/-- RECIP of a binary32 operand with no quotient that R77 bounds: zero, infinity or NaN (log 6). -/
opaque vecRecipSpecial : BitVec 32 → BitVec 32

/-- RSQRT of a binary32 operand with no root that R77 bounds: not a positive finite number (log 6). -/
opaque vecRsqrtSpecial : BitVec 32 → BitVec 32

/-- Which of the binary32 results within 1 unit in the last place RECIP gives (R77, log 6). -/
opaque vecRecipPick : BitVec 32 → Fin 3

/-- Which of the binary32 results within 1 unit in the last place RSQRT gives (R77, log 6). -/
opaque vecRsqrtPick : BitVec 32 → Fin 3

/-- The bytes of the flit in an idle or retry frame, which the manual leaves open (R258, log 142). -/
opaque idleByte : Nat → BitVec 8

/-- The 32 bits of an element outside column 0 of a SUMROW result, by element index: the manual states the sums in column
0 and nothing beside them (R77, log 6). -/
opaque sumrowRest : Nat → BitVec 32

/-- The element bits beside a NaN block scale that an encoder writes (R138): the manual gives the scale and no
elements (log 6). -/
opaque nanBlockElement : Nat → Byte

/-- The SHA-384 digest of a byte string: the standard named in 00_scope.md, left abstract (log 7). -/
opaque sha384 : List Byte → List Byte

/-- ECDSA P-384 verification of a signature (second argument) over a digest (third) by a public key
(first): the standard named in 00_scope.md, left abstract (log 7). -/
opaque ecdsaVerify : List Byte → List Byte → List Byte → Bool

/-- A byte of an object that an aborted UPD_STEP leaves undefined (R247), drawn by a running number and
its position (log 8). -/
opaque undefinedByte : Nat → Nat → Byte

/-- A one-byte code in an event's payload whose numbering the manual leaves open: of the event of that code, the item
of that number, for the case of that number (R458, log 13). -/
opaque itemCode : Nat → Nat → Nat → Byte

/-- The target status that GETSTATUS answers, drawn by a running number: the manual names the command and states no
value (R451, log 9). -/
opaque i3cStatus : Nat → BitVec 16

/-- The BCR bits other than the in-band interrupt bits of R451 (log 9). -/
opaque i3cBcrBits : BitVec 8

/-- The DCR of the target (R451, log 9). -/
opaque i3cDcr : BitVec 8

/-- The high 16 bits of the 48-bit provisional ID are those of DEVICE_ID; nothing is open there. The IDCODE
of the boundary-scan port is a fused value (R467, log 9). -/
opaque idcode : BitVec 32

/-- The byte offset within its slice of a unit that the slice's cache portion holds: the manual gives no index and no
choice of way (R221, log 26). -/
opaque cacheByte : Nat → Nat

/-- The package input that the in-package conversion measures in a given 1 ms (R409, IN_W), in W (log 10). -/
opaque measuredInput : Nat → BitVec 16

/-- The drive value that an engine's calibration and tuning tables give for a setting of shifter i (R177 step 4; the spec states no
conversion): by engine, shifter, the powered time of its calibration, the 16-bit setting and the polarity of the fields. -/
opaque phaseDrive : Nat → Nat → Nat → Nat → Bool → Rat

end Sys2Proof.Config
end

