-- ==== Sys2Proof/Machine/Course.lean ====
section
/-!
DEFINITION. The parts of an admitted Course and of a job manifest as the device holds them (R41 to R47, R447), and the
placement that binds them (R172). Plain data; the checks of admission are in Admission.lean.
-/
namespace Sys2Proof.Machine

/-- Station kinds (Table - Station kinds). -/
inductive Kind where
  | matrix | vector | glide | update | copy | collective | reader | writer | window
  deriving DecidableEq, Repr

/-- KIND_PARAMS (Table - Kind parameters); a field that the kind does not use is zero. -/
structure KindParams where
  accCount : Nat := 0
  classD : Bool := false
  enobFloor : Nat := 0
  samples : Nat := 0
  rows : Nat := 0
  cols : Nat := 0
  nMoments : Nat := 0
  group : Nat := 0
  reduce : Nat := 0
  accFmt : Nat := 0
  windowId : Nat := 0
  memMode : Bool := false
  slots : Nat := 0
  object : Nat := 0
  deriving DecidableEq, Repr

/-- A signal-table entry with a target (R44). -/
structure SignalTarget where
  station : Nat
  sem : Nat
  deriving DecidableEq, Repr

/-- A station descriptor (R44). -/
structure StationDesc where
  id : Nat
  kind : Kind
  repro : Bool := false
  nSem : Nat := 1
  inPorts : List Nat := []
  outPorts : List Nat := []
  cmdFirst : Nat := 0
  cmdCount : Nat := 1
  signals : List (Option SignalTarget) := []
  semInit : List (Nat × Nat) := []
  params : KindParams := {}
  hint : Nat := 0
  affinity : Nat := 0
  deriving DecidableEq, Repr

/-- A stream descriptor (R47). -/
structure StreamDesc where
  id : Nat
  level : Nat
  depth : Nat
  producer : Nat
  consumers : List Nat := []
  deriving DecidableEq, Repr

/-- An object entry (R49). -/
structure ObjectDesc where
  id : Nat
  level : Nat
  replicated : Bool := false
  readOnly : Bool := false
  writer : Option Nat := none
  frames : Nat := 0
  init : Option Nat := none
  deriving DecidableEq, Repr

/-- A Course as admitted (R41): the header fields that act at run, the tables, the coefficient rows as bytes, the
command words, and the whole image, from which initial contents are taken. -/
structure Course where
  courseId : Nat := 0
  reproAll : Bool := false
  watchdogMs : Nat := 5000
  stations : List StationDesc := []
  streams : List StreamDesc := []
  objects : List ObjectDesc := []
  rows : List (List Byte) := []
  commands : List CmdWord := []
  image : List Byte := []
  deriving DecidableEq, Repr

/-- A group of the group table (R333). -/
structure Group where
  axes : Nat := 0
  weight : Nat := 0
  deriving DecidableEq, Repr

/-- A RESTORE entry (R447). -/
structure RestoreEntry where
  object : Nat
  source : Nat
  deriving DecidableEq, Repr

/-- Where a station is placed (Table - Placement report entry): the PLACE code 0 cell, 1 Glide engine, 2 update
engines, 3 Relay engine, 4 hub stop. -/
structure StationPlace where
  place : Nat := 0
  context : Nat := 0xFF
  cell : Option Nat := none
  unit : Nat := 0xFF
  semBase : Nat := 0xFF
  hint : Nat := 0
  hintResult : Nat := 0
  predEnob : Nat := 0
  deriving DecidableEq, Repr

/-- Where a stream or object is placed: its level and site, the slices or stacks it spans, its first slice, and the
local address of frame 0 or slot 0. -/
structure MemPlace where
  level : Nat := 0
  site : Nat := 0xFFFF
  span : Nat := 1
  firstSlice : Nat := 0
  base : Nat := 0
  deriving DecidableEq, Repr

/-- A placement: what the placer binds at job start (R154). -/
structure Placement where
  stations : Table StationPlace := []
  streams : Table MemPlace := []
  objects : Table MemPlace := []
  status : Nat := 0
  deriving DecidableEq, Repr

/-- How far a job has come (R448). -/
inductive JobPhase where
  | admitted
  | refused
  | bound
  | started
  | done
  | stopped
  deriving DecidableEq, Repr

/-- A job: the manifest fields that act at run (R447), its Course, where it has come, its placement as it stands and as made
at job start, and the placement and service list of the job before it, which a re-formation compares (R380). -/
structure Job where
  jobId : BitVec 64 := 0
  seed : BitVec 64 := 0
  startStep : BitVec 32 := 0
  lodgeSp : Nat := 0
  reform : Bool := false
  groups : List Group := []
  restore : List RestoreEntry := []
  course : Course := {}
  replyTo : Route := .i3c
  placement : Placement := {}
  original : Placement := {}
  serviceList : List Nat := []
  prevPlacement : Placement := {}
  prevService : List Nat := []
  phase : JobPhase := .admitted
  haltedStep : BitVec 32 := 0
  errorCode : Nat := 0
  errorStation : Nat := 0
  deriving DecidableEq, Repr

end Sys2Proof.Machine
end

