-- ==== Sys2Proof/Machine/State.lean ====
section
/-!
DEFINITION. The state of the block as plain data: every register, queue, buffer, counter, mode and pin that the spec
gives it, the commands that wait, the reasons a step can stop, and the state at reset.
-/
namespace Sys2Proof.Machine

/-! ### Device state, pins and clocks -/

/-- Device states (Table - Device states). -/
inductive DevState where
  | off | standby | boot | ready | run | drain | watch | benched | fault
  deriving DecidableEq, Repr

/-- MGT_STATE and the drain gate (R23, R35, R36, R39). `reasons` is MGT_STATE[23:16]. -/
structure Device where
  mode : DevState := .standby
  prev : DevState := .standby
  faultCode : Byte := 0
  bound : Bool := false
  reasons : Byte := 0
  drainStart : Word := 0
  drained : Bool := false
  mgtHold : Bool := false
  debugHold : Bool := false
  bootDrain : Byte := 0
  abandonedDrain : Bool := false
  deriving DecidableEq, Repr

/-- Pins of the board interface, inputs as taken after R473 and the latched outputs (R469 to R477). -/
structure Pins where
  refPresent : Bool := false
  pwrEn : Bool := false
  pwrEnSpent : Bool := false
  pwrEnSince : Word := 0
  pgood : Bool := false
  drainReq : Bool := false
  pwrLimit : Bool := false
  thermtrip : Bool := false
  deriving DecidableEq, Repr

/-- Clocks (R26 to R31): PLL lock, the source of CK_S as TIM_CLK codes it, the domains that run, the derated divider,
the dies whose clock is lost and those whose ports on the Piste are fenced (R29), and the Edge engines whose monitor is suspended (R30). -/
structure Clocks where
  pllLock : Bool := false
  clkSrc : BitVec 2 := 1
  ckCHL : Bool := false
  ckM : Bool := false
  derated : Bool := false
  lostDies : List Nat := []
  fencedDies : List Nat := []
  suspended : List Nat := []
  deriving DecidableEq, Repr

/-- Cold start (R418, R438): when BOOT was entered, the step in progress, the steps that ended with their PT, the step whose limit ran out, and
whether a part without which the device is below the floor has failed its self-test (R425). -/
structure Boot where
  step : Nat := 0
  done : List Nat := []
  endPt : Table Word := []
  limitStep : Nat := 0
  background : List Nat := []
  bootSince : Word := 0
  stepSince : Word := 0
  straps : StrapSample := {}
  coreFailed : Bool := false
  deriving DecidableEq, Repr

/-- Fuses (R11, R418): what registers marked F hold, and whether the key slots are usable: not once their block fails its
check (R415). -/
structure Fuses where
  deviceId : Word := 0
  minSvn : BitVec 32 := 0
  fuseLock : Bool := false
  slots : List KeySlot := [{}, {}, {}, {}]
  usable : Bool := true
  deriving DecidableEq, Repr

/-! ### Non-volatile storage (R410, R411) -/

/-- A journal entry (R461): its code, die, index, timestamp, merged occurrences and whole payload. -/
structure JEntry where
  code : Nat
  die : Nat
  alert : Bool := false
  jidx : BitVec 32 := 0
  boot : BitVec 32 := 0
  repeats : Nat := 1
  pt : Word := 0
  payload : List Byte := []
  crcBad : Bool := false
  deriving DecidableEq, Repr

/-- A pattern entry (R373): its KIND and its 2,048 bytes. -/
structure Pattern where
  kind : Nat
  bytes : List Byte
  deriving DecidableEq, Repr

/-- What the configuration flash keeps (R410): boot count, LEVEL, bench and watch records, PREFER, spare map, pattern
pack, image copies and journal; and the signed commands that act at the next reset (R465). `hardRows` is what the stacks
keep of their hard repairs (R234): the stack, and the row as ELEMENT codes it. -/
structure Nvm where
  bootCount : BitVec 32 := 1
  level : BitVec 16 := 0
  benchRecord : Bool := false
  watchRecord : Bool := false
  preferB : Bool := false
  spareMap : List SpareEntry := []
  packSeq : Word := 0
  patterns : List Pattern := []
  imageA : List Byte := []
  imageB : List Byte := []
  journal : List JEntry := []
  oldestJidx : BitVec 32 := 0
  clearBench : Bool := false
  clearSpares : List (Nat × Nat × Nat × Nat) := []
  hardRows : List (Nat × Nat) := []
  deriving DecidableEq, Repr

/-! ### Scorecard and management -/

/-- A ledger record (R457). -/
structure LedgerRec where
  code : Nat
  alert : Bool := false
  truncated : Bool := false
  die : Nat := 0xFF
  seq : BitVec 32 := 0
  pt : Word := 0
  payload : List Byte := []
  jidx : BitVec 32 := 0
  deriving DecidableEq, Repr

/-- The scorecard (R459, R462, R463): HEAD, the 1,024 records of the ledger window, the flush buffer, the next JIDX,
the selected entry and what the journal window shows. -/
structure Scorecard where
  head : BitVec 32 := 0
  ledger : Table LedgerRec := []
  buffer : List JEntry := []
  nextJidx : BitVec 32 := 0
  jrnlSel : BitVec 32 := 0
  found : BitVec 2 := 0
  units : Nat := 0
  window : List Byte := []
  flushDue : Bool := false
  retrying : Bool := false
  lastFlush : Word := 0
  deriving DecidableEq, Repr

/-- A chunk or message that the device sends (R441): type, status for a response, number, offset within the body and
the body. `resp` marks a response, `acked` a message that must be answered. -/
structure OutMsg where
  dest : Route
  mtype : Nat
  resp : Bool := false
  status : Nat := 0
  mseq : BitVec 32 := 0
  chunkOff : Nat := 0
  jobId : BitVec 64 := 0
  body : List Byte := []
  acked : Bool := false
  sends : Nat := 1
  sentPt : Word := 0
  deriving DecidableEq, Repr

/-- A partly received message (R442). -/
structure Partial where
  route : Route
  mtype : Nat
  mseq : BitVec 32
  total : Nat
  jobId : BitVec 64 := 0
  chunks : List (Nat × List Byte) := []
  lastPt : Word := 0
  deriving DecidableEq, Repr

/-- A stored response (R443). -/
structure Stored where
  route : Route
  mseq : BitVec 32
  chunkOff : Nat
  answer : OutMsg
  deriving DecidableEq, Repr

/-- The I3C target (R451 to R454). -/
structure I3c where
  dynAddr : BitVec 7 := 0
  addrValid : Bool := false
  ibiEn : Bool := false
  readPtr : Nat := 0
  selected : Nat := 0
  writeStatus : Nat := 0
  inbox : List Byte := []
  outbox : List Byte := []
  lastRead : List Byte := []
  ibi : List Byte := []
  deriving DecidableEq, Repr

/-- The management block (R439 to R467): MGT_EVENT, MGT_ALERT_EN, nonce, debug scope, the signed-command status, the
telemetry control, the message traffic and the I3C target. -/
structure Mgmt where
  event : BitVec 6 := 0
  alertEn : BitVec 6 := 0x3D
  nonce : Word := 0
  debugScope : BitVec 4 := 0
  signedCmd : BitVec 16 := 0
  signedCause : Byte := 0
  signedPending : Bool := false
  telDst : Coord := 0
  telSvc : Bool := false
  telMs : BitVec 16 := 0
  telLast : Word := 0
  hbMs : Byte := 10
  hbLast : Word := 0
  nextMseq : BitVec 32 := 0
  partials : List Partial := []
  stored : List Stored := []
  waiting : List OutMsg := []
  sent : List OutMsg := []
  i3c : I3c := {}
  deriving DecidableEq, Repr

/-- Image status (R438). -/
structure ImageStatus where
  booted : BitVec 2 := 3
  causeA : Byte := 0x0F
  causeB : Byte := 0x0F
  svn : BitVec 32 := 0
  buildId : Word := 0
  deriving DecidableEq, Repr

/-- The values that the CONFIG section feeds (R417) and the registers marked I that no block below holds. -/
structure ImageConfig where
  extentX : Nat := 1
  extentY : Nat := 1
  extentZ : Nat := 1
  cabled : BitVec 7 := 0
  gradients : List (Nat × Int × Int) := []
  tuning : List (List Byte) := []
  channelTables : List Byte := []
  deriving DecidableEq, Repr

/-- Self-test status (R438). -/
structure TestStatus where
  target : BitVec 4 := 0
  refused : Bool := false
  abandoned : Bool := false
  running : Bool := false
  failLoc : Word := 0x7F
  packRefuse : Byte := 0
  deriving DecidableEq, Repr

/-! ### Power admission (R386 to R397) -/

/-- The classes of tickets (R387). -/
inductive TicketClass where
  | arrayBurst (cell : Nat)
  | glideUser (engine : Nat)
  | glideCal (engine : Nat)
  | stackBurst (m k : Nat)
  | link (port : Nat)
  deriving DecidableEq, Repr

/-- A ticket held, or a request that waits: its class, the units it holds in each of its pools, and its place in the
order of grants. -/
structure Ticket where
  cls : TicketClass
  claims : List (Nat × Nat)
  order : Nat := 0
  deriving DecidableEq, Repr

/-- The admission controller (R386 to R397, R409). -/
structure Power where
  budgets : Table Nat := []
  limitW : BitVec 16 := 4400
  budgetReject : Bool := false
  limitActive : Bool := false
  held : List Ticket := []
  queue : List Ticket := []
  headSince : Table Word := []
  nextOrder : Nat := 0
  portUnits : List Nat := []
  deriving DecidableEq, Repr

/-! ### Sensors and the snowplough (R398 to R405) -/

/-- One junction sensor (R398, R399); temperatures in 1/64 °C. -/
structure Sensor where
  t : Int := 0
  est : Int := 0
  valid : Bool := false
  fast : Bool := false
  suspect : Bool := false
  faulty : Bool := false
  badRun : Nat := 0
  goodRun : Nat := 0
  lastPt : Word := 0
  history : List (Word × Int) := []
  deriving DecidableEq, Repr

/-- Thermal control (R400 to R405, R409): the sensors, the pause counts by die, the stacks' temperatures, the step in force
with the PT of its first reading and of the last that showed one, and the readings that showed a step and wait for their
neighbours. -/
structure Thermal where
  sensors : Table Sensor := []
  pause : Table Nat := []
  stackTemp : Table Int := []
  stepActive : Bool := false
  stepPt : Word := 0
  stepLast : Word := 0
  stepShown : List (Nat × Word × Int) := []
  trip : Bool := false
  comparators : List (Nat × Nat) := []
  deriving DecidableEq, Repr

/-! ### Cells (R16 to R18, R83 to R128, R168 to R171) -/

/-- What a physical cell carries: whether it is marked faulty, its last test, its recent transient checks and whether
it is a cell of concern (R366). -/
structure PCell where
  faulty : Bool := false
  tested : Option (Nat × Nat) := none
  transients : List Word := []
  lineEvents : List (Nat × Word) := []
  concern : Bool := false
  testDue : Bool := false
  deriving DecidableEq, Repr

/-- The phases of a rotation (R166, R169): it waits for the boundary, or for its retry; it copies; it tests; its test stands
aside for a confirmation. -/
inductive RotPhase where
  | waiting
  | retrying
  | copying
  | testing
  | suspended
  deriving DecidableEq, Repr

/-- A rotation or an in-place test in progress (R168 to R171). -/
structure Rotation where
  due : Nat
  phase : RotPhase
  inPlace : Bool := false
  since : Word := 0
  retries : Nat := 0
  deriving DecidableEq, Repr

/-- A cluster (R17, R18): rank j is bound to slot `slots[j]`, the spare slot, whether the cluster is unavailable and
what rotates in it. -/
structure Cluster where
  slots : List Nat := []
  spare : Option Nat := none
  unavailable : Bool := false
  rotation : Option Rotation := none
  lastDue : Option Word := none
  deriving DecidableEq, Repr

/-- The phase of a cell's arrays (R102 to R107). -/
inductive ArrayPhase where
  | idle
  | waiting
  | running
  | rampDown
  deriving DecidableEq, Repr

/-- A signal on its way (R65, R123): the station and semaphore it is for, its count, and the SIGNAL packet that brought it,
which is acknowledged once it is applied (R304). -/
structure SignalMsg where
  station : Nat
  sem : Nat
  count : Nat
  src : Option Packet := none
  deriving DecidableEq, Repr

/-- The signals that a semaphore file has applied in its last cycle, and its queue (R124). -/
structure SemFile where
  applied : Nat := 0
  queue : List SignalMsg := []
  deriving DecidableEq, Repr

/-! ### Station contexts at run (R49, R62, R83, R98 to R101) -/

/-- A wide-accumulator element (R93): zero or a finite value S, M, E, an infinity or NaN. -/
inductive Wide where
  | finite (neg : Bool) (m : Nat) (e : Int)
  | inf (neg : Bool)
  | nan
  deriving DecidableEq, Repr

/-- An accumulator or working bank (R75, R98): its shape, once it has one, its elements in row order, the flags ANALOG and
OOC of the frames that entered it (R61), and the granules of its file that a read finds uncorrectable: byte offset and
syndrome (R206, R363). -/
structure Bank where
  shape : Option (Nat × Nat) := none
  elems : List Wide := []
  tflags : Byte := 0
  ue : List (Nat × Nat) := []
  deriving DecidableEq, Repr

/-- A tile frame's use that a command holds until it completes: a port and how far its cursor advances (R49). -/
structure Advance where
  out : Bool
  port : Nat
  count : Nat
  deriving DecidableEq, Repr

/-- What an outstanding command of a station waits for. -/
inductive OutKind where
  | mm
  | dma
  | opList
  | glide
  | load
  | upd
  | coll
  | nothing
  deriving DecidableEq, Repr

/-- An outstanding command of a station: its pending cursor advances, its signal, its transactions still open, those of
them that have not started (R125, R126), and whether it has completed (R49, R65, R128). -/
structure Outst where
  kind : OutKind
  id : Nat := 0
  adv : List Advance := []
  signal : Option Nat := none
  count : Nat := 1
  open_ : Nat := 0
  todo : Nat := 0
  done : Bool := false
  remoteTo : Option Nat := none
  deriving DecidableEq, Repr

/-- A wait of a station (R63, R66): semaphore, count, since when, whether it is a SEM_WAIT, and that command's signal. -/
structure WaitSt where
  sem : Nat
  count : Nat
  since : Word
  whole : Bool
  signal : Option Nat := none
  deriving DecidableEq, Repr

/-- An MM_RUN that has written its working bank and has not committed, with its operand frames (R98 to R100). -/
structure PendingMm where
  acc : Nat
  bank : Bank
  instr : Instr
  fa : List Byte := []
  fb : List Byte := []
  deriving DecidableEq, Repr

/-- The matrix of a glide station as its last GL_LOAD read it (R175, R177): whether an element within ROWS × COLS is a
special encoding, RMAX of the phase map, its frames, and the elements, which take part where none is special. -/
structure GlideW where
  special : Bool
  rmax : Rat
  frames : List (List Byte) := []
  w : List (List Rat)
  deriving DecidableEq, Repr

/-- A GL_RUN that has not completed (R181 to R184): the engine that sampled it, or none on the cell's arrays; its x frame
and positions, its results before rounding (none for NaN), the user slots that it takes and the codes q_c that drive the
ports, and the checks that it waits for. One that is not issued has been discarded or has moved, and runs again. -/
structure HeldRun where
  instr : Instr
  engine : Option Nat
  issued : Bool := true
  slots : Nat := 0
  drive : List (List Int) := []
  xframe : List Byte
  ys : List (List (Option Rat))
  posOut : Nat
  step : BitVec 32
  pt : Word
  ooc : Bool := false
  windowPassed : Bool := false
  readings : Table Nat := []
  deriving DecidableEq, Repr

/-- An UPD_STEP outstanding (R244, R246, R247): its number among the station's commands, its rows, the frames still to be
written, its step number, its objects, and the source frames whose first read failed: index and address. -/
structure UpdCmd where
  id : Nat
  row : Nat
  set : Nat
  todo : List Nat
  step : BitVec 32
  objects : List Nat
  retry : List (Nat × Nat) := []
  deriving DecidableEq, Repr

/-- A station at run: its sequencer, semaphores, cursors, accumulators and outstanding commands; the command that waits
for a re-read with the address, producer and STEP of its frame; since when it waits for a ticket, and for a free operation
(R66, R126); the WRITE packets of its CP_REMOTE commands that wait for one. -/
structure StationRt where
  pc : Nat := 0
  loops : List (Nat × Nat) := []
  stepNo : BitVec 32 := 0
  sems : List Nat := []
  inCur : Table Nat := []
  outCur : Table Nat := []
  waiting : Option WaitSt := none
  weGranted : Bool := false
  halted : Bool := false
  stopped : Bool := false
  outstanding : List Outst := []
  nextId : Nat := 0
  sendQ : List (Nat × Packet) := []
  crcWait : Option Instr := none
  crcFrame : Nat × Nat × Nat := (0, 0, 0)
  ticketSince : Option Word := none
  opSince : Option Word := none
  failed : Option (Instr × ArrayFail) := none
  confirming : Bool := false
  banks : Table Bank := []
  pendingMm : List PendingMm := []
  glLoad : Option (Nat × Nat) := none
  glW : Option GlideW := none
  held : List HeldRun := []
  upd : List UpdCmd := []
  serial : BitVec 32 := 0
  slotUses : Table Nat := []
  deriving DecidableEq, Repr

/-- A confirmation in progress (R101, R166, R360). -/
structure Confirmation where
  station : Nat
  firstCell : Nat
  secondCell : Option Nat := none
  fail : ArrayFail
  deriving DecidableEq, Repr

/-- Cells and stations: the physical cells that differ from a good one, the clusters, the array phases of logical
cells, the semaphore files, the stations of the job and the signals on their way; the requests and the due rotations that
wait for the placer, in order of arrival (R165); FULL_TEST in progress; the last verdict (R384); CEL_ROT_CTL. -/
structure Cells where
  pcells : Table PCell := []
  clusters : Table Cluster := []
  arrays : Table ArrayPhase := []
  semFiles : Table SemFile := []
  stations : Table StationRt := []
  signals : List SignalMsg := []
  confirmation : Option Confirmation := none
  placeQueue : List Nat := []
  dueQueue : List Nat := []
  fullTest : Option (List Nat) := none
  fullTestPassed : Bool := false
  fullTestLast : Option Word := none
  intervalS : BitVec 32 := 60
  rotEn : Bool := false
  verdict : Nat := 0
  verdictSecond : Nat := 0
  verdictFirst : Nat := 0
  deriving DecidableEq, Repr

/-! ### The capacity map (R22, R464) -/

/-- The capacity map as last written: the generation and a copy of what it lists. -/
structure CapMap where
  gen : BitVec 32 := 0
  writing : Bool := false
  belowFloor : Bool := false
  ports : BitVec 7 := 0
  engines : BitVec 4 := 0
  stackSet : BitVec 12 := 0
  lodge : Word := 0
  ranks : Table Nat := []
  clusterRegs : Table Word := []
  engineRegs : Table Word := []
  predN : Table Word := []
  deriving DecidableEq, Repr

/-- The transient bucket (R363 to R365, R384): its marks and times, and whether a full field test starts on the next
entry to WATCH (R364); LEVEL itself is in NVM. -/
structure Bucket where
  releaseH : BitVec 16 := 72
  leakH : BitVec 16 := 24
  high : Byte := 4
  low : Byte := 1
  fullTests : Byte := 0
  testDue : Bool := false
  leakSince : Word := 0
  belowLowSince : Option Word := none
  deriving DecidableEq, Repr

/-! ### Memory (R202 to R236) -/

/-- The bytes of the local address space and the check bits of its granules (R204), as cells in canonical form:
addresses strictly rising, no cell that holds 0x00. `data` is by byte address, `check` by granule number. -/
structure Memory where
  data : List Host.Cell := []
  check : List Host.Cell := []
  deriving DecidableEq, Repr

/-- A request in a controller's queue: its order of acceptance (R213), the CK_M it has waited (R212), and the 64-byte lines
that it touches, with their check bits, as every write accepted before it has left them (R213, R214). -/
structure QReq where
  req : MemReq
  order : Nat
  waited : Nat := 0
  bytes : List Byte := []
  checks : List Byte := []
  deriving DecidableEq, Repr

/-- The work of a maintenance request (Table - Controller queues): the write-back of a corrected line, a scrub read of a
unit, or the test of a row. -/
inductive MaintWork where
  | writeBack (line : Nat)
  | scrub (unit : Nat)
  | rowTest (bank row : Nat)
  deriving DecidableEq, Repr

/-- A maintenance request and the CK_M it has waited (R212, R227). -/
structure MaintReq where
  work : MaintWork
  waited : Nat := 0
  deriving DecidableEq, Repr

/-- The queues of one pseudo-channel (R211, R212), each in order of acceptance; write-drain; the open row of each bank; the
bank that a row test holds (R233); the commands of the last CK_M; the next unit that the scrubber reads, and the PT of its
last one (R227). -/
structure PseudoChannel where
  bulkRd : List QReq := []
  bulkWr : List QReq := []
  narrow : List QReq := []
  update : List QReq := []
  maint : List MaintReq := []
  writeDrain : Bool := false
  openRows : Table Nat := []
  heldBank : Option Nat := none
  recent : List Nat := []
  scrubNext : Nat := 0
  scrubPt : Word := 0
  deriving DecidableEq, Repr

/-- A suspect row (R232): pseudo-channel, bank and row; its corrected events of the last 24 hours, each with its PT, oldest
first; the PT of its last event; and the scrub pass whose event has been counted. -/
structure SuspectRow where
  pc : Nat
  bank : Nat
  row : Nat
  events : List Word
  last : Word
  pass : Option Nat := none
  deriving DecidableEq, Repr

/-- A stack and its controller (R211 to R236): the read strobe, the write delay and the reference of each lane, by 36 × pc +
lane, and when its strobe was last re-centred (R228, R230). -/
structure Stack where
  state : BitVec 4 := 0
  marginCause : Byte := 0
  pprLeft : Nat := 0
  lanesRepaired : Nat := 0
  exhausted : Bool := false
  margin : Option MarginResult := none
  marginPt : Word := 0
  ueLoc : Word := 0
  channels : Table PseudoChannel := []
  accepted : Nat := 0
  suspects : List SuspectRow := []
  testQueue : List (Nat × Nat × Nat) := []
  strobes : Table Int := []
  writeDelays : Table Int := []
  references : Table Int := []
  strobePt : Table Word := []
  deriving DecidableEq, Repr

/-- A line of a Lodge slice's cache portion (R221): its unit, bytes and check bits, most recently used first. -/
structure CacheLine where
  unit : Nat
  bytes : List Byte
  checks : List Byte
  deriving DecidableEq, Repr

/-- A fill on its way to its home slice (R224): its unit and what the controller returned, whether an invalidation has
marked it, and the request that it serves. -/
structure Fill where
  unit : Nat
  bytes : List Byte
  checks : List Byte
  marked : Bool := false
  returned : Bool := false
  req : Nat
  addr : Nat
  len : Nat
  deriving DecidableEq, Repr

/-- The stores: memory, stacks, Lodge cache and fills, the write-backs that wait, and the values that finished
requests returned; the slices that leave service at the next job start (R226); MEM_CTL, with a margining that a write of
MARGIN_GO has begun (R219 to R236). -/
structure Stores where
  mem : Memory := {}
  stackSet : Table Stack := []
  lodgeSp : Nat := 0
  lodgeOos : Word := 0
  lodgeLeaving : Word := 0
  cache : Table (List CacheLine) := []
  fills : List Fill := []
  stackFix : List Nat := []
  padFix : List Nat := []
  replies : List (Nat × List Byte × Bool) := []
  scrubH : Byte := 12
  marginRefused : Bool := false
  marginDue : Bool := false
  deriving DecidableEq, Repr

/-! ### Glide engines (R173 to R201) -/

/-- The settings of a phase map (R176): σ_1, and its phases and attenuators as 16-bit codes. -/
structure PhaseMap where
  sigma1 : BitVec 32 := 0
  vCells : List Nat := []
  vScreen : List Nat := []
  sigma : List Nat := []
  uCells : List Nat := []
  uScreen : List Nat := []
  deriving DecidableEq, Repr

/-- A map slot of an engine (R177): its station and map, the order of its last service, the samples of a window cut short
that the next window of the map takes up (R191), and what its drift window has seen: the fast windows, and the repeats of each
pilot at each port, by 256 × pilot + port (R193). -/
structure MapSlot where
  station : Nat
  map : PhaseMap := {}
  last : Nat := 0
  pilots : Nat := 0
  samples : List PilotSample := []
  driftWindows : Nat := 0
  repeats : Table PilotRepeats := []
  deriving DecidableEq, Repr

/-- A shadow frame that waits for its recomputation (R197): the station, the step, the matrix, the x frame and y before
rounding. -/
structure ShadowFrame where
  station : Nat
  step : BitVec 32
  gw : GlideW
  xframe : List Byte
  ys : List (List (Option Rat))
  deriving DecidableEq, Repr

/-- What a shadow window holds of one frame: the sum of squares and count of its normalised errors, its elements beyond
6 standard deviations, and its step (R197). -/
structure ShadowStat where
  sumSq : Rat
  count : Nat
  outliers : Nat
  step : BitVec 32
  deriving DecidableEq, Repr

/-- What an engine keeps of a station's shadow windows since its recalibration (R197 to R199): the window being filled,
the margin of the last one in 1/16 bit, whether it failed, and the last step of the last passing one, which a recalibration keeps. -/
structure ShadowRec where
  window : List ShadowStat := []
  margin : Option Int := none
  failed : Bool := false
  passStep : Option (BitVec 32) := none
  deriving DecidableEq, Repr

/-- A Glide engine (R173 to R201): STATE and LAST_LEAVE; its stations, those that left it for their host cells, and
whether it is resident; calibration age, anchor and drift margin (in 2^-20 bit; temperatures in 1/64 °C); map slots and
the map applied, with the runs served in all, the polarity of its fields (R173) and the next pilot vector (R190); the out-of-calibration interval and the retrack that is due, with its trigger code; its shadow frames;
the bias corrections by region; a full recalibration that follows its departure; the slope of T. -/
structure Engine where
  state : BitVec 4 := 0
  lastLeave : Byte := 0
  streak : Nat := 0
  stations : List Nat := []
  moved : List Nat := []
  resident : Bool := false
  calPt : Word := 0
  tCal : Int := 0
  delta : Int := 0
  measValid : Bool := false
  measSys : Nat := 0
  slots : List MapSlot := []
  applied : Option Nat := none
  appliedPt : Word := 0
  switchPt : Word := 0
  servedSince : Nat := 0
  servedCount : Nat := 0
  polarity : Bool := false
  pilotNext : Nat := 0
  oocSince : Option Word := none
  retrackFor : Nat := 0
  retrackDue : Bool := false
  fullRecal : Bool := false
  runCount : Nat := 0
  shadows : List ShadowFrame := []
  shadowRecs : Table ShadowRec := []
  lastStats : List ShadowStat := []
  bias : Table Int := []
  failSince : Word := 0
  history : List (Word × Int) := []
  deriving DecidableEq, Repr

/-- The Glide engines and GLD_CTL. -/
structure Glide where
  engines : Table Engine := []
  guard : Byte := 2
  horizonS : BitVec 16 := 60
  maxAgeH : Byte := 24
  shadowLog2 : BitVec 4 := 10
  leaving : List Nat := []
  returning : List Nat := []
  barred : List Nat := []
  deriving DecidableEq, Repr

/-! ### Optical links (R250 to R280) -/

/-- Link training states (R265). -/
inductive LinkState where
  | down | light | lock | align | margin | map | ident | up | retrain | held
  deriving DecidableEq, Repr

/-- One receive channel: whether it has passed the margin test, was retired in running, or failed in the present
training; its margin, its verified words, relocks, corrected symbols in the window and in the last one, and mismatched
codewords in a row. -/
structure Channel where
  good : Bool := false
  retired : Bool := false
  margin : Nat := 0
  verified : Nat := 0
  relocks : Nat := 0
  window : Nat := 0
  lastWindow : Nat := 0
  mismatch : Nat := 0
  failed : Bool := false
  aligned : Bool := false
  heater : Int := 0
  deriving DecidableEq, Repr

/-- One logical lane's retry state (R261, R262): the transmitter's next SEQ, its unacknowledged frames (SEQ and
flit), the receiver's expected SEQ, its retry request, the resends of the oldest frame, when an ACK last made progress,
the last value resent from, with when; whether the receiver has found where frames begin in the lane's stream, the bits of
the frame that is arriving, and the frames that have arrived (R256, R258). -/
structure Lane where
  txSeq : Nat := 0
  replay : List (Nat × List Byte) := []
  rxSeq : Nat := 0
  requesting : Bool := false
  resends : Nat := 0
  progress : Word := 0
  lastRetry : Option (Nat × Word) := none
  inStep : Bool := false
  rxBits : List Bool := []
  rxFrames : List (List Byte) := []
  deriving DecidableEq, Repr

/-- A port (R250 to R280). `workDone` says that the work of the present training state is done, `loopDue` that the loop of
R278 has to decide, `bridgeShort` that a bundle cannot field its lanes; `incoming` is the EPOCH of the maps that are
being received, `ackEpoch` the PEER_EPOCH last received; `txWaiting` holds flits that wait for room in their lanes. -/
structure Port where
  state : LinkState := .down
  holdCause : Nat := 0
  holdReg : Bool := false
  since : Word := 0
  suspendedLimit : Bool := false
  workDone : Bool := false
  loopDue : Bool := false
  bridgeShort : Bool := false
  fibresLit : List Nat := []
  channels : Table Channel := []
  deadFibres : List Nat := []
  miswired : Bool := false
  combs : List Nat := [0, 1]
  active : Nat := 0
  marginRestarted : Bool := false
  epoch : Nat := 0
  peerEpoch : Nat := 0
  ackEpoch : Nat := 0
  peerSeen : Nat := 0
  incoming : Nat := 0
  peerMaps : Table (BitVec 18) := []
  peerFibres : BitVec 9 := 0
  neighValid : Bool := false
  rtt : Nat := 0
  peerPort : Nat := 0
  peerCoord : Coord := 0
  retrains : List Word := []
  retrainCauses : Byte := 0
  retrainSince : Word := 0
  laterTrigger : Byte := 0
  bridgeSpares : Table Nat := []
  lanes : Table Lane := []
  txFlits : Nat := 0
  txWaiting : List (List Byte) := []
  rxFlits : Nat := 0
  rxWaiting : Table (List Byte) := []
  rxDelivered : List (List Byte) := []
  deriving DecidableEq, Repr

/-- The links and the straps (R270, R272). -/
structure Links where
  ports : Table Port := []
  strapOk : Bool := false
  strapCoord : Coord := 0
  deriving DecidableEq, Repr

/-! ### The fabric (R281 to R332) -/

/-- A gondola of the slice table (R288). -/
structure Gondola where
  src : Coord := 0
  dst : Coord := 0
  share : Nat := 0
  valid : Bool := false
  deriving DecidableEq, Repr

/-- The slice table (R288). -/
structure SliceTable where
  sliceId : BitVec 16
  gen : BitVec 16
  origin : Coord
  shape : Nat × Nat × Nat
  closed : Bool × Bool × Bool
  spread : Bool
  farmem : Bool
  gondolas : List Gondola
  deriving DecidableEq, Repr

/-- An operation in flight (R303): its tag, destination, the station it serves and what it is. -/
inductive OpKind where
  | dmaRemote
  | listEntry (list row : Nat)
  | signal
  | far (list row : Nat)
  | relay (ring : Nat)
  deriving DecidableEq, Repr

structure FlightOp where
  tag : Nat
  dst : Coord
  station : Nat
  kind : OpKind
  cmd : Nat := 0
  atomSeq : Option Nat := none
  refetches : Nat := 0
  deriving DecidableEq, Repr

/-- What a destination keeps for a source's atomics (R318): E, the SEQ values above E applied, and the replay cache. -/
structure AtomSource where
  e : BitVec 16 := 0
  marked : List (BitVec 16) := []
  cache : Table (BitVec 64) := []
  stats : Table Nat := []
  deriving DecidableEq, Repr

/-- A combine entry of an output port (R321, R322), with the sources whose packets to its atom have passed since it opened
(R323). -/
structure Combine where
  isLoad : Bool
  key : Coord × BitVec 16 × BitVec 48 × Nat × Bool
  opened : Word
  open_ : Bool := true
  first : Packet
  waiters : List Packet := []
  operand : BitVec 64 := 0
  passed : List Coord := []
  deriving DecidableEq, Repr

/-- An operation list being carried out (R307, R310): the station, its output stream and slot, the entries and the
replies gathered so far. -/
structure OpList where
  id : Nat
  station : Nat
  outStream : Nat
  slot : Nat
  seq : Nat
  step : BitVec 32
  rows : Nat
  cmd : Nat := 0
  tflags : Nat := 0
  entries : List (List Byte) := []
  next : Nat := 0
  replies : Table (List Byte) := []
  deriving DecidableEq, Repr

/-- The fabric: slice table and fences, router queues and credits, operations in flight and the counts of R313,
atomics, combine entries, operation lists; packets delivered to the local port, and packets that left on each port. -/
structure Fabric where
  table : Option SliceTable := none
  refuseCause : Byte := 0
  fenced : List Nat := []
  credits : Table Nat := []
  waiting : Table (List Packet) := []
  waitingFrom : Table (List Nat) := []
  arriving : Nat := 7
  slots : Table Nat := []
  mgtFree : Table Nat := []
  turns : Table Nat := []
  returned : Table Nat := []
  sent : Table (List Packet) := []
  localIn : List Packet := []
  flights : List FlightOp := []
  highWater : Nat := 0
  nextTag : Nat := 0
  issued : Table Nat := []
  completed : Table Nat := []
  ordHeld : List Packet := []
  atomSeq : Table Nat := []
  atoms : Table AtomSource := []
  combines : Table (List Combine) := []
  lists : List OpList := []
  nextList : Nat := 0
  deriving DecidableEq, Repr

/-- A slot of a TILE window (R68 to R70): the source it is bound to, the byte ranges received, and whether it has been
signalled since it was armed. -/
structure SlotState where
  src : Option Coord := none
  got : List (Nat × Nat) := []
  signalled : Bool := false
  deriving DecidableEq, Repr

/-- A window of the Course (R67, R70): its station, whether it is open, its slots and the slots signalled so far. -/
structure Window where
  station : Nat
  open_ : Bool := true
  slots : Table SlotState := []
  signalled : Nat := 0
  deriving DecidableEq, Repr

/-- A restore in progress (R381): the entries still to be verified. -/
structure Restore where
  todo : List RestoreEntry := []
  received : List (Nat × Nat × Nat) := []
  deriving DecidableEq, Repr

/-! ### The Relay engine (R333 to R356) -/

/-- The collective commands (R336, R349). -/
inductive CollKind where
  | rs | ag | digest
  deriving DecidableEq, Repr

/-- A tally entry (R350). -/
structure TallyEntry where
  digest : Word
  count : Nat
  rank : Nat
  deriving DecidableEq, Repr

/-- A frame that waits in a staging slot (R344 to R347): its sender, group and slot, its two packets, when it was
complete, and the ticks for which its ring had then been without a free slot (R352). -/
structure Staged where
  src : Coord
  group : Nat
  slot : Nat
  part0 : Option Packet := none
  part1 : Option Packet := none
  arrived : Word := 0
  blocked : Nat := 0
  deriving DecidableEq, Repr

/-- A tally received (R350): its group and trailer fields, and its 64 bytes. -/
structure TallyMsg where
  group : Nat
  serial : Nat
  stage : Nat
  step : Nat
  bytes : List Byte
  deriving DecidableEq, Repr

/-- One ring of a command's stage (R341 to R343): frames sent and received in the stage, and the frames to be sent on, by
their place in the order of receipt. -/
structure RingState where
  sent : Nat := 0
  recv : Nat := 0
  fwd : Table (List Byte) := []
  deriving DecidableEq, Repr

/-- A collective command in progress (R336, R339): its kind, station, serial, step and count; its places in the streams or
its object; the stage among the active axes, its rings, the frames held and gathered by chunk and position; the tally;
its step waits and worst pair (R352). -/
structure Coll where
  kind : CollKind
  station : Nat
  serial : Nat
  step : BitVec 32
  count : Nat
  outPort : Nat := 0
  outBase : Nat := 0
  object : Nat := 0
  stage : Nat := 0
  plus : RingState := {}
  minus : RingState := {}
  held : Table (List Byte) := []
  next : Table (List Byte) := []
  finished : Bool := false
  failed : Bool := false
  tally : List TallyEntry := []
  gathered : List TallyEntry := []
  own : Word := 0
  overflow : Bool := false
  waits : Table Nat := []
  worstLag : Nat := 0
  worstRank : Nat := 0
  deriving DecidableEq, Repr

/-- What RLY_ registers keep of a group's last commands (R352, R356). -/
structure GroupRegs where
  ownLag : BitVec 32 := 0
  worstLag : BitVec 32 := 0
  worstRank : Coord := 0
  serial : BitVec 32 := 0
  digest : Word := 0
  agree : BitVec 32 := 0
  distinct : BitVec 3 := 0
  overflow : Bool := false
  oddRank : BitVec 18 := 0x3FFFF
  deriving DecidableEq, Repr

/-- The Relay engine: the commands in progress by group; the frames sent and received on each group's rings in the
job, by 2 × group + ring; what waits in staging; how long each ring has had no free slot; and RLY_CTL. -/
structure Relay where
  cmds : Table Coll := []
  sent : Table Nat := []
  recv : Table Nat := []
  staged : List Staged := []
  tallies : List TallyMsg := []
  noSlot : Table (Nat × Option Word) := []
  regs : Table GroupRegs := []
  agreed : Table (BitVec 32) := []
  lagAlertUs : BitVec 32 := 50
  deriving DecidableEq, Repr

/-! ### The state -/

/-- The state of the device. `sat` and `wrap` hold the counters of R12 and R13 by window offset; `freeIdx` is the
model's own counter of the free values drawn (log 5); `pending` is the queue of commands that wait. -/
structure State where
  pending : List Instr := []
  dev : Device := {}
  pins : Pins := {}
  clocks : Clocks := {}
  pt : Word := 0
  boot : Boot := {}
  fuses : Fuses := {}
  nvm : Nvm := {}
  card : Scorecard := {}
  mgmt : Mgmt := {}
  img : ImageStatus := {}
  config : ImageConfig := {}
  test : TestStatus := {}
  power : Power := {}
  thermal : Thermal := {}
  cells : Cells := {}
  cap : CapMap := {}
  bucket : Bucket := {}
  stores : Stores := {}
  glide : Glide := {}
  links : Links := {}
  fabric : Fabric := {}
  windows : Table Window := []
  restore : Option Restore := none
  relay : Relay := {}
  job : Option Job := none
  sat : Table Word := []
  wrap : Table Word := []
  freeIdx : Nat := 0
  deriving DecidableEq, Repr

/-- Why the machine stops with a fault. -/
inductive Fault where
  /-- Raised by ATOM, ATOM_F and FAR whose packet carries a reserved function, operation or size, a place where R6 leaves
  the device's behaviour undefined (log 43). Safe: the model stops where the manual gives no effect. -/
  | reservedEncoding
  deriving DecidableEq, Repr

/-- Why a command has no meaning. -/
inductive Refusal where
  /-- Raised by an arm of exec whose command has no meaning yet. Safe: nothing can be proved of it. -/
  | notModelled (mnemonic : String)
  deriving DecidableEq, Repr

/-- The machine right after reset: STANDBY just entered for the first time with PT 0 and boot count 1 (R7, R8, and the
Reset column of MGT_STATE, R39), with the source of CK_S and REF_PRESENT as the Reset column of TIM_CLK has them (R409), main
power off, no job, no slice table, nothing in memory and every table at its unlisted values. Registers marked I, F and NVM
hold the values of log 11. -/
def State.reset : State :=
  { bucket := { belowLowSince := some 0 }
    mgmt := { nonce := Config.freeNonce 0 }
    freeIdx := 1 }

end Sys2Proof.Machine
end

