-- ==== Sys2Proof/Machine/Round.lean ====
section
/-!
DEFINITION. Exact values and the one rounding step (R93, R94, R137, R143): everything is an exact rational until it is
rounded once.
-/
namespace Sys2Proof.Machine

/-- A power of two. -/
def pow2 (e : Int) : Rat := if 0 ≤ e then ((2 ^ e.toNat : Nat) : Rat) else mkRat 1 (2 ^ (-e).toNat)

/-- The magnitude of a rational. -/
def magR (x : Rat) : Rat := if x < 0 then -x else x

/-- exp(x) = ⌊log2 |x|⌋ (R108); 0 for x = 0. -/
def expR (x : Rat) : Int :=
  if x = 0 then 0 else
  let n := x.num.natAbs
  let e := (Nat.log2 n : Int) - (Nat.log2 x.den : Int)
  if pow2 e ≤ magR x then e else e - 1

/-- How a value between two neighbours goes (R137): to the nearest, ties to even, or by the generator's output r. -/
inductive Mode where
  | nearest
  | stochastic (r : Nat)
  deriving DecidableEq, Repr

/-- The multiple of a quantum that a value rounds to (R137): n with n × quantum the result. -/
def roundMul (q x : Rat) (m : Mode) : Int :=
  let y := x / q
  let f := y.floor
  let d := y - (f : Rat)
  if d = 0 then f else
  match m with
  | .nearest =>
    if d < mkRat 1 2 then f else if mkRat 1 2 < d then f + 1 else if f % 2 = 0 then f else f + 1
  | .stochastic r => if (r : Int) < (d * ((2 ^ 32 : Nat) : Rat)).floor then f + 1 else f

/-- round_ne of R108: the nearest integer, ties to even. -/
def roundNe (x : Rat) : Int := roundMul 1 x .nearest

/-! ### The generator of R143 -/

/-- One of the ten rounds of sr_bits: the counters and keys after it. -/
def srRound (st : (Nat × Nat × Nat × Nat) × Nat × Nat) : (Nat × Nat × Nat × Nat) × Nat × Nat :=
  let ((c0, c1, c2, c3), k0, k1) := st
  let p0 := c0 * 0xC4A51E2B
  let p1 := c2 * 0xB7E36D09
  let m32 := 2 ^ 32
  (((p1 / m32) ^^^ c1 ^^^ k0, p1 % m32, (p0 / m32) ^^^ c3 ^^^ k1, p0 % m32),
    (k0 + 0x9E3779B9) % m32, (k1 + 0x6A09E667) % m32)

/-- sr_bits(seed, step, tile, e) (R143). -/
def srBits (seed step tile e : Nat) : Nat :=
  let m32 := 2 ^ 32
  (Nat.repeat srRound 10 ((e, tile % m32, tile / m32, step), seed % m32, seed / m32)).1.1

/-! ### Wide accumulators -/

/-- A result of a K block or an addend of the accumulator: finite and exact, an infinity or NaN (R92, R135). -/
inductive Ext where
  | fin (x : Rat)
  | inf (neg : Bool)
  | nan
  deriving DecidableEq, Repr

/-- The value of a wide element (R93). -/
def Wide.val : Wide → Ext
  | .finite neg m e => .fin ((if neg then -1 else 1) * (m : Rat) * pow2 (e - 95))
  | .inf n => .inf n
  | .nan => .nan

/-- The wide element that holds zero, which is +0 (R136). -/
def Wide.zero : Wide := .finite false 0 (-512)

/-- An exact sum rounded once to the significand of R93, overflow judged after the rounding (R94). -/
def Wide.ofRat (x : Rat) : Wide :=
  if x = 0 then Wide.zero else
  let e := max (expR x) (-512)
  let n := (roundMul (pow2 (e - 95)) (magR x) .nearest).toNat
  let (m, e') := if n = 2 ^ 96 then (2 ^ 95, e + 1) else (n, e)
  if m = 0 then Wide.zero else if 511 < e' then .inf (decide (x < 0)) else .finite (decide (x < 0)) m e'

/-- acc := acc + v (R94). -/
def Wide.add (acc : Wide) (v : Ext) : Wide :=
  match acc.val, v with
  | .nan, _ => .nan
  | _, .nan => .nan
  | .inf a, .inf b => if a = b then .inf a else .nan
  | .inf a, .fin _ => .inf a
  | .fin _, .inf b => .inf b
  | .fin a, .fin b => .ofRat (a + b)

/-! ### Binary floating formats -/

/-- A value to be encoded: finite with the sign of a zero, an infinity or NaN. -/
inductive Num where
  | fin (x : Rat) (negZero : Bool)
  | inf (neg : Bool)
  | nan
  deriving DecidableEq, Repr

/-- An exact value without a signed zero, as one to be encoded. -/
def Ext.num : Ext → Num
  | .fin x => .fin x false
  | .inf n => .inf n
  | .nan => .nan

/-- A binary format with an implicit bit (R134): exponent bits, mantissa bits and bias. -/
structure Flt where
  eb : Nat
  mb : Nat
  bias : Nat
  deriving DecidableEq, Repr

/-- BF16, FP16 and FP32 (R134). -/
def bf16 : Flt := ⟨8, 7, 127⟩
def fp16 : Flt := ⟨5, 10, 15⟩
def fp32 : Flt := ⟨8, 23, 127⟩

/-- The largest finite value of a format. -/
def Flt.maxFin (f : Flt) : Rat := ((2 ^ (f.mb + 1) - 1 : Nat) : Rat) * pow2 ((2 ^ f.eb - 2 : Nat) - (f.bias + f.mb : Nat))

/-- The value of an encoding (R134). -/
def Flt.decode (f : Flt) (w : Nat) : Num :=
  let neg := bit w (f.eb + f.mb)
  let e := bits w (f.eb + f.mb - 1) f.mb
  let m := w % 2 ^ f.mb
  let sg : Rat := if neg then -1 else 1
  if e = 2 ^ f.eb - 1 then (if m = 0 then .inf neg else .nan)
  else if e = 0 then .fin (sg * (m : Rat) * pow2 (1 - (f.bias + f.mb : Nat))) (neg && m = 0)
  else .fin (sg * ((2 ^ f.mb + m : Nat) : Rat) * pow2 ((e : Int) - (f.bias + f.mb : Nat))) false

/-- The encoding of an infinity of a format. -/
def Flt.infBits (f : Flt) (neg : Bool) : Nat := b2n neg * 2 ^ (f.eb + f.mb) + (2 ^ f.eb - 1) * 2 ^ f.mb

/-- The positive quiet NaN of a format (R138). -/
def Flt.nanBits (f : Flt) : Nat := (2 ^ f.eb - 1) * 2 ^ f.mb + 2 ^ (f.mb - 1)

/-- The rounding step to a floating format (R137, R138). -/
def Flt.encode (f : Flt) (v : Num) (m : Mode) : Nat :=
  match v with
  | .nan => f.nanBits
  | .inf n => f.infBits n
  | .fin x nz =>
    let sgn := 2 ^ (f.eb + f.mb)
    if x = 0 then b2n nz * sgn else
    let neg := decide (x < 0)
    let emin : Int := 1 - (f.bias : Int)
    let e := max (expR x) emin
    let out := decide (f.maxFin < magR x)
    if out && m != .nearest then f.infBits neg else
    let n := (roundMul (pow2 (e - (f.mb : Int))) x m).natAbs
    let (n, e) := if n = 2 ^ (f.mb + 1) then (2 ^ f.mb, e + 1) else (n, e)
    if (f.bias : Int) < e then f.infBits neg
    else if n < 2 ^ f.mb then b2n neg * sgn + n
    else b2n neg * sgn + (e + (f.bias : Int)).toNat * 2 ^ f.mb + (n - 2 ^ f.mb)

end Sys2Proof.Machine
end

