-- ==== Sys2Proof/Machine/Formats.lean ====
section
/-!
DEFINITION. Tile formats (R54): the decode of elements and scales (R129 to R134) and the encode of a block or of an
unscaled element (R137 to R140).
-/
namespace Sys2Proof.Machine

/-- Tile formats (Table - Tile formats). -/
inductive Fmt where
  | int8 | mxint8 | e4m3 | e5m2 | e3m2 | e2m3 | e2m1 | zb8 | bf16 | fp16 | fp32 | int16 | int32 | raw
  deriving DecidableEq, Repr

/-- The format of a code (R54). -/
def fmtOf : Nat → Option Fmt
  | 0x01 => some .int8 | 0x02 => some .mxint8 | 0x03 => some .e4m3 | 0x04 => some .e5m2
  | 0x05 => some .e3m2 | 0x06 => some .e2m3 | 0x07 => some .e2m1 | 0x08 => some .zb8
  | 0x10 => some .bf16 | 0x11 => some .fp16 | 0x12 => some .fp32 | 0x13 => some .int16
  | 0x14 => some .int32 | 0x30 => some .raw | _ => none

/-- The code of a format. -/
def Fmt.code : Fmt → Nat
  | .int8 => 0x01 | .mxint8 => 0x02 | .e4m3 => 0x03 | .e5m2 => 0x04 | .e3m2 => 0x05 | .e2m3 => 0x06
  | .e2m1 => 0x07 | .zb8 => 0x08 | .bf16 => 0x10 | .fp16 => 0x11 | .fp32 => 0x12 | .int16 => 0x13
  | .int32 => 0x14 | .raw => 0x30

/-- Element bits (R54). -/
def Fmt.ebits : Fmt → Nat
  | .e3m2 | .e2m3 => 6
  | .e2m1 => 4
  | .bf16 | .fp16 | .int16 => 16
  | .fp32 | .int32 => 32
  | _ => 8

/-- Elements per block, 0 for an unscaled format (R54). -/
def Fmt.block : Fmt → Nat
  | .mxint8 | .e4m3 | .e5m2 | .e3m2 | .e2m3 | .e2m1 => 32
  | .zb8 => 64
  | _ => 0

/-- Most elements of a frame (R54). -/
def Fmt.maxElems : Fmt → Nat
  | .bf16 | .fp16 | .int16 => 2048
  | .fp32 | .int32 => 1024
  | _ => 4096

/-- An integer format (R141). -/
def Fmt.isInt : Fmt → Bool
  | .int8 | .int16 | .int32 => true
  | _ => false

/-- Pass classes (R86). -/
inductive PassClass where
  | c8 | c4 | h | s | i
  deriving DecidableEq, Repr

/-- The pass class of a format; RAW and INT32 have none (R86). -/
def Fmt.pass : Fmt → Option PassClass
  | .int8 | .mxint8 | .e4m3 | .e5m2 | .e3m2 | .e2m3 | .zb8 => some .c8
  | .e2m1 => some .c4
  | .bf16 | .fp16 => some .h
  | .fp32 => some .s
  | .int16 => some .i
  | .int32 | .raw => none

/-! ### Elements of class 8 and class 4 (R129, R130) -/

/-- The special tag of an element (R130). -/
inductive Tag where
  | none
  | inf (neg : Bool)
  | nan
  deriving DecidableEq, Repr

/-- An element as decoded: significand, shift and special tag (R129, R130). -/
structure Elem where
  s : Int
  t : Nat
  tag : Tag := .none
  deriving DecidableEq, Repr

/-- Exponent bits, mantissa bits and format offset of a floating element format (R129). -/
def Fmt.mini : Fmt → Option (Nat × Nat × Int)
  | .e4m3 => some (4, 3, 9) | .e5m2 => some (5, 2, 16) | .e3m2 => some (3, 2, 4) | .e2m3 => some (2, 3, 3)
  | .e2m1 => some (2, 1, 1) | _ => none

/-- The format offset f (R129). -/
def Fmt.offset : Fmt → Int
  | .mxint8 => 6
  | f => match f.mini with
    | some (_, _, o) => o
    | none => 0

/-- emax (R129). -/
def Fmt.emax : Fmt → Int
  | .mxint8 => 0 | .e4m3 => 8 | .e5m2 => 15 | .e3m2 => 4 | .e2m3 => 2 | .e2m1 => 2 | _ => 0

/-- The decode of an element (R129, R130). -/
def Fmt.elem (f : Fmt) (w : Nat) : Elem :=
  match f.mini with
  | none => ⟨signedOf f.ebits w, 0, .none⟩
  | some (eb, mb, _) =>
    let neg := bit w (eb + mb)
    let e := bits w (eb + mb - 1) mb
    let m := w % 2 ^ mb
    if f = .e4m3 ∧ e = 15 ∧ m = 7 then ⟨0, 0, .nan⟩
    else if f = .e5m2 ∧ e = 31 then ⟨0, 0, if m = 0 then .inf neg else .nan⟩
    else
      let a : Int := if e = 0 then m else 2 ^ mb + m
      ⟨if neg then -a else a, e - 1, .none⟩

/-- A block scale as decoded: g, u and whether it is a NaN scale (R131, R132). -/
structure Scale where
  g : Nat := 1
  u : Int := 0
  nan : Bool := false
  deriving DecidableEq, Repr

/-- An E8M0 scale byte (R131). -/
def scaleE8M0 (e : Nat) : Scale := if e = 0xFF then ⟨1, 0, true⟩ else ⟨1, (e : Int) - 127, false⟩

/-- A ZB8 scale word (R132). -/
def scaleZb8 (w : Nat) : Scale :=
  if bits w 15 8 = 0x80 then ⟨0, 0, true⟩ else ⟨w % 256, signedOf 8 (bits w 15 8), false⟩

/-- The value of a scale. -/
def Scale.val (c : Scale) : Rat := (c.g : Rat) * pow2 c.u

/-- The value of an element of a class-8 or class-4 format at its block's scale (R86, R130, R131, R132). -/
def elemNum (f : Fmt) (c : Scale) (e : Elem) : Num :=
  if c.nan then .nan else
  if c.g = 0 then .fin 0 false else
  match e.tag with
  | .nan => .nan
  | .inf n => .inf n
  | .none => .fin ((e.s : Rat) * pow2 ((e.t : Int) - f.offset) * c.val) false

/-- The value of an encoding of an unscaled format (R129, R134). -/
def Fmt.plain (f : Fmt) (w : Nat) : Num :=
  match f with
  | .bf16 => Machine.bf16.decode w
  | .fp16 => Machine.fp16.decode w
  | .fp32 => Machine.fp32.decode w
  | _ => .fin (signedOf f.ebits w : Rat) false

/-! ### The encode -/

/-- An integer target of w bits (R137, R138). -/
def encInt (w : Nat) (v : Num) (m : Mode) : Nat :=
  let lo : Int := -(2 ^ (w - 1) : Nat)
  let hi : Int := (2 ^ (w - 1) - 1 : Nat)
  match v with
  | .nan => 0
  | .inf n => fieldOf w (if n then lo else hi)
  | .fin x _ =>
    if x < (lo : Rat) then fieldOf w lo else if (hi : Rat) < x then fieldOf w hi
    else fieldOf w (roundMul 1 x m)

/-- The encoding of a value in an unscaled format (R137, R138). -/
def Fmt.encPlain (f : Fmt) (v : Num) (m : Mode) : Nat :=
  match f with
  | .bf16 => Machine.bf16.encode v m
  | .fp16 => Machine.fp16.encode v m
  | .fp32 => Machine.fp32.encode v m
  | _ => encInt f.ebits v m

/-- A finite value in a floating element format at scale 1, held to its largest finite element (R137, R138). -/
def encMini (eb mb : Nat) (off : Int) (maxE : Rat) (y : Rat) (negZero : Bool) (m : Mode) : Nat :=
  let neg := decide (y < 0) || (decide (y = 0) && negZero)
  let sgn := b2n neg * 2 ^ (eb + mb)
  let bias := off - mb + 1
  let code (e : Int) (n : Nat) : Nat := if n < 2 ^ mb then n else (e + bias).toNat * 2 ^ mb + (n - 2 ^ mb)
  let fin (e : Int) (n : Nat) : Nat := if n = 2 ^ (mb + 1) then code (e + 1) (2 ^ mb) else code e n
  if y = 0 then sgn
  else if maxE < magR y then sgn + fin (expR maxE) (roundMul (pow2 (expR maxE - mb)) maxE .nearest).toNat
  else
    let e := max (expR y) (1 - bias)
    sgn + fin e (roundMul (pow2 (e - mb)) y m).natAbs

/-- The largest finite element of a block-scaled format before scaling (R129, R137). -/
def Fmt.maxElem : Fmt → Rat
  | .mxint8 => mkRat 127 64 | .e4m3 => 448 | .e5m2 => 57344 | .e3m2 => 28 | .e2m3 => mkRat 15 2 | .e2m1 => 6
  | _ => 127

/-- The largest magnitude among the finite values of a block (R139). -/
def blockMax (vs : List Num) : Rat :=
  vs.foldl (fun a v => match v with | .fin x _ => if a < magR x then magR x else a | _ => a) 0

/-- Whether a block must be encoded with a NaN scale (R138, R139). -/
def nanBlock (f : Fmt) (vs : List Num) : Bool :=
  match f with
  | .e4m3 | .e5m2 => false
  | _ => vs.any fun v => match v with | .fin _ _ => false | _ => true

/-- The scale of an MX block (R139). -/
def mxScale (f : Fmt) (a : Rat) : Int :=
  if a = 0 then -127 else max (-127) (min 127 (expR a - f.emax))

/-- The scale g, u of a ZB8 block (R140). -/
def zb8Scale (a : Rat) : Nat × Int :=
  if a = 0 then (0, 0) else
  let q := a / 127
  let u := expR q - 7
  let g := (q * pow2 (-u)).ceil.toNat
  let (g, u) := if g = 256 then (128, u + 1) else (g, u)
  if 127 < u then (255, 127) else if u < -127 then ((q * pow2 127).ceil.toNat, -127) else (g, u)

/-- An element of a block at its scale (R137, R138). -/
def Fmt.encElem (f : Fmt) (sc : Rat) (v : Num) (m : Mode) : Nat :=
  match f, v with
  | .e4m3, .fin x z => encMini 4 3 9 448 (x / sc) z m
  | .e4m3, _ => 0x7F
  | .e5m2, .fin x z => encMini 5 2 16 57344 (x / sc) z m
  | .e5m2, .inf n => if n then 0xFC else 0x7C
  | .e5m2, .nan => 0x7E
  | .e3m2, .fin x z => encMini 3 2 4 28 (x / sc) z m
  | .e2m3, .fin x z => encMini 2 3 3 (mkRat 15 2) (x / sc) z m
  | .e2m1, .fin x z => encMini 2 1 1 6 (x / sc) z m
  | .mxint8, .fin x _ => fieldOf 8 (max (-127) (min 127 (roundMul (sc / 64) x m)))
  | _, .fin x _ => if sc = 0 then 0 else fieldOf 8 (max (-127) (min 127 (roundMul sc x m)))
  | _, _ => 0

/-- A block of a block-scaled format: its scale bytes and its element encodings; `i0` is the index of its first
element, which counts the free elements of a NaN block (R138 to R140). -/
def encBlock (f : Fmt) (vs : List Num) (ms : List Mode) (i0 : Nat) : List Byte × List Nat :=
  let a := blockMax vs
  let zip (sc : Rat) := (List.zip vs ms).map fun p => f.encElem sc p.1 p.2
  let free := (List.range vs.length).map fun k => (Config.nanBlockElement (i0 + k)).toNat % 2 ^ f.ebits
  match f with
  | .zb8 =>
    if nanBlock f vs then (natLe 2 0x8000, free) else
    let (g, u) := zb8Scale a
    (natLe 2 (g + 256 * fieldOf 8 u), zip ((g : Rat) * pow2 u))
  | _ =>
    if nanBlock f vs then (natLe 1 0xFF, free) else
    let u := mxScale f a
    (natLe 1 (u + 127).toNat, zip (pow2 u))

end Sys2Proof.Machine
end

