-- ==== Sys2Proof/Machine/Frames.lean ====
section
/-!
DEFINITION. The tile frame (R52 to R56): its header, its elements, its check value, and how a station writes one.
-/
namespace Sys2Proof.Machine

/-- Bytes of a tile frame, of its first transaction and of the second (R52, R125). -/
def frameBytes : Nat := 4256

/-- The tile header (R53). -/
structure Hdr where
  fmt : Nat := 0
  tflags : Nat := 0
  rows : Nat := 0
  cols : Nat := 0
  nscale : Nat := 0
  producer : Nat := 0
  stream : Nat := 0
  seq : Nat := 0
  step : Nat := 0
  deriving DecidableEq, Repr

/-- The header of a frame (R53). -/
def hdrOf (f : List Byte) : Hdr :=
  { fmt := fld f 0 1, tflags := fld f 1 1, rows := fld f 2 2, cols := fld f 4 2, nscale := fld f 6 2
    producer := fld f 8 2, stream := fld f 0xA 2, seq := fld f 0xC 4, step := fld f 0x10 4 }

/-- The first 28 bytes of a header: all but CRC (R53). -/
def hdrBytes (h : Hdr) : List Byte :=
  natLe 1 h.fmt ++ natLe 1 h.tflags ++ natLe 2 h.rows ++ natLe 2 h.cols ++ natLe 2 h.nscale ++
  natLe 2 h.producer ++ natLe 2 h.stream ++ natLe 4 h.seq ++ natLe 4 h.step ++ natLe 8 0

/-- The check value a frame should carry (R56). -/
def frameCrc (f : List Byte) : BitVec 32 := crc32c (splice (sub f 0 0x10A0) 0x1C (natLe 4 0))

/-- A frame with the check value of its bytes (R56). -/
def signFrame (f : List Byte) : List Byte := splice f 0x1C (natLe 4 (frameCrc f).toNat)

/-- The frame's CRC is right (R57). -/
def crcOk (f : List Byte) : Bool := f.length = frameBytes && fld f 0x1C 4 = (frameCrc f).toNat

/-- The zero frame with a valid check value (R50). -/
def zeroFrame : List Byte := signFrame (List.replicate frameBytes 0)

/-- A frame with STREAM and SEQ set anew, its CRC recomputed if the header has changed (R60, R80). -/
def restamp (f : List Byte) (stream seq : Nat) : List Byte :=
  let h := hdrOf f
  if h.stream = stream ∧ h.seq = seq then f
  else signFrame (splice (splice f 0xA (natLe 2 stream)) 0xC (natLe 4 seq))

/-- The encoding of element i (R53 to R55). -/
def elemBits (fm : Fmt) (f : List Byte) (i : Nat) : Nat :=
  match fm.ebits with
  | 4 => bits (byteAt f (0xA0 + i / 2)).toNat (4 * (i % 2) + 3) (4 * (i % 2))
  | 6 => bits (fld f (0xA0 + 3 * (i / 4)) 3) (6 * (i % 4) + 5) (6 * (i % 4))
  | b => fld f (0xA0 + i * (b / 8)) (b / 8)

/-- The scale of block b (R53, R131, R132); 1 for an unscaled format. -/
def scaleOf (fm : Fmt) (f : List Byte) (b : Nat) : Scale :=
  match fm.block with
  | 0 => {}
  | 64 => scaleZb8 (fld f (0x20 + 2 * b) 2)
  | _ => scaleE8M0 (fld f (0x20 + b) 1)

/-- The scale that element i takes. -/
def scaleAt (fm : Fmt) (f : List Byte) (i : Nat) : Scale :=
  if fm.block = 0 then {} else scaleOf fm f (i / fm.block)

/-- The value of element i (R129 to R134). -/
def elemVal (fm : Fmt) (f : List Byte) (i : Nat) : Num :=
  if fm.block = 0 then fm.plain (elemBits fm f i)
  else elemNum fm (scaleAt fm f i) (fm.elem (elemBits fm f i))

/-- The shape of a frame is one that its format allows (R53, R54). Payload bytes beyond its elements and scale bytes beyond
NSCALE, which are to be zero, are not looked at: the spec names no check of them (DESIGN CHOICE, log 124). -/
def shapeOk (fm : Fmt) (h : Hdr) : Bool :=
  let n := h.rows * h.cols
  1 ≤ h.rows && h.rows ≤ 4096 && 1 ≤ h.cols && h.cols ≤ 4096 && n ≤ fm.maxElems &&
  (if fm.block = 0 then h.nscale = 0
   else h.cols % fm.block = 0 && h.nscale * fm.block = n && h.nscale ≤ 128)

/-- The format and header of a frame that a computing station may take: a code of the table other than RAW, with a
shape that R54 allows (R59). -/
def frameFmt (f : List Byte) : Option (Fmt × Hdr) :=
  let h := hdrOf f
  match fmtOf h.fmt with
  | some .raw => none
  | some fm => if shapeOk fm h then some (fm, h) else none
  | none => none

/-- The payload of a list of element encodings (R53, R55). -/
def payloadOf (fm : Fmt) (es : List Nat) : List Byte :=
  match fm.ebits with
  | 4 => (List.range ((es.length + 1) / 2)).map fun k =>
      BitVec.ofNat 8 (es.getD (2 * k) 0 + 16 * es.getD (2 * k + 1) 0)
  | 6 => (List.range ((es.length + 3) / 4)).flatMap fun k =>
      natLe 3 (es.getD (4 * k) 0 + 2 ^ 6 * es.getD (4 * k + 1) 0 + 2 ^ 12 * es.getD (4 * k + 2) 0 +
        2 ^ 18 * es.getD (4 * k + 3) 0)
  | b => es.flatMap (natLe (b / 8))

/-- The rounding mode of an element under RND (R74, R143): RND, and the seed, step and tile identity. -/
def modeAt (rnd : Rnd) (seed step tile e : Nat) : Mode :=
  match rnd with
  | .nearest => .nearest
  | .stochastic => .stochastic (srBits seed step tile e)

/-- The blocks of a list of values with their modes, from block b on. -/
def encBlocks (fm : Fmt) (vs : List Num) (ms : List Mode) (b : Nat) : List (List Byte × List Nat) :=
  (List.range b).map fun k =>
    encBlock fm ((vs.drop (k * fm.block)).take fm.block) ((ms.drop (k * fm.block)).take fm.block) (k * fm.block)

/-- Whether a shape can be held in a format (R54). -/
def holds (fm : Fmt) (rows cols : Nat) : Bool :=
  shapeOk fm { rows := rows, cols := cols, nscale := if fm.block = 0 then 0 else rows * cols / fm.block }

/-- The encoding of −0 in a format that has one. -/
def Fmt.negZero : Fmt → Option Nat
  | .int8 | .mxint8 | .zb8 | .int16 | .int32 | .raw => none
  | fm => some (2 ^ (fm.ebits - 1))

/-- The array path never produces −0 (R136). -/
def noNegZero (fm : Fmt) (e : Nat) : Nat := if fm.negZero = some e then 0 else e

/-- The frame that a station writes, `arrays` where it comes from the array path (R136): its values rounded to the format once, its header and its CRC (R53 to R57, R74). -/
def mkFrame (fm : Fmt) (tflags rows cols producer stream seq step : Nat) (vs : List Num) (rnd : Rnd) (seed : Nat)
    (arrays : Bool := false) : List Byte :=
  let tile := stream * 2 ^ 32 + seq
  let ms := (List.range vs.length).map (modeAt rnd seed step tile)
  let nb := if fm.block = 0 then 0 else vs.length / fm.block
  let blocks := encBlocks fm vs ms nb
  let scales := blocks.flatMap (·.1)
  let es := if fm.block = 0 then (List.zip vs ms).map (fun p => fm.encPlain p.1 p.2) else blocks.flatMap (·.2)
  let es := if arrays then es.map (noNegZero fm) else es
  let h : Hdr :=
    { fmt := fm.code, tflags := tflags, rows := rows, cols := cols, nscale := nb, producer := producer
      stream := stream, seq := seq, step := step }
  signFrame (hdrBytes h ++ natLe 4 0 ++ padTo 128 scales ++ padTo 4096 (payloadOf fm es))

end Sys2Proof.Machine
end

