-- ==== Sys2Proof/Machine/Matrix.lean ====
section
/-!
DEFINITION. The matrix product of a cell (R75, R85 to R95, R108 to R113, R130 to R136): operand blocks in digits, exact
block results with the special values of R135, and their addition into an accumulator.
-/
namespace Sys2Proof.Machine

/-- A K block of 32 elements of one operand row: its digits, most significant first, the scale of its digits' value,
whether its scale is a NaN scale, its special tags, and which elements have the value zero (R108 to R110, R130, R135). -/
structure KBlock where
  digits : List (List Int)
  scale : Rat
  nanScale : Bool
  tags : List Tag
  zeros : List Bool
  deriving DecidableEq, Repr

/-- The tag and the finite value of an element of class H or S (R134). -/
def tagOf : Num → Tag × Rat
  | .fin x _ => (.none, x)
  | .inf n => (.inf n, 0)
  | .nan => (.nan, 0)

/-- The aligned significands of a block at an exponent (R108). -/
def sliceAt (xs : List Rat) (w : Nat) (beta : Int) : List Int :=
  xs.map fun x => roundNe (magR x * pow2 ((w : Int) - 1 - beta))

/-- The digit at a shift of an aligned significand, with the sign of its element (R108). -/
def digitOf (x : Rat) (m : Int) (sh : Nat) : Int :=
  let v : Int := ((m.toNat / 2 ^ sh % 128 : Nat) : Int)
  if x < 0 then -v else v

/-- slice_block of R108: the final exponent and the digits, with d digits of 7 bits. -/
def sliceBlock (xs : List Rat) (d : Nat) : Int × List (List Int) :=
  let w := 7 * d
  let nz := xs.filter (· != 0)
  let beta0 : Int := match nz with
    | [] => 0
    | x :: r => r.foldl (fun b y => max b (expR y)) (expR x)
  let m0 := sliceAt xs w beta0
  let isOver := m0.any (fun m => decide ((2 ^ w : Nat) ≤ m))
  let beta := if isOver then beta0 + 1 else beta0
  let m := if isOver then sliceAt xs w beta else m0
  (beta, (List.range d).map fun j =>
    (List.zip xs m).map fun p => digitOf p.1 p.2 (7 * (d - 1 - j)))

/-- The K block of a frame that begins at element i0 (R86, R108, R109, R133). -/
def kBlock (cls : PassClass) (fm : Fmt) (f : List Byte) (i0 : Nat) : KBlock :=
  let ws := (List.range 32).map fun k => elemBits fm f (i0 + k)
  match cls with
  | .c8 | .c4 =>
    let sc := scaleAt fm f i0
    let es := ws.map fm.elem
    { digits := [es.map fun e => e.s * (2 ^ e.t : Nat)]
      scale := (sc.g : Rat) * pow2 (sc.u - fm.offset)
      nanScale := sc.nan
      tags := es.map (·.tag)
      zeros := es.map fun e => e.tag = .none && (e.s = 0 || sc.g = 0) }
  | .h | .s =>
    let d := if cls = .h then 2 else 3
    let ts := ws.map fun w => tagOf (fm.plain w)
    let (beta, dg) := sliceBlock (ts.map (·.2)) d
    { digits := dg, scale := pow2 (beta - ((7 * d : Nat) - 1)), nanScale := false
      tags := ts.map (·.1)
      zeros := ts.map fun t => t.1 = .none && t.2 = 0 }
  | .i =>
    let xs := ws.map (signedOf 16)
    { digits := [xs.map (· / 256), xs.map (· % 256)], scale := 1, nanScale := false
      tags := xs.map fun _ => .none
      zeros := xs.map (· = 0) }

/-- The passes of a class with their weights (R110). -/
def passes : PassClass → List (Nat × Nat × Nat)
  | .c8 | .c4 => [(0, 0, 1)]
  | .h => [(0, 0, 2 ^ 14), (0, 1, 2 ^ 7), (1, 0, 2 ^ 7)]
  | .s => [(0, 0, 2 ^ 28), (0, 1, 2 ^ 21), (1, 0, 2 ^ 21), (0, 2, 2 ^ 14), (1, 1, 2 ^ 14), (2, 0, 2 ^ 14)]
  | .i => [(0, 0, 2 ^ 16), (0, 1, 2 ^ 8), (1, 0, 2 ^ 8), (1, 1, 1)]

/-- Which lane of B a lane of A meets in a column, and whether the product is negated: a plain product, or the real or
the imaginary column of a complex output (R113). -/
inductive Column where
  | plain
  | real
  | imag
  deriving DecidableEq, Repr

/-- The lane of B that lane k of A meets (R113). -/
def Column.lane (c : Column) (k : Nat) : Nat :=
  match c with
  | .imag => if k % 2 = 0 then k + 1 else k - 1
  | _ => k

/-- The negate bit of lane k (R113). -/
def Column.neg (c : Column) (k : Nat) : Bool := c = .real && k % 2 = 1

/-- The exact sum of a pass over 32 lanes (R90, R113). -/
def passSum (c : Column) (a b : List Int) : Int :=
  (List.range 32).foldl (fun s k =>
    let p := a.getD k 0 * b.getD (c.lane k) 0
    if c.neg k then s - p else s + p) 0

/-! ### The checks of an array (R91, R96) -/

/-- The checksum weight c_k of a weight row: its signed sum over the array's columns, each with its digits (R91, R113). -/
def checkWeight (cols : List (Column × List Int)) (k : Nat) : Int :=
  cols.foldl (fun t c => let b := c.2.getD (c.1.lane k) 0; if c.1.neg k then t - b else t + b) 0

/-- The checksum C of an issued row, which the checksum column forms (R91). -/
def checksum (a : List Int) (cols : List (Column × List Int)) : Int :=
  (List.range 32).foldl (fun s k => s + a.getD k 0 * checkWeight cols k) 0

/-- The column sum S of an issued row, over the results of the data columns (R91). -/
def columnSum (a : List Int) (cols : List (Column × List Int)) : Int := cols.foldl (fun s c => s + passSum c.1 a c.2) 0

/-- The residue of an exact result (R96). -/
def residue (m : Int) (x : Int) : Int := x.emod m

/-- The residues modulo 3 and 255 of what a unit shows agree with those predicted from its operands (R96): of a product and
of a sum after alignment. -/
def productResidues (p g shown : Int) : Bool :=
  [3, 255].all fun m => residue m (residue m p * residue m g) == residue m shown
def sumResidues (a v shown : Int) : Bool := [3, 255].all fun m => residue m (residue m a + residue m v) == residue m shown

/-- An observed check fails where C ≠ S, or a residue does not match (R91, R96). -/
def ArrayFail.fails (f : ArrayFail) : Bool := f.cObs != f.sObs || f.residue

/-- The failed checks among those observed in an attempt. -/
def failsOf (l : List ArrayFail) : List ArrayFail := l.filter ArrayFail.fails

/-- The result of a K block for one output element (R92, R110, R135). `sa` and `sb` are the signs of the elements, which
an infinite product takes. -/
def blockResult (cls : PassClass) (c : Column) (a b : KBlock) (sa sb : List Bool) : Ext :=
  let ks := List.range 32
  let isNan (k : Nat) := a.tags.getD k .none = .nan || b.tags.getD (c.lane k) .none = .nan
  let hasInf (t : Tag) : Bool := match t with
    | .inf _ => true
    | _ => false
  let inf (k : Nat) : Bool := hasInf (a.tags.getD k .none) || hasInf (b.tags.getD (c.lane k) .none)
  let zero (k : Nat) : Bool := a.zeros.getD k false || b.zeros.getD (c.lane k) false
  let sign (k : Nat) : Bool := xor (xor (sa.getD k false) (sb.getD (c.lane k) false)) (c.neg k)
  let infs := ks.filter inf
  if a.nanScale || b.nanScale || ks.any isNan then .nan
  else if infs.any zero then .nan
  else if infs.any sign && infs.any (fun k => !sign k) then .nan
  else match infs with
    | k :: _ => .inf (sign k)
    | [] =>
      let q := (passes cls).foldl (fun s p =>
        s + passSum c (a.digits.getD p.1 []) (b.digits.getD p.2.1 []) * (p.2.2 : Int)) 0
      .fin ((q : Rat) * a.scale * b.scale)

/-- The sign of each element of a K block. -/
def signsOf (fm : Fmt) (f : List Byte) (i0 : Nat) : List Bool :=
  (List.range 32).map fun k =>
    match elemVal fm f (i0 + k) with
    | .fin x _ => decide (x < 0)
    | .inf n => n
    | .nan => false

/-- The shape and format of a product (the limit of 64 columns is put on the stored columns of the result, two for each column
of a complex B: DESIGN CHOICE, log 125): its class, A's rows, K, the stored columns of the result, and whether it is
complex; none causes TILE_FORMAT (R59, R75, R85, R113). -/
def mmShape (fa fb : List Byte) : Option (PassClass × Fmt × Fmt × Nat × Nat × Nat × Bool) :=
  match frameFmt fa, frameFmt fb with
  | some (ma, ha), some (mb, hb) =>
    match ma.pass, mb.pass with
    | some ca, some cb =>
      let cx := bit ha.tflags 2
      let cols := if cx then 2 * hb.rows else hb.rows
      let unit := if ma = .zb8 ∨ mb = .zb8 then 64 else 32
      if ca = cb ∧ ha.cols = hb.cols ∧ ha.cols % unit = 0 ∧ ha.cols ≤ 128 ∧ ha.rows ≤ 64 ∧ cols ≤ 64 ∧
        cx = bit hb.tflags 2 ∧ ¬ (cx = true ∧ ca = .c4) then
        some (ca, ma, mb, ha.rows, ha.cols, cols, cx)
      else none
    | _, _ => none
  | _, _ => none

/-- The accumulator's elements after a product: each output element adds its K blocks in ascending order (R75, R94,
R95). -/
def mmAdd (cls : PassClass) (ma mb : Fmt) (fa fb : List Byte) (rows k cols : Nat) (cx : Bool) (acc : List Wide) :
    List Wide :=
  let nb := k / 32
  let blocks (m : Fmt) (f : List Byte) (n : Nat) : List (List (KBlock × List Bool)) :=
    (List.range n).map fun r => (List.range nb).map fun q =>
      (kBlock cls m f (r * k + 32 * q), signsOf m f (r * k + 32 * q))
  let as := blocks ma fa rows
  let bs := blocks mb fb (if cx then cols / 2 else cols)
  (List.zip as (List.range rows)).flatMap fun ra =>
    (List.range cols).map fun n =>
      let (c, row) := if cx then (if n % 2 = 0 then Column.real else .imag, n / 2) else (.plain, n)
      (List.zip ra.1 (bs.getD row [])).foldl
        (fun w p => w.add (blockResult cls c p.1.1 p.2.1 p.1.2 p.2.2)) (acc.getD (ra.2 * cols + n) Wide.zero)

/-- An accumulator's bank after MM_RUN of two frames; none where the command causes TILE_FORMAT (R59, R61, R75). -/
def mmRunBank (fa fb : List Byte) (b : Bank) : Option Bank :=
  match mmShape fa fb with
  | none => none
  | some (cls, ma, mb, rows, k, cols, cx) =>
    let cxBit := 4 * b2n cx
    let okShape := match b.shape with
      | none => true
      | some s => s = (rows, cols) && bits b.tflags.toNat 2 2 = b2n cx
    if okShape then
      let fl := b.tflags ||| BitVec.ofNat 8 ((hdrOf fa).tflags % 4) ||| BitVec.ofNat 8 ((hdrOf fb).tflags % 4) |||
        BitVec.ofNat 8 cxBit
      some { shape := some (rows, cols), elems := mmAdd cls ma mb fa fb rows k cols cx b.elems, tflags := fl }
    else none

/-- The frame that MM_DRAIN writes; none where it causes TILE_FORMAT (R76). -/
def drainFrame (b : Bank) (fmt : Nat) (rnd : Rnd) (producer stream seq step seed : Nat) : Option (List Byte) :=
  match b.shape, fmtOf fmt with
  | some (rows, cols), some fm =>
    if fm ≠ .raw ∧ holds fm rows cols then
      some (mkFrame fm b.tflags.toNat rows cols producer stream seq step (b.elems.map fun w => w.val.num) rnd seed true)
    else none
  | _, _ => none

end Sys2Proof.Machine
end

