-- ==== Sys2Proof/Machine/Ops.lean ====
section
/-!
DEFINITION. The operations that every block shares: outcomes, powered time, updates of parts of the state, outgoing
messages, and the values that MGT_STATE shows (R7, R39, R441).
-/
namespace Sys2Proof.Machine

/-- The outcome of a command. -/
abbrev Out := Host.Outcome State Fault Refusal

/-! ### Updates of parts of the state -/

def State.withDev (s : State) (f : Device → Device) : State := { s with dev := f s.dev }
def State.withPins (s : State) (f : Pins → Pins) : State := { s with pins := f s.pins }
def State.withClocks (s : State) (f : Clocks → Clocks) : State := { s with clocks := f s.clocks }
def State.withBoot (s : State) (f : Boot → Boot) : State := { s with boot := f s.boot }
def State.withNvm (s : State) (f : Nvm → Nvm) : State := { s with nvm := f s.nvm }
def State.withCard (s : State) (f : Scorecard → Scorecard) : State := { s with card := f s.card }
def State.withMgmt (s : State) (f : Mgmt → Mgmt) : State := { s with mgmt := f s.mgmt }
def State.withI3c (s : State) (f : I3c → I3c) : State := s.withMgmt fun m => { m with i3c := f m.i3c }
def State.withConfig (s : State) (f : ImageConfig → ImageConfig) : State := { s with config := f s.config }
def State.withTest (s : State) (f : TestStatus → TestStatus) : State := { s with test := f s.test }
def State.withPower (s : State) (f : Power → Power) : State := { s with power := f s.power }
def State.withThermal (s : State) (f : Thermal → Thermal) : State := { s with thermal := f s.thermal }
def State.withCells (s : State) (f : Cells → Cells) : State := { s with cells := f s.cells }
def State.withCap (s : State) (f : CapMap → CapMap) : State := { s with cap := f s.cap }
def State.withBucket (s : State) (f : Bucket → Bucket) : State := { s with bucket := f s.bucket }
def State.withStores (s : State) (f : Stores → Stores) : State := { s with stores := f s.stores }
def State.withGlide (s : State) (f : Glide → Glide) : State := { s with glide := f s.glide }
def State.withLinks (s : State) (f : Links → Links) : State := { s with links := f s.links }
def State.withFabric (s : State) (f : Fabric → Fabric) : State := { s with fabric := f s.fabric }
def State.withRelay (s : State) (f : Relay → Relay) : State := { s with relay := f s.relay }
def State.withJob (s : State) (f : Job → Job) : State := { s with job := s.job.map f }

/-- A station at run, as changed. -/
def State.withSt (s : State) (st : Nat) (f : StationRt → StationRt) : State :=
  s.withCells fun c => { c with stations := upd c.stations st {} f }

/-- A station at run. -/
def State.st (s : State) (st : Nat) : StationRt := lookD s.cells.stations st {}

/-- A stack, an engine, a port and a physical cell, as held and as changed. -/
def State.stack (s : State) (m : Nat) : Stack := lookD s.stores.stackSet m {}
def State.withStack (s : State) (m : Nat) (f : Stack → Stack) : State :=
  s.withStores fun c => { c with stackSet := upd c.stackSet m {} f }
def State.engine (s : State) (n : Nat) : Engine := lookD s.glide.engines n {}
def State.withEngine (s : State) (n : Nat) (f : Engine → Engine) : State :=
  s.withGlide fun c => { c with engines := upd c.engines n {} f }
def State.port (s : State) (n : Nat) : Port := lookD s.links.ports n {}
def State.withPort (s : State) (n : Nat) (f : Port → Port) : State :=
  s.withLinks fun c => { c with ports := upd c.ports n {} f }
def State.pcell (s : State) (p : Nat) : PCell := lookD s.cells.pcells p {}
def State.withPCell (s : State) (p : Nat) (f : PCell → PCell) : State :=
  s.withCells fun c => { c with pcells := upd c.pcells p {} f }
def State.cluster (s : State) (c : Nat) : Cluster := lookD s.cells.clusters c {}
def State.withCluster (s : State) (c : Nat) (f : Cluster → Cluster) : State :=
  s.withCells fun x => { x with clusters := upd x.clusters c {} f }

/-! ### Powered time (R7): durations in ticks of 10 ns -/

def ticksUs (n : Nat) : Nat := n * 100
def ticksMs (n : Nat) : Nat := n * 100000
def ticksS (n : Nat) : Nat := n * 100000000
def ticksH (n : Nat) : Nat := n * 360000000000

/-- The ticks that have passed since a PT. -/
def State.since (s : State) (t : Word) : Nat := s.pt.toNat - t.toNat

/-! ### Device states (Table - Device states, R39) -/

/-- The state code. OFF has none: no register answers in OFF. -/
def DevState.code : DevState → Nat
  | .off => 0 | .standby => 1 | .boot => 2 | .ready => 3 | .run => 4 | .drain => 5 | .watch => 6 | .benched => 7
  | .fault => 8

/-- The order codes of drain reasons: the bits of MGT_STATE[23:16] (R39). -/
def drMgt : Nat := 0
def drPin : Nat := 1
def drSilent : Nat := 2
def drJobend : Nat := 3
def drPowerdown : Nat := 4
def drReform : Nat := 5
def drFloor : Nat := 6
def drIncomplete : Nat := 7

/-- A reason bit is set. -/
def Device.has (d : Device) (r : Nat) : Bool := d.reasons.getLsbD r

/-- MGT_STATE (R39). -/
def State.mgtState (s : State) : Word :=
  BitVec.ofNat 64 (s.dev.faultCode.toNat * 2 ^ 32 + s.dev.reasons.toNat * 2 ^ 16 + b2n s.dev.bound * 2 ^ 8 +
    s.dev.prev.code * 2 ^ 4 + s.dev.mode.code)

/-- The outputs of Table - Device states: ZH_READY, ZH_FAULT_N asserted, ZH_BENCHED_N asserted. -/
def DevState.outputs : DevState → Bool × Bool × Bool
  | .ready | .run | .watch => (true, false, false)
  | .benched => (false, false, true)
  | .fault => (false, true, false)
  | _ => (false, false, false)

/-- ZH_XSPI_RESET_N is low (R479): in OFF and STANDBY, and in the first millisecond of BOOT. -/
def State.flashReset (s : State) : Bool :=
  s.dev.mode == .off || s.dev.mode == .standby || (s.dev.mode == .boot && decide (s.since s.boot.bootSince < ticksMs 1))

/-- ZH_READY, ZH_FAULT_N, ZH_BENCHED_N, ZH_ALERT_N (R454), ZH_PWR_EN, ZH_THERMTRIP_N and ZH_XSPI_RESET_N (R479), as
asserted. -/
def State.outputs (s : State) : List Bool :=
  let o := s.dev.mode.outputs
  [o.1, o.2.1, o.2.2, (s.mgmt.event &&& s.mgmt.alertEn) != 0, s.pins.pwrEn, s.pins.thermtrip, s.flashReset]

/-! ### Messages from the device (R441, R443, R445) -/

/-- The bytes of a message chunk: the header of R441 with its MCRC, and the chunk's body. -/
def chunkBytes (m : OutMsg) (total : Nat) (fromSvc : Bool) : List Byte :=
  let h := natLe 1 m.mtype ++ natLe 1 (b2n m.resp + 2 * b2n fromSvc) ++ natLe 1 m.status ++ natLe 1 0 ++
    natLe 4 m.mseq.toNat ++ natLe 4 m.chunkOff ++ natLe 4 total ++ natLe 8 m.jobId.toNat ++
    natLe 2 m.body.length ++ natLe 2 0
  h ++ natLe 4 (crc32c (h ++ natLe 4 0 ++ m.body)).toNat ++ m.body

/-- The wrapping counter at an offset, advanced (R13). -/
def State.wrapBy (s : State) (off n : Nat) : State := { s with wrap := upd s.wrap off 0 (· + BitVec.ofNat 64 n) }

/-- Window offsets of the message counters. -/
def oMsgIn : Nat := 0x1100
def oMsgOut : Nat := 0x1108
def oMsgResend : Nat := 0x1110

/-- An item of a payload: a value at a width in bytes (R458). -/
abbrev item (w n : Nat) : List Byte := natLe w n

/-- A signed item. -/
def itemS (w : Nat) (x : Int) : List Byte := natLe w (fieldOf (8 * w) x)

end Sys2Proof.Machine
end

