-- ==== Sys2Proof/Machine/Flags.lean ====
section
/-!
DEFINITION. The flags and counters that record what happens: MGT_EVENT and its interrupts (R454), the SAT counters of
R12, and the scorecard with its journal (R457 to R462).
-/
namespace Sys2Proof.Machine

/-- The bits of MGT_EVENT. -/
def evState : Nat := 0
def evCapacity : Nat := 1
def evAlertRec : Nat := 2
def evSat : Nat := 3
def evJournalErr : Nat := 4
def evTransfer : Nat := 5

/-- A bit of MGT_EVENT is set. On a bit newly set whose MGT_ALERT_EN bit is set, an IBI is raised if the controller has
enabled them; it carries the code of the ledger record that is the cause, or 0x00 (R454). -/
def State.setEvent (s : State) (i : Nat) (code : Nat) : State :=
  let new := !s.mgmt.event.getLsbD i && s.mgmt.alertEn.getLsbD i
  let s := s.withMgmt fun m => { m with event := m.event ||| BitVec.ofNat 6 (2 ^ i) }
  if new && s.mgmt.i3c.ibiEn then s.withI3c fun c => { c with ibi := c.ibi ++ [BitVec.ofNat 8 code] } else s

/-! ### SAT counters (R12) -/

/-- The largest count of a SAT counter. -/
def satMax : Nat := 0xFFFFFFFFFFFF

/-- A SAT counter after n increments, and whether it reached its limit by them (R12). -/
def satAdd (w : Word) (n : Nat) : Word × Bool :=
  let c := w.toNat % 2 ^ 48
  if bit w.toNat 63 then (w, false)
  else if satMax ≤ c + n then (BitVec.ofNat 64 (2 ^ 63 + satMax), true)
  else (BitVec.ofNat 64 (c + n), false)

/-- The SAT counter at a window offset, incremented (R12). -/
def State.satBy (s : State) (off n : Nat) : State :=
  let r := satAdd (lookD s.sat off 0) n
  let s := { s with sat := put s.sat off r.1 }
  if r.2 then s.setEvent evSat 0 else s

/-- The SAT counter at a window offset, incremented by one. -/
abbrev State.bump (s : State) (off : Nat) : State := s.satBy off 1

/-! ### Window offsets of the counters -/

def oAccessErr : Nat := 0x1000
def oSignedReject : Nat := 0x1008
def oI3cCrc : Nat := 0x1010
def oMsgGiveup : Nat := 0x1018
def oCheckTransient : Nat := 0x010500
def oTileTransient : Nat := 0x010508
def oConfirm : Nat := 0x010510
def oTileFault : Nat := 0x010518
def oBucketHigh : Nat := 0x010520
def oRotFail : Nat := 0x010528
def oPatternFail : Nat := 0x010530
def oSuspect : Nat := 0x010538
def oRotDone : Nat := 0x010600
def oPatternRuns : Nat := 0x010608
def oPwrReject : Nat := 0x021000
def oLimitAssert : Nat := 0x021008
def oEnergy : Nat := 0x021100
def oGrants : Nat := 0x021108
def oRecalls : Nat := 0x021110
def oRevokes : Nat := 0x021118
def oThmSuspect : Nat := 0x033000
def oThmStep : Nat := 0x033008
def oThmReject : Nat := 0x033010
def oMem (m : Nat) (o : Nat) : Nat := 0x080000 + 0x1000 * m + o
def oLnk (n : Nat) (o : Nat) : Nat := 0x050000 + 0x2000 * n + o
def oGld (n : Nat) (o : Nat) : Nat := 0x0A0000 + 0x1000 * n + o
def oFab (o : Nat) : Nat := 0x0E0000 + o
def oRly (o : Nat) : Nat := 0x100000 + o
def oTst (o : Nat) : Nat := 0x120000 + o
def oCel (o : Nat) : Nat := 0x0C0000 + o

/-! ### The scorecard -/

/-- The codes whose records carry ALERT (R460). -/
def alertCodes : List Nat :=
  [0x11, 0x13, 0x14, 0x19, 0x28, 0x35, 0x37, 0x44, 0x55, 0x61, 0x62, 0x73, 0x76, 0x80, 0x81]

/-- The units of 64 bytes that an entry's payload takes (R461): 64 × UNITS − 28 bytes hold it. -/
def unitsOf (payload : List Byte) : Nat := (payload.length + 28 + 63) / 64

/-- The units that the flush buffer holds (R462). -/
def bufUnits (b : List JEntry) : Nat := b.foldl (fun n e => n + unitsOf e.payload) 0

/-- An entry of the flush buffer that a new event repeats (R461): its CODE, DIE and first 12 payload bytes. -/
def repeats (code die : Nat) (payload : List Byte) (e : JEntry) : Bool :=
  e.code = code && e.die = die && e.payload.take 12 = payload.take 12

/-- The flush buffer and JIDX after an event (R461): merged into the entry it repeats, or a new entry. -/
def journalAdd (c : Scorecard) (boot : BitVec 32) (pt : Word) (code die : Nat) (payload : List Byte) :
    Scorecard × BitVec 32 :=
  match c.buffer.find? (repeats code die payload) with
  | some e =>
    ({ c with buffer := c.buffer.map fun x => if x.jidx = e.jidx then { x with repeats := x.repeats + 1 } else x },
      e.jidx)
  | none =>
    let e : JEntry :=
      { code := code, die := die, alert := alertCodes.contains code, jidx := c.nextJidx, boot := boot, pt := pt
        payload := payload }
    ({ c with buffer := c.buffer ++ [e], nextJidx := c.nextJidx + 1 }, c.nextJidx)

/-- The index that the next journal entry takes, were an event recorded now and nothing merged. -/
def State.nextJ (s : State) : BitVec 32 := s.card.nextJidx

/-- An event enters the scorecard (R457 to R462): a ledger record, a journal entry, the alert, and a flush where one is
due at once. -/
def State.record (s : State) (code die : Nat) (payload : List Byte) : State :=
  let al := alertCodes.contains code
  let (c, j) := journalAdd s.card s.nvm.bootCount s.pt code die payload
  let r : LedgerRec :=
    { code := code, alert := al, truncated := decide (12 < payload.length), die := die, seq := c.head, pt := s.pt
      payload := payload.take 12, jidx := j }
  let s := { s with
    card := { c with
      head := c.head + 1
      ledger := put c.ledger (c.head.toNat % 1024) r
      flushDue := c.flushDue || al || decide (1024 ≤ bufUnits c.buffer) } }
  if al then s.setEvent evAlertRec code else s

/-- An entry is appended to the spare map (R428): kind, die, unit, element, detail and source. -/
def State.addSpare (s : State) (kind die unit element detail source : Nat) : State :=
  s.withNvm fun n => { n with spareMap := n.spareMap ++ [{ kind := kind, die := die, unit := unit, element := element, detail := detail
                                                           source := source, boot := n.bootCount.toNat, pt := s.pt.toNat }] }

/-- The bytes of a journal entry (R461). -/
def entryBytes (e : JEntry) : List Byte :=
  let u := unitsOf e.payload
  let b := natLe 1 u ++ natLe 1 e.code ++ natLe 1 e.die ++ natLe 1 (b2n e.alert) ++ natLe 4 e.jidx.toNat ++
    natLe 4 e.boot.toNat ++ natLe 4 e.repeats ++ natLe 8 e.pt.toNat ++ padTo (64 * u - 28) e.payload
  b ++ natLe 4 (crc32c b).toNat

/-- The bytes of a ledger record (R457). -/
def recordBytes (r : LedgerRec) : List Byte :=
  natLe 1 r.code ++ natLe 1 (b2n r.alert + 2 * b2n r.truncated) ++ natLe 1 r.die ++ natLe 1 0 ++
  natLe 4 r.seq.toNat ++ natLe 8 r.pt.toNat ++ padTo 12 r.payload ++ natLe 4 r.jidx.toNat

/-- The entries of the buffer are written to the flash (R462). The ring's 958 sectors hold at most 1,023 units each; the
oldest entries leave when it is full. -/
def journalRoom : Nat := 958 * 1023

/-- Entries dropped from the front until the rest fits the ring (R462). -/
def fitRing (l : List JEntry) : List JEntry :=
  match l with
  | [] => []
  | e :: r => if bufUnits (e :: r) ≤ journalRoom then e :: r else fitRing r

/-- A flush that succeeds (R462): the buffer's entries join the ring. -/
def State.flush (s : State) : State :=
  let l := fitRing (s.nvm.journal ++ s.card.buffer)
  let s := s.withNvm fun n => { n with journal := l, oldestJidx := (l.head?.map (·.jidx)).getD n.oldestJidx }
  s.withCard fun c => { c with buffer := [], flushDue := false, retrying := false, lastFlush := s.pt }

end Sys2Proof.Machine
end

