-- ==== Sys2Proof/Machine/Routes.lean ====
section
/-!
DEFINITION. Packets and their ways (R19, R281 to R287, R290, R294, R295, R297 to R299): headers, coordinates, routes, flits,
lanes, buffers and departures; management packets, and the messages that the device sends (R441, R443 to R445). Ports 0 to 5
are +X, −X, +Y, −Y, +Z, −Z; port 6 is the service port.
-/
namespace Sys2Proof
open Machine

/-! ### Headers (R284, R285) -/

/-- The header bytes of a packet without HCHK. -/
def Packet.headerBytes (p : Packet) : List Byte :=
  [p.opc, p.pflags, p.vc, p.gid] ++ natLe 3 p.dst.toNat ++ natLe 3 p.src.toNat ++ natLe 2 p.sliceId.toNat ++
  natLe 2 p.windowId.toNat ++ natLe 6 p.offset.toNat ++ natLe 2 p.len.toNat ++ natLe 2 p.seq.toNat ++
  natLe 2 p.tag.toNat ++ natLe 2 p.aux.toNat ++ natLe 2 p.wcnt.toNat

/-- HCHK as computed, with byte 0x02 taken as zero (R285). -/
def Packet.check (p : Packet) : BitVec 16 := crc16 { p with vc := 0 }.headerBytes

/-- The packet with its HCHK, as its source sends it. -/
def Packet.restamp (p : Packet) : Packet := { p with hchk := p.check }

/-- The flags of PFLAGS and VC. -/
def Packet.ord (p : Packet) : Bool := p.pflags.getLsbD 0
def Packet.cmb (p : Packet) : Bool := p.pflags.getLsbD 1
def Packet.svc (p : Packet) : Bool := p.pflags.getLsbD 4
def Packet.cls (p : Packet) : Nat := bits p.vc.toNat 1 0
def Packet.dl (p : Packet) : Bool := p.vc.getLsbD 2
def Packet.order (p : Packet) : Bool := p.vc.getLsbD 3
def Packet.gnd (p : Packet) : Bool := p.vc.getLsbD 4

/-- The flits of a packet (R286). -/
def Packet.flits (p : Packet) : Nat := (32 + p.payload.length + 255) / 256

/-- The number of a packet's virtual channel among the eight of R282, or 8 + the gondola that reserves its buffers. -/
def Packet.channel (p : Packet) : Nat :=
  if p.gnd then 8 + p.gid.toNat % 16 else
  match p.cls with
  | 0 => 2 * b2n p.order + b2n p.dl
  | 1 => 4 + b2n p.dl
  | _ => 6 + b2n p.dl

end Sys2Proof

namespace Sys2Proof.Machine

/-! ### Coordinates (R19, R290) -/

/-- A coordinate's parts on the axes X, Y, Z. -/
def axisOf (c : Coord) (a : Nat) : Nat := bits c.toNat (6 * a + 5) (6 * a)

/-- The coordinate of three parts. -/
def coordOf (x y z : Nat) : Coord := BitVec.ofNat 18 (x % 64 + 64 * (y % 64) + 4096 * (z % 64))

/-- EXTENT of an axis (R272). -/
def State.extent (s : State) (a : Nat) : Nat :=
  max 1 (match a with
    | 0 => s.config.extentX
    | 1 => s.config.extentY
    | _ => s.config.extentZ)

/-- The device's own coordinate (R270). -/
def State.here (s : State) : Coord := s.links.strapCoord

/-- The shape and closure of a table on an axis. -/
def SliceTable.size (t : SliceTable) (a : Nat) : Nat :=
  match a with
  | 0 => t.shape.1
  | 1 => t.shape.2.1
  | _ => t.shape.2.2
def SliceTable.isClosed (t : SliceTable) (a : Nat) : Bool :=
  match a with
  | 0 => t.closed.1
  | 1 => t.closed.2.1
  | _ => t.closed.2.2

/-- A machine coordinate's logical part on an axis (R290). -/
def State.logicalAt (s : State) (t : SliceTable) (c : Coord) (a : Nat) : Nat :=
  let e := s.extent a
  (axisOf c a + e - axisOf t.origin a % e) % e

/-- A machine coordinate lies in the box of a table, taken modulo each EXTENT. -/
def State.inBox (s : State) (t : SliceTable) (c : Coord) : Bool :=
  [0, 1, 2].all fun a => decide (axisOf c a < s.extent a) && decide (s.logicalAt t c a < t.size a)

/-- The machine coordinate of a logical one. -/
def State.machineOf (s : State) (t : SliceTable) (x y z : Nat) : Coord :=
  let m (a l : Nat) := (axisOf t.origin a + l) % s.extent a
  coordOf (m 0 x) (m 1 y) (m 2 z)

/-! ### Classes, lengths and VC (R281, R284, R286) -/

/-- The class of an opcode (R287); none for a reserved one. -/
def classOf (opc : Byte) : Option Nat :=
  let n := opc.toNat
  if 1 ≤ n ∧ n ≤ 9 then some 0 else if 0x81 ≤ n ∧ n ≤ 0x85 then some 1 else if n = 0xC0 then some 2 else none

/-- The VC byte. -/
def vcByte (cls : Nat) (dl order gnd : Bool) : Byte :=
  BitVec.ofNat 8 (cls + 4 * b2n dl + 8 * b2n order + 16 * b2n gnd)

/-! ### Routes (R294, R295, R299) -/

/-- The direction on an axis: true for +; none where the coordinate matches. -/
def State.direction (s : State) (t : Option SliceTable) (dst : Coord) (a : Nat) : Option Bool :=
  let e := s.extent a
  let d := axisOf dst a
  let h := axisOf s.here a
  if d = h then none else
  match t with
  | some t =>
    if t.isClosed a then some (decide (2 * ((d + e - h) % e) ≤ e))
    else some (decide (s.logicalAt t s.here a < s.logicalAt t dst a))
  | none => some (decide (2 * ((d + e - h) % e) ≤ e))

/-- The output port towards a destination; none for the local port (R294). -/
def State.route (s : State) (t : Option SliceTable) (dst : Coord) (zyx : Bool) : Option Nat :=
  let hop (a : Nat) : Option Nat := (s.direction t dst a).map fun plus => 2 * a + b2n (!plus)
  (if zyx then [2, 1, 0] else [0, 1, 2]).findSome? hop

/-- DL after the link of an output port, for a packet that came on a port (R295). -/
def State.dlAfter (s : State) (p : Packet) (inPort : Option Nat) (out : Nat) : Bool :=
  let a := out / 2
  let e := s.extent a
  let h := axisOf s.here a
  let kept := match inPort with
    | some n => decide (n / 2 = a) && p.dl
    | none => false
  let crosses := if out % 2 = 0 then decide (h = e - 1) else decide (h = 0)
  let closed := match s.fabric.table with
    | some t => p.cls = 2 || t.isClosed a
    | none => p.cls = 2
  kept || (crosses && closed)

/-! ### Flits and lanes (R258, R260, R261) -/

/-- The flits that a packet fills: header and payload, the last filled with zeros (R284, R286). -/
def flitsOf (p : Packet) : List (List Byte) :=
  (chunksOf 256 (p.headerBytes ++ natLe 2 p.hchk.toNat ++ p.payload)).map (padTo 256)

/-- Logical lanes of a port (R250). -/
def lanesOf (n : Nat) : Nat := if n = 6 then 64 else 128

/-- A flit becomes a data frame of a lane and enters its replay buffer (R261). -/
def Lane.push (l : Lane) (flit : List Byte) (pt : Word) : Lane :=
  { l with
    txSeq := (l.txSeq + 1) % 4096
    replay := l.replay ++ [(l.txSeq, flit)]
    progress := if l.replay.isEmpty then pt else l.progress }

/-- Flits that wait at a port are sent in port order: flit k on lane k mod 128, or 64, while the lane has fewer than 248
frames unacknowledged and the port is UP (R260, R261). -/
def State.fillLanes (s : State) (n fuel : Nat) : State :=
  match fuel with
  | 0 => s
  | fuel + 1 =>
    let p := s.port n
    let i := p.txFlits % lanesOf n
    match p.txWaiting with
    | flit :: rest =>
      if p.state = .up ∧ (lookD p.lanes i {}).replay.length < 248 then
        let s := s.withPort n fun p =>
          { p with txWaiting := rest, txFlits := p.txFlits + 1, lanes := upd p.lanes i {} fun l => l.push flit s.pt }
        (s.wrapBy (oLnk n 0x200) 1).fillLanes n fuel
      else s
    | [] => s

/-- A port's flits are handed to its lanes. -/
def State.handFlits (s : State) (n : Nat) (fs : List (List Byte)) : State :=
  let s := s.withPort n fun p => { p with txWaiting := p.txWaiting ++ fs }
  s.fillLanes n (s.port n).txWaiting.length

/-! ### Buffers and departure (R282, R297, R298) -/

/-- The output port of a gondola here, with ORDER 0; 7 for the local port and for none loaded (R300). -/
def State.gndPort (s : State) (t : SliceTable) (g : Gondola) : Nat :=
  if g.valid then (s.route (some t) g.dst false).getD 7 else 7

/-- The gondolas of a table that use an output port. -/
def State.gondolasOn (s : State) (t : SliceTable) (n : Nat) : List Gondola :=
  t.gondolas.filter fun g => g.valid && decide (s.gndPort t g = n)

/-- The flits of the next hop's buffer that a channel holds guaranteed: a gondola's where it uses the port (R297). -/
def State.guaranteed (s : State) (port ch : Nat) : Nat :=
  if ch < 8 then 1024 else
  match s.fabric.table with
  | some t =>
    let g := t.gondolas.getD (ch - 8) {}
    if g.valid && decide (s.gndPort t g = port) then 64 * g.share else 0
  | none => 0

/-- The flits in use at the next hop of a port by channel. -/
def State.used (s : State) (port ch : Nat) : Nat := lookD s.fabric.credits (32 * port + ch) 0

/-- The next hop of a port has credits for all flits of a packet (R286, R297): its channel's guarantee, and what is
shared of 32,768 beyond the guarantees. -/
def State.hasCredit (s : State) (port : Nat) (p : Packet) : Bool :=
  let chs := List.range 24
  let shared := 32768 - chs.foldl (fun n c => n + s.guaranteed port c) 0
  let isOver := chs.foldl (fun n c =>
    let u := s.used port c + (if c = p.channel then p.flits else 0)
    n + (u - s.guaranteed port c)) 0
  decide (isOver ≤ shared)

/-- A packet leaves on a port: its credits are taken, its flits take their slots and go to the lanes. -/
def State.depart (s : State) (port : Nat) (p : Packet) : State :=
  let s := s.withFabric fun f =>
    { f with
      credits := upd f.credits (32 * port + p.channel) 0 (· + p.flits)
      slots := upd f.slots port 0 (· + p.flits)
      sent := upd f.sent port [] (· ++ [p]) }
  let s := s.handFlits port (flitsOf p)
  let s := s.wrapBy (oFab (0x2000 + 0x100 * port)) p.flits
  if p.gnd then s.wrapBy (oFab (0x2010 + 0x100 * port)) p.flits else s

/-- The gondola that a flit slot of a port is reserved for (R298, R300): of every 64 slots the gondolas of the port take
SHARE each, in the order of their entries (DESIGN CHOICE, log 138). -/
def State.slotOwner (s : State) (port slot : Nat) : Option Nat :=
  match s.fabric.table with
  | some t =>
    let own (i : Nat) : Nat := let g := t.gondolas.getD i {}; if g.valid && decide (s.gndPort t g = port) then g.share else 0
    let start (i : Nat) : Nat := (List.range i).foldl (fun n j => n + own j) 0
    (List.range 16).find? fun i => decide (start i ≤ slot % 64) && decide (slot % 64 < start i + own i)
  | none => none

/-- A packet that waits for a port: its place in the queue, the input port it came from (7 for the local port), and itself. -/
abbrev Waiting := Nat × Nat × Packet

/-- The queue of a waiting packet: its input port and virtual channel. -/
def queueKey (x : Waiting) : Nat := 32 * x.2.1 + x.2.2.channel

/-- The packets that may go next: the first of each input port and virtual channel, if it has credits (R297, R311). -/
def State.ready (s : State) (port : Nat) : List Waiting :=
  let q := lookD s.fabric.waiting port []
  let src := lookD s.fabric.waitingFrom port []
  let l : List Waiting := (List.range q.length).filterMap fun i => q[i]?.map fun p => (i, src.getD i 7, p)
  l.filter fun x => !((l.take x.1).any fun y => queueKey y = queueKey x) && s.hasCredit port x.2.2

/-- The queue whose turn is next after a key, of 256 in round robin (R298). -/
def nextTurn (last : Nat) (l : List Waiting) : Option Waiting :=
  match l with
  | [] => none
  | x :: r => some (r.foldl (fun m y => if (queueKey y + 256 - last) % 256 < (queueKey m + 256 - last) % 256 then y else m) x)

/-- The key of a port and class in the table of turns. -/
def turnKey (port cls : Nat) : Nat := 4 * port + cls

/-- The waiting packet to go next (R298): the gondola's whose slot it is; MGT, of which a flit takes one slot in 64; then RSP,
then REQ, the input ports and channels of a class in turn. Where MGT alone waits the slots before its own pass empty. -/
def State.nextOut (s : State) (port : Nat) : Option Waiting :=
  let ok := s.ready port
  let slot := lookD s.fabric.slots port 0
  let ofClass (c : Nat) : Option Waiting :=
    nextTurn (lookD s.fabric.turns (turnKey port c) 0) (ok.filter fun x => x.2.2.cls = c)
  let owner := (s.slotOwner port slot).bind fun g => ok.find? fun x => x.2.2.gnd && decide (x.2.2.gid.toNat = g)
  let mgt := if lookD s.fabric.mgtFree port 0 ≤ slot then ofClass 2 else none
  [owner, mgt, ofClass 1, ofClass 0, ofClass 2].findSome? id

/-- A waiting packet leaves its queue, and its class's turn passes on; a MGT packet takes 64 slots for each of its flits before
the next may go (R298). -/
def State.take (s : State) (port : Nat) (x : Waiting) : State :=
  s.withFabric fun f =>
    { f with
      waiting := upd f.waiting port [] (·.eraseIdx x.1)
      waitingFrom := upd f.waitingFrom port [] (·.eraseIdx x.1)
      turns := put f.turns (turnKey port x.2.2.cls) (queueKey x + 1)
      mgtFree := if x.2.2.cls = 2 then
          put f.mgtFree port (max (lookD f.slots port 0) (lookD f.mgtFree port 0) + 64 * x.2.2.flits) else f.mgtFree
      slots := if x.2.2.cls = 2 then upd f.slots port 0 (max (lookD f.mgtFree port 0)) else f.slots }

/-- Packets that wait for a port leave while credits last (R298, R311). In a fast retrain none leaves (R274). -/
def State.pump (s : State) (port fuel : Nat) : State :=
  match fuel with
  | 0 => s
  | fuel + 1 =>
    if (s.port port).state = .retrain then s else
    match s.nextOut port with
    | some x => ((s.take port x).depart port x.2.2).pump port fuel
    | none => s

/-- A packet takes its place at an output port. A MGT packet for which there is no buffer is dropped (R281, R299). -/
def State.enqueue (s : State) (port : Nat) (p : Packet) : State :=
  if p.cls = 2 && !s.hasCredit port p then s.bump (oFab 0x1030)
  else
    let s := s.withFabric fun f =>
      { f with waiting := upd f.waiting port [] (· ++ [p]), waitingFrom := upd f.waitingFrom port [] (· ++ [f.arriving]) }
    s.pump port ((lookD s.fabric.waiting port []).length)

/-- A packet reaches the local port. -/
def State.toLocal (s : State) (p : Packet) : State := s.withFabric fun f => { f with localIn := f.localIn ++ [p] }

/-! ### Management packets and messages of the device -/

/-- A packet came by an input port, or by the local port, 7: its place in the round robin of R298. -/
def State.cameBy (s : State) (inPort : Option Nat) : State := s.withFabric fun f => { f with arriving := inPort.getD 7 }

/-- A management packet is routed over the whole machine (R299): a port that is not UP sends it one hop along the next
axis, and a packet with two detours already is dropped. -/
def State.routeMgt (s : State) (inPort : Option Nat) (p : Packet) : State :=
  if p.opc ≠ 0xC0 then s.bump (oFab 0x1030) else
  let s := s.cameBy inPort
  match s.route none p.dst false with
  | none =>
    if !p.svc then s.toLocal p
    else if (s.port 6).state = .up then s.enqueue 6 p
    else s.bump (oFab 0x1030)
  | some out =>
    if (s.port out).state = .up then s.enqueue out { p with vc := vcByte 2 (s.dlAfter p inPort out) false false }
    else if 2 ≤ p.wcnt.toNat then s.bump (oFab 0x1030)
    else
      let a := (out / 2 + 1) % 3
      let alt := 2 * a
      let q := { p with wcnt := p.wcnt + 1, vc := vcByte 2 (s.dlAfter p inPort alt) false false }.restamp
      if (s.port alt).state = .up then s.enqueue alt q else s.bump (oFab 0x1030)

/-- The packet that carries a chunk to a coordinate (R441, R444): with SVC where it is to leave through the service port. -/
def mgtPacketOf (here src : Coord) (fromSvc : Bool) (chunk : List Byte) : Packet :=
  ({ opc := 0xC0, pflags := if fromSvc then 0x10 else 0, vc := vcByte 2 false false false, dst := src, src := here
     sliceId := 0, len := BitVec.ofNat 13 chunk.length, payload := chunk } : Packet).restamp

/-- A chunk is sent (R441, R444): over the fabric as a management packet, and by I3C into the outbound mailbox (R453). A
response's TOTAL is its own body's length (R443); `total` is that of a message of the device. -/
def State.sendChunkOf (s : State) (total : Nat) (c : OutMsg) : State :=
  let s := (s.withMgmt fun m => { m with sent := m.sent ++ [c] }).wrapBy oMsgOut 1
  match c.dest with
  | .i3c => s.withI3c fun x => { x with outbox := chunkBytes c total false }
  | .fabric src fromSvc => s.routeMgt none (mgtPacketOf s.here src fromSvc (chunkBytes c total fromSvc))

/-- The device sends a message of its own: chunks of at most 4,032 body bytes with the next message number; a message
that the table marks as acknowledged waits for its responses (R441, R443, R445). -/
def State.send (s : State) (dest : Route) (mtype : Nat) (jobId : BitVec 64) (body : List Byte) (acked : Bool) : State :=
  let n := max 1 ((body.length + 4031) / 4032)
  let chunks := (List.range n).map fun k : Nat =>
    ({ dest := dest, mtype := mtype, mseq := s.mgmt.nextMseq, chunkOff := 4032 * k, jobId := jobId
       body := sub body (4032 * k) 4032, acked := acked, sentPt := s.pt } : OutMsg)
  let s := s.withMgmt fun m =>
    { m with nextMseq := m.nextMseq + 1, waiting := if acked then m.waiting ++ chunks else m.waiting }
  chunks.foldl (fun (s : State) c => s.sendChunkOf body.length c) s

/-- A report on the job goes to its reply-to (R444). -/
def State.report (s : State) (mtype : Nat) (body : List Byte) (acked : Bool) : State :=
  match s.job with
  | some j => s.send j.replyTo mtype j.jobId body acked
  | none => s

end Sys2Proof.Machine
end

