-- ==== Sys2Proof/Machine/Pools.lean ====
section
/-!
DEFINITION. The admission controller (R386 to R397): pools, fixed draw, tickets, the order of grants, recall and
revocation, and the limit budgets.
-/
namespace Sys2Proof.Machine

/-! ### Dies and pools (R14) -/

def dieCompute (d : Nat) : Nat := 0x01 + d
def dieGlide (n : Nat) : Nat := 0x11 + n
def dieEdge (n : Nat) : Nat := 0x15 + n
def dieStack (m : Nat) : Nat := 0x1C + m

/-- Number of pools: one for each die. -/
def nPools : Nat := 0x28

/-- The pool's maximum budget in units of 0.25 W (Table - Power pools at maximum package input). -/
def maxBudget (i : Nat) : Nat :=
  if i = 0 then 2240 else if i ≤ 0x10 then 660 else if i ≤ 0x14 then 240 else if i ≤ 0x1B then 160 else 180

/-- The fixed draw of a pool, with the standing units of a port that is UP (R386, R388). -/
def fixedDraw (p : Power) (i : Nat) : Nat :=
  if i = 0 then 1520 else if i ≤ 0x10 then 240 else if i ≤ 0x14 then 40
  else if i ≤ 0x1B then 32 + (if p.portUnits.contains (i - 0x15) then 96 else 0) else 60

/-- The budget of a pool. -/
def budgetOf (p : Power) (i : Nat) : Nat := lookD p.budgets i (maxBudget i)

/-- The pools. -/
def pools : List Nat := List.range nPools

/-- A sum over the pools. -/
def sumPools (f : Nat → Nat) : Nat := pools.foldl (fun n i => n + f i) 0

/-- p_lim in W (R395). -/
def pLim (limitW : Nat) : Rat := ((limitW : Rat) - 20) / mkRat 1028 1000

/-- The share f of R395. -/
def limShare (p : Power) : Rat :=
  let fixed : Rat := mkRat (sumPools (fixedDraw p)) 4
  let tick : Rat := mkRat (sumPools fun i => budgetOf p i - fixedDraw p i) 4
  let f := if tick = 0 then 1 else (pLim p.limitW.toNat - fixed) / tick
  if (1 : Rat) < f then 1 else f

/-- The limit budget of a pool (R395). -/
def limBudget (p : Power) (i : Nat) : Nat :=
  fixedDraw p i + (limShare p * ((budgetOf p i - fixedDraw p i : Nat) : Rat)).floor.toNat

/-- The ticketable part of a pool under the budgets in force (R386, R396). -/
def ticketable (p : Power) (i : Nat) : Nat :=
  (if p.limitActive then limBudget p i else budgetOf p i) - fixedDraw p i

/-- The units that a ticket holds in a pool. -/
def Ticket.units (t : Ticket) (i : Nat) : Nat := t.claims.foldl (fun n c => if c.1 = i then n + c.2 else n) 0

/-- The units held in a pool. -/
def heldUnits (p : Power) (i : Nat) : Nat := p.held.foldl (fun n t => n + t.units i) 0

/-- The ticket holds units in a pool. -/
def Ticket.inPool (t : Ticket) (i : Nat) : Bool := t.claims.any fun c => c.1 = i

/-- The cost of a class (R387). -/
def claimsOf : TicketClass → List (Nat × Nat)
  | .arrayBurst cell => [(dieCompute (cell / 128), 3)]
  | .glideUser n => [(dieGlide n, 200), (0, 120)]
  | .glideCal n => [(dieGlide n, 200), (0, 120)]
  | .stackBurst m k => [(dieStack m, 25 * k), (0, 5 * k)]
  | .link n => [(dieEdge n, 128)]

/-- The classes that recall may take (R387, R391). -/
def TicketClass.recallable : TicketClass → Bool
  | .arrayBurst _ => true
  | .stackBurst _ _ => true
  | _ => false

/-- The request at the head of a pool's queue (R390). -/
def headOf (q : List Ticket) (i : Nat) : Option Ticket := q.find? (·.inPool i)

/-- The queue and the tickets held, as changed; a pool whose head changes counts from now (R391). -/
def setTickets (p : Power) (pt : Word) (q held : List Ticket) : Power :=
  { p with
    queue := q, held := held
    headSince := pools.foldl (fun t i =>
      match headOf q i with
      | none => del t i
      | some h => if headOf p.queue i = some h then t else put t i pt) p.headSince }

/-- A request joins the tail of its pools' queues, unless one of its class waits or is held (R390). -/
def State.request (s : State) (c : TicketClass) : State :=
  if s.power.queue.any (·.cls = c) || s.power.held.any (·.cls = c) then s else
  s.withPower fun p =>
    { setTickets p s.pt (p.queue ++ [{ cls := c, claims := claimsOf c, order := p.nextOrder }]) p.held with
      nextOrder := p.nextOrder + 1 }

/-- A ticket is held. -/
def State.holds (s : State) (c : TicketClass) : Bool := s.power.held.any (·.cls = c)

/-- A ticket is released by its holder, or a request withdrawn. -/
def State.release (s : State) (c : TicketClass) : State :=
  s.withPower fun p => setTickets p s.pt (p.queue.filter (·.cls != c)) (p.held.filter (·.cls != c))

/-- A ticket fits the room of each of its pools (R386). -/
def fits (p : Power) (t : Ticket) : Bool :=
  t.claims.all fun c => decide (heldUnits p c.1 + c.2 ≤ ticketable p c.1)

/-- The k that a memory controller requests: the largest whose 25·k units the ticketable part of its pool can hold, at
most 4; 0 for none (R387). -/
def burstK (p : Power) (m : Nat) : Nat := min 4 (ticketable p (dieStack m) / 25)

/-- The number of a ticket class in the payload of event 0x70. -/
def TicketClass.num : TicketClass → Nat
  | .arrayBurst _ => 0 | .glideUser _ => 1 | .glideCal _ => 2 | .stackBurst _ _ => 3 | .link _ => 4

/-- The placement of the job. -/
def State.placed (s : State) : Placement := (s.job.map (·.placement)).getD {}

/-- Where a station is placed. -/
def State.placeOf (s : State) (st : Nat) : StationPlace := lookD s.placed.stations st {}

/-- The logical cell that a station runs on, or that hosts it. -/
def State.cellOf (s : State) (st : Nat) : Option Nat := (s.placeOf st).cell

/-- A cell's arrays have work in flight: an issued MM_RUN or GL_RUN that has not completed (R391, R393). -/
def State.arrayWork (s : State) (cell : Nat) : Bool :=
  s.cells.stations.any fun p => s.cellOf p.1 = some cell &&
    (!p.2.pendingMm.isEmpty || p.2.held.any fun h => h.engine.isNone)

/-- The ticks for which a GL_RUN drives its user slots: 160 slots a tick, of which one in 64 is a pilot's (R174). -/
def HeldRun.ticks (h : HeldRun) : Nat := (h.slots * 64 + 63 * 160 - 1) / (63 * 160)

/-- A GL_RUN is in progress on an engine: its vectors are still being sampled. -/
def State.sampling (s : State) (n : Nat) (h : HeldRun) : Bool :=
  h.engine = some n && h.issued && decide (s.pt.toNat < h.pt.toNat + h.ticks)

/-- The GL_RUN commands in progress on an engine are discarded, and run again on it after a new grant (R200). -/
def State.discardRuns (s : State) (n : Nat) : State :=
  let drop (h : HeldRun) : HeldRun := if s.sampling n h then { h with issued := false, windowPassed := false, readings := [] } else h
  s.withCells fun c => { c with stations := c.stations.map fun p => (p.1, { p.2 with held := p.2.held.map drop }) }

/-- What the holder of a withdrawn ticket does (R107, R200, R391, R392): arrays ramp down, an engine stops, a controller falls
to the quarter rate (which its missing ticket says), a port in training pauses with its limit suspended. -/
def State.withdrawn (s : State) (t : Ticket) : State :=
  match t.cls with
  | .arrayBurst cell => s.withCells fun c => { c with arrays := put c.arrays cell .rampDown }
  | .glideUser n => s.discardRuns n
  | .link n => s.withPort n fun p => { p with suspendedLimit := true }
  | _ => s

/-- The bulk and update requests of a pseudo-channel together. -/
def PseudoChannel.load (c : PseudoChannel) : Nat := c.bulkRd.length + c.bulkWr.length + c.update.length

/-- A controller asks for its burst ticket where a pseudo-channel holds 8 or more bulk and update requests (R387). -/
def State.burstRequest (s : State) (m : Nat) : State :=
  let waits := (s.power.queue ++ s.power.held).any fun t => match t.cls with
    | .stackBurst m' _ => m' = m
    | _ => false
  let busy := (s.stack m).channels.any fun c => decide (8 ≤ c.2.load)
  let k := burstK s.power m
  if busy && !waits && decide (0 < k) then s.request (.stackBurst m k) else s

/-- A port is in training. -/
def LinkState.training : LinkState → Bool
  | .light | .lock | .align | .margin | .map | .ident | .retrain => true
  | _ => false

/-- A holder that lost its ticket asks again, at the tail, while it still has work (R195, R200, R391, R392, R393). -/
def State.wantAgain (s : State) (t : Ticket) : State :=
  match t.cls with
  | .arrayBurst cell => if s.arrayWork cell then s.request t.cls else s
  | .stackBurst m _ => s.burstRequest m
  | .glideUser n => if (s.engine n).stations.isEmpty then s else s.request t.cls
  | .glideCal n => if (s.engine n).state = 3 ∨ (s.engine n).state = 4 ∨ (s.engine n).retrackDue = true then s.request t.cls else s
  | .link n => if (s.port n).state.training then s.request t.cls else s

/-- Tickets are revoked (R392): withdrawn without waiting for their holders, counted and recorded as event 0x70 with a
cause (1 limit, 2 step, 3 drain). -/
def State.revoke (s : State) (cause : Nat) (which : List Ticket) : State :=
  if which.isEmpty then s else
  let s := s.withPower fun p => setTickets p s.pt p.queue (p.held.filter fun t => !which.contains t)
  let s := which.foldl State.withdrawn s
  let counts := (List.range 5).flatMap fun k => item 4 ((which.filter fun t => t.cls.num = k).length)
  (s.wrapBy oRevokes which.length).record 0x70 0xFF ([Config.itemCode 0x70 0 cause] ++ counts)

/-- Holders that lost a ticket and still want it ask again. -/
def State.requestAgain (s : State) (which : List Ticket) : State := which.foldl State.wantAgain s

/-- The tickets of a list that must go, in its order, until what is held in a pool fits what it may hold. -/
def overflowOf (p : Power) (i : Nat) (l : List Ticket) (gone : List Ticket) : List Ticket :=
  match l with
  | [] => gone
  | t :: r =>
    let left := p.held.filter fun x => !gone.contains x
    if heldUnits { p with held := left } i ≤ ticketable p i then gone
    else overflowOf p i r (if t.inPool i && !gone.contains t then gone ++ [t] else gone)

/-- Tickets revoked where a pool exceeds its limit budget, the most recently granted first (R396, R397). -/
def State.enforceLimit (s : State) : State :=
  if s.power.limitActive then
    let newest := s.power.held.reverse
    let gone := pools.foldl (fun g i => overflowOf s.power i newest g) []
    (s.revoke 1 gone).requestAgain gone
  else s

/-- A controller whose pool now has room for a larger k gives its ticket back and asks for the larger one (R387). -/
def State.growBurst (s : State) (m : Nat) : State :=
  let k := burstK s.power m
  let small := s.power.held.find? fun t => match t.cls with
    | .stackBurst m' j => decide (m' = m) && decide (j < k)
    | _ => false
  match small with
  | some t => (s.release t.cls).request (.stackBurst m k)
  | none => s

/-- The budgets in force have changed: every controller looks again (R387). -/
def State.growBursts (s : State) : State := (List.range 12).foldl State.growBurst s

/-- The sum of the fixed draws in W, and of the budgets (R394, R409). -/
def fixedW (p : Power) : Nat := sumPools (fixedDraw p) / 4

/-- A budget write is allowed (R40, R394): within the pool's fixed draw and maximum, and within 4,400 W with the
conversion loss L(P) = 20 W + 0.028·P. -/
def budgetOk (p : Power) (i b : Nat) : Bool :=
  let p' := { p with budgets := put p.budgets i b }
  let sum : Rat := mkRat (sumPools (budgetOf p')) 4
  decide (fixedDraw p i ≤ b) && decide (b ≤ maxBudget i) && decide (sum + 20 + sum * mkRat 28 1000 ≤ (4400 : Rat))

end Sys2Proof.Machine
end

