-- ==== Sys2Proof/Machine/Capacity.lean ====
section
/-!
DEFINITION. What the device has (R16 to R18, R22, R369, R464): the slots of its clusters, the units in service, the
capacity floor and the capacity map.
-/
namespace Sys2Proof.Machine

/-- The physical index of a slot of cluster c = 8d + k: p = 136·d + 17·k + s (R16). -/
def pIndex (c slot : Nat) : Nat := 17 * c + slot

/-- The slots of a cluster that are not marked faulty. -/
def State.goodSlots (s : State) (c : Nat) : List Nat :=
  (List.range 17).filter fun i => !(s.pcell (pIndex c i)).faulty

/-- The ranks that a cluster can serve (R18). -/
def State.ranks (s : State) (c : Nat) : Nat :=
  if (s.cluster c).unavailable then 0 else min 16 (s.goodSlots c).length

/-- The clusters. -/
def clusterSites : List Nat := List.range 128

/-- The slot map of a cluster as the placer binds it at start-up and at job start (R17, R18): ranks take the good slots
in ascending order, and the highest good slot left over is the spare. A map whose slots are all good stands (log 14). -/
def State.bindCluster (s : State) (c : Nat) : State :=
  let good := s.goodSlots c
  let cl := s.cluster c
  let n := s.ranks c
  if cl.slots.length = n ∧ cl.slots.all good.contains ∧ (good.length = 17 → cl.spare.isSome) then s else
  s.withCluster c fun x =>
    { x with slots := good.take n, spare := if n = 0 then none else (good.drop n).getLast? }

/-- Every cluster's slot map as bound at job start. -/
def State.bindClusters (s : State) : State := clusterSites.foldl State.bindCluster s

/-- The logical cells available (R17, R18). -/
def State.cellsActive (s : State) : Nat := clusterSites.foldl (fun n c => n + s.ranks c) 0

/-- The clusters that hold a spare slot. -/
def State.spareCount (s : State) : Nat := (clusterSites.filter fun c => (s.cluster c).spare.isSome).length

/-- The physical cells marked faulty. -/
def State.faultyCount (s : State) : Nat := (s.cells.pcells.filter fun p => p.2.faulty).length

/-- A stack is in service, though it may leave at the next job start (STATE 0x2 and 0x3). -/
def Stack.inService (k : Stack) : Bool := k.state = 2 || k.state = 3

/-- The stacks and Glide engines in service, in ascending order. -/
def State.stacksIn (s : State) : List Nat := (List.range 12).filter fun m => (s.stack m).inService
def State.enginesIn (s : State) : List Nat := (List.range 4).filter fun n => (s.engine n).state = 1

/-- The codes of HOLD_CAUSE (R280). -/
def hNone : Nat := 0
def hUncabled : Nat := 1
def hStrap : Nat := 2
def hPeerStrap : Nat := 3
def hCoord : Nat := 4
def hPort : Nat := 5
def hFibre : Nat := 6
def hPlant : Nat := 7
def hDevice : Nat := 8
def hOperator : Nat := 9
def hRtt : Nat := 10

/-- Port n is cabled (R272). The service port is port 6. -/
def State.cabled (s : State) (n : Nat) : Bool := s.config.cabled.getLsbD n

/-- Port n can field its full set (R278, R369): it is not held with cause DEVICE. -/
def State.portFull (s : State) (n : Nat) : Bool := (s.port n).holdCause != hDevice

/-- The ports that are cabled and can field their full set. -/
def State.portsFull (s : State) : List Nat := (List.range 7).filter fun n => s.cabled n && s.portFull n

/-- Capacity below the floor (R369). -/
def State.belowFloor (s : State) : Bool :=
  decide (s.cellsActive < 1920) || decide (s.stacksIn.length < 11) || s.boot.coreFailed ||
  (List.range 6).any fun n => s.cabled n && !s.portFull n

/-- CEL_CLUSTER_c (R464). -/
def State.clusterReg (s : State) (c : Nat) : Word :=
  let cl := s.cluster c
  let faulty := maskOf ((List.range 17).filter fun i => (s.pcell (pIndex c i)).faulty)
  let concern := (List.range 17).any fun i => (s.pcell (pIndex c i)).concern
  BitVec.ofNat 64 (faulty * 2 ^ 24 + cl.spare.getD 0x1F * 2 ^ 16 + s.ranks c * 2 ^ 8 + b2n concern * 4 +
    b2n cl.unavailable * 2 + b2n cl.rotation.isSome)

/-- The lodge slices in service, as CEL_LODGE shows them. -/
def State.lodgeIn (s : State) : Word := ~~~s.stores.lodgeOos

/-- HLT_CAPACITY (R384), which follows each generation of the map (R464); CELLS_FAULTY counts the marks. -/
def State.hltCapacity (s : State) : Word :=
  let m := s.cap
  let bits12 (n : Nat) := (maskBits 12 n).length
  let cells := m.ranks.foldl (fun n p => n + p.2) 0
  let spares := (m.clusterRegs.filter fun p => bits p.2.toNat 20 16 != 0x1F).length
  BitVec.ofNat 64 ((maskBits 6 m.ports.toNat).length * 2 ^ 60 + bits12 m.stackSet.toNat * 2 ^ 56 + bits12 m.engines.toNat * 2 ^ 52 +
    b2n m.belowFloor * 2 ^ 48 + spares * 2 ^ 40 + cells * 2 ^ 28 + s.faultyCount * 2 ^ 16 + m.gen.toNat % 2 ^ 16)

/-- The capacity map is written as a whole with the next generation (R22, R464), with copies of what each engine
publishes. MGT_EVENT CAPACITY is set, and event 0x19 records what HLT_CAPACITY then shows, where it has changed in
more than the generation. -/
def State.writeMap (s : State) (engineReg predN : Nat → Word) : State :=
  let old := s.hltCapacity
  let m : CapMap :=
    { gen := s.cap.gen + 1
      writing := false
      belowFloor := s.belowFloor
      ports := BitVec.ofNat 7 (maskOf s.portsFull)
      engines := BitVec.ofNat 4 (maskOf s.enginesIn)
      stackSet := BitVec.ofNat 12 (maskOf s.stacksIn)
      lodge := s.lodgeIn
      ranks := clusterSites.map fun c => (c, s.ranks c)
      clusterRegs := clusterSites.map fun c => (c, s.clusterReg c)
      engineRegs := (List.range 4).map fun n => (n, engineReg n)
      predN := (List.range 4).map fun n => (n, predN n) }
  let s := { s with cap := m }
  let s := s.setEvent evCapacity 0
  if s.hltCapacity.toNat / 2 ^ 16 = old.toNat / 2 ^ 16 then s
  else s.record 0x19 0xFF (item 8 s.hltCapacity.toNat)

end Sys2Proof.Machine
end

