-- ==== Sys2Proof/Machine/Transitions.lean ====
section
/-!
DEFINITION. Device states (R32 to R39): the transitions, drain orders and the end of a drain, FAULT, BENCHED and WATCH,
and the transient bucket that leads to WATCH (R363 to R365).
-/
namespace Sys2Proof.Machine

/-- The transitions of Table - State transitions (R32), those within a state left out. -/
def edge : DevState → DevState → Bool
  | _, .off => true
  | .off, .standby => true
  | .standby, .boot => true
  | .boot, .ready | .boot, .watch | .boot, .benched | .boot, .fault => true
  | .ready, .run | .ready, .drain | .ready, .watch | .ready, .fault => true
  | .run, .drain | .run, .watch | .run, .fault => true
  | .watch, .drain | .watch, .ready | .watch, .run | .watch, .fault => true
  | .drain, .ready | .drain, .watch | .drain, .benched | .drain, .standby | .drain, .fault => true
  | .benched, .fault => true
  | _, _ => false

/-- A transition: STATE and PREV_STATE change together and MGT_EVENT STATE is set; one that the table does not list does
not take place (R32, R39). -/
def State.goto (s : State) (m : DevState) : State :=
  if edge s.dev.mode m then
    (s.withDev fun d => { d with mode := m, prev := d.mode }).setEvent evState 0
  else s

/-- The states that take part in a slice or may. -/
def DevState.running : DevState → Bool
  | .ready | .run | .watch => true
  | _ => false

/-! ### The end of membership -/

/-- Where a job has come once membership has ended: one that was never placed stays so (R380, R448). -/
def JobPhase.ended : JobPhase → JobPhase
  | .done => .done
  | .admitted | .refused => .refused
  | .bound | .started | .stopped => .stopped

/-- Membership ends: BOUND clears, the Course's stations and what they hold are gone, and what was in flight is
discarded (R34, R35, R448). What the job was stays known for a re-formation (R380). -/
def State.endMembership (s : State) : State :=
  let s := s.withDev fun d => { d with bound := false }
  let s := s.withJob fun j => { j with phase := j.phase.ended }
  let s := s.withCells fun c =>
    { c with stations := [], signals := [], semFiles := [], arrays := [], confirmation := none, placeQueue := [] }
  let s := s.withGlide fun g =>
    { g with
      engines := g.engines.map fun p => (p.1, { p.2 with
        stations := [], moved := [], slots := [], resident := false, applied := none, shadows := [], shadowRecs := [] })
      barred := [] }
  let s := s.withPower fun p => setTickets p s.pt (p.queue.filter fun t => !(t.cls.num = 0 || t.cls.num = 1))
    (p.held.filter fun t => !(t.cls.num = 0 || t.cls.num = 1))
  let s := s.withFabric fun f => { f with flights := [], lists := [] }
  let s := s.withRelay fun r => { r with cmds := [], staged := [], tallies := [], sent := [], recv := [], noSlot := [] }
  { s with restore := none }

/-- The slice table is cleared, which closes every window (R67, R292). -/
def State.clearTable (s : State) : State :=
  { s.withFabric fun f => { f with table := none, waiting := [], combines := [] } with windows := [] }

/-! ### FAULT and BENCHED (R38, R40) -/

/-- The body of a fault notice (R445): MGT_STATE, BOOT_COUNT and PT. -/
def State.noticeBody (s : State) : List Byte :=
  item 8 s.mgtState.toNat ++ item 4 s.nvm.bootCount.toNat ++ item 8 s.pt.toNat

/-- A port becomes fenced (R293): REQ and RSP packets queued for it, and the ATOMs that its combine entries hold, are
dropped and counted, and event 0x52 gives the cause: 0 an order, 1 FENCE_GO, 2 not UP. -/
def State.fence (s : State) (n cause : Nat) : State :=
  if s.fabric.fenced.contains n then s else
  let queued := lookD s.fabric.waiting n []
  let src := lookD s.fabric.waitingFrom n []
  let isMgt (i : Nat) : Bool := match queued[i]? with
    | some p => p.opc = 0xC0
    | none => false
  let kept := (List.range queued.length).filter isMgt
  let held := lookD s.fabric.combines n []
  let atoms := (held.filter fun c => !c.isLoad).foldl (fun k c => k + c.waiters.length) 0
  let s := s.withFabric fun f =>
    { f with
      fenced := f.fenced ++ [n]
      waiting := put f.waiting n (kept.filterMap fun i => queued[i]?)
      waitingFrom := put f.waitingFrom n (kept.map fun i => src.getD i 7)
      combines := put f.combines n (held.filter (·.isLoad)) }
  (s.satBy (oFab 0x1028) (queued.length - kept.length + atoms)).record 0x52 0 (item 1 n ++ [Config.itemCode 0x52 1 cause])

/-- The torus ports close on entry to FAULT: lasers off, each fenced that carried data (R38, R293, R388). -/
def State.closeTorus (s : State) : State :=
  let up := s.links.ports.filter fun p => p.1 < 6 && (p.2.state == .up || p.2.state == .retrain)
  let s := up.foldl (fun (s : State) p => s.fence p.1 2) s
  let s := s.withPower fun p => { p with portUnits := p.portUnits.filter (6 ≤ ·) }
  s.withLinks fun l => { l with ports := l.ports.map fun p =>
    if p.1 < 6 then (p.1, { p.2 with state := .down, active := 3, lanes := [], txWaiting := [] }) else p }

/-- Entry to FAULT with a cause (R32, R38, R39): from a state with slice membership a fault notice, with MGT_STATE as it
becomes, goes out first; then the torus ports close and the journal is flushed (R462). -/
def State.enterFault (s : State) (code : Nat) : State :=
  if edge s.dev.mode .fault then
    let coded (d : Device) : Device := { d with faultCode := BitVec.ofNat 8 code }
    let notice := ((s.withDev coded).goto .fault).noticeBody
    let s := if s.dev.bound then s.report 0x41 notice false else s
    let s := (s.endMembership.withDev coded).goto .fault
    let s := s.withPower fun p => setTickets p s.pt [] []
    s.closeTorus.withCard fun c => { c with flushDue := true }
  else s

/-- Entry to BENCHED (R36, R37): the bench record is written, the orders lapse and the journal is flushed. -/
def State.enterBenched (s : State) : State :=
  if edge s.dev.mode .benched then
    let s := s.goto .benched
    let s := s.withNvm fun n => { n with benchRecord := true }
    let s := s.withDev fun d => { d with mgtHold := false }
    s.withCard fun c => { c with flushDue := true }
  else s

/-! ### Full field tests and WATCH (R171, R364) -/

/-- The physical cells that a full field test has to test: those not marked faulty (R171). -/
def State.untested (s : State) : List Nat := (List.range 2176).filter fun p => !(s.pcell p).faulty

/-- A full field test starts (R171): it counts, and lasts until every slot has been tested. -/
def State.startFullTest (s : State) : State :=
  let s := s.withBucket fun b =>
    { b with fullTests := BitVec.ofNat 8 (min 255 (b.fullTests.toNat + 1)), testDue := false }
  s.withCells fun c => { c with fullTest := some s.untested, fullTestPassed := false, fullTestLast := some s.pt }

/-- Entry to WATCH: the watch record is written (R37). -/
def State.enterWatch (s : State) (test : Bool) : State :=
  if edge s.dev.mode .watch then
    let s := (s.goto .watch).withNvm fun n => { n with watchRecord := true }
    if test then s.startFullTest else s
  else s

/-! ### Drain (R23, R34 to R36, R449) -/

/-- An order is in force that holds the device in DRAIN (R36, R467). -/
def State.orderInForce (s : State) : Bool := s.pins.drainReq || s.dev.mgtHold || s.dev.debugHold

/-- A new nonce is drawn (R466). -/
def State.newNonce (s : State) : State :=
  { s.withMgmt fun m => { m with nonce := Config.freeNonce s.freeIdx } with freeIdx := s.freeIdx + 1 }

/-- Main power goes off: what the management island does not hold is lost (R32, R476, log 15). -/
def State.mainPowerOff (s : State) : State :=
  { s with
    clocks := { s.clocks with ckCHL := false, ckM := false, pllLock := false
                              clkSrc := if s.pins.refPresent then 1 else 2 }
    power := { s.power with held := [], queue := [], headSince := [], portUnits := [] }
    cells := { s.cells with clusters := [], arrays := [], semFiles := [], stations := [], signals := [] }
    stores := { s.stores with mem := {}, cache := [], fills := [], stackFix := [], padFix := [], replies := [],
                              stackSet := [] }
    glide := { s.glide with engines := [], leaving := [], returning := [], barred := [] }
    links := { s.links with ports := [] }
    fabric := {}
    relay := {}
    windows := []
    restore := none
    job := none }

/-- The entry to STANDBY by power-down (R32, R36, R476): ZH_PWR_EN is deasserted and makes no further attempt. -/
def State.enterStandbyDown (s : State) : State :=
  if s.dev.mode = .drain then
    let s := s.goto .standby
    let s := s.withPins fun p => { p with pwrEn := false, pwrEnSpent := true }
    let s := s.withDev fun d => { d with mgtHold := false }
    s.newNonce.mainPowerOff
  else s

/-- The end of a drain (R32, R36, R292), once membership has ended: BENCHED, STANDBY, or, once no order is in force, WATCH or
READY. -/
def State.leaveDrain (s : State) : State :=
  if s.dev.mode = .drain ∧ s.dev.drained = true ∧ s.dev.bound = false then
    if s.dev.has drSilent || s.dev.has drFloor then s.clearTable.enterBenched
    else if s.dev.has drPowerdown then s.clearTable.enterStandbyDown
    else if s.orderInForce then s
    else if s.nvm.watchRecord then s.clearTable.enterWatch s.bucket.testDue
    else s.clearTable.goto .ready
  else s

/-- The operations outstanding by destination, as event 0x55 lists them (R329): at most 16, the largest counts first and
the lower coordinate first among equals. -/
def State.outstandingBody (s : State) : List Byte :=
  let count (d : Nat) : Nat := (s.fabric.flights.filter fun f => f.dst.toNat = d).length
  let ds := (s.fabric.flights.map fun f => f.dst.toNat).eraseDups
  let sorted := sortBy ds fun a b => decide (count b < count a) || (decide (count a = count b) && decide (a ≤ b))
  let top := sorted.take 16
  item 1 top.length ++ top.flatMap fun d => item 3 d ++ item 4 (count d)

/-- The device is drained (R35): it reports so, membership ends, and DRAIN is left when nothing holds it. `outstanding`
is the payload of event 0x55 for a drain that ended at its limit (R445). -/
def State.completeDrain (s : State) (outstanding : List Byte) : State :=
  let s := s.withDev fun d => { d with drained := true }
  let s := if s.dev.bound then s.report 0x45 (item 8 s.mgtState.toNat ++ outstanding) true else s
  s.endMembership.leaveDrain

/-- A drain order with a reason (R23, R36). In READY, RUN and WATCH the device enters DRAIN with that reason alone, and a
device without membership is drained at once. In DRAIN the reason joins those recorded. In BOOT it is kept for the
entry to READY or WATCH (R422). In every other state it does nothing. -/
def State.orderDrain (s : State) (reason : Nat) : State :=
  let b : Byte := BitVec.ofNat 8 (2 ^ reason)
  match s.dev.mode with
  | .ready | .run | .watch =>
    let s := (s.goto .drain).withDev fun d => { d with reasons := b, drainStart := s.pt, drained := false }
    let links := s.power.held.filter fun t => t.cls.num = 4
    let s := (s.revoke 3 links).requestAgain links
    if s.dev.bound then s else s.completeDrain []
  | .drain => (s.withDev fun d => { d with reasons := d.reasons ||| b }).leaveDrain
  | .boot => s.withDev fun d => { d with bootDrain := d.bootDrain ||| b }
  | _ => s

/-- A device below the floor in running orders a drain with DR_FLOOR (R369). -/
def State.checkFloor (s : State) : State :=
  if (s.dev.mode.running || s.dev.mode = .drain) && s.belowFloor then s.orderDrain drFloor else s

/-! ### The transient bucket (R363, R364) -/

/-- LEVEL is at or above HIGH. -/
def State.levelHigh (s : State) : Bool := decide (s.bucket.high.toNat * 256 ≤ s.nvm.level.toNat)

/-- In WATCH another full field test starts, unless one has started in the last 24 hours (R364). -/
def State.testAgain (s : State) : State :=
  match s.cells.fullTestLast with
  | some t => if s.since t < ticksH 24 then s else s.startFullTest
  | none => s.startFullTest

/-- LEVEL has just crossed HIGH: event 0x14 (R364). -/
def State.noteCrossing (s : State) (cause : Nat) : State :=
  (s.bump oBucketHigh).record 0x14 0xFF (item 2 s.nvm.level.toNat ++ [Config.itemCode 0x14 1 cause])

/-- LEVEL has just crossed HIGH: event 0x14, and what the state decides (R32, R364). -/
def State.crossed (s : State) (cause : Nat) : State :=
  let s := s.noteCrossing cause
  let watchDue (s : State) : State :=
    (s.withNvm fun n => { n with watchRecord := true }).withBucket fun b => { b with testDue := true }
  match s.dev.mode with
  | .ready | .run => s.enterWatch true
  | .watch => s.testAgain
  | .drain | .standby | .boot => watchDue s
  | _ => s

/-- LEVEL takes a value, which is saved to NVM. The time below LOW starts anew where LEVEL reaches LOW (R365). -/
def State.levelTo (s : State) (lv : Nat) : State :=
  let s := s.withNvm fun n => { n with level := BitVec.ofNat 16 lv }
  let low := decide (lv < s.bucket.low.toNat * 256)
  s.withBucket fun b =>
    { b with belowLowSince := if low then (if b.belowLowSince.isSome then b.belowLowSince else some s.pt) else none }

/-- A new LEVEL; a rise to HIGH or above from below is a crossing (R364). -/
def State.setLevel (s : State) (lv : Nat) (cause : Nat) : State :=
  let t := s.levelTo lv
  if !s.levelHigh && t.levelHigh then t.crossed cause else t

/-- A new LEVEL from an event that also orders a drain. A device that the order has taken out of READY, RUN or WATCH has
taken the higher target: a crossing is recorded in the journal and not otherwise acted on (R33). -/
def State.drainLevel (s : State) (reason lv cause : Nat) : State :=
  let t := s.orderDrain reason
  if s.dev.mode != .drain && t.dev.mode != s.dev.mode then
    let u := t.levelTo lv
    if !s.levelHigh && u.levelHigh then u.noteCrossing cause else u
  else t.setLevel lv cause

/-- LEVEL with points more: it saturates at 255 points (R363). -/
def State.levelPlus (s : State) (pts : Nat) : Nat := min (255 * 256) (s.nvm.level.toNat + pts * 256)

/-- LEVEL raised to HIGH at once (R363). -/
def State.levelAtHigh (s : State) : Nat := max s.nvm.level.toNat (s.bucket.high.toNat * 256)

/-- Points enter the bucket (R363). -/
def State.addPoints (s : State) (pts cause : Nat) : State := s.setLevel (s.levelPlus pts) cause

/-- The bucket is raised to HIGH at once (R363). -/
def State.raiseHigh (s : State) (cause : Nat) : State := s.setLevel s.levelAtHigh cause

/-- A verdict that orders a drain with DR_REFORM and raises the bucket to HIGH (R33, R360, R363). -/
def State.raiseAndDrain (s : State) (cause : Nat) : State := s.drainLevel drReform s.levelAtHigh cause

/-! ### Course errors (R82) -/

/-- Course error codes (Table - Course error codes). -/
def eImage : Nat := 0x01
def eVersion : Nat := 0x02
def eReserved : Nat := 0x03
def eDescriptor : Nat := 0x04
def eOpcode : Nat := 0x05
def eCapacity : Nat := 0x06
def eRepro : Nat := 0x07
def eWriter : Nat := 0x08
def eSemOverflow : Nat := 0x10
def eWatchdog : Nat := 0x11
def eStreamOrder : Nat := 0x12
def eTileFormat : Nat := 0x13
def eWindowClosed : Nat := 0x14
def eWindowSource : Nat := 0x15
def eWindowOverrun : Nat := 0x16
def eRankRange : Nat := 0x17

/-- How a job stands after a Course error: stopped, but for one whose stations had all halted. -/
def JobPhase.afterError (p : JobPhase) : JobPhase := if p = .done then .done else .stopped

/-- A Course error at run (R82): every station stops, the error is reported with its station, and the member leaves
through DRAIN with DR_JOBEND. Each error is reported, one found in DRAIN or after COURSE_DONE too (log 16). -/
def State.courseError (s : State) (code station : Nat) : State :=
  if s.job.isSome && s.dev.bound then
    let s := s.withCells fun c => { c with stations := c.stations.map fun p => (p.1, { p.2 with stopped := true }) }
    let s := s.withJob fun j => { j with phase := j.phase.afterError, errorCode := code, errorStation := station }
    (s.report 0x44 (item 1 code ++ item 2 station) true).orderDrain drJobend
  else s

end Sys2Proof.Machine
end

