-- ==== Sys2Proof/Machine/Device.lean ====
section
/-!
DEFINITION. Device states, supplies, pins and clocks (rows RESET_ASSERT to TRIP_COMPARATOR, DRAINED, DRAIN_LIMIT,
REFERENCE_CLOCK_LOSS, POWERED_TIME_TICK). An event that the state excludes leaves the state as it is (R32, log 3).
-/
namespace Sys2Proof.Machine

/-! ### OFF and STANDBY -/

/-- OFF (R7, R32, R462): nothing is kept but the fuses, the flash, the board's levels and the commands that wait. -/
def State.enterOff (s : State) : State :=
  { pending := s.pending
    fuses := { s.fuses with usable := true }
    nvm := s.nvm
    pins := { refPresent := s.pins.refPresent, drainReq := s.pins.drainReq, pwrLimit := s.pins.pwrLimit
              pgood := s.pins.pgood }
    dev := { mode := .off, prev := .off }
    freeIdx := s.freeIdx }

/-- ZH_RESET_N is taken as asserted (R32): OFF from any state. -/
def execResetAssert (s : State) : Out := .next s.enterOff

/-- Standby power is lost (R32): OFF from any state. -/
def execStandbyPowerLost (s : State) : Out := .next s.enterOff

/-- A spare-map entry that a CLEAR_SPAREMAP of these fields selects (R465). -/
def clears (c : Nat × Nat × Nat × Nat) (e : SpareEntry) : Bool :=
  c.1 = 0xFF || (c.1 = e.kind && c.2.1 = e.die && c.2.2.1 = e.unit && c.2.2.2 = e.element)

/-- What the accepted signed commands do at the reset they wait for (R37, R368, R465). -/
def resetCommands (n : Nvm) : Nvm :=
  { n with
    benchRecord := n.benchRecord && !n.clearBench
    spareMap := n.spareMap.filter fun e => !n.clearSpares.any fun c => clears c e
    clearBench := false
    clearSpares := [] }

/-- The first JIDX of a boot (R462): the newest in the ring plus 1,025, or 0 for an empty ring. -/
def firstJidx (n : Nvm) : BitVec 32 :=
  match n.journal.getLast? with
  | some e => e.jidx + 1025
  | none => 0

/-- OFF is left for STANDBY (R7, R8, R31, R32, R466): a boot begins with PT 0, the boot count rises, accepted signed
commands take effect, and a nonce is drawn. -/
def State.enterStandby (s : State) (refPresent : Bool) : State :=
  let nvm := resetCommands s.nvm
  let nvm := { nvm with bootCount := if nvm.bootCount = 0xFFFFFFFF then nvm.bootCount else nvm.bootCount + 1 }
  let s : State :=
    { s.enterOff with
      nvm := nvm
      dev := { mode := .standby, prev := .standby }
      pins := { s.pins with refPresent := refPresent, pwrEn := false, pwrEnSpent := false, thermtrip := false }
      clocks := { clkSrc := if refPresent then 1 else 2 }
      card := { nextJidx := firstJidx nvm }
      bucket := { belowLowSince := if nvm.level.toNat < 256 then some 0 else none } }
  s.newNonce

/-- Standby power is present and ZH_RESET_N released (R32). -/
def execStandbyEntry (refPresent : Bool) (s : State) : Out :=
  if s.dev.mode = .off then .next (s.enterStandby refPresent) else .next s

/-! ### The supply -/

/-- The device asserts ZH_PWR_EN once the reference is present (R32, R475), and only once after a reset (R476). The row comes
with the reference, from which CK_S then runs (R7, R31, log 44). -/
def execPwrEnAssert (s : State) : Out :=
  if s.dev.mode = .standby ∧ s.pins.pwrEn = false ∧ s.pins.pwrEnSpent = false then
    let s := s.withClocks fun c => { c with clkSrc := 1 }
    .next (s.withPins fun p => { p with refPresent := true, pwrEn := true, pwrEnSince := s.pt })
  else .next s

/-- Entry to BOOT (R32, R418, R466): cold start begins at step 1. -/
def State.enterBoot (s : State) : State :=
  let s := s.goto .boot
  let s := s.withBoot fun _ => { step := 1, bootSince := s.pt, stepSince := s.pt }
  s.newNonce

/-- ZH_PGOOD is taken as asserted (R32): BOOT, where it answers ZH_PWR_EN within 100 ms. -/
def execPgoodAssert (s : State) : Out :=
  let t := s.withPins fun p => { p with pgood := true }
  if s.dev.mode = .standby ∧ s.pins.pwrEn = true ∧ s.since s.pins.pwrEnSince ≤ ticksMs 100 then .next t.enterBoot
  else if s.dev.mode = .off then .next s
  else .next t

/-- The attempt of STANDBY fails (R32, R476, R487): ZH_PWR_EN is deasserted for good and a supply event raised (log 17). -/
def State.attemptFails (s : State) : State :=
  (s.withPins fun p => { p with pwrEn := false, pwrEnSpent := true }).record 0x82 0 [Config.itemCode 0x82 0 0]

/-- 100 ms pass without ZH_PGOOD (R32, R476). -/
def execPgoodTimeout (s : State) : Out :=
  if s.dev.mode = .standby ∧ s.pins.pwrEn = true ∧ s.pins.pgood = false ∧ ticksMs 100 ≤ s.since s.pins.pwrEnSince then
    .next s.attemptFails
  else .next s

/-- ZH_PGOOD is lost (R32, R477, R487): FAULT with code 0x09 where ZH_PWR_EN was asserted, and in STANDBY, before BOOT, the end
of the attempt; otherwise it is expected. -/
def execPgoodLost (s : State) : Out :=
  if s.dev.mode = .off then .next s else
  let t := s.withPins fun p => { p with pgood := false }
  if s.pins.pwrEn then .next (if s.dev.mode = .standby then t.attemptFails else t.enterFault 0x09) else .next t

/-! ### Board pins -/

/-- ZH_DRAIN_REQ_N is taken as asserted (R36, R473): a drain order with DR_PIN. -/
def execDrainReqPinAssert (s : State) : Out :=
  if s.dev.mode = .off then .next s else
  .next ((s.withPins fun p => { p with drainReq := true }).orderDrain drPin)

/-- ZH_DRAIN_REQ_N is taken as deasserted (R36): the order ends, and with it the drain if nothing else holds it. -/
def execDrainReqPinDeassert (s : State) : Out :=
  if s.dev.mode = .off then .next s else
  .next (s.withPins fun p => { p with drainReq := false }).leaveDrain

/-- The payload of event 0x71: entered or left, LIMIT_W and IN_W. -/
def State.limitBody (s : State) (entered : Bool) : List Byte :=
  [Config.itemCode 0x71 0 (b2n entered)] ++ item 2 s.power.limitW.toNat ++
  item 2 (Config.measuredInput (s.pt.toNat / ticksMs 1)).toNat

/-- ZH_PWR_LIMIT_N is taken as asserted (R396): the limit budgets are in force, and tickets beyond them are revoked. -/
def execPwrLimitAssert (s : State) : Out :=
  if s.dev.mode = .off ∨ s.pins.pwrLimit = true ∧ s.power.limitActive = true then .next s else
  let s := s.withPins fun p => { p with pwrLimit := true }
  let s := (s.bump oLimitAssert).record 0x71 0xFF (s.limitBody true)
  .next (s.withPower fun p => { p with limitActive := true }).enforceLimit

/-- ZH_PWR_LIMIT_N has been deasserted for 1 ms without a break (R397): the normal budgets return. -/
def execPwrLimitRelease (s : State) : Out :=
  if s.dev.mode = .off ∨ s.power.limitActive = false then .next s else
  let s := s.withPins fun p => { p with pwrLimit := false }
  .next ((s.withPower fun p => { p with limitActive := false }).record 0x71 0xFF (s.limitBody false)).growBursts

/-! ### Clocks and lockstep -/

/-- The root PLL loses lock (R31, R32): CK_S moves to the reference, or to the internal oscillator; FAULT 0x02. -/
def execRootPllLoss (refPresent : Bool) (s : State) : Out :=
  if s.clocks.pllLock then
    let s := s.withPins fun p => { p with refPresent := refPresent }
    let s := s.withClocks fun c => { c with pllLock := false, clkSrc := if refPresent then 1 else 2 }
    .next (s.enterFault 0x02)
  else .next s

/-- The reference clock is lost (R31, R487): CK_S runs from the internal oscillator, and with it the root PLL loses its lock, so
that a device with main power on enters FAULT 0x02; ZH_PWR_EN stays asserted. -/
def execReferenceClockLoss (s : State) : Out :=
  if s.dev.mode = .off then .next s else
  let s := s.withPins fun p => { p with refPresent := false }
  let s := s.withClocks fun c => { c with pllLock := false, clkSrc := 2 }
  .next (s.enterFault 0x02)

/-- A die's clock is declared lost (R29, R30): its ports are fenced and the device enters FAULT 0x01, recording the die.
An Edge engine in a fast retrain is exempt. -/
def execClockLoss (die : Nat) (s : State) : Out :=
  let edgeNo := die - 0x15
  let isEdge := decide (0x15 ≤ die) && decide (die ≤ 0x1B)
  if isEdge && s.clocks.suspended.contains edgeNo then .next s else
  if edge s.dev.mode .fault then
    let add (l : List Nat) : List Nat := if l.contains die then l else l ++ [die]
    let s := s.withClocks fun c => { c with lostDies := add c.lostDies, fencedDies := add c.fencedDies }
    let s := if isEdge then s.fence edgeNo 2 else s
    .next ((s.enterFault 0x01).record 0x82 die ([Config.itemCode 0x82 0 1] ++ item 1 die))
  else .next s

/-- MC0 and MC1, or CC0 and CC1, disagree (R25, R39): FAULT 0x03 or 0x04. -/
def execLockstepMismatch (courseControllers : Bool) (s : State) : Out :=
  .next (s.enterFault (if courseControllers then 0x04 else 0x03))

/-- The thermal trip fires (R405): ZH_THERMTRIP_N is asserted and latched, FAULT 0x05, and ZH_PWR_EN is deasserted. -/
def State.trip (s : State) (payload : List Byte) (die : Nat) : State :=
  let s := s.withThermal fun t => { t with trip := true }
  let s := s.record 0x76 die payload
  let s := (s.withPins fun p => { p with thermtrip := true }).enterFault 0x05
  s.withPins fun p => { p with pwrEn := false }

/-- The trip of R405 is armed: from cold-start step 2 on (R420). -/
def State.armed (s : State) : Bool :=
  match s.dev.mode with
  | .off | .standby => false
  | .boot => decide (2 ≤ s.boot.step)
  | _ => true

/-- A hardware trip comparator of a die fires (R405): both of a die's two trip; one alone is recorded as event 0x76. -/
def execTripComparator (die comp : Nat) (s : State) : Out :=
  if s.armed && !s.thermal.trip then
    let cs := if s.thermal.comparators.contains (die, comp) then s.thermal.comparators
      else s.thermal.comparators ++ [(die, comp)]
    let s := s.withThermal fun t => { t with comparators := cs }
    let fired := cs.filter fun c => c.1 = die
    let body := item 1 die ++ fired.flatMap fun c => item 2 c.2
    if 2 ≤ fired.length then .next (s.trip body die) else .next (s.record 0x76 die body)
  else .next s

/-! ### Drains -/

/-- A station's sequencer is idle for a drain (R35): nothing of the station is in progress, or it has been stopped (R82,
R361). -/
def StationRt.idle (r : StationRt) : Bool :=
  r.stopped || r.outstanding.all (·.done) && r.pendingMm.isEmpty && r.held.isEmpty && r.upd.isEmpty && r.failed.isNone && r.crcWait.isNone

/-- A station's local transactions that are under way (R125). -/
def localOpen (r : StationRt) : Nat :=
  r.outstanding.foldl (fun n o => if o.kind = .dma && o.remoteTo.isNone then n + (o.open_ - o.todo) else n) 0

/-- The operations in flight of the device (R126, R303). -/
def State.inFlight (s : State) : Nat := s.cells.stations.foldl (fun n p => n + localOpen p.2) s.fabric.flights.length

/-- Every replay buffer is empty (R35). -/
def State.replayEmpty (s : State) : Bool := s.links.ports.all fun p => p.2.lanes.all fun l => l.2.replay.isEmpty

/-- The drained condition of R35. -/
def State.isDrained (s : State) : Bool :=
  s.cells.stations.all (fun p => p.2.idle) && s.cells.confirmation.isNone && s.relay.cmds.isEmpty &&
  s.inFlight = 0 && s.power.held.isEmpty && s.replayEmpty

/-- The device is found drained (R35, R449). -/
def execDrained (s : State) : Out :=
  if s.dev.mode = .drain ∧ s.dev.drained = false ∧ s.isDrained = true then .next (s.completeDrain []) else .next s

/-! ### Powered time -/

end Sys2Proof.Machine
end

