-- ==== Sys2Proof/Machine/Router.lean ====
section
/-!
DEFINITION. The fabric router (R290 to R297, R301, R321 to R324, R331): slices and ranks, the checks on arrival, failures,
combining, and the packets that go on.
-/
namespace Sys2Proof
open Machine

/-- The atom that a packet touches at its window (R314). -/
def Packet.atom (p : Packet) : Coord × BitVec 16 × Nat := (p.dst, p.windowId, p.offset.toNat / 32)

/-- The key of a LOAD or of a combinable ATOM. -/
def Packet.loadKey (p : Packet) : Coord × BitVec 16 × BitVec 48 × Nat × Bool := (p.dst, p.windowId, p.offset, p.aux.toNat, false)
def Packet.atomKey (p : Packet) : Coord × BitVec 16 × BitVec 48 × Nat × Bool :=
  (p.dst, p.windowId, p.offset, p.aux.toNat % 16, p.aux.getLsbD 4)

/-- FN is combinable (R316). -/
def Packet.combinable (p : Packet) : Bool := p.opc = 0x04 && decide (p.aux.toNat % 16 ≤ 4)

/-- The operand of an ATOM. -/
def Packet.operand (p : Packet) : Nat := fld p.payload 0 (if p.aux.getLsbD 4 then 8 else 4)

/-- The constituents that an ATOM carries: its records where it is combined, else itself (R322). -/
def Packet.constituents (p : Packet) : List Packet :=
  if p.cmb then
    (chunksOf 8 (p.payload.drop 32)).map fun r =>
      { p with
        src := BitVec.ofNat 18 (fld r 0 3), seq := BitVec.ofNat 16 (fld r 3 2), tag := BitVec.ofNat 16 (fld r 5 2)
        pflags := p.pflags &&& 0xFD }
  else [p]

/-- ORDER of a request in a SPREAD slice: the parity of WINDOW_ID and OFFSET[47:5] (R296). -/
def Packet.parity (p : Packet) : Bool :=
  ((maskBits 16 p.windowId.toNat).length + (maskBits 43 (p.offset.toNat / 32)).length) % 2 = 1

end Sys2Proof

namespace Sys2Proof.Machine

/-- The atom of an entry. -/
def Combine.atom (c : Combine) : Coord × BitVec 16 × Nat := (c.key.1, c.key.2.1, c.key.2.2.1.toNat / 32)

end Sys2Proof.Machine

namespace Sys2Proof
open Machine

/-- A packet closes the entries of its atom (R323): STORE, WRITE, ATOM_F, a non-combinable ATOM or ORD closes all; a
combinable ATOM those of another FN. A LOAD closes an atomic entry that holds an ATOM of its own pair, which R312 puts
before it (log 23). -/
def Packet.closes (p : Packet) (c : Combine) : Bool :=
  let other := p.opc = 0x01 || p.opc = 0x02 || p.opc = 0x05 || (p.opc = 0x04 && !p.combinable) || p.ord
  let touches := if p.opc = 0x01 then
      decide (c.key.1 = p.dst) && decide (c.key.2.1 = p.windowId) && decide (p.offset.toNat ≤ c.key.2.2.1.toNat) &&
      decide (c.key.2.2.1.toNat < p.offset.toNat + p.payload.length)
    else decide (c.atom = p.atom)
  touches && (other || (p.combinable && !c.isLoad && decide (c.key.2.2.2 ≠ p.atomKey.2.2.2)) ||
    (p.combinable && c.isLoad) || (p.opc = 0x03 && !c.isLoad && c.waiters.any fun w => decide (w.src = p.src)))

end Sys2Proof

namespace Sys2Proof.Machine

/-- The logical rank of a machine coordinate (R78, R290). -/
def State.rankOf (s : State) (t : SliceTable) (c : Coord) : Nat :=
  s.logicalAt t c 0 + t.size 0 * (s.logicalAt t c 1 + t.size 1 * s.logicalAt t c 2)

/-- The machine coordinate of a logical rank. -/
def State.coordOfRank (s : State) (t : SliceTable) (r : Nat) : Coord :=
  s.machineOf t (r % t.size 0) (r / t.size 0 % t.size 1) (r / (t.size 0 * t.size 1))

/-- The destination of a rank operand; none outside the slice (R78). -/
def State.resolveRank (s : State) (op : RankOp) : Option Coord :=
  match s.fabric.table with
  | none => none
  | some t =>
    if op.rel then
      let step (a : Nat) : Option Nat :=
        let d := signedOf 6 (axisOf op.rank a)
        let l : Int := (s.logicalAt t s.here a : Int) + d
        let n : Int := ((t.size a : Nat) : Int)
        if t.isClosed a then some (l % n).toNat
        else if 0 ≤ l ∧ l < n then some l.toNat else none
      match step 0, step 1, step 2 with
      | some x, some y, some z => some (s.machineOf t x y z)
      | _, _, _ => none
    else if op.rank.toNat < t.size 0 * t.size 1 * t.size 2 then some (s.coordOfRank t op.rank.toNat) else none

/-- A port is in the slice (R290). -/
def State.inSlice (s : State) (n : Nat) : Bool :=
  match s.fabric.table with
  | none => false
  | some t =>
    let a := n / 2
    let l := s.logicalAt t s.here a
    decide (n < 6) &&
    (t.isClosed a || (if n % 2 = 0 then decide (l + 1 < t.size a) else decide (0 < l)))

/-- Two devices are in one block (R325). -/
def sameBlock (a b : Coord) : Bool := [0, 1, 2].all fun i => axisOf a i / 8 = axisOf b i / 8

/-! ### Failures (R331) -/

/-- A header failure: the packet is dropped and counted, event 0x50, and a drain with DR_REFORM is ordered. -/
def State.headerFail (s : State) (port : Nat) (p : Packet) : State :=
  let s := (s.bump (oFab 0x1000)).record 0x50 0 (item 1 port ++ [p.opc] ++ item 3 p.src.toNat ++ item 3 p.dst.toNat)
  s.orderDrain drReform

/-- A fault in an atomic's sequence (R318 step 3, R319): counted, event 0x51, and a drain with DR_REFORM. -/
def State.seqFault (s : State) (src : Coord) (seq e : Nat) : State :=
  let s := (s.bump (oFab 0x1008)).record 0x51 0 (item 3 src.toNat ++ item 4 seq ++ item 4 e)
  s.orderDrain drReform

/-! ### Combining (R321 to R323) -/

/-- The result of an atomic function on operands of 4 or 8 bytes (R316): the new value from old, operand and the second
operand of CAS. -/
def atomicFn (fn : Nat) (wide : Bool) (old x y : Nat) : Nat :=
  let w := if wide then 64 else 32
  let sg (n : Nat) := signedOf w n
  match fn with
  | 0 => (old + x) % 2 ^ w
  | 1 => if sg x < sg old then x else old
  | 2 => if sg old < sg x then x else old
  | 3 => min old x
  | 4 => max old x
  | 5 => x
  | _ => if old = y then x else old

/-- The combined ATOM that a closed entry sends (R285, R322). -/
def Combine.combined (c : Combine) (here : Coord) : Packet :=
  let recs := c.waiters.flatMap fun p => natLe 3 p.src.toNat ++ natLe 2 p.seq.toNat ++ natLe 2 p.tag.toNat ++ natLe 1 0
  let body := padTo 32 (natLe 8 c.operand.toNat) ++ recs
  { c.first with
    pflags := c.first.pflags ||| 2
    src := here
    len := BitVec.ofNat 13 body.length
    payload := body
    badGranules := [] }.restamp

/-- The combine entries of a port. -/
def State.combinesOf (s : State) (port : Nat) : List Combine := lookD s.fabric.combines port []
def State.withCombines (s : State) (port : Nat) (f : List Combine → List Combine) : State :=
  s.withFabric fun b => { b with combines := upd b.combines port [] f }

/-- Entry i of a port closes (R322, R323): an atomic entry is sent and gone; a load entry takes no more waiters. -/
def State.closeEntry (s : State) (port i : Nat) : State :=
  match (s.combinesOf port)[i]? with
  | some c =>
    if c.isLoad then s.withCombines port fun l => updAt l i fun c => { c with open_ := false }
    else
      let s := s.withCombines port fun l => l.eraseIdx i
      if c.waiters.length = 1 then s.enqueue port c.first else s.enqueue port (c.combined s.here)
  | none => s

/-- The entries of a port that a packet closes, closed from the last on. -/
def State.closeFor (s : State) (port : Nat) (p : Packet) : State :=
  let l := s.combinesOf port
  let hit := (List.range l.length).reverse.filter fun i => match l[i]? with
    | some c => p.closes c
    | none => false
  hit.foldl (fun s i => s.closeEntry port i) s

/-- A packet of a pair passes towards the atoms of entries that it does not join (R323). -/
def State.markPassed (s : State) (port : Nat) (p : Packet) : State :=
  if (s.combinesOf port).any fun c => decide (c.atom = p.atom) then
    s.withCombines port fun l => l.map fun c =>
      if c.atom = p.atom then { c with passed := c.passed ++ [p.src] } else c
  else s

/-- A packet may join an entry. -/
def Combine.takes (c : Combine) (p : Packet) : Bool := c.open_ && !c.passed.contains p.src

/-- The tag that a combined LOAD of a port carries: the entry (R321). -/
def entryTag (port i : Nat) : BitVec 16 := BitVec.ofNat 16 (64 * port + i)

/-- A free entry number of a port: load entries keep theirs in the tag that they sent. -/
def freeEntry (l : List Combine) (port : Nat) : Nat :=
  ((List.range 64).find? fun i => !l.any fun c => c.isLoad && c.first.tag = entryTag port i).getD 0

/-- A LOAD at an output port of a COMBINE slice (R321). The entry keeps what it forwards in `first` and the requesters,
the first of them included, in `waiters`. -/
def State.combineLoad (s : State) (port : Nat) (p : Packet) : State :=
  let l := s.combinesOf port
  let hit := l.findIdx? fun c => c.isLoad && decide (c.key = p.loadKey) && c.takes p && decide (c.waiters.length < 17) &&
    decide (s.since c.opened ≤ 25)
  match hit with
  | some i =>
    (s.withCombines port fun l => updAt l i fun c => { c with waiters := c.waiters ++ [p] }).wrapBy (oFab 0x1110) 1
  | none =>
    let s := s.markPassed port p
    if 64 ≤ l.length then s.enqueue port p else
    let fwd := { p with pflags := p.pflags ||| 2, src := s.here, tag := entryTag port (freeEntry l port) }.restamp
    (s.withCombines port fun l =>
      l ++ [{ isLoad := true, key := p.loadKey, opened := s.pt, first := fwd, waiters := [p] }]).enqueue port fwd

/-- A combinable ATOM at an output port of a COMBINE slice (R322, R323). -/
def State.combineAtom (s : State) (port : Nat) (p : Packet) : State :=
  let l := s.combinesOf port
  let cs := p.constituents
  let hit := l.findIdx? fun c => !c.isLoad && decide (c.key = p.atomKey) && cs.all (fun q => c.takes q) &&
    decide (c.waiters.length + cs.length ≤ 16)
  match hit with
  | some i =>
    let s := s.withCombines port fun l => updAt l i fun c =>
      { c with
        waiters := c.waiters ++ cs
        operand := BitVec.ofNat 64 (atomicFn (p.aux.toNat % 16) (p.aux.getLsbD 4) c.operand.toNat p.operand 0) }
    let s := s.wrapBy (oFab 0x1118) cs.length
    match (s.combinesOf port)[i]? with
    | some c => if 16 ≤ c.waiters.length then s.closeEntry port i else s
    | none => s
  | none =>
    let s := s.markPassed port p
    if 64 ≤ l.length then s.enqueue port p else
    let s := s.withCombines port fun l =>
      l ++ [{ isLoad := false, key := p.atomKey, opened := s.pt, first := p, waiters := cs
              operand := BitVec.ofNat 64 p.operand }]
    if 16 ≤ cs.length then s.closeEntry port ((s.combinesOf port).length - 1) else s

/-- A packet goes to an output port: where the slice combines, through its entries (R321 to R324). Packets on a gondola
or of the far-memory mode are not combined (R326). -/
def State.output (s : State) (port : Nat) (p : Packet) : State :=
  let combines := match s.fabric.table with
    | some t => !t.spread
    | none => false
  if combines && p.cls = 0 then
    let s := s.closeFor port p
    if p.opc = 0x03 && !p.ord && !p.pflags.getLsbD 3 && !p.gnd && !p.cmb then s.combineLoad port p
    else if p.combinable && !p.ord && !p.gnd then s.combineAtom port p
    else (s.markPassed port p).enqueue port p
  else s.enqueue port p

/-! ### Packets from this device and packets that arrive -/

/-- The gondola of a pair, if one is loaded (R301). -/
def SliceTable.gondolaOf (t : SliceTable) (src dst : Coord) : Option Nat :=
  t.gondolas.findIdx? fun g => g.valid && decide (g.src = src) && decide (g.dst = dst)

/-- A packet that passed its checks goes on from an input port (none for the local port): by R294 towards DST. -/
def State.forward (s : State) (inPort : Option Nat) (p : Packet) : State :=
  let s := s.cameBy inPort
  match s.route s.fabric.table p.dst p.order with
  | none => s.toLocal p
  | some out =>
    if s.fabric.fenced.contains out then s.bump (oFab 0x1028)
    else s.output out { p with vc := vcByte p.cls (s.dlAfter p inPort out) p.order p.gnd }

/-- The device's own packet enters the router at the local port (R291, R294 to R296, R301). -/
def State.inject (s : State) (p : Packet) : State :=
  match s.fabric.table with
  | none => s.bump (oFab 0x1020)
  | some t =>
    let cls := (classOf p.opc).getD 0
    let g := if cls = 0 then t.gondolaOf s.here p.dst else none
    let far := p.pflags.getLsbD 3
    let mayOrder := p.opc = 0x01 || p.opc = 0x02 || p.opc = 0x03 || p.opc = 0x04 || p.opc = 0x05
    let order := t.spread && mayOrder && !p.ord && g.isNone && !far && p.parity
    let q : Packet :=
      { p with
        src := s.here
        sliceId := t.sliceId
        vc := vcByte cls false order g.isSome
        gid := match g with
          | some i => BitVec.ofNat 8 i
          | none => 0xFF
        len := BitVec.ofNat 13 p.payload.length }
    let q := q.restamp
    let s := if cls = 0 then s.wrapBy (oFab 0x1100) 1 else s
    if s.inBox t q.dst then s.forward none q else s.headerFail 7 q

/-- A payload granule that is uncorrectable in an input port's buffer is event 0x21 of store 0x6 (R15, R205; the buffer's index
is the port's number: DESIGN CHOICE, log 143); it sets POISON, and the router writes HCHK anew (R285, R331). -/
def State.poisonMark (s : State) (p : Packet) : State × Packet :=
  if p.badGranules.isEmpty || p.pflags.getLsbD 2 then (s, p)
  else
    let s := p.badGranules.foldl (fun (s : State) g =>
      s.record 0x21 0 (item 1 6 ++ item 1 0 ++ item 2 s.fabric.arriving ++ item 4 (8 * g) ++ [Config.itemCode 0x21 8 g])) s
    (s.bump (oFab 0x1038), { p with pflags := p.pflags ||| 4 }.restamp)

/-- The granules of a payload that are corrected in an input port's buffer: event 0x20 of store 0x6 for each (R15, R205; the
buffer's index: log 143). -/
def State.noteFixed (s : State) (port : Nat) (p : Packet) : State :=
  p.fixedBits.foldl (fun (s : State) g => s.record 0x20 0 (item 1 6 ++ item 1 0 ++ item 2 port ++ item 4 (8 * g.1) ++ item 1 g.2)) s

/-- A packet arrives at an input port, of flits that its lanes delivered (R260, R291): the first check that fails
decides. -/
def execPacketArrival (port : Nat) (p : Packet) (s : State) : Out :=
  if (s.port port).state ≠ .up ∧ (s.port port).state ≠ .retrain then .next s else
  let s := s.noteFixed port p
  let p := { p with fixedBits := [] }
  let s := s.withPort port fun x => { x with rxDelivered := x.rxDelivered.drop p.flits }
  let s := s.wrapBy (oFab (0x2008 + 0x100 * port)) p.flits
  let s := s.withFabric fun f => { f with arriving := port, returned := upd f.returned (32 * port + p.channel) 0 (· + p.flits) }
  if p.badHeader || p.hchk ≠ p.check then .next (s.headerFail port p)
  else if p.cls = 2 then .next (s.routeMgt (some port) p)
  else if s.fabric.fenced.contains port then .next (s.bump (oFab 0x1028))
  else
    match s.fabric.table with
    | none => .next (s.bump (oFab 0x1020))
    | some t =>
      if !s.inSlice port || p.sliceId ≠ t.sliceId then .next (s.bump (oFab 0x1020))
      else if classOf p.opc ≠ some p.cls then .next (s.headerFail port p)
      else if !s.inBox t p.dst then .next (s.headerFail port p)
      else
        let (s, p) := s.poisonMark p
        .next (s.forward (some port) p)

/-- Credits return from the next hop of a port for a channel (R286, R297), and waiting packets go. -/
def execCreditReturn (port vc flits : Nat) (s : State) : Out :=
  let s := s.withFabric fun f => { f with credits := upd f.credits (32 * port + vc) 0 (· - flits) }
  .next (s.pump port (lookD s.fabric.waiting port []).length)

/-- A combine entry closes 256 ns after it opened (R321, R322): what it sends is this device's own. -/
def execCombineEntryClose (port entry : Nat) (s : State) : Out :=
  match (s.combinesOf port)[entry]? with
  | some c => if 25 ≤ s.since c.opened then .next ((s.cameBy none).closeEntry port entry) else .next s
  | none => .next s

/-! ### Responses (R287, R304) -/

/-- A response to a request, with its TAG, CMB and STATUS. -/
def responseTo (p : Packet) (opc : Byte) (status : Nat) (payload : List Byte) : Packet :=
  { opc := opc, pflags := p.pflags &&& 2, dst := p.src, src := 0, sliceId := 0, seq := if opc = 0x83 then p.seq else 0
    tag := p.tag, aux := BitVec.ofNat 16 status, payload := payload }

/-- A response leaves; one with status POISON is counted (R332). -/
def State.respond (s : State) (p : Packet) (opc : Byte) (status : Nat) (payload : List Byte) : State :=
  let s := if status = 4 then s.bump (oFab 0x1038) else s
  s.inject (responseTo p opc status payload)

/-! ### The counts of R313 -/

/-- The writes completed here from a source, and the writes issued here to a destination. -/
def State.doneFrom (s : State) (c : Coord) : Nat := lookD s.fabric.completed c.toNat 0
def State.issuedTo (s : State) (c : Coord) : Nat := lookD s.fabric.issued c.toNat 0

/-- A write of a source has completed (R313). -/
def State.countDone (s : State) (c : Coord) : State :=
  s.withFabric fun f => { f with completed := upd f.completed c.toNat 0 fun n => (n + 1) % 2 ^ 16 }

end Sys2Proof.Machine
end

