-- ==== Sys2Proof/Machine/Z72.lean ====
section
/-!
DEFINITION. The Z72 code (R204 to R206): check bits, the syndrome decode and poisoning.
-/
namespace Sys2Proof.Machine

/-- Column values H_i of the data bits (Table - Z72 column values). -/
def zColumns : List Nat :=
  [0x07, 0x0B, 0x0D, 0x0E, 0x13, 0x15, 0x16, 0x19, 0x1A, 0x1C, 0x23, 0x25, 0x26, 0x29, 0x2A, 0x2C] ++
  [0x31, 0x32, 0x34, 0x38, 0x43, 0x45, 0x46, 0x49, 0x4A, 0x4C, 0x51, 0x52, 0x54, 0x58, 0x61, 0x62] ++
  [0x64, 0x68, 0x70, 0x83, 0x85, 0x86, 0x89, 0x8A, 0x8C, 0x91, 0x92, 0x94, 0x98, 0xA1, 0xA2, 0xA4] ++
  [0xA8, 0xB0, 0xC1, 0xC2, 0xC4, 0xC8, 0xD0, 0xE0, 0x1F, 0x3E, 0x7C, 0xF8, 0xF1, 0xE3, 0xC7, 0x8F]

/-- P: the exclusive-or of H_i over the data bits that are 1, from bit i on (R204). -/
def zPar (cols : List Nat) (d : Nat) : Nat :=
  match cols with
  | [] => 0
  | h :: r => (if d % 2 = 1 then h else 0) ^^^ zPar r (d / 2)

/-- The stored check bits c := P xor 0x0F (R204). -/
def zCheck (d : Nat) : Byte := BitVec.ofNat 8 (zPar zColumns d ^^^ 0x0F)

/-- The check bits of a granule stored as poisoned: P xor 0xF0 (R206). -/
def zPoison (d : Nat) : Byte := BitVec.ofNat 8 (zPar zColumns d ^^^ 0xF0)

/-- What the reader finds (R205): the syndrome with no error, a corrected bit (0 to 63 data, 64 to 71 check), a
poisoned granule or an uncorrectable one. -/
inductive ZRead where
  | clean
  | corrected (bit : Nat)
  | poisoned
  | uncorrectable (syndrome : Nat)
  deriving DecidableEq, Repr

/-- The granule is returned poisoned (R205). -/
def ZRead.bad : ZRead → Bool
  | .poisoned => true
  | .uncorrectable _ => true
  | _ => false

/-- The read of a granule (R205): what the reader finds, and the data it uses. -/
def zDecode (d : Nat) (c : Byte) : ZRead × Nat :=
  let z := c.toNat ^^^ zPar zColumns d ^^^ 0x0F
  if z = 0 then (.clean, d)
  else if z = 0xFF then (.poisoned, d)
  else match (List.range 8).find? (fun j => z = 2 ^ j) with
    | some j => (.corrected (64 + j), d)
    | none => match zColumns.findIdx? (· = z) with
      | some i => (.corrected i, d ^^^ 2 ^ i)
      | none => (.uncorrectable z, d)

end Sys2Proof.Machine
end

