-- ==== Sys2Proof/Machine/Cellmem.lean ====
section
/-!
DEFINITION. Memory as cells in canonical form, and its reads and writes by granules under Z72 (R204 to R206, R215). An
unlisted byte of data or of check bits reads as 0x00 (log 4).
-/
namespace Sys2Proof.Machine

/-- Cells in canonical form: addresses strictly rising, no cell that holds 0x00. -/
def cellsOk (lo : Nat) : List Host.Cell → Bool
  | [] => true
  | (a, v) :: r => decide (lo ≤ a) && v != 0 && cellsOk (a + 1) r

/-- The memory's canonical form. -/
def Memory.wf (m : Memory) : Bool := cellsOk 0 m.data && cellsOk 0 m.check

/-- The bytes from an address on, from cells that begin there or above. -/
def expand : Nat → Nat → List Host.Cell → List Byte
  | _, 0, _ => []
  | a, n + 1, [] => 0 :: expand (a + 1) n []
  | a, n + 1, (k, v) :: r => if k = a then v :: expand (a + 1) n r else 0 :: expand (a + 1) n ((k, v) :: r)

/-- The cells at an address or above. -/
def cellsFrom (a : Nat) (l : List Host.Cell) : List Host.Cell := l.filter fun c => decide (a ≤ c.1)

/-- The bytes at an address. -/
def cellsAt (l : List Host.Cell) (a n : Nat) : List Byte := expand a n (cellsFrom a l)

/-- The cells that bytes at an address make: none for a byte 0x00. -/
def cellsOf : Nat → List Byte → List Host.Cell
  | _, [] => []
  | a, b :: r => if b = 0 then cellsOf (a + 1) r else (a, b) :: cellsOf (a + 1) r

/-- The cells below an address. -/
def cellsBelow (a : Nat) (l : List Host.Cell) : List Host.Cell := l.filter fun c => decide (c.1 < a)

/-- The cells with the bytes at an address set. -/
def cellsSet (l : List Host.Cell) (a : Nat) (b : List Byte) : List Host.Cell :=
  cellsBelow a l ++ cellsOf a b ++ cellsFrom (a + b.length) l

/-- One byte of data as stored. -/
def Memory.byte (m : Memory) (a : Nat) : Byte := (cellsAt m.data a 1).headD 0

/-- Data bytes as stored, without the code. -/
def Memory.raw (m : Memory) (a n : Nat) : List Byte := cellsAt m.data a n

/-- Data and check bits of whole granules set as given: granule g on. -/
def Memory.setGranules (m : Memory) (g : Nat) (data checks : List Byte) : Memory :=
  { data := cellsSet m.data (8 * g) data, check := cellsSet m.check g checks }

/-- The data word of a granule. -/
def granWord (l : List Byte) (i : Nat) : Nat := leNat (sub l (8 * i) 8)

/-- The read of n granules from granule g on (R205): what each read finds, and the bytes it uses. -/
def Memory.readGranules (m : Memory) (g n : Nat) : List ZRead × List Byte :=
  let d := cellsAt m.data (8 * g) (8 * n)
  let c := cellsAt m.check g n
  let l := (List.range n).map fun i => zDecode (granWord d i) (c.getD i 0)
  (l.map (·.1), l.flatMap fun p => natLe 8 p.2)

/-- The granules that len bytes at an address touch: the first and how many. -/
def granSpan (a len : Nat) : Nat × Nat := (a / 8, (a + len + 7) / 8 - a / 8)

/-- The read of bytes at an address (R205): what each granule's read finds, in order, and the bytes. -/
def Memory.read (m : Memory) (a len : Nat) : List ZRead × List Byte :=
  let (g, n) := granSpan a len
  let (z, b) := m.readGranules g n
  (z, sub b (a % 8) len)

/-- The check bits that a write stores for a granule (R204, R206, R215): those of its data, but poisoned where the write
covers only part of a granule whose read was uncorrectable. -/
def checkFor (z : ZRead) (whole : Bool) (d : Nat) : Byte := if !whole && z.bad then zPoison d else zCheck d

/-- A granule lies wholly in the bytes written. -/
def wholeIn (a len g : Nat) : Bool := decide (a ≤ 8 * g) && decide (8 * g + 8 ≤ a + len)

/-- A write of bytes at an address (R204, R215): partly covered granules are read, corrected, merged and re-encoded; one
that is uncorrectable is written back poisoned. `bad` lists bytes' granules, counted from the first, that arrive
poisoned and are stored so (R206). The reads of the partly covered granules are returned. -/
def Memory.write (m : Memory) (a : Nat) (b : List Byte) (bad : List Nat) : Memory × List (Nat × ZRead) :=
  let (g, n) := granSpan a b.length
  let (zs, old) := m.readGranules g n
  let new := splice old (a % 8) b
  let checks := (List.range n).map fun i =>
    let d := granWord new i
    if bad.contains i then zPoison d else checkFor (zs.getD i .clean) (wholeIn a b.length (g + i)) d
  let partials := (List.range n).filter fun i => !wholeIn a b.length (g + i)
  if b.isEmpty then (m, [])
  else (m.setGranules g new checks, partials.map fun i => (g + i, zs.getD i .clean))

/-- The granules of an address range that hold anything, ascending, with what the read of each finds; one that holds nothing is
clean. -/
def Memory.listed (m : Memory) (a b : Nat) : List (Nat × ZRead) :=
  let gs := ((m.data.filter fun (c : Host.Cell) => decide (a ≤ c.1) && decide (c.1 < b)).map (fun (c : Host.Cell) => c.1 / 8) ++
    (m.check.filter fun (c : Host.Cell) => decide (a / 8 ≤ c.1) && decide (c.1 < b / 8)).map (fun (c : Host.Cell) => c.1)).eraseDups
  (sortBy gs fun x y => decide (x ≤ y)).map fun g => (g, ((m.readGranules g 1).1).headD .clean)

/-- Memory with granules written from what their reads gave: corrected, and poisoned where uncorrectable (R170, R206, R233). -/
def Memory.restored (m : Memory) (gs : List Nat) : Memory :=
  gs.foldl (fun (m : Memory) g =>
    let rd := m.readGranules g 1
    let d := leNat rd.2
    match rd.1.headD .clean with
    | .corrected _ => m.setGranules g rd.2 [zCheck d]
    | .uncorrectable _ => m.setGranules g rd.2 [zPoison d]
    | _ => m) m

/-- Cells of an address range removed. -/
def cellsErase (l : List Host.Cell) (a b : Nat) : List Host.Cell := l.filter fun c => !(decide (a ≤ c.1) && decide (c.1 < b))

/-- Memory with a range of bytes as if never written. -/
def Memory.erase (m : Memory) (a b : Nat) : Memory :=
  { data := cellsErase m.data a b, check := cellsErase m.check (a / 8) (b / 8) }

end Sys2Proof.Machine
end

