-- ==== Sys2Proof/Machine/Operands.lean ====
section
/-!
DEFINITION. What a local address names (R202, R208, R209, R221), and reads and writes of memory with the events they
raise (R203, R205, R215, R216, R120, R232).
-/
namespace Sys2Proof.Machine

/-! ### The local address map -/

/-- The stacks in service for addresses (R208, R210): the job's service list while one is bound. -/
def State.serviceList (s : State) : List Nat :=
  match s.job with
  | some j => if s.dev.bound then j.serviceList else s.stacksIn
  | none => s.stacksIn

/-- Where a stack address lies (R208, R209): stack, pseudo-channel, bank, row and row byte. -/
structure StackLoc where
  stack : Nat
  pc : Nat
  bank : Nat
  row : Nat
  byte : Nat
  deriving DecidableEq, Repr

/-- The stack and the unit within it of a stack address, over a service list (R208). -/
def interleave (svc : List Nat) (a : Nat) : Nat × Nat :=
  let n := max 1 svc.length
  let u := a / 256
  let q := u / n
  let r := u % n
  let slot := (r + q % n + (q / 256) % n) % n
  (svc.getD slot 0, q)

/-- The stack's own address of a unit (R209). -/
def unitLoc (stack q lowByte : Nat) : StackLoc :=
  let t := q / 64
  { stack := stack
    pc := bits q 5 0 ^^^ bits q 11 6 ^^^ bits q 17 12
    bank := bits t 5 2 ^^^ bits t 9 6
    row := bits t 22 6
    byte := 256 * (t % 4) + lowByte }

/-- A place that an address names (R202): a stack, a Lodge slice's scratchpad, a cluster buffer or a logical cell's
scratchpad, with the byte offset in the last three. -/
inductive Place where
  | stack (l : StackLoc)
  | lodge (slice off : Nat)
  | buffer (cluster off : Nat)
  | scratch (cell off : Nat)
  deriving DecidableEq, Repr

def stackUnit : Nat := 2 ^ 37
def lodgeBase : Nat := 0x020000000000
def bufferBase : Nat := 0x021000000000
def scratchBase : Nat := 0x022000000000
def windowBase : Nat := 0x030000000000

/-- An address lies in the management window (R202). -/
def inWindow (a : Nat) : Bool := decide (windowBase ≤ a) && decide (a < windowBase + 2 ^ 24)

/-- The place of an address, none where it is unmapped or in the management window (R202, R226). -/
def State.place (s : State) (a : Nat) : Option Place :=
  if a / stackUnit < s.serviceList.length then
    let (st, q) := interleave s.serviceList a
    some (.stack (unitLoc st q (a % 256)))
  else if lodgeBase ≤ a ∧ a < lodgeBase + 2 ^ 30 then
    let i := (a - lodgeBase) / 2 ^ 24
    let off := (a - lodgeBase) % 2 ^ 24
    if off / 2 ^ 20 < s.stores.lodgeSp ∧ s.stores.lodgeOos.getLsbD i = false then some (.lodge i off) else none
  else if bufferBase ≤ a ∧ a < bufferBase + 2 ^ 30 then
    some (.buffer ((a - bufferBase) / 2 ^ 23) ((a - bufferBase) % 2 ^ 23))
  else if scratchBase ≤ a ∧ a < scratchBase + 2 ^ 32 then
    some (.scratch ((a - scratchBase) / 2 ^ 21) ((a - scratchBase) % 2 ^ 21))
  else none

/-- The physical cell that a logical cell is bound to (R17). -/
def State.physical (s : State) (l : Nat) : Nat := pIndex (l / 16) ((s.cluster (l / 16)).slots.getD (l % 16) 0)

/-- The store code (Table - Memory scorecard events). -/
def Place.store : Place → Nat
  | .scratch _ _ => 0
  | .buffer _ _ => 1
  | .lodge _ _ => 2
  | .stack _ => 3

/-- The die of a place (R14). -/
def Place.die : Place → Nat
  | .stack l => dieStack l.stack
  | .lodge _ _ => 0
  | .buffer c _ => dieCompute (c / 8)
  | .scratch c _ => dieCompute (c / 128)

/-- The physical location of a payload (R458). -/
def State.locBytes (s : State) (p : Place) : List Byte :=
  match p with
  | .stack l => item 1 p.die ++ item 2 l.pc ++ item 2 l.bank ++ item 4 l.row ++ item 2 l.byte
  | .lodge i off => item 1 0 ++ item 2 i ++ item 4 off
  | .buffer c off => item 1 p.die ++ item 2 c ++ item 4 off
  | .scratch c off => item 1 p.die ++ item 2 (s.physical c) ++ item 4 off

/-! ### Suspect rows (R232) -/

/-- A row joins the queue of row tests, unless it waits there already. -/
def Stack.queueTest (k : Stack) (r : Nat × Nat × Nat) : Stack :=
  if k.testQueue.contains r then k else { k with testQueue := k.testQueue ++ [r] }

/-- A suspect row entered in a table of 256, the entry with the oldest last event leaving when it is full (R232). -/
def addSuspect (l : List SuspectRow) (e : SuspectRow) : List SuspectRow :=
  if l.length < 256 then l ++ [e] else
  match l with
  | [] => [e]
  | x :: r =>
    let old := r.foldl (fun (m : SuspectRow) y => if y.last < m.last then y else m) x
    l.erase old ++ [e]

/-- An event of an entry counts: at most one in a millisecond, and at most one in a scrub pass (R232). -/
def SuspectRow.counts (e : SuspectRow) (pt : Word) (pass : Option Nat) : Bool :=
  decide (ticksMs 1 ≤ pt.toNat - e.last.toNat) && !(pass.isSome && e.pass = pass)

/-- An entry with one more event, and only those of the last 24 hours (R232). -/
def SuspectRow.add (e : SuspectRow) (pt : Word) (pass : Option Nat) : SuspectRow :=
  { e with events := (e.events.filter fun x => decide (pt.toNat - x.toNat ≤ ticksH 24)) ++ [pt], last := pt
           pass := if pass.isSome then pass else e.pass }

/-- A corrected event on a row (R232), of a scrub pass or of another read: the row is tested at 3 within 24 hours. -/
def Stack.corrected (k : Stack) (pc bank row : Nat) (pt : Word) (pass : Option Nat) : Stack :=
  match k.suspects.find? fun e => e.pc = pc && e.bank = bank && e.row = row with
  | none => { k with suspects := addSuspect k.suspects { pc := pc, bank := bank, row := row, events := [pt], last := pt, pass := pass } }
  | some e =>
    if e.counts pt pass then
      let e' := e.add pt pass
      let k := { k with suspects := k.suspects.map fun x => if x = e then e' else x }
      if 3 ≤ e'.events.length then k.queueTest (pc, bank, row) else k
    else k

/-! ### Events of reads -/

/-- A corrected event at a scratchpad line makes the cell a cell of concern at the third within 24 hours (R366). -/
def State.lineCorrected (s : State) (cell off : Nat) : State :=
  let p := s.physical cell
  let line := off / 64
  let ev := ((s.pcell p).lineEvents.filter fun e => s.pt.toNat - e.2.toNat ≤ ticksH 24) ++ [(line, s.pt)]
  let s := s.withPCell p fun c => { c with lineEvents := ev }
  if 3 ≤ (ev.filter fun e => e.1 = line).length ∧ (s.pcell p).concern = false then
    (s.withPCell p fun c => { c with concern := true }).record 0x16 (dieCompute (cell / 128))
      (item 2 p ++ [Config.itemCode 0x16 1 2])
  else s

/-- A line waits to be written back (R120, R216, R227). -/
def addLine (l : List Nat) (line : Nat) : List Nat := if l.contains line then l else l ++ [line]

/-- The event of one granule's read at an address (R120, R205, R216, R227, R232, R363): the granule's first byte is at `a`.
`pass` is the scrub pass of a scrub read. -/
def State.granEvent (s : State) (pass : Option Nat) (a : Nat) (p : Place) (z : ZRead) : State :=
  match z with
  | .corrected b =>
    let s := s.record 0x20 p.die (item 1 p.store ++ s.locBytes p ++ item 1 b)
    match p with
    | .stack l =>
      let s := s.bump (oMem l.stack 0x100)
      let s := s.withStack l.stack fun k => k.corrected l.pc l.bank l.row s.pt pass
      s.withStores fun c => { c with stackFix := addLine c.stackFix (a / 64) }
    | .lodge _ _ => (s.bump 0x08F100).withStores fun c => { c with padFix := addLine c.padFix (a / 64) }
    | .buffer _ _ => s.withStores fun c => { c with padFix := addLine c.padFix (a / 64) }
    | .scratch c off =>
      let s := s.withStores fun c => { c with padFix := addLine c.padFix (a / 64) }
      s.lineCorrected c off
  | .uncorrectable z =>
    let s := s.record 0x21 p.die (item 1 p.store ++ s.locBytes p ++ item 1 z)
    match p with
    | .stack l =>
      let s := s.bump (oMem l.stack 0x108)
      s.withStack l.stack fun k =>
        { k.queueTest (l.pc, l.bank, l.row) with
          ueLoc := BitVec.ofNat 64 (l.pc * 2 ^ 58 + l.bank * 2 ^ 54 + l.row * 2 ^ 37 + l.byte * 2 ^ 27 + z) }
    | .lodge _ _ => (s.bump 0x08F108).addPoints 2 0x21
    | _ => s.addPoints 2 0x21
  | _ => s

/-- The events of a list of granules' reads, by granule number. -/
def State.granEvents (s : State) (pass : Option Nat) (zs : List (Nat × ZRead)) : State :=
  zs.foldl (fun s z => match s.place (8 * z.1) with
    | some p => s.granEvent pass (8 * z.1) p z.2
    | none => s) s

/-- An access to an unmapped address (R203): event 0x22 with the requester (die and unit) and the address. -/
def State.addressError (s : State) (die unit a : Nat) : State := s.record 0x22 die (item 1 die ++ item 2 unit ++ item 8 a)

/-- An access of the data plane to an address with no place: in the management window it is an access error (R24), elsewhere
an address error (R203). -/
def State.badAccess (s : State) (die unit a : Nat) : State :=
  if inWindow a then s.bump oAccessErr else s.addressError die unit a

/-- A stack that has failed in running returns poisoned data (R236). -/
def State.dead (s : State) (p : Place) : Bool :=
  match p with
  | .stack l => (s.stack l.stack).state = 5
  | _ => false

/-- What a read of memory gives: the bytes, and the granules of the span, counted from its first, that are poisoned. -/
structure MemRead where
  bytes : List Byte
  bad : List Nat
  deriving DecidableEq, Repr

/-- The bytes of stack traffic, counted (R236's table of counters). -/
def State.countBytes (s : State) (p : Place) (off n : Nat) : State :=
  match p with
  | .stack l => s.wrapBy (oMem l.stack off) n
  | _ => s

/-- A narrow access (R211): at most 64 bytes, within one 64-byte line. -/
def narrow (a len : Nat) : Bool := decide (len ≤ 64) && decide (a / 64 = (a + len - 1) / 64)

/-- A narrow access of a stack is counted (Table - Counters of stack m), a partial write as two accesses (R215). -/
def State.countNarrow (s : State) (p : Place) (a len n : Nat) : State :=
  if narrow a len then s.countBytes p 0x210 n else s

/-- The granules that a read looks at: a scratchpad's bank reads whole lines of 64 bytes (R116, R120). -/
def State.readSpan (s : State) (a len : Nat) : Nat × Nat :=
  match s.place a with
  | some (.scratch _ _) => (8 * (a / 64), 8 * ((a + len + 63) / 64 - a / 64))
  | _ => granSpan a len

/-- The granules of a read with what the read of each finds (R205). -/
def State.granReads (s : State) (a len : Nat) : List (Nat × ZRead) :=
  let g := s.readSpan a len
  let zs := (s.stores.mem.readGranules g.1 g.2).1
  (List.range g.2).map fun i => (g.1 + i, zs.getD i .clean)

/-- A granule is unmapped or lies on a failed stack (R203, R236). -/
def State.deadGran (s : State) (g : Nat) : Bool :=
  match s.place (8 * g) with
  | some p => s.dead p
  | none => !inWindow (8 * g)

/-- What a read records: an address or access error, corrections and uncorrectable granules, and the bytes of a stack (R24,
R203, R205, R216). -/
def State.noteRead (s : State) (die unit a len : Nat) (pass : Option Nat) (gs : List (Nat × ZRead)) : State :=
  let t := match gs.find? fun z => (s.place (8 * z.1)).isNone with
    | some z => s.badAccess die unit (if s.place a = none then a else 8 * z.1)
    | none => s
  let t := t.granEvents pass (gs.filter fun z => (s.place (8 * z.1)).any fun p => !s.dead p)
  match s.place a with
  | some p => t.countBytes p 0x200 len
  | none => t

/-- A granule is returned poisoned (R120, R203, R205, R236): it reads so, it has no place or its stack has failed, or, in a
scratchpad, a granule of its line does. -/
def State.granBad (s : State) (gs : List (Nat × ZRead)) (g : Nat) : Bool :=
  gs.any fun z => (s.deadGran z.1 || z.2.bad) && (z.1 = g || z.1 / 8 = g / 8 && match s.place (8 * g) with
    | some (.scratch _ _) => true
    | _ => false)

/-- A read of memory where it lies (R24, R203, R205, R216): corrections and uncorrectable granules are recorded, and each
granule that R120, R203, R205 or R236 names is returned poisoned; the management window reads as zero. -/
def State.readStore (s : State) (die unit a len : Nat) : State × MemRead :=
  let gs := s.granReads a len
  let b := (s.stores.mem.read a len).2
  let g := granSpan a len
  (s.noteRead die unit a len none gs,
    { bytes := if inWindow a then List.replicate len 0 else b
      bad := (List.range g.2).filter fun i => s.granBad gs (g.1 + i) })

/-- The bank of a scratchpad, of 16 with 128 KiB each, that holds a byte at an offset (R116). -/
def scratchBank (a : Nat) : Nat := bits a 9 6 ^^^ bits a 13 10

/-! ### The Lodge's cache portion (R221, R222) -/

/-- The home slice of a stack address (R221). -/
def State.homeSlice (s : State) (a : Nat) : Nat :=
  let u := a / 256
  let h := (List.range 6).foldl (fun h i => h ^^^ (u / 2 ^ (6 * i) % 64)) 0
  if s.stores.lodgeOos.getLsbD h then
    let live := (List.range 64).filter fun j => !s.stores.lodgeOos.getLsbD j
    match live with
    | [] => h
    | x :: r => r.foldl (fun m j => if h ^^^ j < h ^^^ m then j else m) x
  else h

/-- The lines of a slice's cache. -/
def State.cacheOf (s : State) (slice : Nat) : List CacheLine := lookD s.stores.cache slice []

/-- The cache lines of a slice, as changed. -/
def State.withCache (s : State) (slice : Nat) (f : List CacheLine → List CacheLine) : State :=
  s.withStores fun c => { c with cache := upd c.cache slice [] f }

/-- The units that bytes at an address touch. -/
def unitsAt (a len : Nat) : List Nat := (List.range ((a + len + 255) / 256 - a / 256)).map (a / 256 + ·)

/-- Outstanding fills of units are marked, so that they are not installed (R224). -/
def State.markFills (s : State) (units : List Nat) : State :=
  s.withStores fun c => { c with fills := c.fills.map fun f => if units.contains f.unit then { f with marked := true } else f }

/-- The sets of a slice's cache portion: 16 ways of 256 bytes. -/
def State.cacheSets (s : State) : Nat := (16 - s.stores.lodgeSp) * 256

/-- The set of a unit (log 26). -/
def State.cacheSet (s : State) (u : Nat) : Nat := u % max 1 s.cacheSets

/-- A unit is installed as the most recently used of its set, whose least recently used line leaves (R221). -/
def State.install (s : State) (c : CacheLine) : State :=
  let slice := s.homeSlice (256 * c.unit)
  s.withCache slice fun l =>
    let rest := l.filter (·.unit != c.unit)
    let same := rest.filter fun x => s.cacheSet x.unit = s.cacheSet c.unit
    let drop := (same.drop 15).map (·.unit)
    c :: rest.filter fun x => !drop.contains x.unit

/-- What the granules of a cache line read as, and its corrected bytes. -/
def CacheLine.read (c : CacheLine) : List ZRead × List Byte :=
  let l := (List.range 32).map fun i => zDecode (granWord c.bytes i) (c.checks.getD i 0)
  (l.map (·.1), l.flatMap fun p => natLe 8 p.2)

/-- Bytes written into a cache line (R206, R215): a granule covered in part is corrected and merged, and one that is
uncorrectable is written back poisoned; `bad` lists granules of the bytes that arrive poisoned. The answer has what the
reads of the partly covered granules find. -/
def CacheLine.write (c : CacheLine) (off : Nat) (b : List Byte) (bad : List Nat) : CacheLine × List ZRead :=
  let r := c.read
  let g := granSpan off b.length
  let bytes := splice r.2 off b
  let inside (i : Nat) : Bool := decide (g.1 ≤ i) && decide (i < g.1 + g.2)
  let check (i : Nat) : Byte :=
    if !inside i then c.checks.getD i 0
    else if bad.contains (i - g.1) then zPoison (granWord bytes i)
    else checkFor (r.1.getD i .clean) (wholeIn off b.length i) (granWord bytes i)
  let keep (i : Nat) : List Byte := if inside i then sub bytes (8 * i) 8 else sub c.bytes (8 * i) 8
  ({ c with bytes := (List.range 32).flatMap keep, checks := (List.range 32).map check },
    ((List.range 32).filter fun i => inside i && !wholeIn off b.length i).map fun i => r.1.getD i .clean)

/-- The corrected granules of a cache line that an access reads (R205): event 0x20 and MEM_LODGE_CE for each. -/
def State.cacheEvents (s : State) (slice u : Nat) (zs : List ZRead) : State :=
  zs.foldl (fun s z => match z with
    | .corrected b =>
      (s.bump 0x08F100).record 0x20 0 (item 1 2 ++ item 1 0 ++ item 2 slice ++ item 4 (Config.cacheByte u) ++ item 1 b)
    | _ => s) s

/-- A line found uncorrectable leaves the cache: event 0x26 (R225). -/
def State.refetch (s : State) (slice u : Nat) : State :=
  let s := s.withCache slice fun l => l.filter (·.unit != u)
  (s.bump 0x08F110).record 0x26 0 (item 1 slice ++ item 8 u)

/-- A write updates any cached copy of its bytes (R215, R222), and marks an outstanding fill, which has not these bytes, so
that it is not installed (R214, R224). -/
def State.cacheWrite (s : State) (a : Nat) (b : List Byte) (bad : List Nat) : State :=
  let units := unitsAt a b.length
  let s := if s.stores.cache.all (fun p => p.2.isEmpty) then s else
    units.foldl (fun s u =>
      let slice := s.homeSlice (256 * u)
      match (s.cacheOf slice).find? (·.unit = u) with
      | none => s
      | some c =>
        let lo := max a (256 * u)
        let hi := min (a + b.length) (256 * u + 256)
        let skip := lo / 8 - a / 8
        let w := c.write (lo - 256 * u) (sub b (lo - a) (hi - lo)) ((bad.filter fun g => decide (skip ≤ g)).map (· - skip))
        (s.withCache slice fun l => l.map fun x => if x.unit = u then w.1 else x).cacheEvents slice u w.2) s
  s.markFills units

/-- An update-engine write, or an atomic, invalidates the cached lines, and marks outstanding fills so that they are not
installed (R222 to R224). -/
def State.cacheDrop (s : State) (a len : Nat) : State :=
  let units := unitsAt a len
  let s := if s.stores.cache.all (fun p => p.2.isEmpty) then s else
    units.foldl (fun s u => s.withCache (s.homeSlice (256 * u)) fun l => l.filter (·.unit != u)) s
  s.markFills units

/-- A unit that its home slice does not hold is fetched from its controller and installed (R222, R225). -/
def State.fetchUnit (s : State) (die unit u : Nat) : State × MemRead :=
  let rd := (s.wrapBy 0x08F208 1).readStore die unit (256 * u) 256
  let check (i : Nat) : Byte :=
    if rd.2.bad.contains i then zPoison (granWord rd.2.bytes i) else zCheck (granWord rd.2.bytes i)
  (rd.1.install { unit := u, bytes := rd.2.bytes, checks := (List.range 32).map check }, rd.2)

/-- The bytes of a unit that lie at an address, with their poisoned granules. -/
def MemRead.part (m : MemRead) (off len : Nat) : MemRead :=
  let g := granSpan off len
  { bytes := sub m.bytes off len, bad := (m.bad.filter fun i => decide (g.1 ≤ i) && decide (i < g.1 + g.2)).map (· - g.1) }

/-- A read of bytes of one unit through its home slice (R222, R225). -/
def State.readUnit (s : State) (die unit a len : Nat) : State × MemRead :=
  let u := a / 256
  let slice := s.homeSlice a
  let g := granSpan (a % 256) len
  match (s.cacheOf slice).find? (·.unit = u) with
  | some c =>
    let rd := c.read
    let zs := (rd.1.drop g.1).take g.2
    if zs.any (·.bad) then
      let f := (s.refetch slice u).fetchUnit die unit u
      (f.1, f.2.part (a % 256) len)
    else
      let fixed : CacheLine :=
        if zs.all (· == .clean) then c else (c.write (8 * g.1) (sub rd.2 (8 * g.1) (8 * g.2)) []).1
      (((s.wrapBy 0x08F200 1).install fixed).cacheEvents slice u zs, { bytes := sub rd.2 (a % 256) len, bad := [] })
  | none =>
    let f := s.fetchUnit die unit u
    (f.1, f.2.part (a % 256) len)

/-- A stack access passes through its home slice: the Lodge has a cache portion (R222). -/
def State.lodgeCaches (s : State) (a : Nat) : Bool :=
  decide (s.stores.lodgeSp < 16) && match s.place a with
    | some (.stack _) => true
    | _ => false

/-- The parts of a span by unit of 256 bytes: address and length. -/
def spanUnits (a len : Nat) : List (Nat × Nat) :=
  (unitsAt a len).map fun u => (max a (256 * u), min (a + len) (256 * u + 256) - max a (256 * u))

/-- A read where it lies by an engine: narrow accesses of a stack are counted. -/
def State.readHere (s : State) (die unit a len : Nat) : State × MemRead :=
  let rd := s.readStore die unit a len
  (match s.place a with
    | some p => rd.1.countNarrow p a len 1
    | none => rd.1, rd.2)

/-- A read of memory by an engine (R203, R205, R216, R222): through the home slices of a stack's units where the Lodge has a
cache portion, else where it lies. -/
def State.readMem (s : State) (die unit a len : Nat) : State × MemRead :=
  if s.lodgeCaches a then
    (spanUnits a len).foldl (fun (p : State × MemRead) q =>
      let rd := p.1.readUnit die unit q.1 q.2
      (rd.1, { bytes := p.2.bytes ++ rd.2.bytes, bad := p.2.bad ++ rd.2.bad.map (· + (q.1 / 8 - a / 8)) })) (s, { bytes := [], bad := [] })
  else s.readHere die unit a len

/-- Bytes take their place in memory, and in any cached copy (R214, R222). A correction that waits for a line of theirs is
cancelled (R120, R216). -/
def State.storeBytes (s : State) (a : Nat) (b : List Byte) (bad : List Nat) : State :=
  let lines := (List.range ((a + b.length + 63) / 64 - a / 64)).map (a / 64 + ·)
  (s.withStores fun c =>
    { c with mem := (c.mem.write a b bad).1, stackFix := c.stackFix.filter (!lines.contains ·)
             padFix := c.padFix.filter (!lines.contains ·) }).cacheWrite a b bad

/-- What a write records: the reads of partly covered granules, and the traffic of a stack (R215). -/
def State.noteWrite (s : State) (p : Place) (a len : Nat) (zs : List (Nat × ZRead)) : State :=
  let s := (s.granEvents none (zs.filter fun z => !z.2.bad)).granEvents none (zs.filter fun z => z.2.bad)
  let s := if zs.isEmpty then s else s.countBytes p 0x218 1
  (s.countBytes p 0x208 len).countNarrow p a len (if zs.isEmpty then 1 else 2)

/-- A write of bytes that lie in one place (R203, R206, R215). -/
def State.writePart (s : State) (die unit a : Nat) (b : List Byte) (bad : List Nat) : State :=
  match s.place a with
  | none => s.badAccess die unit a
  | some p => (s.noteWrite p a b.length (s.stores.mem.write a b bad).2).storeBytes a b bad

/-- The bytes of a write up to where a region of the map may end: each begins and ends at a multiple of 1 MiB (R202). -/
def regionCut (a len : Nat) : Nat := min len (2 ^ 20 - a % 2 ^ 20)

/-- A write of memory (R203, R206, R215): bytes at unmapped addresses are not written, and an address error is recorded.
`bad` lists the granules of the data that arrive poisoned. -/
def State.writeMem (s : State) (die unit a : Nat) (b : List Byte) (bad : List Nat) : State :=
  let k := regionCut a b.length
  if k = b.length then s.writePart die unit a b bad
  else
    let skip := (a + k) / 8 - a / 8
    let s := s.writePart die unit a (b.take k) (bad.filter fun g => decide (g < skip))
    s.writePart die unit (a + k) (b.drop k) ((bad.filter fun g => decide (skip ≤ g)).map (· - skip))

/-- Bytes written as they are, with their check bits, by the device's own set-up of memory (R50, R381). -/
def State.fillMem (s : State) (a : Nat) (b : List Byte) : State :=
  s.withStores fun c => { c with mem := (c.mem.write a b []).1 }

end Sys2Proof.Machine
end

