-- ==== Sys2Proof/Machine/Stations.lean ====
section
/-!
DEFINITION. The station machinery that every Course command uses (R49, R57 to R66, R72): descriptors and addresses, when
a command may issue, cursors, completion and signals, frames read and written, and the end of the Course.
-/
namespace Sys2Proof.Machine

/-! ### The Course as placed -/

/-- The Course of the job. -/
def State.course (s : State) : Course := (s.job.map (·.course)).getD {}

/-- The job seed. -/
def State.seed (s : State) : Nat := (s.job.map (·.seed.toNat)).getD 0

/-- A station's descriptor, a stream's and an object's. -/
def State.desc (s : State) (st : Nat) : Option StationDesc := s.course.stations.find? (·.id = st)
def State.streamOf (s : State) (id : Nat) : Option StreamDesc := s.course.streams.find? (·.id = id)
def State.objectOf (s : State) (id : Nat) : Option ObjectDesc := s.course.objects.find? (·.id = id)

/-- The die of a station: that of its cell, or the Piste (R14). -/
def State.dieOf (s : State) (st : Nat) : Nat :=
  match s.cellOf st with
  | some c => dieCompute (c / 128)
  | none => 0

/-- The unit that a station's requests name (R458): its physical cell, or 0. -/
def State.unitOf (s : State) (st : Nat) : Nat :=
  match s.cellOf st with
  | some c => s.physical c
  | none => 0

/-- The address of the slot of a stream that holds sequence number n (R49). -/
def State.slotAddr (s : State) (id n : Nat) : Nat :=
  let d := match s.streamOf id with
    | some x => max 1 x.depth
    | none => 1
  (lookD s.placed.streams id {}).base + frameBytes * (n % d)

/-- The address of a frame of an object (R158, R159): interleaved over the slices of its group at level 2. -/
def State.frameAddr (s : State) (id f : Nat) : Nat :=
  let p := lookD s.placed.objects id {}
  let n := max 1 p.span
  if p.level = 2 then p.base + (f % n) * 2 ^ 24 + frameBytes * (f / n) else p.base + frameBytes * f

/-! ### Cursors (R49) -/

/-- The advances of a port that outstanding commands still hold. -/
def pendingAdv (l : List Outst) (out : Bool) (port : Nat) : Nat :=
  l.foldl (fun n o => o.adv.foldl (fun n a => if a.out = out && a.port = port then n + a.count else n) n) 0

/-- The position at which a command that issues now uses an input or output port. -/
def StationRt.inPos (r : StationRt) (port : Nat) : Nat := lookD r.inCur port 0 + pendingAdv r.outstanding false port
def StationRt.outPos (r : StationRt) (port : Nat) : Nat := lookD r.outCur port 0 + pendingAdv r.outstanding true port

/-- A cursor advanced. -/
def StationRt.advance (r : StationRt) (a : Advance) : StationRt :=
  if a.out then { r with outCur := Machine.upd r.outCur a.port 0 (· + a.count) }
  else { r with inCur := Machine.upd r.inCur a.port 0 (· + a.count) }

/-- The advances of a command that names input and output ports; none without ADV. A port named twice advances once. -/
def advances (cf : Common) (ins outs : List Nat) (count : Nat) : List Advance :=
  if cf.adv then
    ins.eraseDups.map (fun p => { out := false, port := p, count := count }) ++
    outs.eraseDups.map (fun p => { out := true, port := p, count := count })
  else []

/-- The signal of a command (R72). -/
def signalOf (cf : Common) : Option Nat := if cf.se then some cf.sSlot else none

/-! ### Completion and signals (R63, R65, R73, R449) -/

/-- A signal through the signal table leaves for its target (R44, R65); an unused entry signals nothing. -/
def State.emit (s : State) (st slot count : Nat) : State :=
  match s.desc st with
  | some d => match d.signals.getD slot none with
    | some t => s.withCells fun c => { c with signals := c.signals ++ [{ station := t.station, sem := t.sem, count := count }] }
    | none => s
  | none => s

/-- A station has halted (R73). -/
def StationRt.finished (r : StationRt) : Bool := r.halted && r.outstanding.isEmpty

/-- The operations in flight of a station. -/
def State.flightsOf (s : State) (st : Nat) : List FlightOp := s.fabric.flights.filter (·.station = st)

/-- The Course ends when every station has halted, with every signal applied (R73, R449): COURSE_DONE is sent and the
device drains itself with DR_JOBEND. -/
def State.checkDone (s : State) : State :=
  match s.job with
  | some j =>
    if j.phase = .started ∧ s.dev.bound = true ∧ s.cells.stations.all (fun p => p.2.finished) = true ∧
        s.cells.signals.isEmpty = true ∧ s.cells.semFiles.all (fun p => p.2.queue.isEmpty) = true then
      let s := s.withJob fun j => { j with phase := .done }
      (s.report 0x48 (item 8 j.jobId.toNat ++ item 4 j.haltedStep.toNat) true).orderDrain drJobend
    else s
  | none => s

/-- The completed commands at the head of a station's list, whose signals R65 lets go, and the rest. -/
def retired : List Outst → List Outst × List Outst
  | [] => ([], [])
  | o :: r => if o.done then let (a, b) := retired r; (o :: a, b) else ([], o :: r)

/-- Completed commands leave a station's list in order, and their signals go (R65). A stopped station signals nothing
(R82). The last station to halt leaves its STEP for COURSE_DONE. -/
def State.settle (s : State) (st : Nat) : State :=
  let r := s.st st
  let (gone, rest) := retired r.outstanding
  let s := s.withSt st fun r => { r with outstanding := rest }
  let s := if r.stopped then s else
    gone.foldl (fun s o => match o.signal with
      | some k => s.emit st k o.count
      | none => s) s
  let s := if r.halted && rest.isEmpty then s.withJob fun j => { j with haltedStep := r.stepNo } else s
  s.checkDone

/-- The i-th outstanding command of a station completes (R49): its cursors advance. -/
def State.complete (s : State) (st i : Nat) : State :=
  let r := s.st st
  match r.outstanding[i]? with
  | some o =>
    let r := o.adv.foldl StationRt.advance r
    let r := { r with outstanding := updAt r.outstanding i fun o => { o with done := true, adv := [], open_ := 0 } }
    (s.withSt st fun _ => r).settle st
  | none => s

/-- The first outstanding command of a kind that has not completed. -/
def StationRt.firstOf (r : StationRt) (k : OutKind) : Option Nat := r.outstanding.findIdx? fun o => o.kind = k && !o.done

/-- The first outstanding command of a kind completes. -/
def State.completeKind (s : State) (st : Nat) (k : OutKind) : State :=
  match (s.st st).firstOf k with
  | some i => s.complete st i
  | none => s

/-! ### Issue (R35, R49, R63, R72, R169, R402) -/

/-- A cell's contexts are held at a command boundary by a rotation (R169). -/
def State.heldByRotation (s : State) (cell : Nat) : Bool :=
  let c := s.cluster (cell / 16)
  match c.rotation with
  | some t => !t.inPlace && (t.phase == .waiting || t.phase == .copying) && c.slots.getD (cell % 16) 99 = t.due
  | none => false

/-- A rotation copies the cell: inbound writes and signals are held (R169). -/
def State.copying (s : State) (cell : Nat) : Bool :=
  s.heldByRotation cell && (match (s.cluster (cell / 16)).rotation with
    | some t => t.phase == .copying
    | none => false)

/-- The die of a station pauses every issue: p = 8 (R402). -/
def State.frozen (s : State) (st : Nat) : Bool := lookD s.thermal.pause (s.dieOf st) 0 = 8

/-- A station may issue a command of its stream: the job has started, no drain holds it, and neither a wait, a re-read,
a failed check nor a rotation stands before it. -/
def State.canIssue (s : State) (st : Nat) (ok : Kind → Bool) : Bool :=
  let r := s.st st
  (match s.desc st with
   | some d => ok d.kind
   | none => false) &&
  (match s.job with
   | some j => j.phase == .started
   | none => false) &&
  s.dev.bound && s.dev.mode.running && !r.halted && !r.stopped && r.waiting.isNone && r.crcWait.isNone && r.failed.isNone &&
  !s.frozen st && !((s.cellOf st).any s.heldByRotation)

/-- The value of a semaphore of a station. -/
def StationRt.sem (r : StationRt) (i : Nat) : Nat := r.sems.getD i 0

/-- A wait of n on a semaphore: taken at once, or the station waits (R63). -/
def State.tryWait (s : State) (st sem n : Nat) (whole : Bool) (signal : Option Nat) : State × Bool :=
  let v := (s.st st).sem sem
  if n ≤ v then (s.withSt st fun r => { r with sems := setGrow r.sems sem 0 (v - n) }, true)
  else (s.withSt st fun r => { r with waiting := some { sem := sem, count := n, since := s.pt, whole := whole, signal := signal } }, false)

/-- A command at the head of its station: WE waits for 1 on W_SEM, and then the command does its work (R72). A command
that may not issue yet leaves the state as it is and is sent again (log 3). -/
def State.gate (s : State) (st : Nat) (cf : Common) (ok : Kind → Bool) (work : State → State) : State :=
  if s.canIssue st ok then
    if cf.we && !(s.st st).weGranted then
      let (t, taken) := s.tryWait st cf.wSem 1 false none
      if taken then work (t.withSt st fun r => { r with weGranted := true }) else t
    else work s
  else s

/-- A command issues: the next one may follow (R49), and what it holds until it completes is kept. -/
def State.issue (s : State) (st : Nat) (os : List Outst) : State :=
  s.withSt st fun r =>
    { r with pc := r.pc + 1, weGranted := false, ticketSince := none, nextId := r.nextId + 1
             outstanding := r.outstanding ++ os.map fun o => { o with id := r.nextId } }

/-- A command issues and completes at once: its cursors advance, and its signals go when R65 lets them. -/
def State.issueDone (s : State) (st : Nat) (adv : List Advance) (signals : List (Option Nat × Nat)) : State :=
  let s := s.withSt st fun r => adv.foldl StationRt.advance r
  (s.issue st (signals.map fun g => { kind := .nothing, signal := g.1, count := g.2, done := true })).settle st

/-! ### Frames (R57 to R59) -/

/-- The outcome of reading a frame: its bytes, or none where its CRC does not verify. -/
structure FrameRead where
  state : State
  frame : Option (List Byte)

/-- A frame is read by a station and its CRC verified (R57). One with a poisoned granule (R120), or damaged on its path
(R58), does not verify (the path's damage concerns frame 0, this one); its place, producer and STEP are kept for the event. -/
def State.frameOf (s : State) (m : MemRead) (st a : Nat) (path : ReadPath) : FrameRead :=
  if m.bad.isEmpty ∧ path ≠ .damaged 0 ∧ crcOk m.bytes = true then { state := s, frame := some m.bytes }
  else
    let h := hdrOf m.bytes
    { state := s.withSt st fun r => { r with crcFrame := (a, h.producer, h.step) }, frame := none }

/-- A frame read by a station through the Lodge (R222). -/
def State.readFrame (s : State) (st a : Nat) (path : ReadPath) : FrameRead :=
  let rd := s.readMem (s.dieOf st) (s.unitOf st) a frameBytes
  rd.1.frameOf rd.2 st a path

/-- A command whose frame does not verify waits for the second read (R58). -/
def State.awaitReread (s : State) (st : Nat) (i : Instr) : State := s.withSt st fun r => { r with crcWait := some i }

/-- The stream of an input or output port. -/
def State.inStream (s : State) (st port : Nat) : Nat := match s.desc st with
  | some d => d.inPorts.getD port 0xFFFF
  | none => 0xFFFF
def State.outStream (s : State) (st port : Nat) : Nat := match s.desc st with
  | some d => d.outPorts.getD port 0xFFFF
  | none => 0xFFFF

/-- The frame at a position of an input port. -/
def State.readPort (s : State) (st port n : Nat) (path : ReadPath) : FrameRead :=
  s.readFrame st (s.slotAddr (s.inStream st port) n) path

/-- The SEQ of a consumed frame equals the count of tiles consumed (R59). -/
def seqOk (f : List Byte) (n : Nat) : Bool := (hdrOf f).seq = n % 2 ^ 32

/-- A frame written by a station. -/
def State.writeFrame (s : State) (st a : Nat) (f : List Byte) : State := s.writeMem (s.dieOf st) (s.unitOf st) a f []

/-- A frame written to a position of an output port. -/
def State.writePort (s : State) (st port n : Nat) (f : List Byte) : State :=
  s.writeFrame st (s.slotAddr (s.outStream st port) n) f

/-! ### Tile checks (R58, R361, R363) -/

/-- The payload of events 0x12 and 0x13: store, address and producer. -/
def State.tileBody (s : State) (a producer : Nat) : List Byte :=
  item 1 (match s.place a with
    | some p => p.store
    | none => 0) ++ item 8 a ++ item 2 producer

/-- The die that an address lies on; 0xFF for none. -/
def State.dieAt (s : State) (a : Nat) : Nat := match s.place a with
  | some p => p.die
  | none => 0xFF

/-- A tile check that passed on its re-read: event 0x12 and one point (R58, R363). -/
def State.tileTransient (s : State) (a producer : Nat) : State :=
  ((s.record 0x12 (s.dieAt a) (s.tileBody a producer)).bump oTileTransient).addPoints 1 0x12

/-- A tile-integrity fault (R361, R363): event 0x13, two points, the cell or row of the frame due for test, and a drain
with DR_REFORM. -/
def State.tileFault (s : State) (a producer step : Nat) : State :=
  let s := (s.record 0x13 (s.dieAt a) (s.tileBody a producer ++ item 4 step)).bump oTileFault
  let s := match s.place a with
    | some (.scratch c _) => s.withPCell (s.physical c) fun p => { p with testDue := true }
    | some (.stack l) => s.withStack l.stack fun k => k.queueTest (l.pc, l.bank, l.row)
    | _ => s
  s.drainLevel drReform (s.levelPlus 2) 0x13

end Sys2Proof.Machine
end

