-- ==== Sys2Proof/Machine/Sequencer.lean ====
section
/-!
DEFINITION. The commands of every station's sequencer (R73), the arrival of signals (R63, R64, R123, R124) and the
watchdog (R66).
-/
namespace Sys2Proof.Machine

/-- Every kind of station. -/
def anyKind : Kind → Bool := fun _ => true

/-- NOP does nothing but what its common fields say (R72, R73). -/
def execNop (st : Nat) (cf : Common) (s : State) : Out :=
  .next (s.gate st cf anyKind fun s => s.issueDone st [] [(signalOf cf, 1)])

/-- SEM_WAIT completes when its semaphore holds COUNT, which it subtracts in the same step (R63). -/
def execSemWait (st : Nat) (cf : Common) (sem count : Nat) (s : State) : Out :=
  .next (s.gate st cf anyKind fun s =>
    let (t, taken) := s.tryWait st sem count true (signalOf cf)
    if taken then t.issueDone st [] [(signalOf cf, 1)] else t)

/-- SEM_SIGNAL adds COUNT to the target of its signal-table entry (R63, R65, R73). -/
def execSemSignal (st : Nat) (cf : Common) (slot count : Nat) (s : State) : Out :=
  .next (s.gate st cf anyKind fun s => s.issueDone st [] [(some slot, count), (signalOf cf, 1)])

/-- LOOP opens a loop of COUNT passes (R73). -/
def execLoop (st : Nat) (cf : Common) (count : Nat) (s : State) : Out :=
  .next (s.gate st cf anyKind fun s =>
    let s := s.withSt st fun r => { r with loops := (r.pc + 1, count) :: r.loops }
    s.issueDone st [] [(signalOf cf, 1)])

/-- ENDLOOP starts the next pass of the innermost loop, or ends it (R73). -/
def execEndLoop (st : Nat) (cf : Common) (s : State) : Out :=
  .next (s.gate st cf anyKind fun s =>
    match (s.st st).loops with
    | (start, left) :: rest =>
      let s := s.issueDone st [] [(signalOf cf, 1)]
      if 1 < left then s.withSt st fun r => { r with pc := start, loops := (start, left - 1) :: rest }
      else s.withSt st fun r => { r with loops := rest }
    | [] => s.issueDone st [] [(signalOf cf, 1)])

/-- HALT ends the station's stream; the Course ends when every station has halted (R73, R449). -/
def execHalt (st : Nat) (cf : Common) (s : State) : Out :=
  .next (s.gate st cf anyKind fun s =>
    (s.withSt st fun r => { r with halted := true }).issueDone st [] [(signalOf cf, 1)])

/-- STEP raises the station's step number by one (R73). -/
def execStep (st : Nat) (cf : Common) (s : State) : Out :=
  .next (s.gate st cf anyKind fun s =>
    (s.withSt st fun r => { r with stepNo := r.stepNo + 1 }).issueDone st [] [(signalOf cf, 1)])

/-! ### Signals -/

/-- A wait that its semaphore now satisfies completes (R63, R123), unless its station has stopped (R82). -/
def State.wake (s : State) (st : Nat) : State :=
  let r := s.st st
  match r.waiting with
  | some w =>
    if w.count ≤ r.sem w.sem ∧ r.stopped = false then
      let s := s.withSt st fun r =>
        { r with waiting := none, weGranted := true, sems := setGrow r.sems w.sem 0 (r.sem w.sem - w.count) }
      if w.whole then s.issueDone st [] [(w.signal, 1)] else s
    else s
  | none => s

/-- A signal would raise its semaphore above 65,535 (R64). -/
def State.overflows (s : State) (m : SignalMsg) : Bool := decide (65535 < (s.st m.station).sem m.sem + m.count)

/-- A signal is added to its semaphore (R63, R64): one that would raise it above 65,535 is not, and is a Course error. A
stopped station takes none. -/
def State.raiseSem (s : State) (m : SignalMsg) : State :=
  if (s.desc m.station).isNone || (s.st m.station).stopped then s
  else if s.overflows m then s.courseError eSemOverflow m.station
  else s.withSt m.station fun r => { r with sems := setGrow r.sems m.sem 0 (r.sem m.sem + m.count) }

/-- A signal is applied; the packet that brought it is counted and acknowledged (R304, R313). -/
def State.applySignal (s : State) (m : SignalMsg) : State :=
  let t := s.raiseSem m
  match m.src with
  | some p => if s.overflows m then t else (t.countDone p.src).respond p 0x81 0 []
  | none => t

/-- The semaphore files in a CK_C cycle (R123, R124): as they stand, the signals applied, and those whose senders are held
back. -/
structure SemCycle where
  files : Table SemFile
  now : List SignalMsg := []
  back : List SignalMsg := []
  deriving DecidableEq, Repr

/-- A cycle begins: each file's queue gives its first signals, at most 8 (R124), unless a rotation holds the cell (R169). -/
def State.drainFiles (s : State) : SemCycle :=
  s.cells.semFiles.foldl (fun (c : SemCycle) p =>
    if s.copying p.1 then c else
    { c with files := put c.files p.1 { applied := (p.2.queue.take 8).length, queue := p.2.queue.drop 8 }
             now := c.now ++ p.2.queue.take 8 }) { files := s.cells.semFiles }

/-- A signal arrives at its file (R124): applied where the file has applied fewer than 8 in this cycle, else queued behind
the others; with 64 queued, or while a rotation holds the cell (R169), it stays on its way. A station with no cell has no
file. -/
def State.arriveIn (s : State) (c : SemCycle) (m : SignalMsg) : SemCycle :=
  match s.cellOf m.station with
  | none => { c with now := c.now ++ [m] }
  | some cell =>
    let f := lookD c.files cell {}
    if s.copying cell then { c with back := c.back ++ [m] }
    else if f.applied < 8 ∧ f.queue.isEmpty = true then
      { c with files := put c.files cell { f with applied := f.applied + 1 }, now := c.now ++ [m] }
    else if f.queue.length < 64 then { c with files := put c.files cell { f with queue := f.queue ++ [m] } }
    else { c with back := c.back ++ [m] }

/-- A CK_C cycle of the semaphore files (R123, R124): what the queues hold and what arrives is applied first, and then the
waiting commands are tested against the new values. -/
def State.semCycle (s : State) (ms : List SignalMsg) : State :=
  let c := ms.foldl s.arriveIn s.drainFiles
  let s := s.withCells fun x => { x with signals := c.back ++ x.signals, semFiles := c.files }
  c.now.foldl (fun s m => s.wake m.station) (c.now.foldl State.applySignal s)

/-- A CK_C cycle in which signals on their way, given by their places, reach their semaphore files (R123, R124). -/
def execSignalArrival (first : Nat) (others : List Nat) (s : State) : Out :=
  let places := (first :: others).eraseDups
  let ms := places.filterMap fun i => s.cells.signals[i]?
  let t := s.withCells fun c =>
    { c with signals := ((List.range c.signals.length).filter (!places.contains ·)).filterMap fun i => c.signals[i]? }
  .next (t.semCycle ms).checkDone

/-- A station's wait, on a semaphore, for a ticket or for a free operation, has lasted WATCHDOG_MS (R66, R102, R126). -/
def execWatchdog (st : Nat) (s : State) : Out :=
  let r := s.st st
  let late (t : Word) : Bool := decide (ticksMs s.course.watchdogMs ≤ s.since t)
  let onSem := match r.waiting with
    | some w => late w.since
    | none => false
  if (onSem || r.ticketSince.any late || r.opSince.any late) && !r.stopped then .next (s.courseError eWatchdog st) else .next s

end Sys2Proof.Machine
end

