-- ==== Sys2Proof/Machine/Vector.lean ====
section
/-!
DEFINITION. The vector unit's arithmetic (R77, R114, R115, R141, R142): binary32 and INT32, element by element.
-/
namespace Sys2Proof.Machine

/-- A value rounded to binary32, to nearest with ties to even. -/
def to32 (v : Num) : Num := fp32.decode (fp32.encode v .nearest)

/-- An operand element decoded to binary32 (R142). -/
def decode32 (fm : Fmt) (v : Num) : Num :=
  match v with
  | .fin x z =>
    if fm = .int32 then to32 v
    else if fp32.maxFin < magR x then .inf (decide (x < 0)) else .fin x z
  | _ => v

/-- The sign of a value, that of a zero included. -/
def Num.neg : Num → Bool
  | .fin x z => decide (x < 0) || (decide (x = 0) && z)
  | .inf n => n
  | .nan => false

/-- The negated value. -/
def Num.minus : Num → Num
  | .fin x z => .fin (-x) (decide (x = 0) && !z)
  | .inf n => .inf !n
  | .nan => .nan

/-- The exact product with IEEE 754 signs. -/
def Num.mulX (a b : Num) : Num :=
  match a, b with
  | .nan, _ => .nan
  | _, .nan => .nan
  | .fin x _, .fin y _ => .fin (x * y) (xor a.neg b.neg)
  | .fin x _, .inf n => if x = 0 then .nan else .inf (xor a.neg n)
  | .inf n, .fin y _ => if y = 0 then .nan else .inf (xor n b.neg)
  | .inf n, .inf k => .inf (xor n k)

/-- The exact sum with IEEE 754 signs under round to nearest. -/
def Num.addX (a b : Num) : Num :=
  match a, b with
  | .nan, _ => .nan
  | _, .nan => .nan
  | .inf n, .inf k => if n = k then .inf n else .nan
  | .inf n, _ => .inf n
  | _, .inf n => .inf n
  | .fin x _, .fin y _ => .fin (x + y) (decide (x = 0) && decide (y = 0) && a.neg && b.neg)

/-- a is less than b, with +0 greater than −0 (R142); neither is NaN. -/
def Num.lt (a b : Num) : Bool :=
  match a, b with
  | .inf n, .inf k => n && !k
  | .inf n, _ => n
  | _, .inf k => !k
  | .fin x _, .fin y _ => decide (x < y) || (decide (x = 0) && decide (y = 0) && a.neg && !b.neg)
  | _, _ => false

/-- MAX and MIN (R142). -/
def Num.maxX (a b : Num) : Num := if a = .nan ∨ b = .nan then .nan else if a.lt b then b else a
def Num.minX (a b : Num) : Num := if a = .nan ∨ b = .nan then .nan else if a.lt b then a else b

/-- The integer square root, by its bits from 2^k downwards. -/
def isqrt (k n : Nat) : Nat :=
  match k with
  | 0 => if 1 ≤ n then 1 else 0
  | k + 1 =>
    (List.range (k + 2)).foldr (fun i r => let t := r + 2 ^ i; if t * t ≤ n then t else r) 0

/-- The multiples n of a quantum whose distance from a value that lies at f quanta or above, below f + 1, is at most one
quantum: f and f + 1, or the exact multiple and its neighbours. -/
def ulpChoices (f : Nat) (exact : Bool) : List Nat := if exact then [f - 1, f, f + 1] else [f, f + 1]

/-- A choice among results within 1 unit in the last place. -/
def pickUlp (p : Fin 3) (l : List Nat) (q : Rat) (neg : Bool) : Num :=
  let n := l.getD (p.val % l.length) 0
  to32 (.fin ((if neg then -1 else 1) * (n : Rat) * q) neg)

/-- RECIP (R77): some binary32 value within 1 unit in the last place of the quotient (log 6). -/
def recip32 (v : Num) : Num :=
  let w := BitVec.ofNat 32 (fp32.encode v .nearest)
  match v with
  | .fin x _ =>
    if x = 0 then fp32.decode (Config.vecRecipSpecial w).toNat else
    let y := 1 / magR x
    let q := pow2 (max (expR y) (-126) - 23)
    let f := (y / q).floor.toNat
    pickUlp (Config.vecRecipPick w) (ulpChoices f (decide ((f : Rat) = y / q))) q (decide (x < 0))
  | _ => fp32.decode (Config.vecRecipSpecial w).toNat

/-- RSQRT (R77): some binary32 value within 1 unit in the last place of the root (log 6). -/
def rsqrt32 (v : Num) : Num :=
  let w := BitVec.ofNat 32 (fp32.encode v .nearest)
  match v with
  | .fin x _ =>
    if x ≤ 0 then fp32.decode (Config.vecRsqrtSpecial w).toNat else
    let y := 1 / x
    let q := pow2 (expR y / 2 - 23)
    let sq := (y / (q * q)).floor.toNat
    let f := isqrt 26 sq
    pickUlp (Config.vecRsqrtPick w) (ulpChoices f (decide (((f * f : Nat) : Rat) = y / (q * q)))) q false
  | _ => fp32.decode (Config.vecRsqrtSpecial w).toNat

/-- The sum of the first n terms of the exponential series of r, after a term t with number k, all scaled by 2^256. -/
def expSeries (r t : Int) (k n : Nat) : Int :=
  match n with
  | 0 => 0
  | n + 1 => t + expSeries r (t * r / ((k + 1 : Nat) * 2 ^ 256)) (k + 1) n

/-- A number scaled by 2^256 squared n times. -/
def squareTimes (x : Int) (n : Nat) : Int :=
  match n with
  | 0 => x
  | n + 1 => squareTimes (x * x / 2 ^ 256) n

/-- e to the power x, for |x| below 128: the series at x/256, squared eight times, in units of 2^-256. -/
def expOf (x : Rat) : Rat :=
  mkRat (squareTimes (expSeries (x / 256 * (2 ^ 256 : Nat)).floor (2 ^ 256) 0 60) 8) (2 ^ 256)

/-- EXP (R77): some binary32 value within 1 unit in the last place of the exponential (log 6). -/
def exp32 (v : Num) : Num :=
  let w := BitVec.ofNat 32 (fp32.encode v .nearest)
  match v with
  | .nan => .nan
  | .inf _ => fp32.decode (Config.vecExp w).toNat
  | .fin x _ =>
    if 128 ≤ x then .inf false else
    let y := if x ≤ -128 then 0 else expOf x
    let q := pow2 (max (expR y) (-126) - 23)
    pickUlp (Config.vecExpPick w) (ulpChoices (y / q).floor.toNat (decide (x = 0))) q false

/-- An INT32 result at the integer limits (R141). -/
def sat32 (x : Int) : Int := max (-(2 ^ 31 : Nat)) (min ((2 ^ 31 - 1 : Nat) : Int) x)

/-- The functions that use operand b (R77). -/
def vecTwo : VecFn → Bool
  | .add | .sub | .mul | .max | .min | .axpy => true
  | _ => false

/-- VEC_OP works in INT32 (R141). -/
def intMode (fn : VecFn) (fa fb : Fmt) : Bool :=
  match fn with
  | .add | .sub | .mul | .max | .min => fa.isInt && fb.isInt
  | .convert | .sumrow => fa.isInt
  | _ => false

/-- One element in INT32 (R141). -/
def vecInt (fn : VecFn) (a b : Int) : Int :=
  match fn with
  | .add => sat32 (a + b)
  | .sub => sat32 (a - b)
  | .mul => sat32 (a * b)
  | .max => max a b
  | .min => min a b
  | _ => a

/-- One element in binary32 (R77, R142). -/
def vecFlt (fn : VecFn) (a b imm : Num) : Num :=
  match fn with
  | .add => to32 (a.addX b)
  | .sub => to32 (a.addX b.minus)
  | .mul => to32 (a.mulX b)
  | .max => a.maxX b
  | .min => a.minX b
  | .scale => to32 (a.mulX imm)
  | .axpy => to32 ((a.mulX imm).addX b)
  | .exp => exp32 a
  | .recip => recip32 a
  | .rsqrt => rsqrt32 a
  | .convert => a
  | .sumrow => a

/-- The integer value of an integer element. -/
def intOf : Num → Int
  | .fin x _ => x.floor
  | _ => 0

/-- The sum of a row in ascending column order (R115). -/
def rowSum (isInt : Bool) (vs : List Num) : Num :=
  match vs with
  | [] => .fin 0 false
  | v :: r =>
    if isInt then .fin ((r.foldl (fun s x => sat32 (s + intOf x)) (intOf v) : Int) : Rat) false
    else r.foldl (fun s x => to32 (s.addX x)) v

/-- An element of a SUMROW result outside column 0 (log 6). -/
def restOf (isInt : Bool) (e : Nat) : Num :=
  let w := (Config.sumrowRest e).toNat
  if isInt then .fin (signedOf 32 w : Rat) false else fp32.decode w

/-- The values that VEC_OP computes, before the encode, in element order (R77). -/
def vecVals (fn : VecFn) (fa : Fmt) (a : List Byte) (fb : Fmt) (b : List Byte) (imm : Num) (rows cols : Nat) :
    List Num :=
  let isInt := intMode fn fa fb
  let va (i : Nat) : Num := let v := elemVal fa a i; if isInt then v else decode32 fa v
  let vb (i : Nat) : Num := let v := elemVal fb b i; if isInt then v else decode32 fb v
  (List.range (rows * cols)).map fun i =>
    match fn with
    | .sumrow =>
      if i % cols = 0 then rowSum isInt ((List.range cols).map fun c => va (i + c)) else restOf isInt i
    | _ =>
      if isInt then .fin ((vecInt fn (intOf (va i)) (intOf (vb i)) : Int) : Rat) false
      else vecFlt fn (va i) (if vecTwo fn then vb i else .fin 0 false) imm

/-- The frame that VEC_OP writes; none where it causes TILE_FORMAT (R59, R77), one complex and one real operand too (DEDUCED,
log 47). `b` is none for a function that uses one operand. -/
def vecFrame (fn : VecFn) (a : List Byte) (b : Option (List Byte)) (imm : BitVec 32) (fmt : Nat) (rnd : Rnd)
    (producer stream seq step seed : Nat) : Option (List Byte) :=
  match frameFmt a, fmtOf fmt with
  | some (fa, ha), some fm =>
    let (okB, fb, bb, fl) := match b with
      | none => (true, fa, a, 0)
      | some f => match frameFmt f with
        | some (m, h) => (h.rows = ha.rows && h.cols = ha.cols && bit h.tflags 2 = bit ha.tflags 2, m, f, h.tflags % 4)
        | none => (false, fa, a, 0)
    if okB = true ∧ fm ≠ .raw ∧ holds fm ha.rows ha.cols = true then
      some (mkFrame fm (ha.tflags ||| fl) ha.rows ha.cols producer stream seq step
        (vecVals fn fa a fb bb (fp32.decode imm.toNat) ha.rows ha.cols) rnd seed)
    else none
  | _, _ => none

end Sys2Proof.Machine
end

