-- ==== Sys2Proof/Machine/Arrays.lean ====
section
/-!
DEFINITION. The array and vector contexts of a cell (R75 to R77, R98 to R107): MM_CLEAR, MM_RUN with its ticket, checks,
commit and repeat, MM_DRAIN, VEC_OP, and the ramps.
-/
namespace Sys2Proof.Machine

def isMatrix : Kind → Bool := (· == .matrix)
def isVector : Kind → Bool := (· == .vector)

/-! ### Failed checks (R100, R104, R363, R366) -/

/-- Event 0x10: an array check failed on a physical cell, with ATTEMPT 0, 1 or 2. -/
def State.checkEvent (s : State) (p : Nat) (f : ArrayFail) (attempt : Nat) : State :=
  s.record 0x10 (dieCompute (p / 136))
    (item 2 p ++ item 1 f.array ++ item 4 f.row ++ item 4 f.kBlock ++ item 1 f.pass ++ item 1 attempt)

/-- Every failed check of an attempt is recorded (R100). -/
def State.checkEvents (s : State) (p : Nat) (l : List ArrayFail) (attempt : Nat) : State :=
  l.foldl (fun s f => s.checkEvent p f attempt) s

/-- The context of a station stops on a failed check of its command (R100): event 0x10 with ATTEMPT 0 for each. -/
def State.stopOnFail (s : State) (st p : Nat) (i : Instr) (checks : List ArrayFail) : State :=
  match failsOf checks with
  | [] => s
  | f :: r => (s.withSt st fun r => { r with failed := some (i, f) }).checkEvents p (f :: r) 0

/-- A cell becomes a cell of concern (R366). -/
def State.markConcern (s : State) (p reason : Nat) : State :=
  if (s.pcell p).concern then s else
  (s.withPCell p fun c => { c with concern := true }).record 0x16 (dieCompute (p / 136))
    (item 2 p ++ [Config.itemCode 0x16 1 reason])

/-- A transient check on a physical cell: counted, one point, and at the second within 24 hours the cell is one of
concern (R101, R104, R363, R366). -/
def State.arrayTransient (s : State) (p : Nat) : State :=
  let ts := ((s.pcell p).transients.filter fun t => decide (s.since t ≤ ticksH 24)) ++ [s.pt]
  let s := (s.bump oCheckTransient).withPCell p fun c => { c with transients := ts }
  let s := if 2 ≤ ts.length then s.markConcern p 1 else s
  s.addPoints 1 0x10

/-- A failed check on a ballast row (R104). -/
def State.ballastFail (s : State) (cell : Nat) (f : ArrayFail) : State :=
  let p := s.physical cell
  (s.checkEvent p f 2).arrayTransient p

/-- The failed checks on ballast rows of a ramp. -/
def State.ballastFails (s : State) (cell : Nat) (l : List ArrayFail) : State :=
  (failsOf l).foldl (fun s f => s.ballastFail cell f) s

/-! ### The array-burst ticket and the ramps (R102 to R107) -/

/-- The phase of a cell's arrays. -/
def State.arrayPhase (s : State) (cell : Nat) : ArrayPhase := lookD s.cells.arrays cell .idle
def State.setPhase (s : State) (cell : Nat) (p : ArrayPhase) : State :=
  s.withCells fun c => { c with arrays := put c.arrays cell p }

/-- A station waits for a ticket from now, if it does not already (R66, R102). -/
def State.waitTicket (s : State) (st : Nat) : State :=
  s.withSt st fun r => { r with ticketSince := if r.ticketSince.isSome then r.ticketSince else some s.pt }

/-- The array context asks for its ticket and waits (R102). -/
def State.arrayRequest (s : State) (st cell : Nat) : State :=
  ((s.request (.arrayBurst cell)).setPhase cell .waiting).waitTicket st

/-- Rows of a command may issue, and the state from which they do. A ramp-down whose ticket is still held reverses
(R105), unless it follows a recall of a context that has asked again (R391; of one without work in flight the spec does not say,
and it reverses: DESIGN CHOICE, log 126); arrays without a ticket request one (R102, R107). -/
def State.arraysGo (s : State) (st cell : Nat) : State × Bool :=
  match s.arrayPhase cell with
  | .running => (s, true)
  | .waiting => (s.arrayRequest st cell, false)
  | .rampDown =>
    let asked := s.power.queue.any (·.cls = .arrayBurst cell)
    if s.holds (.arrayBurst cell) && !asked then (s.setPhase cell .running, true)
    else if asked then (s.waitTicket st, false)
    else ((s.request (.arrayBurst cell)).waitTicket st, false)
  | .idle => (s.arrayRequest st cell, false)

/-- No real row has been issuable for 16 CK_C: the ramp-down begins (R105), with ballast rows (R104). -/
def execRampDownStart (cell : Nat) (ballast : List ArrayFail) (s : State) : Out :=
  if s.arrayPhase cell = .running then .next ((s.setPhase cell .rampDown).ballastFails cell ballast) else .next s

/-- The ramp-down ends: the arrays are idle and the ticket is released (R105). A context that asked again after a recall
or a revocation waits (R107, R391). -/
def execRampDownComplete (cell : Nat) (s : State) : Out :=
  if s.arrayPhase cell = .rampDown then
    let waits := s.power.queue.any (·.cls = .arrayBurst cell)
    let s := s.withPower fun p => setTickets p s.pt p.queue (p.held.filter (·.cls != .arrayBurst cell))
    .next (s.setPhase cell (if waits then .waiting else .idle))
  else .next s

/-! ### Matrix commands -/

/-- An accumulator has an uncommitted MM_RUN, which a later command on it waits for (R72, R98). -/
def StationRt.accBusy (r : StationRt) (acc : Nat) : Bool := r.pendingMm.any (·.acc = acc)

/-- MM_CLEAR: the accumulator is cleared and has no shape (R75). -/
def execMmClear (st : Nat) (cf : Common) (acc : Nat) (s : State) : Out :=
  .next (s.gate st cf isMatrix fun s =>
    if (s.st st).accBusy acc then s else
    (s.withSt st fun r => { r with banks := del r.banks acc }).issueDone st [] [(signalOf cf, 1)])

/-- The bank that a new MM_RUN reads: the working bank of the MM_RUN before it, or the committed bank (R98, R99). -/
def StationRt.bankOf (r : StationRt) (acc : Nat) : Bank :=
  match r.pendingMm.reverse.find? (·.acc = acc) with
  | some p => p.bank
  | none => lookD r.banks acc {}

/-- A bank of the accumulator file is read: each granule found uncorrectable is event 0x21 of store 0x4 and two points (R205,
R363). -/
def State.bankRead (s : State) (cell : Nat) (b : Bank) : State :=
  let die := dieCompute (cell / 128)
  b.ue.foldl (fun (s : State) u =>
    (s.record 0x21 die (item 1 4 ++ item 1 die ++ item 2 (s.physical cell) ++ item 4 u.1 ++ item 1 u.2)).addPoints 2 0x21) s

/-- The work of MM_RUN (R57, R59, R75, R98 to R100): both frames are read and verified, then the rows issue and the
working bank is written. A failed check stops the context, event 0x10 with ATTEMPT 0. -/
def State.mmRun (s : State) (st : Nat) (cf : Common) (a b acc : Nat) (path : ReadPath) (checks : List ArrayFail) : State :=
  let i := Instr.mmRun st cf a b acc path checks
  match s.cellOf st with
  | none => s
  | some cell =>
    if 2 ≤ (s.st st).pendingMm.length then s else
    let (s, go) := s.arraysGo st cell
    if !go then s else
    let r := s.st st
    let na := r.inPos a
    let nb := r.inPos b
    let ra := s.readPort st a na path
    match ra.frame with
    | none => ra.state.awaitReread st i
    | some fa =>
      let rb := ra.state.readPort st b nb (path.shift 1)
      match rb.frame with
      | none => rb.state.awaitReread st i
      | some fb =>
        let s := rb.state
        if !(seqOk fa na && seqOk fb nb) then s.courseError eStreamOrder st else
        match mmRunBank fa fb (r.bankOf acc) with
        | none => s.courseError eTileFormat st
        | some bank =>
          let s := (s.bankRead cell (r.bankOf acc)).issue st
            [{ kind := .mm, adv := advances cf [a, b] [] 1, signal := signalOf cf }]
          let s := s.withSt st fun r =>
            { r with pendingMm := r.pendingMm ++ [{ acc := acc, bank := bank, instr := i, fa := fa, fb := fb }] }
          s.stopOnFail st (s.physical cell) i checks

/-- MM_RUN: ACC += A × B (R73, R75). -/
def execMmRun (st : Nat) (cf : Common) (a b acc : Nat) (path : ReadPath) (checks : List ArrayFail) (s : State) : Out :=
  .next (s.gate st cf isMatrix fun s => s.mmRun st cf a b acc path checks)

/-- The oldest uncommitted MM_RUN commits: its working bank becomes the committed bank (R98). -/
def State.commitMm (s : State) (st : Nat) : State :=
  match (s.st st).pendingMm with
  | p :: rest =>
    (s.withSt st fun r => { r with banks := put r.banks p.acc p.bank, pendingMm := rest }).completeKind st .mm
  | [] => s

/-- The last row of the oldest uncommitted MM_RUN is written and every check has passed (R98). The failing command, the
newest one, commits only by its repeat (R100, R101). -/
def execMmRunCommit (st : Nat) (s : State) : Out :=
  let r := s.st st
  if r.failed.isNone || 1 < r.pendingMm.length then .next (s.commitMm st) else .next s

/-- The failing command is repeated on its cell (R100, R101). A pass is a transient, and an MM_RUN commits. A failure is
event 0x10 with ATTEMPT 1, and the context stops and asks the placer for a confirmation. -/
def execArrayRepeat (st : Nat) (checks : List ArrayFail) (s : State) : Out :=
  let r := s.st st
  match r.failed, s.cellOf st with
  | some (i, _), some cell =>
    if r.confirming then .next s else
    let p := s.physical cell
    match failsOf checks with
    | [] =>
      let s := (s.withSt st fun r => { r with failed := none }).arrayTransient p
      match i with
      | .mmRun .. => if r.pendingMm.length ≤ 1 then .next (s.commitMm st) else .next s
      | _ => .next s
    | f :: more =>
      let s := (s.checkEvents p (f :: more) 1).bump oConfirm
      let s := s.withSt st fun r => { r with failed := some (i, f), confirming := true }
      .next (s.withCells fun c => { c with placeQueue := c.placeQueue ++ [st] })
  | _, _ => .next s

/-- MM_DRAIN: the accumulator is rounded to FMT under RND into one frame, and cleared with CLR (R76). -/
def execMmDrain (st : Nat) (cf : Common) (o acc fmt : Nat) (rnd : Rnd) (clr : Bool) (s : State) : Out :=
  .next (s.gate st cf isMatrix fun s =>
    let r := s.st st
    if r.accBusy acc then s else
    let n := r.outPos o
    let s := match s.cellOf st with
      | some cell => s.bankRead cell (lookD r.banks acc {})
      | none => s
    match drainFrame (lookD r.banks acc {}) fmt rnd st (s.outStream st o) (n % 2 ^ 32) r.stepNo.toNat s.seed with
    | none => s.courseError eTileFormat st
    | some f =>
      let s := s.writePort st o n f
      let s := if clr then s.withSt st fun r => { r with banks := del r.banks acc } else s
      s.issueDone st (advances cf [] [o] 1) [(signalOf cf, 1)])

/-! ### The vector unit -/

/-- The work of VEC_OP (R57, R59, R77). Operand b of a one-operand function is neither read nor advanced (log 22). -/
def State.vecOp (s : State) (st : Nat) (cf : Common) (fn : VecFn) (a b o fmt : Nat) (rnd : Rnd) (imm : BitVec 32)
    (path : ReadPath) : State :=
  let i := Instr.vecOp st cf fn a b o fmt rnd imm path
  let r := s.st st
  let na := r.inPos a
  let nb := r.inPos b
  let no := r.outPos o
  let finish (s : State) (fa : List Byte) (fb : Option (List Byte)) (ins : List Nat) : State :=
    match vecFrame fn fa fb imm fmt rnd st (s.outStream st o) (no % 2 ^ 32) r.stepNo.toNat s.seed with
    | none => s.courseError eTileFormat st
    | some f => (s.writePort st o no f).issueDone st (advances cf ins [o] 1) [(signalOf cf, 1)]
  let ra := s.readPort st a na path
  match ra.frame with
  | none => ra.state.awaitReread st i
  | some fa =>
    if vecTwo fn then
      let rb := ra.state.readPort st b nb (path.shift 1)
      match rb.frame with
      | none => rb.state.awaitReread st i
      | some fb =>
        if seqOk fa na && seqOk fb nb then finish rb.state fa (some fb) [a, b] else rb.state.courseError eStreamOrder st
    else if seqOk fa na then finish ra.state fa none [a] else ra.state.courseError eStreamOrder st

/-- VEC_OP: out := FN(a, b, IMM), converted to FMT under RND (R77). -/
def execVecOp (st : Nat) (cf : Common) (fn : VecFn) (a b o fmt : Nat) (rnd : Rnd) (imm : BitVec 32) (path : ReadPath)
    (s : State) : Out :=
  .next (s.gate st cf isVector fun s => s.vecOp st cf fn a b o fmt rnd imm path)

end Sys2Proof.Machine
end

