-- ==== Sys2Proof/Machine/Image.lean ====
section
/-!
DEFINITION. The Cridy image (R412 to R417): authentication of a copy, its sections, and what its CONFIG section feeds.
-/
namespace Sys2Proof.Machine

/-- A key slot carries a role and is not revoked (R414, R465); the roles are bits 0 IMAGE, 1 PACK, 2 CMD, 3 DEBUG. -/
def Fuses.role (f : Fuses) (slot role : Nat) : Bool :=
  let r := (f.slots.getD slot {}).roles
  f.usable && decide (slot < 4) && r.getLsbD role && !r.getLsbD 7

/-- The SHA-384 of a public key equals a slot's fused hash. -/
def Fuses.keyOk (f : Fuses) (slot : Nat) (key : List Byte) : Bool := Config.sha384 key = (f.slots.getD slot {}).keyHash

/-- A section entry of the header (R412): TYPE, OFFSET and BYTES. -/
structure Section where
  type : Nat
  offset : Nat
  bytes : Nat
  deriving DecidableEq, Repr

/-- The section entries in use. -/
def sections (img : List Byte) : List Section :=
  (List.range (fld img 6 2)).map fun i =>
    { type := fld img (0xC0 + 16 * i) 2, offset := fld img (0xC4 + 16 * i) 4, bytes := fld img (0xC8 + 16 * i) 4 }

/-- The header fields that check 2 of R414 tests. -/
def headerOk (img : List Byte) : Bool :=
  let n := fld img 6 2
  let size := fld img 8 4
  fld img 0 4 = 0x43524459 && fld img 4 2 = 1 && 1 ≤ n && n ≤ 32 && 0x400 ≤ size && size ≤ 32 * 2 ^ 20 &&
  allZero (sub img 0x21 7) && allZero (sub img 0xB9 7) && allZero (sub img 0x320 224) &&
  allZero (sub img (0xC0 + 16 * n) (16 * (32 - n))) &&
  (List.range 32).all fun i => allZero (sub img (0xC2 + 16 * i) 2) && allZero (sub img (0xCC + 16 * i) 4)

/-- The bytes that a section of a type may take (R413): the least and the most. -/
def sectionSize : Nat → Option (Nat × Nat)
  | 1 => some (0, 4 * 2 ^ 20) | 2 => some (0, 8 * 2 ^ 20) | 3 => some (128, 128) | 4 => some (149688, 149688)
  | 5 => some (11424, 11424) | 6 => some (532480, 532480) | 7 => some (334336, 334336) | _ => none

/-- Two sections overlap. -/
def Section.meets (a b : Section) : Bool := a.offset < b.offset + b.bytes && b.offset < a.offset + a.bytes

/-- The sections satisfy R413. -/
def sectionsOk (img : List Byte) : Bool :=
  let l := sections img
  let size := fld img 8 4
  l.all (fun c => match sectionSize c.type with
    | some (lo, hi) =>
      lo ≤ c.bytes && c.bytes ≤ hi && c.offset % 4096 = 0 && 0x400 ≤ c.offset && c.offset + c.bytes ≤ size
    | none => false) &&
  [1, 2, 3, 4, 5, 6, 7].all (fun t => (l.filter (·.type = t)).length = 1) &&
  (List.range l.length).all fun i => (l.drop (i + 1)).all fun c => !((l.getD i c).meets c)

/-- The bytes of the section of a type. -/
def sectionOf (img : List Byte) (t : Nat) : List Byte :=
  match (sections img).find? (·.type = t) with
  | some c => sub img c.offset c.bytes
  | none => []

/-- The budgets of CONFIG. -/
def cfgBudget (c : List Byte) (i : Nat) : Nat := fld c (0x10 + 2 * i) 2

/-- The CONFIG section satisfies R417: values in range, a budget set that R394 accepts, reserved bytes zero. -/
def configOk (c : List Byte) : Bool :=
  let ext (i : Nat) : Bool := 1 ≤ fld c i 1 && fld c i 1 ≤ 64
  let p : Power := { budgets := pools.map fun i => (i, cfgBudget c i) }
  ext 0 && ext 1 && ext 2 && decide (fld c 3 1 < 128) && decide (fld c 4 1 < 4) && allZero (sub c 5 3) &&
  10 ≤ fld c 8 4 && fld c 8 4 ≤ 3600 && 1900 ≤ fld c 0xC 2 && fld c 0xC 2 ≤ 4400 && allZero (sub c 0xE 2) &&
  allZero (sub c 0x60 32) && pools.all fun i => budgetOk p i (cfgBudget c i)

/-- The cause code of a copy (R414): 0 for an authentic one. -/
def imageCause (f : Fuses) (img : List Byte) (reads : Bool) : Nat :=
  let slot := fld img 0x20 1
  let key := sub img 0x58 97
  let body := sub img 0x400 (fld img 8 4 - 0x400)
  if !reads then 0x01
  else if !headerOk img then 0x02
  else if !f.role slot 0 then 0x03
  else if !f.keyOk slot key then 0x04
  else if !Config.ecdsaVerify key (sub img 0x2C0 96) (Config.sha384 (sub img 0 0x2C0)) then 0x05
  else if !(decide (fld img 8 4 ≤ img.length) && Config.sha384 body = sub img 0x28 48) then 0x06
  else if fld img 0x10 8 ≠ f.deviceId.toNat then 0x07
  else if fld img 0xC 4 < f.minSvn.toNat then 0x08
  else if !(sectionsOk img && configOk (sectionOf img 3)) then 0x09
  else 0x00

/-- The gradient table (R399, R413): for each sensor three entries of a neighbour, G at idle and G added at full load. -/
def gradientsOf (b : List Byte) : List (Nat × Int × Int) :=
  (List.range (476 * 3)).map fun i =>
    (fld b (8 * i) 2, signedOf 16 (fld b (8 * i + 2) 2), signedOf 16 (fld b (8 * i + 4) 2))

/-- The firmware and tables of a copy are loaded and its CONFIG takes effect (R413, R417, R418 step 3). -/
def State.loadImage (s : State) (img : List Byte) (copy : BitVec 2) : State :=
  let c := sectionOf img 3
  let s := { s with
    img := { s.img with booted := copy, svn := BitVec.ofNat 32 (fld img 0xC 4), buildId := BitVec.ofNat 64 (fld img 0x18 8) }
    config :=
      { extentX := fld c 0 1, extentY := fld c 1 1, extentZ := fld c 2 1, cabled := BitVec.ofNat 7 (fld c 3 1)
        gradients := gradientsOf (sectionOf img 5)
        tuning := (List.range 4).map fun n => sub (sectionOf img 6) (0x20800 * n) 0x20800
        channelTables := sectionOf img 4 } }
  let s := s.withClocks fun k => { k with derated := bit (fld c 4 1) 0, ckM := true }
  let s := s.withCells fun k => { k with rotEn := bit (fld c 4 1) 1, intervalS := BitVec.ofNat 32 (fld c 8 4) }
  s.withPower fun p =>
    { p with limitW := BitVec.ofNat 16 (fld c 0xC 2), budgets := pools.map fun i => (i, cfgBudget c i) }

/-- Step 3 of cold start (R414, R415): the copies are tried in PREFER's order and the first authentic one is booted;
with none authentic the device enters FAULT 0x06. Booting the copy that PREFER does not name is a fallback. -/
def State.bootImage (s : State) (readsA readsB : Bool) : State :=
  let causeA := imageCause s.fuses s.nvm.imageA readsA
  let causeB := imageCause s.fuses s.nvm.imageB readsB
  let preferB := s.nvm.preferB
  let first := if preferB then causeB else causeA
  let bootB := if first = 0 then preferB else !preferB
  let triedA := !preferB || first ≠ 0
  let triedB := preferB || first ≠ 0
  let s := { s with img := { s.img with
    causeA := if triedA then BitVec.ofNat 8 causeA else 0x0F
    causeB := if triedB then BitVec.ofNat 8 causeB else 0x0F } }
  if first ≠ 0 ∧ (if preferB then causeA else causeB) ≠ 0 then s.enterFault 0x06 else
  let s := s.loadImage (if bootB then s.nvm.imageB else s.nvm.imageA) (if bootB then 1 else 0)
  if first = 0 then s
  else (s.bump (oTst 0x1008)).record 0x80 0 (item 1 s.img.causeA.toNat ++ item 1 s.img.causeB.toNat ++ item 1 (b2n bootB))

end Sys2Proof.Machine
end

