-- ==== Sys2Proof/Machine/Engines.lean ====
section
/-!
DEFINITION. The Glide engines' measures (R173, R185 to R195): temperature and excursion, effective bits and their
forecast, what the registers publish, and departures from service. ENOB values are whole numbers of 2^-20 bit (log 29).
-/
namespace Sys2Proof.Machine

/-! ### Effective bits in steps of 2^-20 -/

/-- A rational in steps of 2^-20, rounded down. -/
def fix20 (x : Rat) : Int := (x * pow2 20).floor

/-- One step of the digits of a binary logarithm: the square of a significand of 64 fraction bits, and its next digit. -/
def log2Digit (p : Nat × Nat) : Nat × Nat :=
  let q := p.1 * p.1 / 2 ^ 64
  if 2 ^ 65 ≤ q then (q / 2, 2 * p.2 + 1) else (q, 2 * p.2)

/-- The binary logarithm of a positive number in steps of 2^-20 (log 29). -/
def log2Fix (x : Rat) : Int :=
  let e := expR x
  e * 2 ^ 20 + (Nat.repeat log2Digit 20 ((x * pow2 (64 - e)).floor.toNat, 0)).2

/-- ENOB of a mean square error (R185): −0.5 × log2(3 × mean); 12 where the mean is not positive (R193, log 29). -/
def enobOf (mean : Rat) : Int := if mean ≤ 0 then 12 * 2 ^ 20 else (-(log2Fix (3 * mean))).fdiv 2

/-- An ENOB as published, in 1/16 bit rounded down (R187). -/
def publish (x : Int) : Nat := (max 0 (min 0x7F (x.fdiv (2 ^ 16)))).toNat

/-- A value in 1/16 bit as an ENOB. -/
def sixteenths (n : Nat) : Int := (n : Int) * 2 ^ 16

/-! ### Temperature and age (R186) -/

/-- A sensor's reading in use: its estimate while it is suspect or faulty (R399). -/
def State.sensorT (s : State) (i : Nat) : Int :=
  let x := lookD s.thermal.sensors i {}
  if x.suspect || x.faulty then x.est else x.t

/-- The sum of an engine's eight sensors in 1/64 °C. -/
def State.engineSum (s : State) (n : Nat) : Int := (List.range 8).foldl (fun t i => t + s.sensorT (416 + 8 * n + i)) 0

/-- T of an engine in °C (R186). -/
def State.engineT (s : State) (n : Nat) : Rat := mkRat (s.engineSum n) 512

/-- The excursion for a temperature in °C (R186). -/
def excursion (tCal : Int) (t : Rat) : Rat :=
  let d := magR (t - mkRat tCal 64) - mkRat 1 2
  if d < 0 then 0 else d

/-- E of an engine. -/
def State.exc (s : State) (n : Nat) : Rat := excursion (s.engine n).tCal (s.engineT n)

/-- The calibration age in seconds (R186). -/
def State.calAge (s : State) (n : Nat) : Rat := mkRat (s.since (s.engine n).calPt : Nat) (ticksS 1)

/-! ### The modelled ENOB (R186, R194) -/

/-- The Class D model at an age in seconds and an excursion, without the drift margin. -/
def modelD (h e : Rat) : Int := fix20 (mkRat 74 10) - (log2Fix (1 + h / 600)).fdiv 4 - fix20 (e / 5)

/-- The Class N ceiling at an excursion, without the drift margin. -/
def modelN (e : Rat) : Int := fix20 (mkRat 76 10) - fix20 (e / 5)

/-- ENOB_D and ENOB_N (R186). -/
def enobD (h e : Rat) (delta : Int) : Int := modelD h e + min 0 delta
def enobN (samples : Nat) (e : Rat) (delta : Int) : Int :=
  min (4 * 2 ^ 20 + (log2Fix (max 1 samples : Nat)).fdiv 2) (modelN e + min 0 delta)

/-- model_sys of R194. -/
def modelSys (resident : Bool) (h e : Rat) : Int := if resident then modelD h e else modelN e

/-- The modelled ENOB of a station's parameters at an age and excursion. -/
def enobFor (p : KindParams) (h e : Rat) (delta : Int) : Int :=
  if p.classD then enobD h e delta else enobN p.samples e delta

/-- The parameters of a station. -/
def State.paramsOf (s : State) (st : Nat) : KindParams := (s.desc st).elim {} (·.params)

/-- The slope of T over the last second, in °C each second (R195). -/
def State.slope (s : State) (n : Nat) : Rat :=
  match (s.engine n).history with
  | (t, x) :: _ =>
    let d := s.since t
    if d = 0 then 0 else (s.engineT n - mkRat x 512) * (ticksS 1 : Nat) / (d : Nat)
  | [] => 0

/-- The forecast of a station on an engine at now + HORIZON_S meets its floor and GUARD (R195). -/
def State.forecastOk (s : State) (n st : Nat) : Bool :=
  let e := s.engine n
  let tau : Rat := (s.glide.horizonS.toNat : Nat)
  let p := s.paramsOf st
  let exc := excursion e.tCal (s.engineT n + s.slope n * tau)
  decide (sixteenths (p.enobFloor + s.glide.guard.toNat) ≤ enobFor p (s.calAge n + tau) exc e.delta)

/-! ### Published values -/

/-- A published ENOB of an engine: 0 when it is not in service. -/
def State.pubEnob (s : State) (n : Nat) (x : Int) : Nat := if (s.engine n).state = 1 then publish x else 0

/-- GLD_PRED_N_n. -/
def State.predN (s : State) (n : Nat) : Word :=
  BitVec.ofNat 64 ((List.range 9).foldl (fun v k =>
    v + s.pubEnob n (enobN (2 ^ k) (s.exc n) (s.engine n).delta) * 2 ^ (7 * k)) 0)

/-- PRED_D. -/
def State.predD (s : State) (n : Nat) : Nat := s.pubEnob n (enobD (s.calAge n) (s.exc n) (s.engine n).delta)

/-- GLD_PRED_D_n. -/
def State.predDReg (s : State) (n : Nat) : Word :=
  let e := s.engine n
  let mins := satTo 16 (s.since e.calPt / ticksS 60)
  BitVec.ofNat 64 (mins * 2 ^ 16 + b2n e.measValid * 2 ^ 15 + e.measSys * 2 ^ 8 + s.predD n)

/-- MODE of an engine (R173): 0 idle, 1 balanced, 2 resident. -/
def Engine.mode (e : Engine) : Nat := if e.stations.isEmpty then 0 else if e.resident then 2 else 1

/-- GLD_STATUS_n. -/
def State.gldStatus (s : State) (n : Nat) : Word :=
  let e := s.engine n
  BitVec.ofNat 64 (e.lastLeave.toNat * 2 ^ 32 + min 255 e.streak * 2 ^ 16 + e.stations.length * 2 ^ 8 + e.mode * 2 ^ 4 + e.state.toNat)

/-- GLD_TEMP_n. -/
def State.gldTemp (s : State) (n : Nat) : Word :=
  BitVec.ofNat 64 (satTo 16 ((s.exc n) * 64).floor.toNat * 2 ^ 32 + fieldOf 16 ((s.engineSum n).fdiv 8) * 2 ^ 16 +
    fieldOf 16 (s.engine n).tCal)

/-- The station with the lowest margin in its last window, and that margin. -/
def Engine.worst (e : Engine) : Nat × Int :=
  e.shadowRecs.foldl (fun (w : Nat × Int) (p : Nat × ShadowRec) => match p.2.margin with
    | some m => if w.1 = 0xFFFF ∨ m < w.2 then (p.1, m) else w
    | none => w) (0xFFFF, 0)

/-- ENOB over a list of shadow frames. -/
def shadowEnob (l : List ShadowStat) : Int :=
  let n := l.foldl (fun c f => c + f.count) 0
  if n = 0 then 12 * 2 ^ 20 else enobOf (l.foldl (fun t f => t + f.sumSq) (0 : Rat) / (n : Nat))

/-- GLD_SHADOW_n. -/
def State.gldShadow (s : State) (n : Nat) : Word :=
  let e := s.engine n
  let (st, m) := e.worst
  let v := if e.lastStats.isEmpty then 0 else publish (shadowEnob e.lastStats)
  BitVec.ofNat 64 (st * 2 ^ 32 + fieldOf 8 (max (-128) (min 127 m)) * 2 ^ 24 + v)

/-- CEL_ENGINE_n as copied into the capacity map (R464). -/
def State.capEngine (s : State) (n : Nat) : Word := BitVec.ofNat 64 ((s.engine n).state.toNat * 2 ^ 8 + s.predD n)

/-- A new generation of the capacity map as things stand (R22, R464). -/
def State.writeMapNow (s : State) : State := s.writeMap s.capEngine s.predN

/-! ### Departures (R192, R195, R196) -/

/-- An engine leaves service with a code (event 0x40), for a full recalibration or a retrack; the placer is told
(R163, R195). A further trigger on an engine that is leaving or retracking makes a full recalibration of it. -/
def State.leaveService (s : State) (n code : Nat) (full : Bool) : State :=
  let e := s.engine n
  if e.state = 1 ∨ e.state = 4 ∧ e.stations.isEmpty = false then
    let s := s.record 0x40 (dieGlide n) (item 1 n ++ item 1 code ++ item 8 (s.predN n).toNat ++ item 8 (s.predDReg n).toNat)
    let s := s.withEngine n fun e =>
      { e with state := 2, lastLeave := BitVec.ofNat 8 code, fullRecal := full, retrackFor := if full then 0 else code }
    s.withGlide fun g => { g with leaving := g.leaving ++ [n] }
  else if full = true ∧ (e.state = 2 ∨ e.state = 4) then
    let s := s.withEngine n fun e => { e with fullRecal := true, lastLeave := BitVec.ofNat 8 code, retrackFor := 0 }
    if e.state = 4 then s.withEngine n fun e => { e with state := 3 } else s
  else s

/-- The ticket that a recalibration or retrack needs: the user ticket is shared where it is held (R387). -/
def State.calTicket (s : State) (n : Nat) : Bool := s.holds (.glideCal n) || s.holds (.glideUser n)

/-- The calibration ticket is requested where none is held. -/
def State.requestCal (s : State) (n : Nat) : State := if s.calTicket n then s else s.request (.glideCal n)

/-- A station leaves an engine for its host cell (R163, R179, R199): the engine's user ticket goes when no station is
left (R387). -/
def State.unbindGlide (s : State) (n st : Nat) : State :=
  let s := s.withEngine n fun e =>
    { e with stations := e.stations.erase st, slots := e.slots.filter (·.station != st)
             applied := if e.applied = some st then none else e.applied
             shadowRecs := del e.shadowRecs st }
  if (s.engine n).stations.isEmpty && (s.engine n).state != 2 then s.release (.glideUser n) else s

end Sys2Proof.Machine
end

