-- ==== Sys2Proof/Machine/Rs.lean ====
section
/-!
DEFINITION. The RS(136,128) code over GF(2^10) of the links (R255): arithmetic of the field, the encoder, syndromes, and the
decoder that corrects up to 4 symbols.
-/
namespace Sys2Proof.Machine

/-- α times an element, over x^10 + x^3 + 1. -/
def gfX (a : Nat) : Nat := if 512 ≤ a then (2 * a - 1024) ^^^ 9 else 2 * a

/-- The product of two elements. -/
def gfMul (a b : Nat) : Nat :=
  ((List.range 10).foldl (fun (p : Nat × Nat) i => (if bit b i then p.1 ^^^ p.2 else p.1, gfX p.2)) (0, a)).1

/-- A power of an element. -/
def gfPow (a : Nat) : Nat → Nat
  | 0 => 1
  | n + 1 => gfMul a (gfPow a n)

/-- The inverse of an element other than 0: its power 1022, by squares. -/
def gfInv (a : Nat) : Nat :=
  ((List.range 9).foldl (fun (p : Nat × Nat) _ => let q := gfMul p.1 p.1; (q, gfMul p.2 q)) (a, 1)).2

/-- The value of a polynomial, highest coefficient first. -/
def gfEval (l : List Nat) (x : Nat) : Nat := l.foldl (fun v c => gfMul v x ^^^ c) 0

/-- The syndromes of a codeword: its values at α^0 to α^7. -/
def syndromes (l : List Nat) : List Nat := (List.range 8).map fun i => gfEval l (gfPow 2 i)

/-- The coefficients of the generator (x − α^0)(x − α^1)…(x − α^7) below x^8, highest first (R255). -/
def generator : List Nat :=
  ((List.range 8).foldl (fun (g : List Nat) i =>
    let a := gfPow 2 i
    (List.range (g.length + 1)).map fun k => g.getD k 0 ^^^ (if k = 0 then 0 else gfMul a (g.getD (k - 1) 0))) [1]).drop 1

/-- The check symbols of message symbols: the remainder of the message times x^8 by the generator, highest first. -/
def checkSymbols (m : List Nat) : List Nat :=
  m.foldl (fun (r : List Nat) x =>
    let d := x ^^^ r.headD 0
    (List.range 8).map fun k => r.getD (k + 1) 0 ^^^ gfMul d (generator.getD k 0)) (List.replicate 8 0)

/-- The systematic codeword of 128 message symbols: the message, then its check symbols (R255). -/
def rsEncode (m : List Nat) : List Nat := m ++ checkSymbols m

/-- A polynomial scaled and added, lowest coefficient first. -/
def polyAdd (a b : List Nat) : List Nat :=
  (List.range (max a.length b.length)).map fun i => a.getD i 0 ^^^ b.getD i 0

/-- The state of the search for the error locator: the locator, the previous one, its length, the shift and the previous
discrepancy. -/
structure Locator where
  c : List Nat := [1]
  b : List Nat := [1]
  len : Nat := 0
  m : Nat := 1
  d : Nat := 1
  deriving DecidableEq, Repr

/-- One step of the Berlekamp-Massey search at syndrome n. -/
def Locator.step (s : List Nat) (x : Locator) (n : Nat) : Locator :=
  let d := (List.range (x.len + 1)).foldl (fun v i => v ^^^ gfMul (x.c.getD i 0) (s.getD (n - i) 0)) 0
  if d = 0 then { x with m := x.m + 1 } else
  let k := gfMul d (gfInv x.d)
  let c := polyAdd x.c (List.replicate x.m 0 ++ x.b.map (gfMul k))
  if 2 * x.len ≤ n then { c := c, b := x.c, len := n + 1 - x.len, m := 1, d := d }
  else { x with c := c, m := x.m + 1 }

/-- The value of the error at power j: Forney's formula with the first root α^0. -/
def errorAt (s c : List Nat) (j : Nat) : Nat :=
  let x := gfPow 2 j
  let xi := gfInv x
  let omega := (List.range 8).map fun k => (List.range (k + 1)).foldl (fun v i => v ^^^ gfMul (c.getD i 0) (s.getD (k - i) 0)) 0
  let num := gfEval (omega.take (c.length - 1)).reverse xi
  let odd := (List.range c.length).map fun i => if i % 2 = 1 then c.getD i 0 else 0
  let den := gfEval (odd.drop 1).reverse xi
  gfMul x (gfMul num (gfInv den))

/-- The decoded codeword and how many of its 136 symbols were corrected, at most 4; none if it is uncorrectable (R255). The
first symbol is the coefficient of x^135. -/
def rsDecode (l : List Nat) : Option (List Nat × Nat) :=
  let s := syndromes l
  if s.all (· == 0) then some (l, 0) else
  let x := (List.range 8).foldl (Locator.step s) {}
  if 4 < x.len then none else
  let places := (List.range 136).filter fun j => gfEval x.c.reverse (gfInv (gfPow 2 j)) = 0
  if places.length ≠ x.len then none else
  let fixed := places.foldl (fun w j => updAt w (135 - j) (· ^^^ errorAt s x.c j)) l
  if (syndromes fixed).all (· == 0) then some (fixed, x.len) else none

end Sys2Proof.Machine
end

