-- ==== Sys2Proof/Machine/Links.lean ====
section
/-!
DEFINITION. The optical links (R250 to R280): channels and maps, training and the wiring check, link frames and retry,
fast retrains, port-down and the loopback verdict.
-/
namespace Sys2Proof.Machine

/-! ### Channels, fibres and maps (R250, R252) -/

/-- Fibres per direction in use, and with the spare (Table - Ports). -/
def fibresNeeded (n : Nat) : Nat := if n = 6 then 4 else 8
def fibresOf (n : Nat) : Nat := fibresNeeded n + 1

/-- A receive channel, as held and as changed. -/
def Port.chan (p : Port) (f w : Nat) : Channel := lookD p.channels (18 * f + w) {}
def State.withChan (s : State) (n f w : Nat) (g : Channel → Channel) : State :=
  s.withPort n fun p => { p with channels := upd p.channels (18 * f + w) {} g }

/-- The good channels of a receive fibre (R252). -/
def Port.goodChans (p : Port) (f : Nat) : List Nat :=
  (List.range 18).filter fun w => let c := p.chan f w; c.good && !c.retired

/-- The good fibres, and those in use: the lowest-numbered 8, or 4 (R252). -/
def Port.goodFibres (p : Port) (n : Nat) : List Nat :=
  (List.range (fibresOf n)).filter fun f => decide (16 ≤ (p.goodChans f).length) && !p.deadFibres.contains f
def Port.inUse (p : Port) (n : Nat) : List Nat := (p.goodFibres n).take (fibresNeeded n)

/-- The channels in use on a fibre in use: the lowest-numbered 16. -/
def Port.chansInUse (p : Port) (f : Nat) : List Nat := (p.goodChans f).take 16

/-- The physical fibre and channel of a logical lane (R252). -/
def Port.lanePlace (p : Port) (n lane : Nat) : Option (Nat × Nat) :=
  match (p.inUse n)[lane / 16]? with
  | some f => ((p.chansInUse f)[lane % 16]?).map fun w => (f, w)
  | none => none

/-- A direction fields its full set (R253): the receive direction by the port's own maps and bundles, the transmit
direction by the peer's. -/
def Port.rxFull (p : Port) (n : Nat) : Bool := (p.inUse n).length = fibresNeeded n && !p.bridgeShort
def Port.txFull (p : Port) (n : Nat) : Bool :=
  let fs := maskBits 9 p.peerFibres.toNat
  fs.length = fibresNeeded n && fs.all fun f => (maskBits 18 (lookD p.peerMaps f 0).toNat).length = 16

/-- The spares left: good fibres beyond those in use, and good channels beyond 16 on the fibres in use. -/
def Port.spareFibres (p : Port) (n : Nat) : Nat := (p.goodFibres n).length - (p.inUse n).length
def Port.spareChans (p : Port) (n : Nat) : Nat := (p.inUse n).foldl (fun k f => k + ((p.goodChans f).length - 16)) 0

/-- The spare fibres that the transmit direction may still have: those above every fibre that the peer uses, whose own check of
them no word reports (R280, DESIGN CHOICE, log 140). -/
def Port.txSpares (p : Port) (n : Nat) : Nat := fibresOf n - ((maskBits 9 p.peerFibres.toNat).foldl max 0 + 1)

/-- Codes of link training states (R265). -/
def LinkState.code : LinkState → Nat
  | .down => 0 | .light => 1 | .lock => 2 | .align => 3 | .margin => 4 | .map => 5 | .ident => 6 | .up => 7
  | .retrain => 8 | .held => 9

/-! ### Channels and fibres retired (R267, R268, R273) -/

/-- Event 0x30: port, fibre, channel, cause, spares left. -/
def State.chanEvent (s : State) (n f w cause : Nat) : State :=
  s.record 0x30 (dieEdge n)
    (item 1 n ++ item 1 f ++ item 1 w ++ item 1 cause ++ item 1 ((s.port n).spareChans n))

/-- Event 0x31: port, fibre, good channels found. -/
def State.fibreEvent (s : State) (n f : Nat) : State :=
  s.record 0x31 (dieEdge n) (item 1 n ++ item 1 f ++ item 1 ((s.port n).goodChans f).length)

/-- A channel is retired; a fibre left with fewer than 16 good channels goes with it (R252, R273). Those retired in running are
counted (R280). -/
def State.retireChan (s : State) (n f w cause : Nat) : State :=
  if (s.port n).chan f w |>.retired then s else
  let before := ((s.port n).goodChans f).length
  let s := s.withChan n f w fun c => { c with good := false, retired := true }
  let running := (s.port n).state = .up || (s.port n).state = .retrain
  let count (s : State) : State := if running then s.bump (oLnk n 0x130) else s
  let s := (count s).chanEvent n f w cause
  if 16 ≤ before ∧ ((s.port n).goodChans f).length < 16 then
    let s := s.withPort n fun p => { p with deadFibres := p.deadFibres ++ [f] }
    (count s).fibreEvent n f
  else s

/-! ### LIGHT, DOWN, HELD and UP (R265, R277, R278, R388) -/

/-- Ports train from start-up step 7 on; in FAULT the torus ports stay closed (R38, R265). -/
def State.linksOpen (s : State) (n : Nat) : Bool :=
  match s.dev.mode with
  | .off | .standby => false
  | .boot => decide (7 ≤ s.boot.step)
  | .fault => n = 6
  | _ => true

/-- A port enters a training state. -/
def Port.enter (p : Port) (st : LinkState) (pt : Word) : Port := { p with state := st, since := pt, workDone := false }

/-- A port enters LIGHT with a request for its link ticket, or stays DOWN where R265 excepts it; with no good comb its cause is
DEVICE (R276). -/
def State.toLight (s : State) (n : Nat) : State :=
  let p := s.port n
  if s.cabled n && s.linksOpen n && p.holdCause = hNone && !p.combs.isEmpty then
    (s.withPort n fun p =>
      { p.enter .light s.pt with
        fibresLit := [], deadFibres := [], miswired := false, marginRestarted := false
        active := p.combs.headD 3, peerSeen := 0, incoming := 0, peerEpoch := 0, ackEpoch := 0, peerMaps := [], peerFibres := 0
        channels := p.channels.map fun c =>
          (c.1, { c.2 with failed := false, verified := 0, relocks := 0, mismatch := 0, aligned := false }) }).request
      (.link n)
  else
    let cause := if p.combs.isEmpty then hDevice else p.holdCause
    (s.withPort n fun p => { p with state := .down, active := 3, holdCause := cause }).release (.link n)

/-- A port closes: its lanes, its standing units and the exemption of R30 are gone, and it is fenced if it carried
data (R277, R293, R388). -/
def State.closePort (s : State) (n : Nat) : State :=
  let wasUp := (s.port n).state = .up || (s.port n).state = .retrain
  let s := s.withPort n fun p => { p with lanes := [], txWaiting := [], rxWaiting := [], rxDelivered := [], txFlits := 0, rxFlits := 0 }
  let s := s.withPower fun p => { p with portUnits := p.portUnits.filter (· != n) }
  let s := s.withClocks fun c => { c with suspended := c.suspended.filter (· != n) }
  if wasUp then s.fence n 2 else s

/-- A port goes DOWN with a cause of R491, and re-enters LIGHT at once where it may (R265, R277). -/
def State.portDown (s : State) (n cause : Nat) : State :=
  let wasUp := (s.port n).state = .up || (s.port n).state = .retrain
  let s := s.record 0x35 (dieEdge n) (item 1 n ++ item 1 cause)
  let s := if wasUp then s.bump (oLnk n 0x140) else s
  (s.closePort n).toLight n

/-- A port is HELD with a cause (R265, R270, R271, R278). -/
def State.holdPort (s : State) (n cause : Nat) : State :=
  let s := (s.closePort n).release (.link n)
  s.withPort n fun p => { p.enter .held s.pt with holdCause := cause, loopDue := false }

/-- A port reaches UP (R388): 96 units of its ticket become fixed draw, its lanes start anew, and event 0x36 says so. -/
def State.portUp (s : State) (n : Nat) : State :=
  let s := s.release (.link n)
  let s := s.withPower fun p => { p with portUnits := p.portUnits.filter (· != n) ++ [n] }
  let s := s.withPort n fun p =>
    { p.enter .up s.pt with loopDue := false, lanes := [], txFlits := 0, rxFlits := 0, txWaiting := [], rxWaiting := [], rxDelivered := [] }
  let p := s.port n
  s.record 0x36 (dieEdge n) (item 1 n ++ item 1 p.epoch ++ item 2 p.rtt)

/-- A port in training that holds its link ticket: one without it has paused (R392). -/
def State.trains (s : State) (n : Nat) : Bool := s.holds (.link n)

/-- The peer reports the state or a later one (R265); HELD and RETRAIN are none. -/
def peerAt (seen : Nat) (st : LinkState) : Bool := decide (st.code ≤ seen) && decide (seen ≤ 7)

/-- IDENT runs from start-up step 10 on (R265, R431). -/
def State.identOpen (s : State) : Bool := s.dev.mode != .boot || decide (10 ≤ s.boot.step)

/-- A port whose state's work is done goes on when the peer reports that state or a later one (R265, R269). -/
def State.advancePort (s : State) (n : Nat) : State :=
  let p := s.port n
  if !p.workDone || !peerAt p.peerSeen p.state || !s.trains n then s else
  match p.state with
  | .lock => s.withPort n fun p => p.enter .align s.pt
  | .align => s.withPort n fun p => p.enter .margin s.pt
  | .margin => s.withPort n fun p => { p.enter .map s.pt with epoch := (p.epoch + 1) % 16 }
  | .map => if s.identOpen then s.withPort n fun p => p.enter .ident s.pt else s
  | _ => s

/-- The work of a training state is done. -/
def State.portWork (s : State) (n : Nat) : State := (s.withPort n fun p => { p with workDone := true }).advancePort n

/-- The mean of an Edge engine's four sensors in 1/64 °C, rounded down. -/
def State.edgeT (s : State) (n : Nat) : Int := ((List.range 4).foldl (fun t i => t + s.sensorT (448 + 4 * n + i)) 0) / 4

/-- The heater code that the channel table gives a drop ring of receive fibre f and channel w at a temperature: 33 codes at
15 °C to 95 °C in steps of 2.5 °C, linear between them, rounded down, and the end codes beyond (R267, DESIGN CHOICE, log
139). -/
def heaterCode (table : List Byte) (n f w : Nat) (t : Int) : Int :=
  let row := 66 * (18 * (18 * n + 9 + f) + w)
  let code (k : Nat) : Int := ((fld table (row + 2 * k) 2 : Nat) : Int)
  let k := ((t - 960) / 160).toNat
  if t < 960 then code 0
  else if 32 ≤ k then code 32
  else code k + (code (k + 1) - code k) * ((t - 960) % 160) / 160

/-- The heater code of a ring at its engine's temperature. -/
def State.heaterAt (s : State) (n f w : Nat) : Int := heaterCode s.config.channelTables n f w (s.edgeT n)

/-- A port enters LOCK: each drop ring is set from the channel table (R265, R267). -/
def State.toLock (s : State) (n : Nat) : State :=
  let rings := (List.range (fibresOf n)).flatMap fun f => (List.range 18).map fun w => (f, w)
  s.withPort n fun p =>
    { p.enter .lock s.pt with
      channels := rings.foldl (fun l r => upd l (18 * r.1 + r.2) {} fun c => { c with heater := s.heaterAt n r.1 r.2 }) p.channels }

/-- A port with light on at least 8 fibres, or 4, whose ticket is held and whose peer reports LIGHT or a later state goes to
LOCK (R265). -/
def State.leaveLight (s : State) (n : Nat) : State :=
  let p := s.port n
  if fibresNeeded n ≤ p.fibresLit.length ∧ s.trains n = true ∧ peerAt p.peerSeen .light = true then s.toLock n else s

/-- LIGHT_DETECTED: light is found on fibres (R265). -/
def execLightDetected (port : Nat) (fibres : List Nat) (s : State) : Out :=
  if (s.port port).state = .light then
    let lit := (List.range (fibresOf port)).filter fibres.contains
    .next ((s.withPort port fun p => { p with fibresLit := lit }).leaveLight port)
  else .next s

/-! ### Fast retrains (R273, R274) -/

/-- A trigger of a fast retrain (R273). In UP it starts one, which suspends the engine's clock monitor (R30); before t0 +
9 µs it joins the one in progress, and later it asks for another. -/
def State.trigger (s : State) (n cause : Nat) : State :=
  let b : Byte := BitVec.ofNat 8 (2 ^ (cause - 1))
  match (s.port n).state with
  | .up =>
    let s := s.withPort n fun p =>
      { p.enter .retrain s.pt with
        retrainSince := s.pt, retrainCauses := b, laterTrigger := 0, peerSeen := 0, ackEpoch := p.epoch
        retrains := (p.retrains.filter fun t => decide (s.since t ≤ ticksS 1)) ++ [s.pt] }
    (s.bump (oLnk n 0x120)).withClocks fun c => { c with suspended := if c.suspended.contains n then c.suspended else c.suspended ++ [n] }
  | .retrain =>
    if s.since (s.port n).retrainSince < ticksUs 9 then s.withPort n fun p => { p with retrainCauses := p.retrainCauses ||| b }
    else s.withPort n fun p => { p with laterTrigger := p.laterTrigger ||| b }
  | _ => s

/-! ### Training words (R266) -/

/-- The CRC of a training word, over its bits [127:16] from the highest on. -/
def wordCrc (w : BitVec 128) : BitVec 16 :=
  crc16 ((List.range 14).map fun i => BitVec.ofNat 8 (bits w.toNat (127 - 8 * i) (120 - 8 * i)))

/-- A training word is sound. -/
def wordOk (w : BitVec 128) : Bool := bits w.toNat 127 112 = 0xB5E3 && bits w.toNat 15 0 = (wordCrc w).toNat

/-- The drop ring of receive fibre f and channel w reads a word in LOCK (R267). -/
def State.ringWord (s : State) (n f w cf cw : Nat) : State :=
  let s := if cf = f then s else s.withPort n fun p => { p with miswired := true }
  let c := (s.port n).chan f w
  if c.verified = 16 ∨ c.failed = true then s
  else if cw = w then s.withChan n f w fun c => { c with verified := c.verified + 1 }
  else
    let s := (s.bump (oLnk n 0x128)).record 0x33 (dieEdge n) (item 1 n ++ item 1 f ++ item 1 w ++ item 1 cw)
    if c.relocks < 3 then s.withChan n f w fun c =>
        { c with verified := 0, relocks := c.relocks + 1, heater := c.heater + s.heaterAt n f w - s.heaterAt n f cw }
    else (s.withChan n f w fun c => { c with good := false, failed := true }).chanEvent n f w 0x11

/-- Every ring of the fibres with light is verified or has failed. -/
def Port.locked (p : Port) : Bool :=
  p.fibresLit.all fun f => (List.range 18).all fun w => let c := p.chan f w; c.verified = 16 || c.failed

/-- The codeword boundary and FS are found on a channel (R265). -/
def State.alignChan (s : State) (n f w : Nat) : State := s.withChan n f w fun c => { c with aligned := true }

/-- Every channel that LOCK verified is aligned. -/
def Port.alignedAll (p : Port) : Bool :=
  p.fibresLit.all fun f => (List.range 18).all fun w => let c := p.chan f w; c.aligned || c.failed

/-- A word's maps are taken (R269): those of one EPOCH are applied once every fibre's has come. -/
def State.mapWord (s : State) (n w : Nat) : State :=
  let e := bits w 60 57
  s.withPort n fun p =>
    let maps := if e = p.incoming then p.peerMaps else []
    let maps := put maps (bits w 91 88) (BitVec.ofNat 18 (bits w 87 70))
    { p with
      incoming := e, ackEpoch := bits w 56 53, peerMaps := maps, peerFibres := BitVec.ofNat 9 (bits w 69 61)
      peerEpoch := if (List.range (fibresOf n)).all fun f => (look maps f).isSome then e else p.peerEpoch }

/-- The peer's maps are applied, and the peer has applied this side's (R269). -/
def Port.mapped (p : Port) (n : Nat) : Bool :=
  (List.range (fibresOf n)).all (fun f => (look p.peerMaps f).isSome) && p.peerEpoch = p.incoming && p.ackEpoch = p.epoch

/-- A direction of a port cannot field its full set: the loop of R278 has to decide. -/
def State.awaitLoop (s : State) (n : Nat) : State := s.withPort n fun p => { p with loopDue := true }

/-- In a fast retrain, from t0 + 9 µs on, the maps are computed anew, once, and EPOCH increases (R274). -/
def State.remap (s : State) (n : Nat) : State :=
  if (s.port n).workDone || decide (s.since (s.port n).retrainSince < ticksUs 9) then s
  else s.withPort n fun p => { p with workDone := true, epoch := (p.epoch + 1) % 16 }

/-- The coordinate that a torus port expects of its peer (R271). -/
def State.peerExpected (s : State) (n : Nat) : Coord :=
  let a := n / 2
  let e := s.extent a
  let x := (axisOf s.here a + (if n % 2 = 0 then 1 else e - 1)) % e
  let c (b : Nat) : Nat := if b = a then x else axisOf s.here b
  coordOf (c 0) (c 1) (c 2)

/-- The first condition of R271 that holds. -/
def State.identCause (s : State) (n w rtt : Nat) : Nat :=
  let port := bits w 111 109
  let coord : Coord := BitVec.ofNat 18 (bits w 51 34)
  if n < 6 ∧ bit w 52 = false then hPeerStrap
  else if port ≠ (if n = 6 then 7 else n ^^^ 1) then hPort
  else if n < 6 ∧ coord ≠ s.peerExpected n then hCoord
  else if (s.port n).miswired then hFibre
  else if 900 < rtt then hRtt
  else hNone

/-- The wiring check of IDENT (R264, R271): the port goes UP with its full set of lanes (R253), or is HELD with a miswire
event. -/
def State.identWord (s : State) (n w rtt : Nat) : State :=
  if !peerAt (bits w 95 92) .ident then s else
  let port := bits w 111 109
  let coord := bits w 51 34
  let s := s.withPort n fun p =>
    { p with neighValid := true, rtt := rtt, peerPort := port, peerCoord := BitVec.ofNat 18 coord }
  if n < 6 ∧ s.links.strapOk = false then s.holdPort n hStrap else
  let cause := s.identCause n w rtt
  if cause = hNone then
    if (s.port n).rxFull n && (s.port n).txFull n then s.portUp n else s.awaitLoop n
  else (s.holdPort n cause).record 0x37 (dieEdge n) (item 1 n ++ item 1 cause ++ item 1 port ++ item 3 coord)

/-- TRAINING_WORD: the ring of a receive fibre and channel reads a word, with the RTT as measured by then (R266 to R271). -/
def execTrainingWord (port fibre chan : Nat) (word : BitVec 128) (rtt : Nat) (s : State) : Out :=
  if !wordOk word then .next s else
  let w := word.toNat
  let seen (s : State) : State := s.withPort port fun p => { p with peerSeen := bits w 95 92 }
  match (s.port port).state with
  | .light => .next ((seen s).leaveLight port)
  | .lock =>
    if !s.trains port then .next s else
    let s := (seen s).ringWord port fibre chan (bits w 108 105) (bits w 104 100)
    .next (if (s.port port).locked then s.portWork port else s)
  | .align =>
    if !s.trains port then .next s else
    let s := (seen s).alignChan port fibre chan
    .next (if (s.port port).alignedAll then s.portWork port else s)
  | .margin => if s.trains port then .next ((seen s).advancePort port) else .next s
  | .map =>
    if !s.trains port then .next s else
    let s := (seen s).mapWord port w
    if (s.port port).mapped port then
      if (s.port port).txFull port then .next (s.portWork port) else .next (s.awaitLoop port)
    else .next s
  | .ident => if s.trains port then .next ((seen s).identWord port w rtt) else .next s
  | .up => if bit w 33 then .next (s.trigger port 6) else .next s
  | .retrain => .next (((seen s).remap port).mapWord port w)
  | _ => .next s

/-- The margin of a channel in 0.5 dB steps: the last of the reductions 3.0 dB, 3.5 dB to 8.0 dB that pass, each with at most
1,000 errors, before the first that fails; none where 3.0 dB fails (R268). -/
def marginOf (errors : List Nat) : Option Nat :=
  match ((errors.take 11).takeWhile fun e => decide (e ≤ 1000)).length with
  | 0 => none
  | n + 1 => some (6 + n)

/-- MARGIN_TEST (R268): margins are recorded, and channels and fibres that fail retired. A port that cannot field its full
set awaits the loopback test of R278. -/
def execMarginTest (port : Nat) (results : List ChannelMargin) (dark : List Nat) (s : State) : Out :=
  if (s.port port).state = .margin ∧ s.trains port = true then
    let s := results.foldl (fun (s : State) r =>
      let c := (s.port port).chan r.fibre r.chan
      match marginOf r.errors with
      | some m => s.withChan port r.fibre r.chan fun c => { c with good := !c.failed && !c.retired, margin := m }
      | none =>
        let s := s.withChan port r.fibre r.chan fun c => { c with good := false, failed := true, margin := 0 }
        if c.failed || c.retired then s else s.chanEvent port r.fibre r.chan 0x10) s
    let bad := (List.range (fibresOf port)).filter fun f =>
      dark.contains f || decide (((s.port port).goodChans f).length < 16)
    let s := bad.foldl (fun (s : State) f =>
      (s.withPort port fun p => { p with deadFibres := p.deadFibres ++ [f] }).fibreEvent port f) s
    let p := s.port port
    let lanes := (List.range (lanesOf port)).filterMap fun l => (p.lanePlace port l).map fun fw => (l, (p.chan fw.1 fw.2).margin)
    let s := match lanes with
      | [] => s
      | x :: r =>
        let low := r.foldl (fun (m y : Nat × Nat) => if y.2 < m.2 then y else m) x
        s.record 0x39 (dieEdge port) (item 1 port ++ item 1 low.2 ++ item 1 low.1)
    if p.rxFull port then .next (s.portWork port) else .next (s.awaitLoop port)
  else .next s

/-- The limit of a training state (R265, R274), in ticks. -/
def trainLimit : LinkState → Option Nat
  | .lock => some (ticksMs 5)
  | .align => some (ticksMs 1)
  | .margin => some (ticksMs 30)
  | .map => some (ticksMs 2)
  | .ident => some (ticksMs 10)
  | .retrain => some (ticksUs 20)
  | _ => none

/-- Event 0x32: port, causes, duration in ns, ending state. -/
def State.retrainEvent (s : State) (n : Nat) (causes : Byte) (ns : Nat) (st : LinkState) : State :=
  s.record 0x32 (dieEdge n) (item 1 n ++ [causes] ++ item 4 ns ++ item 1 st.code)

/-- Event 0x32 of a retrain that ends DOWN before its time (R274). -/
def State.retrainCut (s : State) (n : Nat) : State :=
  let p := s.port n
  if p.state = .retrain then s.retrainEvent n p.retrainCauses (10 * s.since p.retrainSince) .down else s

/-- TRAINING_LIMIT: the limit of the state runs out (R265). A revocation suspends it (R278), and a port whose MAP is
complete waits for IDENT without one. A fast retrain ends DOWN (R274). -/
def execTrainingLimit (port : Nat) (s : State) : Out :=
  let p := s.port port
  match trainLimit p.state with
  | none => .next s
  | some lim =>
    if s.since p.since < lim || p.suspendedLimit || p.workDone && p.state == .map then .next s
    else if p.state = .retrain then
      .next (((s.retrainEvent port p.retrainCauses 20000 .down).portDown port 0x08).awaitLoop port)
    else .next (s.portDown port p.state.code)

/-! ### Link frames and retry (R258 to R262) -/

/-- Frames before an ACK leave the replay buffer (R261). -/
def Lane.ackTo (l : Lane) (a : Nat) (pt : Word) : Lane :=
  match l.replay with
  | [] => l
  | (s0, _) :: _ =>
    let k := (a + 4096 - s0) % 4096
    if 0 < k ∧ k ≤ l.replay.length then { l with replay := l.replay.drop k, resends := 0, progress := pt, lastRetry := none } else l

/-- An ACK arrives on a lane (R261): its frames are released, and waiting flits sent. -/
def State.ackLane (s : State) (n lane a : Nat) : State :=
  let s := s.withPort n fun p => { p with lanes := upd p.lanes lane {} fun l => l.ackTo a s.pt }
  s.fillLanes n (s.port n).txWaiting.length

/-- A lane resends every frame from its oldest unacknowledged one on (R262). The eighth resend of one frame asks for a fast
retrain. -/
def State.resend (s : State) (n lane : Nat) : State :=
  let l := lookD (s.port n).lanes lane {}
  match l.replay with
  | [] => s
  | (a, _) :: _ =>
    let s := s.withPort n fun p => { p with lanes := upd p.lanes lane {} fun l =>
      { l with resends := l.resends + 1, progress := s.pt, lastRetry := some (a, s.pt) } }
    let s := (s.bump (oLnk n 0x118)).wrapBy (oLnk n 0x218) l.replay.length
    if 8 ≤ l.resends + 1 then s.trigger n 1 else s

/-- A retry request for a (R262): it acknowledges what precedes a. While the transmitter has not yet resent past a, which
takes the time of a frame, it ignores further requests for the same a. -/
def State.retryFrom (s : State) (n lane a : Nat) : State :=
  let s := s.ackLane n lane a
  let l := lookD (s.port n).lanes lane {}
  let again := match l.lastRetry with
    | some (b, t) => b = a && decide (s.since t < 4)
    | none => false
  match l.replay with
  | (b, _) :: _ => if a = b ∧ again = false then s.resend n lane else s
  | [] => s

/-- Accepted flits are delivered in port order (R260): the next, as long as it is there. -/
def State.deliverFlits (s : State) (n fuel : Nat) : State :=
  match fuel with
  | 0 => s
  | fuel + 1 =>
    let p := s.port n
    match look p.rxWaiting p.rxFlits with
    | some f =>
      (s.withPort n fun p =>
        { p with rxWaiting := del p.rxWaiting p.rxFlits, rxDelivered := p.rxDelivered ++ [f], rxFlits := p.rxFlits + 1 }).deliverFlits
        n fuel
    | none => s

/-- The number of the flit that a lane's next data frame carries (R260). -/
def Port.nextFlit (p : Port) (n lane : Nat) : Nat :=
  let k := lanesOf n
  let first := p.rxFlits + (lane + k - p.rxFlits % k) % k
  ((List.range (p.rxWaiting.length + 1)).map fun i => first + i * k).find? (fun f => (look p.rxWaiting f).isNone) |>.getD first

/-- A data frame is accepted (R261). -/
def State.acceptFrame (s : State) (n lane : Nat) (flit : List Byte) : State :=
  let k := (s.port n).nextFlit n lane
  let s := s.withPort n fun p =>
    { p with
      lanes := upd p.lanes lane {} fun l => { l with rxSeq := (l.rxSeq + 1) % 4096, requesting := false }
      rxWaiting := put p.rxWaiting k flit }
  (s.wrapBy (oLnk n 0x208) 1).deliverFlits n ((s.port n).rxWaiting.length)

/-- A lane sends retry requests until it accepts the frame that it expects (R262). -/
def State.askRetry (s : State) (n lane : Nat) : State :=
  s.withPort n fun p => { p with lanes := upd p.lanes lane {} fun l => { l with requesting := true } }

/-- LINK_FRAME: a frame of 264 bytes arrives on a lane (R258 to R262). -/
def execLinkFrame (port lane : Nat) (frame : List Byte) (s : State) : Out :=
  if (s.port port).state ≠ .up ∨ lanesOf port ≤ lane ∨ frame.length ≠ 264 then .next s else
  let s := s.withPort port fun p => { p with lanes := p.lanes.map fun l =>
    if l.1 = lane then (l.1, { l.2 with rxFrames := l.2.rxFrames.erase frame }) else l }
  let t := fld frame 256 8
  let ty := bits t 7 6
  let seq := bits t 19 8
  if (crc32 (sub frame 0 260)).toNat ≠ bits t 63 32 ∨ ty = 3 then .next ((s.bump (oLnk port 0x110)).askRetry port lane) else
  let s := if ty = 2 then s.retryFrom port lane (bits t 31 20) else s.ackLane port lane (bits t 31 20)
  let want := (lookD (s.port port).lanes lane {}).rxSeq
  if ty = 0 then if seq = want then .next (s.acceptFrame port lane (sub frame 0 256)) else .next (s.askRetry port lane)
  else if seq ≠ want ∧ (seq + 4096 - want) % 4096 < 2048 then .next (s.askRetry port lane)
  else .next s

/-- LINK_RETRY_REQUEST: the peer asks a lane to resend from a SEQ (R262). -/
def execLinkRetryRequest (port lane ack : Nat) (s : State) : Out :=
  if (s.port port).state = .up then .next (s.retryFrom port lane (ack % 4096)) else .next s

/-- REPLAY_TIMEOUT: the oldest unacknowledged frame of a lane has seen no progress for 2 × RTT + 1 µs (R262). -/
def execReplayTimeout (port lane : Nat) (s : State) : Out :=
  let p := s.port port
  let l := lookD p.lanes lane {}
  if p.state = .up ∧ l.replay.isEmpty = false ∧ 2 * p.rtt + ticksUs 1 ≤ s.since l.progress then .next (s.resend port lane)
  else .next s

/-! ### Triggers in running (R255, R256, R273, R276) -/

/-- The logical lane that a receive fibre and channel carry (R252). -/
def Port.laneAt (p : Port) (n f w : Nat) : Option Nat := (List.range (lanesOf n)).find? fun l => p.lanePlace n l = some (f, w)

/-- The bits of symbols, each with bit 0 first (R255, R256). -/
def symbolBits (l : List Nat) : List Bool := l.flatMap fun x => (List.range 10).map (bit x)

/-- The bytes of a frame's stream bits, each with its least significant bit first (R258). -/
def bytesOfBits (l : List Bool) : List Byte :=
  (List.range 264).map fun k => BitVec.ofNat 8 ((List.range 8).foldl (fun n i => n + b2n (l.getD (8 * k + i) false) * 2 ^ i) 0)

/-- The whole frames of 2,112 bits at the head of a stream, and what is left of it. -/
def cutFrames (l : List Bool) (fuel : Nat) : List (List Byte) × List Bool :=
  match fuel with
  | 0 => ([], l)
  | fuel + 1 =>
    if l.length < 2112 then ([], l)
    else
      let r := cutFrames (l.drop 2112) fuel
      (bytesOfBits (l.take 2112) :: r.1, r.2)

/-- A lane's stream goes on with a codeword's 1,270 payload bits (R256, R258): with FS a frame begins at the first of them;
before the first FS the stream is not in step. -/
def Lane.takeBits (l : Lane) (fs : Bool) (b : List Bool) : Lane :=
  if fs || l.inStep then
    let r := cutFrames ((if fs then [] else l.rxBits) ++ b) 2
    { l with inStep := true, rxBits := r.2, rxFrames := l.rxFrames ++ r.1 }
  else l

/-- A codeword's payload joins the stream of its lane (R256). -/
def State.takePayload (s : State) (n f w : Nat) (l : List Nat) : State :=
  match (s.port n).laneAt n f w with
  | some lane => s.withPort n fun p =>
      { p with lanes := upd p.lanes lane {} fun x => x.takeBits (bit (l.headD 0) 0) (symbolBits ((l.take 128).drop 1)) }
  | none => s

/-- CODEWORD: a codeword is received on a channel (R255, R256): its payload joins the lane's stream. Four in a row whose
control symbol names another channel or fibre retire the channel and start a fast retrain. -/
def execCodeword (port fibre chan : Nat) (symbols : List Nat) (s : State) : Out :=
  if (s.port port).state ≠ .up ∨ symbols.length ≠ 136 then .next s else
  let s := s.wrapBy (oLnk port 0x210) 1
  match rsDecode (symbols.map (· % 1024)) with
  | none => .next ((s.bump (oLnk port 0x108)).withChan port fibre chan fun c => { c with mismatch := 0 })
  | some (l, k) =>
    let s := if k = 0 then s else s.satBy (oLnk port 0x100) k
    let m := l.headD 0
    let own := bits m 9 5 = chan && bits m 4 1 = fibre
    let s := s.withChan port fibre chan fun c =>
      { c with window := c.window + k, mismatch := if own then 0 else c.mismatch + 1 }
    if 4 ≤ ((s.port port).chan fibre chan).mismatch then
      let s := s.withChan port fibre chan fun c => { c with mismatch := 0 }
      .next (((s.bump (oLnk port 0x128)).retireChan port fibre chan 2).trigger port 2)
    else .next (if own then s.takePayload port fibre chan l else s)

/-- CORRECTED_SYMBOL_WINDOW: a channel's window of 1 ms ends; more than 64 corrected symbols retire it (R273). -/
def execCorrectedSymbolWindow (port fibre chan : Nat) (s : State) : Out :=
  let n := ((s.port port).chan fibre chan).window
  let s := s.withChan port fibre chan fun c => { c with lastWindow := min n 0xFFFF, window := 0 }
  if (s.port port).state = .up ∧ 64 < n then .next ((s.retireChan port fibre chan 3).trigger port 3) else .next s

/-- LIGHT_LOST: a channel's light or lock retires it (R273); light lost on every fibre sends the port DOWN (R491). -/
def execLightLost (port : Nat) (loss : LightLoss) (s : State) : Out :=
  match loss, (s.port port).state with
  | .channel f w, .up | .channel f w, .retrain => .next ((s.retireChan port f w 3).trigger port 3)
  | .allFibres, .lock | .allFibres, .align | .allFibres, .margin | .allFibres, .map | .allFibres, .ident
  | .allFibres, .up | .allFibres, .retrain => .next ((s.retrainCut port).portDown port 0x0A)
  | .allFibres, .light => .next (s.withPort port fun p => { p with fibresLit := [] })
  | _, _ => .next s

/-- The data lanes of the bundles of a port (R257): 192, or 96 on the service port. -/
def dataLanes (n : Nat) : Nat := if n = 6 then 96 else 192

/-- A bundle has a lane: data lane i of bundle b is lane 64b + i of the port, and beyond them the bundle's 4 spares (R257,
R428). -/
def bundleLane (n bundle lane : Nat) : Bool :=
  if lane < 64 then decide (64 * bundle + lane < dataLanes n) else decide (lane < 68) && decide (64 * bundle < dataLanes n)

/-- The bundle and the lane in it of a data lane of a port, and the three data lanes that carry the codewords of a logical
wavelength (R257). -/
def bundleOf (lane : Nat) : Nat × Nat := (lane / 64, lane % 64)
def tripleOf (wavelength : Nat) : List Nat := [3 * (wavelength / 2), 3 * (wavelength / 2) + 1, 3 * (wavelength / 2) + 2]

/-- BRIDGE_LINE_CHECK_FAIL: a bridge lane is replaced by a spare of its bundle, the spare map gains it, and a fast retrain
starts (R273, R428). With no spare left the bundle cannot field its lanes. -/
def execBridgeLineCheckFail (port bundle lane : Nat) (s : State) : Out :=
  if !bundleLane port bundle lane then .next s else
  match s.dev.mode with
  | .off | .standby => .next s
  | _ =>
    let used := lookD (s.port port).bridgeSpares bundle 0
    let s := if used < 4 then
        (s.withPort port fun p => { p with bridgeSpares := put p.bridgeSpares bundle (used + 1) }).addSpare 1 (dieEdge port) bundle
          lane (1 + 256 * (64 + used)) 6
      else s.withPort port fun p => { p with bridgeShort := true }
    .next (s.trigger port 5)

/-- COMB_FAILURE: the active comb fails (R276). The spare takes over within a fast retrain, and MARGIN restarts once; with
no good comb left the port goes DOWN with cause DEVICE. -/
def execCombFailure (port : Nat) (linePower : Int) (s : State) : Out :=
  let p := s.port port
  let rest := p.combs.filter (· != p.active)
  match p.state with
  | .down | .held => .next s
  | st =>
    match rest with
    | c :: _ =>
      let s := s.withPort port fun p => { p with combs := rest, active := c }
      let s := (s.bump (oLnk port 0x138)).record 0x34 (dieEdge port) (item 1 port ++ item 1 p.active ++ itemS 2 linePower)
      match st with
      | .margin =>
        if p.marginRestarted then .next s
        else .next (s.withPort port fun p => { p.enter .margin s.pt with marginRestarted := true })
      | _ => .next (s.trigger port 4)
    | [] =>
      let s := s.withPort port fun p => { p with combs := [], active := 3, holdCause := hDevice }
      .next ((s.retrainCut port).portDown port 0x0C).checkFloor

/-- FAST_RETRAIN_COMPLETE (R274, R275, R371): rings that did not relock are retired, the maps recomputed with the next EPOCH
if no word has come since t0 + 9 µs, the trained width settled, and each lane resends from the peer's expected SEQ. The port
ends UP once the maps have been exchanged (R269), or DOWN; the fifth retrain within 1 s ends DOWN. -/
def execFastRetrainComplete (port : Nat) (report : RetrainReport) (s : State) : Out :=
  if (s.port port).state ≠ .retrain then .next s else
  let s := report.badRings.foldl (fun (s : State) r => s.retireChan port r.1 r.2 0x11) s
  let s := s.remap port
  let p := s.port port
  if p.rxFull port && p.txFull port && !p.mapped port then .next s else
  let s := s.withClocks fun c => { c with suspended := c.suspended.filter (· != port) }
  let fifth := decide (4 < (p.retrains.filter fun t => decide (s.since t ≤ ticksS 1)).length)
  let s := if report.widthAgreesFirst then s else
    s.record 0x18 (dieEdge port) (item 1 (dieEdge port) ++ item 1 0 ++ item 1 (lanesOf port) ++
      [Config.itemCode 0x18 3 (b2n report.widthAgreesAgain)])
  let full := p.rxFull port && p.txFull port
  let ends : LinkState := if full && !fifth then .up else .down
  let s := s.retrainEvent port p.retrainCauses report.durationNs ends
  if !report.widthAgreesFirst && !report.widthAgreesAgain then .next (s.enterFault 0x08)
  else if !full then
    .next ((s.portDown port 0x08).awaitLoop port)
  else if fifth then .next (s.portDown port 0x0B)
  else
    let s := s.withPort port fun p => p.enter .up s.pt
    let s := report.acks.foldl (fun (s : State) a => s.ackLane port a.1 (a.2 % 4096)) s
    let left := (s.port port).lanes.foldl (fun n l => n + l.2.replay.length) 0
    let s := s.wrapBy (oLnk port 0x218) left
    let s := s.withPort port fun p => { p with lanes := p.lanes.map fun l => (l.1, { l.2 with progress := s.pt, resends := 0 }) }
    let s := s.fillLanes port (s.port port).txWaiting.length
    let s := s.pump port (lookD s.fabric.waiting port []).length
    .next ((maskBits 6 p.laterTrigger.toNat).foldl (fun (s : State) i => s.trigger port (i + 1)) s)

/-- LOOPBACK_TEST (R278): the loop fields the full set, so the fault lies in the plant or the peer, or it does not, so the
port is HELD with cause DEVICE, which on a torus port is below the floor (R369). -/
def execLoopbackTest (port : Nat) (fieldsFullSet : Bool) (s : State) : Out :=
  if (s.port port).loopDue then
    let cause := if fieldsFullSet then hPlant else hDevice
    let s := (s.holdPort port cause).record 0x3A (dieEdge port) (item 1 port ++ [Config.itemCode 0x3A 1 cause])
    .next s.checkFloor
  else .next s

/-! ### LNK_CTL and fences (R280, R293) -/

/-- HOLD: the bit of LNK_CTL_n is written, ignored while BOUND. 1 holds the port with cause 0x9; 0 lets it train. -/
def State.setHold (s : State) (port : Nat) (value : Bool) : State :=
  if s.dev.bound || decide (7 ≤ port) then s else
  if value then
    if (s.port port).holdReg then s else
    let s := s.withPort port fun p => { p with holdReg := true }
    s.holdPort port hOperator
  else
    let was := decide ((s.port port).state = .held) && decide ((s.port port).holdCause = hOperator)
    let s := s.withPort port fun p => { p with holdReg := false, holdCause := if was then hNone else p.holdCause }
    if was then s.toLight port else s

/-- HOLD (R280). -/
def execHold (port : Nat) (value : Bool) (s : State) : Out := .next (s.setHold port value)

/-- RETRAIN_GO: training starts from LIGHT, ignored while BOUND (R280). An operator's hold stands. -/
def State.retrainPort (s : State) (port : Nat) : State :=
  if s.dev.bound || decide (7 ≤ port) || (s.port port).holdReg then s else
  let s := s.closePort port
  (s.withPort port fun p => { p with holdCause := hNone }).toLight port

/-- RETRAIN_GO (R280). -/
def execRetrainGo (port : Nat) (s : State) : Out := .next (s.retrainPort port)

/-- FENCE_GO fences a port (R293). -/
def execFenceGo (port : Nat) (s : State) : Out := if port < 7 then .next (s.fence port 1) else .next s

end Sys2Proof.Machine
end

