-- ==== Sys2Proof/Machine/Glide.lean ====
section
/-!
DEFINITION. Glide stations and engines at run (R173 to R201): GL_LOAD and GL_RUN on an engine and on cells, pilot and
drift windows, shadow checks, recalibration and retrack, map switches and the tuning tables.
-/
namespace Sys2Proof.Machine

def isGlide : Kind → Bool := (· == .glide)

/-- The engine that a station runs on, none where it runs on cells (R162). -/
def State.engineOf (s : State) (st : Nat) : Option Nat :=
  let p := s.placeOf st
  if p.place = 1 then some p.unit else none

/-! ### GL_LOAD (R175 to R179) -/

/-- A count of elements in whole frames of 64. -/
def tiles64 (n : Nat) : Nat := (n + 63) / 64

/-- Frames read one after another and verified; none where one fails (R57). -/
def State.readFrames (s : State) (st : Nat) (addrs : List Nat) (path : ReadPath) : State × Option (List (List Byte)) :=
  match addrs with
  | [] => (s, some [])
  | a :: r =>
    let x := s.readFrame st a path
    match x.frame with
    | none => (x.state, none)
    | some f =>
      let (s, l) := x.state.readFrames st r (path.shift 1)
      (s, l.map (f :: ·))

/-- The frames of an object from 0 on. -/
def State.objectAddrs (s : State) (id n : Nat) : List Nat := (List.range n).map (s.frameAddr id)

/-- A W frame has a class-8 format and 64 × 64 elements (R175); none otherwise. -/
def wFmt (f : List Byte) : Option Fmt :=
  match frameFmt f with
  | some (fm, h) => if fm.pass = some .c8 ∧ h.rows = 64 ∧ h.cols = 64 then some fm else none
  | none => none

/-- The element (r, c) of W (R175). -/
def wElem (fm : Fmt) (fs : List (List Byte)) (ct r c : Nat) : Num :=
  elemVal fm (fs.getD (r / 64 * ct + c / 64) []) (64 * (r % 64) + c % 64)

/-- The finite value of a number; none for a special. -/
def Num.finite : Num → Option Rat
  | .fin x _ => some x
  | _ => none

/-- W within ROWS × COLS, decoded (R175, R181). -/
def decodeW (fm : Fmt) (fs : List (List Byte)) (rows cols : Nat) (rmax : Rat) : GlideW :=
  let m := (List.range rows).map fun r => (List.range cols).map fun c => (wElem fm fs (tiles64 cols) r c).finite
  { special := m.any fun l => l.any (·.isNone), rmax := rmax, frames := fs, w := m.map fun l => l.map (·.getD 0) }

/-- The bytes of a phase map: the payloads of its frames (R176). -/
def mapBytes (fs : List (List Byte)) : List Byte := fs.flatMap fun f => sub f 0xA0 4096

/-- The digest of the W frames' CRC fields (R176). -/
def wDigest (fs : List (List Byte)) : Nat := (crc32c (fs.flatMap fun f => sub f 0x1C 4)).toNat

/-- RMAX of a phase map. -/
def mapRmax (m : List Byte) : Num := fp32.decode (fld m 0x14 4)

/-- RMAX is a positive number (R176). -/
def rmaxOk (m : List Byte) : Bool := match mapRmax m with
  | .fin x _ => decide (0 < x)
  | _ => false

/-- A phase map passes step 2 of R177; the cause of a refusal otherwise: 1 MAGIC, 2 VERSION, 3 ROWS or COLS, 4 a field
out of its range, 5 W_DIGEST. -/
def mapCause (ms ws : List (List Byte)) (rows cols : Nat) : Nat :=
  let m := mapBytes ms
  if ms.any (fun f => (hdrOf f).fmt != 0x30) then 4
  else if fld m 0 4 ≠ 0x474C4D50 then 1
  else if fld m 4 2 ≠ 1 then 2
  else if fld m 6 2 ≠ rows ∨ fld m 8 2 ≠ cols then 3
  else if !(allZero (sub m 0xA 2) && allZero (sub m 0x18 40) && allZero (m.drop 0x40240) && rmaxOk m) then 4
  else if fld m 0xC 4 ≠ wDigest ws then 5
  else 0

/-- A station's placement on its host cell (R162, R163). -/
def hostPlace (p : StationPlace) : StationPlace := { p with place := 0, unit := 0xFF, predEnob := 0 }

/-- The row v of the x frame within COLS, none where an element is special (R180, R181). -/
def xRow (f : List Byte) (fm : Fmt) (cp cols v : Nat) : Option (List Rat) :=
  let l := (List.range cols).map fun c => (elemVal fm f (v * cp + c)).finite
  if l.any (·.isNone) then none else some (l.map (·.getD 0))

/-- The exact product of a row of W with a vector in the wide accumulator, K blocks of 32 in ascending order (R182). -/
def wideDot (w x : List Rat) : Rat :=
  let terms := (List.zip w x).map fun p => p.1 * p.2
  let nb := (terms.length + 31) / 32
  let acc := (List.range nb).foldl (fun (a : Wide) k =>
    a.add (.fin (((terms.drop (32 * k)).take 32).foldl (· + ·) 0))) Wide.zero
  match acc.val with
  | .fin y => y
  | _ => 0

/-- The results of a vector on cells (R182): NaN throughout where x or W holds a special. -/
def cellVector (g : GlideW) (rows : Nat) (x : Option (List Rat)) : List (Option Rat) :=
  match x with
  | some x => if g.special then List.replicate rows none else g.w.map fun w => some (wideDot w x)
  | none => List.replicate rows none

/-- The vectors of an x frame. -/
def xRows (f : List Byte) (p : KindParams) : List (Option (List Rat)) :=
  match frameFmt f with
  | some (fm, h) => (List.range h.rows).map (xRow f fm h.cols p.cols)
  | none => []

/-- The host cell reloads W from the object of the station's last GL_LOAD (R163). A frame that does not verify is read again at
once, and then is a tile-integrity fault (R58); frames that hold no W of one format are a Course error (R175). -/
def State.reloadW (s : State) (st : Nat) : State :=
  match (s.st st).glLoad with
  | none => s
  | some (w, _) =>
    let p := s.paramsOf st
    let rd := s.readFrames st (s.objectAddrs w (tiles64 p.rows * tiles64 p.cols)) .clean
    match rd.2 with
    | none =>
      let x := (rd.1.st st).crcFrame
      rd.1.tileFault x.1 x.2.1 x.2.2
    | some ws =>
      match wFmt (ws.headD []) with
      | none => rd.1.courseError eTileFormat st
      | some fm =>
        if ws.any fun f => wFmt f != some fm then rd.1.courseError eTileFormat st
        else rd.1.withSt st fun r => { r with glW := some (decodeW fm ws p.rows p.cols ((r.glW.map (·.rmax)).getD 0)) }

/-- The GL_RUN commands of a station that no passed window guards run again on its host cell, from the same input
slots, once it has reloaded W (R163, R192). -/
def State.rerunOnCell (s : State) (st : Nat) : State :=
  let p := s.paramsOf st
  let s := s.reloadW st
  match (s.st st).glW with
  | some g => s.withSt st fun r =>
      { r with held := r.held.map fun h =>
          if h.engine.isSome && !h.windowPassed then
            { h with engine := none, issued := false, slots := 0, drive := [], ys := (xRows h.xframe p).map (cellVector g p.rows) }
          else h }
  | none => s

/-- A station moves to its host cell and stays there until the next job start (R179, R199). -/
def State.barStation (s : State) (n st cause : Nat) : State :=
  let s := (s.record 0x46 (dieGlide n) (item 1 n ++ item 2 st ++ item 1 cause)).bump (oGld n 0x128)
  let s := s.withJob fun j =>
    { j with placement := { j.placement with stations := upd j.placement.stations st {} hostPlace } }
  ((s.rerunOnCell st).unbindGlide n st).withGlide fun g => { g with barred := g.barred ++ [st] }

/-- The settings of a phase map (R176). -/
def phaseMap (m : List Byte) : PhaseMap :=
  let codes (at_ n : Nat) : List Nat := (List.range n).map fun i => fld m (at_ + 2 * i) 2
  { sigma1 := BitVec.ofNat 32 (fld m 0x10 4), vCells := codes 0x40 65280, vScreen := codes 0x1FE40 256
    sigma := codes 0x20040 256, uCells := codes 0x20240 65280, uScreen := codes 0x40040 256 }

/-- A phase code as a fraction of a turn, and an attenuator code as an amplitude transmission (R176). -/
def turnOf (v : Nat) : Rat := mkRat v 65536
def transmission (a : Nat) : Rat := mkRat a 65535

/-- The shifters' settings in the order of the map: the cells and the screen of the input mesh, the attenuators, and the cells
and the screen of the output mesh. The gains of the tuning table take the same order (DESIGN CHOICE, log 127). -/
def PhaseMap.settings (m : PhaseMap) : List Nat := m.vCells ++ m.vScreen ++ m.sigma ++ m.uCells ++ m.uScreen

/-- The map's fields take the meshes anew, which then settle for 2 µs: in balanced mode with the other polarity (R173, R178). -/
def State.settleMap (s : State) (n : Nat) : State :=
  s.withEngine n fun e => { e with appliedPt := s.pt, polarity := if e.mode = 1 then !e.polarity else e.polarity }

/-- A map is applied to the meshes (R177, R178). -/
def State.applyMap (s : State) (n st : Nat) : State :=
  (s.withEngine n fun e => { e with applied := some st, switchPt := s.pt, servedSince := 0 }).settleMap n

/-- The map is written into the station's slot, and applied where the slot is the one applied or none is (R177). -/
def State.storeMap (s : State) (n st : Nat) (m : PhaseMap) : State :=
  let s := s.withEngine n fun e => { e with slots := e.slots.filter (·.station != st) ++ [{ station := st, map := m }] }
  match (s.engine n).applied with
  | some a => if a = st then s.applyMap n st else s
  | none => s.applyMap n st

/-- The engine's activation ticket, requested by the first GL_LOAD of a bound station (R387). -/
def State.engineGo (s : State) (n st : Nat) : State × Bool :=
  if s.holds (.glideUser n) then (s, true)
  else ((s.request (.glideUser n)).waitTicket st, false)

/-- An engine refuses a map (R179): the station moves to its host cell and stays there, and the refusal is recorded. -/
def State.refuseMap (s : State) (n st cause : Nat) : State :=
  (s.barStation n st cause).withEngine n fun e => { e with lastLeave := 0x08 }

/-- The work of GL_LOAD (R162, R175 to R179). A map that is applied settles before the command
completes. On cells the W frames alone are read. It waits for the station's GL_RUN commands that have not completed. -/
def State.glLoad (s : State) (st : Nat) (cf : Common) (w map : Nat) (path : ReadPath) : State :=
  let i := Instr.glLoad st cf w map path
  if !(s.st st).held.isEmpty then s else
  let p := s.paramsOf st
  let nw := tiles64 p.rows * tiles64 p.cols
  let took (s : State) (g : GlideW) : State := s.withSt st fun r => { r with glLoad := some (w, map), glW := some g }
  let done (s : State) : State := s.issueDone st [] [(signalOf cf, 1)]
  let (s, go) := match s.engineOf st with
    | some n => s.engineGo n st
    | none => (s, true)
  if !go then s else
  let (s, ws) := s.readFrames st (s.objectAddrs w nw) path
  match ws with
  | none => s.awaitReread st i
  | some ws =>
    match wFmt (ws.headD []) with
    | none => s.courseError eTileFormat st
    | some fm =>
      if ws.any fun f => wFmt f != some fm then s.courseError eTileFormat st else
      match s.engineOf st with
      | none => done (took s (decodeW fm ws p.rows p.cols 0))
      | some n =>
        let (s, ms) := s.readFrames st (s.objectAddrs map 65) (path.shift nw)
        match ms with
        | none => s.awaitReread st i
        | some ms =>
          let cause := mapCause ms ws p.rows p.cols
          let rmax := ((mapRmax (mapBytes ms)).finite).getD 0
          let g := decodeW fm ws p.rows p.cols rmax
          if cause = 0 then
            let s := (took s g).storeMap n st (phaseMap (mapBytes ms))
            if (s.engine n).applied = some st then s.issue st [{ kind := .load, signal := signalOf cf }] else done s
          else done ((took s g).refuseMap n st cause)

/-- A GL_LOAD whose map has been applied for 2 µs completes (R177 step 5); so does one whose engine has left service. -/
def State.loadSettles (s : State) (st : Nat) : Bool :=
  ((s.st st).firstOf .load).isSome && match s.engineOf st with
    | some n => decide (ticksUs 2 ≤ s.since (s.engine n).appliedPt)
    | none => true

/-- The GL_LOAD commands whose maps have settled complete. -/
def State.settleLoads (s : State) : State :=
  ((s.cells.stations.map (·.1)).filter s.loadSettles).foldl (fun s st => s.completeKind st .load) s

/-- GL_LOAD: W and the phase map are read, checked, converted and applied (R177). -/
def execGlLoad (st : Nat) (cf : Common) (w map : Nat) (path : ReadPath) (s : State) : Out :=
  .next (s.gate st cf isGlide fun s => s.glLoad st cf w map path)

/-! ### The stations of a balanced engine (R178) -/

/-- The next command of a station's stream (R62, R72). -/
def State.nextWord (s : State) (st : Nat) : Option CmdWord :=
  match s.desc st with
  | some d => s.course.commands[d.cmdFirst + (s.st st).pc]?
  | none => none

/-- A station has a GL_RUN ready: it is the station's next command and its wait is met. -/
def State.runReady (s : State) (st : Nat) : Bool :=
  let r := s.st st
  match s.nextWord st with
  | some w =>
    let n := w.toNat
    bits n 127 120 = 0x31 && s.canIssue st isGlide && r.glW.isSome && decide (r.held.length < 2) &&
    (!bit n 119 || r.weGranted || decide (1 ≤ r.sem (bits n 115 110)))
  | none => false

/-- The station that an engine serves has had its share since the switch: 64 GL_RUN commands, or 50 µs (R178). -/
def State.shareOver (s : State) (n : Nat) : Bool :=
  decide (64 ≤ (s.engine n).servedSince) || decide (ticksUs 50 ≤ s.since (s.engine n).switchPt)

/-- A balanced engine may switch (R178): the station it serves has none ready, or has had its share. -/
def State.switchDue (s : State) (n : Nat) : Bool :=
  match (s.engine n).applied with
  | some a => !s.runReady a || s.shareOver n
  | none => true

/-- The ready station that an engine has not served for the longest time. -/
def State.nextStation (s : State) (n : Nat) : Option Nat :=
  let e := s.engine n
  let l := e.slots.filter fun m => e.applied != some m.station && s.runReady m.station
  match l with
  | [] => none
  | m :: r => some (r.foldl (fun (a : MapSlot) b => if b.last < a.last then b else a) m).station

/-! ### GL_RUN (R180 to R182) -/

/-- The shape of a GL_RUN: the x format, V, C_p and M_p; none causes TILE_FORMAT (R180). -/
def glShape (f : List Byte) (fmt rows cols : Nat) : Option (Fmt × Fmt × Nat × Nat × Nat) :=
  let cp := 64 * tiles64 cols
  let mp := 64 * tiles64 rows
  match frameFmt f, fmtOf fmt with
  | some (fm, h), some out =>
    let okOut := decide (2 ≤ fmt) && decide (fmt ≤ 8) || decide (0x10 ≤ fmt) && decide (fmt ≤ 0x12)
    if fm.pass = some .c8 ∧ h.rows ≤ 64 ∧ h.cols = cp ∧ okOut = true ∧ holds out h.rows mp = true then
      some (fm, out, h.rows, cp, mp)
    else none
  | _, _ => none

/-- An ADC code within its range (Table - Glide engine figures). -/
def adcCode (c : Int) : Int := max (-512) (min 511 c)

/-- The results of a vector on an engine from its ADC codes by output (R181). -/
def engineVector (g : GlideW) (rows n : Nat) (x : Option (List Rat)) (codes : List (List Int)) : List (Option Rat) :=
  match x with
  | none => List.replicate rows none
  | some x =>
    if g.special then List.replicate rows none else
    let m := x.foldl (fun a y => max a (magR y)) 0
    if m = 0 then List.replicate rows (some 0) else
    (List.range rows).map fun r =>
      let l := codes.getD r []
      let sum := (List.range n).foldl (fun t k => t + adcCode (l.getD k 0)) (0 : Int)
      some (m * g.rmax * (sum : Rat) / ((512 * n : Nat) : Rat))

/-- The codes q_c that drive the ports for a vector (R181 step 3): ports from COLS on are dark. -/
def driveCodes (x : Option (List Rat)) : List Int := match x with
  | some x =>
    let m := x.foldl (fun a y => max a (magR y)) 0
    if m = 0 then [] else x.map fun y => roundNe (255 * y / m)
  | none => []

/-- A vector uses slots: it is not special and not zero (R181). -/
def usesSlots (g : GlideW) (x : Option (List Rat)) : Bool := match x with
  | some x => !g.special && x.any (· != 0)
  | none => false

/-- The samples of a vector at an end of the ADC's range. -/
def clips (n : Nat) (codes : List (List Int)) : Nat :=
  codes.foldl (fun t l => t + ((l.take n).filter fun c => c ≤ -512 ∨ 511 ≤ c).length) 0

/-- An engine can take a GL_RUN of a station (R173, R174, R178, R201, R402). -/
def State.engineReady (s : State) (n st : Nat) : Bool :=
  let e := s.engine n
  decide (e.state = 1) && s.holds (.glideUser n) && decide (e.applied = some st) && !e.retrackDue &&
  !(decide (e.mode = 1) && s.shareOver n && (s.nextStation n).isSome) &&
  decide (ticksUs 2 ≤ s.since e.appliedPt) && decide (lookD s.thermal.pause (dieGlide n) 0 < 8)

/-- A map of Class N applied for 1 s is applied afresh before the next GL_RUN (R178). -/
def State.mapStale (s : State) (n : Nat) : Bool :=
  let e := s.engine n
  !e.resident && decide (ticksS 1 ≤ s.since e.appliedPt)

/-- The engine takes a station's GL_RUN now: it has its ticket, and the station's map is applied and settled. A map that has
been applied for 1 s is applied afresh first (R178). -/
def State.engineTakes (s : State) (n st : Nat) : State × Bool :=
  let t := s.engineGo n st
  if t.2 && t.1.mapStale n && t.1.engineReady n st then (t.1.settleMap n, false) else (t.1, t.2 && t.1.engineReady n st)

/-- A GL_RUN as an engine samples it from its ADC codes (R174, R181, R183). -/
def sampleRun (h : HeldRun) (g : GlideW) (p : KindParams) (adc : List (List (List Int))) (n : Nat) (pt : Word) : HeldRun :=
  let xs := xRows h.xframe p
  let used := xs.filter fun x => usesSlots g x
  { h with
    engine := some n, issued := true, slots := used.length * p.samples, drive := used.map driveCodes, pt := pt, ooc := false
    windowPassed := false, readings := []
    ys := (List.range xs.length).map fun v => engineVector g p.rows p.samples (xs.getD v none) (adc.getD v []) }

/-- What an engine counts of a GL_RUN that it samples: its slots and clipped samples, and its service of the station. -/
def State.sampled (s : State) (n st : Nat) (g : GlideW) (h : HeldRun) (adc : List (List (List Int))) : State :=
  let p := s.paramsOf st
  let xs := xRows h.xframe p
  let used := (List.range xs.length).filter fun v => usesSlots g (xs.getD v none)
  let s := s.wrapBy (oGld n 0x200) h.slots
  let s := s.satBy (oGld n 0x130) (used.foldl (fun t v => t + clips p.samples (adc.getD v [])) 0)
  s.withEngine n fun e =>
    { e with servedSince := e.servedSince + 1, servedCount := e.servedCount + 1
             slots := e.slots.map fun m => if m.station = st then { m with last := e.servedCount + 1 } else m }

/-- The GL_RUN commands of a station that were discarded on their engine (R200). -/
def StationRt.discarded (r : StationRt) : Option HeldRun := r.held.find? fun h => h.engine.isSome && !h.issued

/-- A discarded GL_RUN runs again on its engine after a new grant (R200). -/
def State.glAgain (s : State) (st : Nat) (h : HeldRun) (adc : List (List (List Int))) : State :=
  match (s.st st).glW, h.engine with
  | some g, some n =>
    let t := s.engineTakes n st
    if t.2 then
      let h' := sampleRun h g (s.paramsOf st) adc n s.pt
      (t.1.withSt st fun r => { r with held := r.held.map fun x => if x = h then h' else x }).sampled n st g h' adc
    else t.1
  | _, _ => s

/-- The work of GL_RUN (R180 to R184): the x frame is read; on an engine its vectors are sampled, on cells they are
multiplied exactly, with the ticket and the checks of the arrays. -/
def State.glRun (s : State) (st : Nat) (cf : Common) (i o fmt : Nat) (rnd : Rnd) (adc : List (List (List Int)))
    (path : ReadPath) (checks : List ArrayFail) : State :=
  let ins := Instr.glRun st cf i o fmt rnd adc path checks
  let r := s.st st
  let p := s.paramsOf st
  match r.glW, s.cellOf st with
  | some g, some cell =>
    if 2 ≤ r.held.length then s else
    let eng := s.engineOf st
    let (s, go) := match eng with
      | some n => s.engineTakes n st
      | none => s.arraysGo st cell
    if !go then s else
    let na := r.inPos i
    let no := r.outPos o
    let x := s.readPort st i na path
    match x.frame with
    | none => x.state.awaitReread st ins
    | some f =>
      let s := x.state
      if !seqOk f na then s.courseError eStreamOrder st else
      match glShape f fmt p.rows p.cols with
      | none => s.courseError eTileFormat st
      | some _ =>
        let s := s.issue st [{ kind := .glide, adv := advances cf [i] [o] 1, signal := signalOf cf }]
        let h : HeldRun :=
          { instr := ins, engine := none, xframe := f, ys := (xRows f p).map (cellVector g p.rows), posOut := no, step := r.stepNo
            pt := s.pt }
        match eng with
        | some n =>
          let h := sampleRun h g p adc n s.pt
          (s.withSt st fun r => { r with held := r.held ++ [h] }).sampled n st g h adc
        | none => (s.withSt st fun r => { r with held := r.held ++ [h] }).stopOnFail st (s.physical cell) ins checks
  | _, _ => s

/-- GL_RUN: y = Wx for each input vector (R180). A discarded one runs again before another issues (R200). -/
def execGlRun (st : Nat) (cf : Common) (i o fmt : Nat) (rnd : Rnd) (adc : List (List (List Int))) (path : ReadPath)
    (checks : List ArrayFail) (s : State) : Out :=
  match (s.st st).discarded with
  | some h => .next (s.glAgain st h adc)
  | none => .next (s.gate st cf isGlide fun s => s.glRun st cf i o fmt rnd adc path checks)

/-! ### Completion (R183, R184) -/

/-- A held GL_RUN may complete: on an engine, its window has passed and every sensor of the engine has read twice
since its last slot (R183). -/
def HeldRun.ready (h : HeldRun) : Bool :=
  match h.engine with
  | none => h.issued
  | some n => h.issued && h.windowPassed && (List.range 8).all fun i => decide (2 ≤ lookD h.readings (416 + 8 * n + i) 0)

/-- The y frame of a GL_RUN (R180, R181, R184, R61). -/
def State.glFrame (s : State) (st : Nat) (h : HeldRun) : Option (Nat × List Byte) :=
  match h.instr with
  | .glRun _ _ _ o fmt rnd _ _ _ =>
    let p := s.paramsOf st
    match glShape h.xframe fmt p.rows p.cols with
    | some (_, out, v, _, mp) =>
      let val (y : Option Rat) : Num := match y with
        | some x => .fin x false
        | none => .nan
      let vals := (List.range v).flatMap fun k =>
        let row := (h.ys.getD k []).map val
        row ++ List.replicate (mp - row.length) (.fin 0 false)
      let fl := (hdrOf h.xframe).tflags % 4 ||| (if h.engine.isSome then 1 + 2 * b2n h.ooc else 0)
      some (o, mkFrame out fl v mp st (s.outStream st o) (h.posOut % 2 ^ 32) h.step.toNat vals rnd s.seed h.engine.isNone)
    | none => none
  | _ => none

/-- A frame of an engine is counted, and one in every 2^SHADOW_LOG2 becomes a shadow frame (R197). -/
def State.countGlFrame (s : State) (n st : Nat) (h : HeldRun) : State :=
  let s := s.wrapBy (oGld n 0x210) 1
  let s := if h.ooc then
    (s.bump (oGld n 0x120)).record 0x45 (dieGlide n)
      (item 1 n ++ item 2 st ++ item 4 h.step.toNat ++ item 4 h.step.toNat ++ item 4 1)
    else s
  let g := ((s.st st).glW).getD { special := true, rmax := 0, w := [] }
  let k := 2 ^ s.glide.shadowLog2.toNat
  s.withEngine n fun e =>
    let c := e.runCount + 1
    { e with runCount := c
             shadows := if c % k = 0 then
               e.shadows ++ [{ station := st, step := h.step, gw := g, xframe := h.xframe, ys := h.ys }] else e.shadows }

/-- The oldest GL_RUN of a station completes: its frame is written, its cursors advance and its signals go (R183). -/
def State.glComplete (s : State) (st : Nat) : State :=
  match (s.st st).held with
  | h :: rest =>
    match s.glFrame st h with
    | some (o, f) =>
      let s := s.writePort st o h.posOut f
      let s := s.withSt st fun r => { r with held := rest }
      let s := match h.engine with
        | some n => s.countGlFrame n st h
        | none => s
      s.completeKind st .glide
    | none => s
  | [] => s

/-- The checks that a held GL_RUN waits for are all in (R183). One that moved to its host cell first takes the arrays'
ticket there and runs, and `run` has what its checks then show (R100, R163); a failing one completes only after its repeat
(R101). -/
def execGlRunComplete (run : HostRun) (s : State) : Out :=
  let st := run.unit
  let r := s.st st
  match r.held, s.cellOf st with
  | h :: rest, some cell =>
    if r.failed.isSome ∧ (rest.isEmpty = true ∨ h.engine.isSome = false) then .next s else
    if h.ready then .next (s.glComplete st)
    else if h.engine.isNone then
      let (s, go) := s.arraysGo st cell
      if !go then .next s
      else if (failsOf run.checks).isEmpty then .next (s.glComplete st)
      else
        let s := s.withSt st fun r => { r with held := { h with issued := true } :: rest }
        .next (s.stopOnFail st (s.physical cell) h.instr run.checks)
    else .next s
  | _, _ => .next s

/-! ### Pilots (R190 to R194) -/

/-- The parity of the ones in a number below 2^6. -/
def parity6 (n : Nat) : Bool := (maskBits 6 n).length % 2 = 1

/-- The pilot reference of j at output r in ADC codes (R190). -/
def pilotRef (g : GlideW) (j r : Nat) : Rat :=
  let row := g.w.getD r []
  let sum := (List.range row.length).foldl (fun t c =>
    let w := row.getD c 0
    if parity6 (j &&& (c % 64)) then t - w else t + w) (0 : Rat)
  512 * sum / g.rmax

/-- The mean square of the pilots' errors at the ports below ROWS (R191). -/
def pilotMean (g : GlideW) (rows : Nat) (l : List PilotSample) : Rat :=
  let l := l.filter fun p => p.r < rows
  if l.isEmpty then 0 else
  l.foldl (fun t p =>
    let e := ((adcCode p.code : Rat) - pilotRef g p.j p.r) / 512
    t + e * e) (0 : Rat) / (l.length : Nat)

/-- The ENOB that a fast window must reach (R192). -/
def State.fastFloor (s : State) (n st : Nat) : Int :=
  if (s.engine n).resident then sixteenths (s.paramsOf st).enobFloor - 2 ^ 17 else fix20 (mkRat 35 10)

/-- A map slot of an engine, as changed. -/
def State.withSlot (s : State) (n st : Nat) (f : MapSlot → MapSlot) : State :=
  s.withEngine n fun e => { e with slots := e.slots.map fun m => if m.station = st then f m else m }

/-- The held GL_RUN commands of a station on an engine, marked as guarded by a passed window (R183): those whose last slot it holds. -/
def State.passWindow (s : State) (n st : Nat) : State :=
  s.withSt st fun r => { r with held := r.held.map fun h => if h.engine = some n && h.issued && !s.sampling n h then { h with windowPassed := true } else h }

/-- The samples of a fast window: its pilot slots take the pilot vectors in turn, and each gives a code at each port (R190,
R191). -/
def windowSamples (first rows : Nat) (codes : List (List Int)) : List PilotSample :=
  (List.range codes.length).flatMap fun k => (List.range rows).map fun r =>
    { j := (first + k) % 64, r := r, code := (codes.getD k []).getD r 0 }

/-- A whole fast window counts for the drift window of its map (R193; one cut short does not: DESIGN CHOICE, log 128). -/
def MapSlot.noteDrift (m : MapSlot) (l : List PilotSample) : MapSlot :=
  { m with
    driftWindows := m.driftWindows + 1
    repeats := l.foldl (fun t x =>
      upd t (256 * x.j + x.r) { j := x.j, r := x.r, sum := 0, sumSq := 0 } fun q =>
        { q with sum := q.sum + adcCode x.code, sumSq := q.sumSq + (adcCode x.code).natAbs ^ 2 }) m.repeats }

/-- A fast window of a station's map ends, after at most 256 pilot slots (R191, R192): with fewer than 32 pilots it joins the
next of its map; a pass guards the commands held so far; a failure takes the engine out of service for a retrack. -/
def execFastWindow (engine st : Nat) (codes : List (List Int)) (s : State) : Out :=
  let e := s.engine engine
  match e.slots.find? (·.station = st), (s.st st).glW with
  | some m, some g =>
    if e.state = 1 ∨ e.state = 2 then
      let codes := codes.take 256
      let l := windowSamples e.pilotNext (s.paramsOf st).rows codes
      let s := (s.wrapBy (oGld engine 0x208) codes.length).withEngine engine fun e =>
        { e with pilotNext := (e.pilotNext + codes.length) % 64 }
      let s := if codes.length = 256 then s.withSlot engine st fun m => m.noteDrift l else s
      let n := m.pilots + codes.length
      let all := m.samples ++ l
      if n < 32 then .next (s.withSlot engine st fun m => { m with pilots := n, samples := all }) else
      let s := s.withSlot engine st fun m => { m with pilots := 0, samples := [] }
      if s.fastFloor engine st ≤ enobOf (pilotMean g (s.paramsOf st).rows all) then .next (s.passWindow engine st)
      else .next ((s.bump (oGld engine 0x110)).leaveService engine 3 false)
    else .next s
  | _, _ => .next s

/-- The systematic measurement of a drift window (R193): 16,384 repeats of each pilot at each port. -/
def enobSys (g : GlideW) (rows : Nat) (l : List PilotRepeats) : Int :=
  let l := l.filter fun p => p.r < rows
  if l.isEmpty then 12 * 2 ^ 20 else
  let n : Rat := 16384
  let mean (p : PilotRepeats) : Rat := (p.sum : Rat) / n
  let sq := l.foldl (fun t p =>
    let e := (mean p - pilotRef g p.j p.r) / 512
    t + e * e) (0 : Rat) / (l.length : Nat)
  let var := l.foldl (fun t p => t + ((p.sumSq : Rat) / n - mean p * mean p) / (512 * 512)) (0 : Rat) / (l.length : Nat)
  enobOf (sq - var / n)

/-- The drift window of a station's map ends with the 4,096th fast window of it: ENOB_sys and the drift margin are updated (R193, R194). -/
def execDriftWindow (engine st : Nat) (s : State) : Out :=
  let e := s.engine engine
  match e.slots.find? (·.station = st), (s.st st).glW with
  | some m, some g =>
    if e.state = 1 ∧ 4096 ≤ m.driftWindows then
      let sys := enobSys g (s.paramsOf st).rows (m.repeats.map (·.2))
      let model := modelSys e.resident (s.calAge engine) (s.exc engine)
      .next ((s.withEngine engine fun e => { e with measValid := true, measSys := publish sys, delta := sys - model }).withSlot
        engine st fun m => { m with driftWindows := 0, repeats := [] })
    else .next s
  | _, _ => .next s

/-! ### Shadow checks (R197 to R199) -/

/-- What a shadow frame shows (R185, R197): the normalised errors against the host cell's exact results; an element
counts as an outlier where its square exceeds 12 × 2^(−2·ENOB_FLOOR). -/
def shadowStat (p : KindParams) (f : ShadowFrame) : ShadowStat :=
  let xs := xRows f.xframe p
  let errs := (List.range xs.length).flatMap fun v =>
    match xs.getD v none with
    | none => []
    | some x =>
      let m := x.foldl (fun a y => max a (magR y)) 0
      if m = 0 ∨ f.gw.special = true then [] else
      (List.zip (f.ys.getD v []) (f.gw.w.map fun w => wideDot w x)).map fun q =>
        (q.1.getD 0 - q.2) / (m * f.gw.rmax)
  let limit := log2Fix 12 - 2 * sixteenths p.enobFloor
  { sumSq := errs.foldl (fun t e => t + e * e) 0, count := errs.length
    outliers := (errs.filter fun e => e != 0 && decide (limit < log2Fix (e * e))).length
    step := f.step }

/-- The station's shadow record on an engine, as changed. -/
def State.withShadow (s : State) (n st : Nat) (f : ShadowRec → ShadowRec) : State :=
  s.withEngine n fun e => { e with shadowRecs := upd e.shadowRecs st {} f }

/-- A station's shadow window of 16 frames is judged (R197 to R199): out of budget or with outliers, warned, or passed.
A first window after a recalibration that fails while the engine's other stations pass makes the map suspect. Before a
station's first passing window its STEP range begins with the job (DESIGN CHOICE, log 129). -/
def State.judgeWindow (s : State) (n st : Nat) (w : List ShadowStat) : State :=
  let rec0 := lookD (s.engine n).shadowRecs st {}
  let floor := (s.paramsOf st).enobFloor
  let enob := shadowEnob w
  let m := enob - sixteenths floor
  let outl := w.any fun f => 2 ≤ f.outliers
  let bad := decide (m < 0) || outl
  let last := ((w.getLast?).map (·.step)).getD 0
  let first := (s.job.map (·.startStep)).getD 0
  let from_ := rec0.passStep.getD first
  let s := s.withShadow n st fun r =>
    { r with window := [], margin := some (m.fdiv (2 ^ 16)), failed := bad, passStep := if bad then r.passStep else some last }
  if bad then
    let outliers := w.foldl (fun t f => t + f.outliers) 0
    let s := (s.bump (oGld n 0x118)).record 0x44 (dieGlide n)
      (item 1 n ++ item 2 st ++ item 2 (publish enob) ++ item 4 outliers ++ item 4 from_.toNat ++ item 4 last.toNat)
    let othersPass := (s.engine n).shadowRecs.all fun p => p.1 = st || !p.2.failed
    if rec0.margin.isNone && othersPass then s.barStation n st 6
    else s.leaveService n (if m < 0 then 4 else 5) true
  else if m < 2 ^ 18 then
    s.record 0x43 (dieGlide n) (item 1 n ++ item 2 st ++ item 2 (publish enob) ++ item 2 floor)
  else s

/-- The host cell recomputes the oldest shadow frame of an engine (R197), between its station's commands. A failed check of the
cell is handled as for any command, and the frame is left out of the statistics. -/
def execShadowRecompute (run : HostRun) (s : State) : Out :=
  let engine := run.unit
  match (s.engine engine).shadows with
  | f :: rest =>
    let st := f.station
    if (s.st st).failed.isSome then .next s else
    let s := (s.withEngine engine fun e => { e with shadows := rest }).wrapBy (oGld engine 0x218) 1
    match failsOf run.checks, s.cellOf st with
    | _ :: _, some cell => .next (s.stopOnFail st (s.physical cell) (.shadowRecompute run) run.checks)
    | _, _ =>
      let x := shadowStat (s.paramsOf st) f
      let s := s.withEngine engine fun e => { e with lastStats := (e.lastStats ++ [x]).drop (e.lastStats.length - 15) }
      if (s.engine engine).stations.contains st then
        let s := s.withShadow engine st fun r => { r with window := r.window ++ [x] }
        let w := (lookD (s.engine engine).shadowRecs st {}).window
        if 16 ≤ w.length then .next (s.judgeWindow engine st w) else .next s
      else .next s
  | [] => .next s

/-! ### Recalibration and retrack (R195, R196) -/

/-- A trigger of Table - Recalibration triggers holds on an engine. The others follow their own checks. -/
def State.triggerHolds (s : State) (n code : Nat) : Bool :=
  let e := s.engine n
  match code with
  | 1 => decide (e.state = 1) && e.stations.any fun st => !s.forecastOk n st
  | 2 =>
    (s.dev.mode.running || s.dev.mode = .drain) && (decide (e.state = 1) || decide (e.state = 4)) &&
    decide (ticksH s.glide.maxAgeH.toNat ≤ s.since e.calPt)
  | 7 => (decide (e.state = 1) || decide (e.state = 4)) && decide ((8 : Rat) < magR (s.engineT n - mkRat e.tCal 64))
  | _ => false

/-- A recalibration trigger holds: the engine leaves service; one in a retrack recalibrates (R189, R195). -/
def execGlideRecalTrigger (engine code : Nat) (s : State) : Out :=
  if s.triggerHolds engine code then .next (s.leaveService engine code true) else .next s

/-- The ENOB that verification asks for (R195): 7.2 in resident mode, 3.9 in balanced mode; an idle engine is held to the
first (log 30). -/
def verifyLimit (e : Engine) : Rat := if e.moved.isEmpty || e.resident then mkRat 72 10 else mkRat 39 10

/-- An engine passes its verification (R195). -/
def verifyOk (e : Engine) (enob : Int) : Bool := decide (verifyLimit e * pow2 20 ≤ (enob : Rat))

/-- A full recalibration of an engine ends (R186, R195, R196): T_cal is set to T; a pass returns it to service; a failure repeats it once, and a
second in a row leaves it out of service for an hour, the sixth for good. -/
def State.calibrated (s : State) (c : GlideCal) : State :=
  let n := c.engine
  let e := s.engine n
  if verifyOk e c.enob then
    let s := s.withEngine n fun e =>
      { e with state := 1, streak := 0, calPt := s.pt, tCal := (s.engineSum n).fdiv 8, delta := 0, measValid := false, measSys := 0
               fullRecal := false, retrackFor := 0, retrackDue := false, oocSince := none, applied := none
               shadowRecs := e.shadowRecs.map fun r => (r.1, { passStep := r.2.passStep }) }
    let s := (s.bump (oGld n 0x100)).record 0x41 (dieGlide n) (item 1 n ++ item 2 (publish c.enob) ++ itemS 2 ((s.engineSum n).fdiv 8))
    let s := s.release (.glideCal n)
    s.withGlide fun g => { g with returning := g.returning ++ [n] }
  else
    let k := e.streak + 1
    let s := (s.bump (oGld n 0x108)).record 0x42 (dieGlide n) (item 1 n ++ item 2 (publish c.enob) ++ item 4 k)
    if 6 ≤ k then
      (s.withEngine n fun e => { e with state := 6, streak := k }).release (.glideCal n)
    else if k % 2 = 0 then
      (s.withEngine n fun e => { e with state := 5, streak := k, failSince := s.pt }).release (.glideCal n)
    else s.withEngine n fun e => { e with streak := k }

/-- A full recalibration ends. One whose ticket was taken by a temperature step starts again after it (R195, R406). -/
def execRecalibrationComplete (cal : GlideCal) (s : State) : Out :=
  if (s.engine cal.engine).state = 3 ∧ s.calTicket cal.engine = true ∧ s.thermal.stepActive = false then
    .next (s.calibrated cal)
  else .next s

/-- A retrack ends (R196, R201): the engine returns to service where the forecast of every station meets its floor and
GUARD; otherwise it recalibrates with the code of what the retrack followed. The out-of-calibration interval ends. -/
def execRetrackComplete (engine : Nat) (s : State) : Out :=
  let e := s.engine engine
  if e.state = 4 ∧ s.calTicket engine = true then
    let s := s.withEngine engine fun e => { e with retrackDue := false, oocSince := none }
    let sts := e.stations ++ e.moved
    if sts.all (s.forecastOk engine) then
      let s := (s.withEngine engine fun e => { e with state := 1, retrackFor := 0 }).release (.glideCal engine)
      .next (s.withGlide fun g => { g with returning := g.returning ++ [engine] })
    else .next (s.leaveService engine e.retrackFor true)
  else .next s

/-- An hour after its failures, an out-of-service engine tries again (R196). -/
def execRecalRetry (engine : Nat) (s : State) : Out :=
  let e := s.engine engine
  if e.state = 5 ∧ ticksH 1 ≤ s.since e.failSince then
    .next ((s.withEngine engine fun e => { e with state := 3 }).requestCal engine)
  else .next s

/-! ### Map switches and tuning (R178, R188) -/

/-- A balanced engine switches to the ready station that it has served least recently (R173, R178). -/
def execGlideMapSwitch (engine : Nat) (s : State) : Out :=
  let e := s.engine engine
  if e.state = 1 ∧ e.mode = 1 ∧ s.switchDue engine = true then
    match s.nextStation engine with
    | some st => .next (s.applyMap engine st)
    | none => .next s
  else .next s

/-- The bias correction of a region at a temperature (R188): its 33 points from T_cal − 8 °C in steps of 0.5 °C,
interpolated linearly, in 1/64 of a unit. -/
def biasAt (curve : List Int) (tCal : Int) (t : Rat) : Int :=
  let x := (t - mkRat tCal 64 + 8) * 2
  let k := max 0 (min 31 x.floor)
  let a := curve.getD k.toNat 0
  let b := curve.getD (k.toNat + 1) 0
  (((a : Rat) + ((b - a : Int) : Rat) * (x - (k : Rat))) * 64).floor

/-- The regions' corrections of an engine from its tuning table (R188, R413): the region map, the curves, and the
temperature of each region, the mean of its two sensors. -/
def State.biases (s : State) (n : Nat) : Table Int :=
  let t := s.config.tuning.getD n []
  (List.range 16).map fun p =>
    let a := s.sensorT (416 + 8 * n + (byteAt t (2 * p)).toNat)
    let b := s.sensorT (416 + 8 * n + (byteAt t (2 * p + 1)).toNat)
    let curve := (List.range 33).map fun k => signedOf 16 (fld t (0x20 + 66 * p + 2 * k) 2)
    (p, biasAt curve (s.engine n).tCal (mkRat (a + b) 128))

/-- The band of a shifter of a mesh: two columns hold 128 and 127 cells of two shifters each, and a band has 32 columns. -/
def bandOf (k : Nat) : Nat := (2 * (k / 2 / 255) + k / 2 % 255 / 128) / 32

/-- The region of a shifter, by its place among the settings of a map: mesh u, band p (R188). A screen lies in the last band of
its mesh, and the attenuators in that of the input mesh (DESIGN CHOICE, log 127). -/
def regionOf (i : Nat) : Nat :=
  if i < 65280 then bandOf i else if i < 65792 then 7 else if i < 131072 then 8 + bandOf (i - 65792) else 15

/-- The bias correction that an engine applies to shifter i: its gain's share of its region's (R188, R413), in 1/64 of a unit. -/
def State.shifterBias (s : State) (n i : Nat) : Rat :=
  mkRat (byteAt (s.config.tuning.getD n []) (0x450 + i)).toNat 128 * ((lookD (s.engine n).bias (regionOf i) 0 : Int) : Rat)

/-- The drive of shifter i of an engine (R177 step 4, R188): its setting in the map applied, converted through the engine's
calibration, with its bias correction. The conversion is the implementation's. -/
def State.shifterDrive (s : State) (n i : Nat) : Rat :=
  let e := s.engine n
  let m := ((e.slots.find? fun m => e.applied = some m.station).map (·.map)).getD {}
  Config.phaseDrive n i e.calPt.toNat (m.settings.getD i 0) e.polarity + s.shifterBias n i / 64

/-- Every 10 µs an engine interpolates its region curves and applies the bias corrections (R188). -/
def execTuningUpdate (engine : Nat) (s : State) : Out :=
  let e := s.engine engine
  if e.state = 0 ∨ e.state = 6 then .next s
  else .next (s.withEngine engine fun e => { e with bias := s.biases engine })

/-! ### Powered time -/

/-- One tick of CK_S (R7): PT rises by one in every state but OFF, and with it what is counted by the tick: 12 CK_H in
which a request waits (PWR_WAIT_CYC), the pause cycles among 16 CK_C of each compute die (THM_PAUSE_CYC, R402), and
each millisecond the input energy in mJ at the power measured (PWR_ENERGY, R409). A GL_LOAD whose map has settled completes (R177). -/
def execPoweredTimeTick (s : State) : Out :=
  if s.dev.mode = .off then .next s else
  let pt := s.pt + 1
  let s := State.settleLoads { s with pt := pt }
  let s := if s.power.queue.isEmpty then s else s.wrapBy 0x021120 12
  let pause := if s.clocks.ckCHL then
    (List.range 16).foldl (fun n d => n + 2 * lookD s.thermal.pause (dieCompute d) 0) 0 else 0
  let s := if pause = 0 then s else s.wrapBy 0x033100 pause
  if pt.toNat % ticksMs 1 = 0 then
    .next (s.wrapBy oEnergy (Config.measuredInput (pt.toNat / ticksMs 1 - 1)).toNat)
  else .next s

end Sys2Proof.Machine
end

