-- ==== Sys2Proof/Machine/Patterns.lean ====
section
/-!
DEFINITION. Pattern entries (R373): the operands of a failing array task or Relay combination, as the journal keeps them.
-/
namespace Sys2Proof.Machine

/-- Values of 5 bits packed at bits [5i + 4:5i] of a byte string. -/
def pack5 (n : Nat) (l : List Nat) : List Byte :=
  natLe n ((List.range l.length).foldl (fun v i => v + l.getD i 0 % 32 * 2 ^ (5 * i)) 0)

/-- The fields of a pattern entry that its failure sets. -/
structure PatternOps where
  mode : Nat := 0
  kind : Nat := 1
  pcell : Nat := 0xFFFF
  array : Nat := 0
  column : Nat := 0xFF
  cObs : Int := 0
  sObs : Int := 0
  wSig : List Byte := []
  wShift : List Nat := []
  aSig : List Byte := []
  aShift : List Nat := []
  gA : Nat := 0
  gB : Nat := 0
  uA : Int := 0
  uB : Int := 0
  deriving DecidableEq, Repr

/-- The 2,048 bytes of a pattern entry (Table - Pattern entry). -/
def State.patternBytes (s : State) (o : PatternOps) : List Byte :=
  let b := natLe 4 0x50415454 ++ natLe 2 1 ++ natLe 1 o.mode ++ natLe 1 o.kind ++ natLe 8 s.fuses.deviceId.toNat ++
    natLe 4 s.nvm.bootCount.toNat ++ natLe 4 0 ++ natLe 8 s.pt.toNat ++ natLe 2 o.pcell ++ natLe 1 o.array ++
    natLe 1 o.column ++ natLe 4 0 ++ itemS 10 o.cObs ++ itemS 10 o.sObs ++ natLe 4 0 ++ padTo 1024 o.wSig ++
    pack5 640 o.wShift ++ padTo 64 o.aSig ++ pack5 40 o.aShift ++ natLe 1 o.gA ++ natLe 1 o.gB ++ itemS 2 o.uA ++
    itemS 2 o.uB ++ List.replicate 206 0
  b ++ natLe 4 (crc32c b).toNat

/-- A pattern entry takes a journal entry of its own, of CODE 0x11 and 33 units (R461); its index. -/
def State.keepPattern (s : State) (o : PatternOps) : State × BitVec 32 :=
  let (c, j) := journalAdd s.card s.nvm.bootCount s.pt 0x11 0xFF (s.patternBytes o)
  (s.withCard fun _ => { c with flushDue := true }, j)

/-- Significands and shifts of a K block of 32 elements in the digit that a pass carries (R87, R108, R129). -/
def digitsOf (cls : PassClass) (fm : Fmt) (f : List Byte) (i0 d : Nat) : List Byte × List Nat :=
  match cls with
  | .c8 | .c4 =>
    let es := (List.range 32).map fun k => fm.elem (elemBits fm f (i0 + k))
    (es.flatMap fun e => itemS 1 e.s, es.map (·.t))
  | _ => (((kBlock cls fm f i0).digits.getD d []).flatMap (itemS 1), List.replicate 32 0)

/-- The scale integer of a K block and its exponent u − f (R92, R108). -/
def scaleParts (cls : PassClass) (fm : Fmt) (f : List Byte) (i0 : Nat) : Nat × Int :=
  match cls with
  | .c8 | .c4 => let c := scaleAt fm f i0; (c.g, c.u - fm.offset)
  | .h | .s =>
    let d := if cls = .h then 2 else 3
    let xs := (List.range 32).map fun k => (tagOf (fm.plain (elemBits fm f (i0 + k)))).2
    (1, (sliceBlock xs d).1 - ((7 * d : Nat) - 1))
  | .i => (1, 0)

/-- The column group of a failing task: the first whose task runs on the array (R87). -/
def failGroup (nb p : Nat) (f : ArrayFail) : Nat :=
  ((List.range 4).find? fun g => (g * nb * p + f.kBlock * p + f.pass) % 4 = f.array).getD 0

/-- The operands of a failed array task, from the frames of A and B as the arrays received them (R373): the column group
and the K block are those of B's frame. -/
def arrayPattern (fa fb : List Byte) (f : ArrayFail) (g kb pcell : Nat) : PatternOps :=
  let ha := hdrOf fa
  let hb := hdrOf fb
  match fmtOf ha.fmt, fmtOf hb.fmt with
  | some ma, some mb =>
    let cls := (ma.pass).getD .c8
    let ps := passes cls
    let (da, db, _) := ps.getD f.pass (0, 0, 1)
    let zero := (List.replicate 32 (0 : Byte), List.replicate 32 0)
    let cols := (List.range 32).map fun n =>
      let row := 32 * g + n
      if row < hb.rows then digitsOf cls mb fb (row * hb.cols + 32 * kb) db else zero
    let at5 (k n : Nat) : Nat := (cols.getD n zero).2.getD k 0
    let row0 := if cls = .c4 then f.row - f.row % 2 else f.row
    let a0 := digitsOf cls ma fa (row0 * ha.cols + 32 * f.kBlock) da
    let a1 := digitsOf cls ma fa ((row0 + 1) * ha.cols + 32 * f.kBlock) da
    let two := cls = .c4 && decide (row0 + 1 < ha.rows)
    let sa := scaleParts cls ma fa (row0 * ha.cols + 32 * f.kBlock)
    let cb := 32 * g + (if f.column < 32 then f.column else 0)
    let sb := scaleParts cls mb fb (cb * hb.cols + 32 * kb)
    { mode := b2n (cls = .c4), pcell := pcell, array := f.array, column := f.column, cObs := f.cObs, sObs := f.sObs
      wSig := (List.range 32).flatMap fun k => (List.range 32).map fun n => (cols.getD n zero).1.getD k 0
      wShift := (List.range 32).flatMap fun k => (List.range 32).map (at5 k)
      aSig := a0.1 ++ (if two then a1.1 else []), aShift := a0.2 ++ (if two then a1.2 else [])
      gA := sa.1, gB := sb.1, uA := sa.2, uB := sb.2 }
  | _, _ => { pcell := pcell, array := f.array, column := f.column, cObs := f.cObs, sObs := f.sObs }

/-- The passes of a frame's class. -/
def passCount (f : List Byte) : Nat :=
  match fmtOf (hdrOf f).fmt with
  | some fm => (passes ((fm.pass).getD .c8)).length
  | none => 1

/-- The pattern of a station's failing command (R373): its newest MM_RUN, or its GL_RUN on cells with the W frame of the
failing column group and K block (R182). -/
def State.failPattern (s : State) (st : Nat) (f : ArrayFail) (pcell : Nat) : PatternOps :=
  let r := s.st st
  match r.pendingMm.getLast?, r.held.getLast?, r.glW with
  | some p, _, _ =>
    let g := failGroup ((hdrOf p.fa).cols / 32) (passCount p.fa) f
    arrayPattern p.fa p.fb f g f.kBlock pcell
  | none, some h, some w =>
    let ct := tiles64 (s.paramsOf st).cols
    let g := ((List.range 8).find? fun g => (g * (2 * ct) + f.kBlock) % 4 = f.array).getD 0
    arrayPattern h.xframe (w.frames.getD (g / 2 * ct + f.kBlock / 2) []) f (g % 2) (f.kBlock % 2) pcell
  | _, _, _ => { pcell := pcell, array := f.array, column := f.column, cObs := f.cObs, sObs := f.sObs }

/-- The operands of a failed Relay combination (R373): the first atoms of the two staged operands. -/
def relayPattern (a b : List Byte) : PatternOps :=
  { kind := 2, wSig := padTo 32 (sub a 0xA0 32) ++ padTo 32 (sub b 0xA0 32) }

end Sys2Proof.Machine
end

