-- ==== Sys2Proof/Machine/Requests.lean ====
section
/-!
DEFINITION. Requests at their destination (R67 to R71, R304 to R306, R309, R313, R316 to R320, R322, R326, R381): windows,
the counts that order packets, atomics with their replay cache, and the responses.
-/
namespace Sys2Proof.Machine

/-! ### ORD (R312, R313) -/

/-- The count for a packet's source has reached its WCNT (R313): at most 32,768 operations are ever in flight. -/
def State.ordReady (s : State) (p : Packet) : Bool := decide ((s.doneFrom p.src + 2 ^ 16 - p.wcnt.toNat) % 2 ^ 16 < 2 ^ 15)

/-! ### Windows (R67 to R71, R306) -/

/-- A write to a window that is not open here: dropped, and WINDOW_CLOSED (R67). No window of this Course has the identity,
and the error names no station, 0xFFFF (DESIGN CHOICE, log 131). -/
def State.closedWindow (s : State) : State := s.courseError eWindowClosed 0xFFFF

/-- The parameters of a window's station. -/
def State.windowParams (s : State) (w : Window) : KindParams := match s.desc w.station with
  | some d => d.params
  | none => {}

/-- The bytes received of a slot. -/
def SlotState.received (x : SlotState) : Nat := x.got.foldl (fun n g => n + g.2) 0

/-- The slot is FULL (R69). -/
def SlotState.full (x : SlotState) : Bool := decide (frameBytes ≤ x.received)

/-- A window signals its targets for every FULL slot next in cursor order (R70). -/
def State.signalSlots (s : State) (id fuel : Nat) : State :=
  match fuel with
  | 0 => s
  | fuel + 1 =>
    match look s.windows id with
    | some w =>
      let n := max 1 (s.windowParams w).slots
      let k := w.signalled % n
      let x := lookD w.slots k {}
      if x.full && !x.signalled then
        let w' : Window := { w with slots := put w.slots k { x with signalled := true }, signalled := w.signalled + 1 }
        let s := { s with windows := put s.windows id w' }
        let s := (List.range 12).foldl (fun s j => s.emit w.station j 1) s
        s.signalSlots id fuel
      else s
    | none => s

/-- Two byte ranges meet. -/
def rangesMeet (a b : Nat × Nat) : Bool := decide (a.1 < b.1 + b.2) && decide (b.1 < a.1 + a.2)

/-- A WRITE into a slot of a TILE window (R69 to R71); the answer says whether the bytes were stored. Bytes beyond the
window's slots or across a slot's end are WINDOW_OVERRUN (log 24). They are stored in the slot of the window's stream, and
in no object (DESIGN CHOICE, log 132). -/
def State.tileWrite (s : State) (id : Nat) (w : Window) (p : Packet) : State × Bool :=
  let n := (s.windowParams w).slots
  let k := p.offset.toNat / frameBytes
  let o := p.offset.toNat % frameBytes
  let len := p.payload.length
  let x := lookD w.slots k {}
  if n ≤ k ∨ frameBytes < o + len ∨ x.full = true then (s.courseError eWindowOverrun w.station, false)
  else if x.src.any fun c => decide (c ≠ p.src) then (s.courseError eWindowSource w.station, false)
  else if x.got.any (rangesMeet (o, len)) then (s.courseError eWindowOverrun w.station, false)
  else
    let s := s.writeMem 0 0 (s.slotAddr (s.outStream w.station 0) k + o) p.payload p.badGranules
    let x := { x with src := some p.src, got := x.got ++ [(o, len)] }
    let s := { s with windows := put s.windows id { w with slots := put w.slots k x } }
    (s.signalSlots id (max 1 n), true)

/-- The pieces of a span of a MEM window: window offset, frame and byte within it, and length (R306). -/
def memPieces (off len fuel : Nat) : List (Nat × Nat × Nat × Nat) :=
  match fuel with
  | 0 => []
  | fuel + 1 =>
    if len = 0 then [] else
    let f := off / frameBytes
    let b := off % frameBytes
    let n := min len (frameBytes - b)
    (off, f, b, n) :: memPieces (off + n) (len - n) fuel

/-- Bytes written into a MEM window (R306). -/
def State.memWrite (s : State) (obj off : Nat) (bytes : List Byte) (bad : List Nat) : State :=
  (memPieces off bytes.length 3).foldl (fun s q =>
    let skip := (q.1 - off) / 8
    let bad' := (bad.filter fun g => decide (skip ≤ g)).map (· - skip)
    s.writeMem 0 0 (s.frameAddr obj q.2.1 + q.2.2.1) (sub bytes (q.1 - off) q.2.2.2) (bad'.filter fun g => decide (8 * g < q.2.2.2))) s

/-- The size of a MEM window in bytes. -/
def State.memSize (s : State) (w : Window) : Nat := (s.windowParams w).slots * 65536

/-! ### The restore window (R381) -/

/-- The frames of an object of the Course. -/
def State.objectSize (s : State) (obj : Nat) : Nat := match s.course.objects.find? (·.id = obj) with
  | some o => o.frames
  | none => 0

/-- Both parts of every frame of an object have come. -/
def Restore.complete (r : Restore) (obj frames : Nat) : Bool :=
  (List.range frames).all fun f => r.received.contains (obj, f, 0) && r.received.contains (obj, f, 1)

/-- A restored frame's CRC is verified (R58, R381); one that fails is a tile-integrity fault. The answer counts the frames
that fail. -/
def State.verifyRestored (s : State) (obj f : Nat) : State × Nat :=
  let a := s.frameAddr obj f
  let (s, m) := s.readMem 0 0 a frameBytes
  if m.bad.isEmpty && crcOk m.bytes then (s, 0)
  else
    let h := hdrOf m.bytes
    (s.tileFault a h.producer h.step, 1)

/-- Every frame of an object is verified; the answer counts those that fail. -/
def State.verifyObject (s : State) (obj n : Nat) : State × Nat :=
  (List.range n).foldl (fun (a : State × Nat) f =>
    ((a.1.verifyRestored obj f).1, a.2 + (a.1.verifyRestored obj f).2)) (s, 0)

/-- An object that is complete is verified; once every object is, the window closes (R381). -/
def State.restoreObject (s : State) (r : Restore) (obj : Nat) : State :=
  let n := s.objectSize obj
  if r.complete obj n then
    let v := s.verifyObject obj n
    let r := { r with received := r.received.filter fun x => decide (x.1 ≠ obj)
                      todo := if v.2 = 0 then r.todo.filter fun e => decide (e.object ≠ obj) else r.todo }
    { v.1 with restore := if r.todo.isEmpty then none else some r }
  else { s with restore := some r }

/-- A WRITE into restore window 0xFFFF: a part of a frame of an object that is to be restored (R381). Another has no place
there and changes nothing (log 41). -/
def State.restoreWrite (s : State) (r : Restore) (p : Packet) : State :=
  let o := p.offset.toNat
  let obj := bits o 47 32
  let f := bits o 31 1
  let fits := p.payload.length ≤ (if o % 2 = 0 then 4096 else 160)
  if (r.todo.any fun e => decide (e.object = obj)) ∧ f < s.objectSize obj ∧ fits then
    let s := s.writeMem 0 0 (s.frameAddr obj f + 4096 * (o % 2)) p.payload p.badGranules
    let part := (obj, f, o % 2)
    s.restoreObject { r with received := if r.received.contains part then r.received else r.received ++ [part] } obj
  else s

/-! ### WRITE, STORE and LOAD -/

/-- A WRITE at its destination (R305, R381). -/
def State.doWrite (s : State) (p : Packet) : State :=
  if p.windowId = 0xFFFF ∧ s.restore.isSome = true then
    match s.restore with
    | some r => ((s.restoreWrite r p).countDone p.src).respond p 0x81 0 []
    | none => s
  else
    match look s.windows p.windowId.toNat with
    | none => s.closedWindow
    | some w =>
      if (s.windowParams w).memMode then
        if s.memSize w < p.offset.toNat + p.payload.length then (s.countDone p.src).respond p 0x81 1 []
        else
          ((s.memWrite (s.windowParams w).object p.offset.toNat p.payload p.badGranules).countDone p.src).respond p 0x81 0 []
      else
        let (s, ok) := s.tileWrite p.windowId.toNat w p
        if ok then (s.countDone p.src).respond p 0x81 0 [] else s

/-- The MEM window that an access of 32 bytes or fewer reaches, or the status that turns it away: KIND for a TILE
window, RANGE beyond its size, ALIGN (log 24). -/
def State.memTarget (s : State) (w : Window) (off len : Nat) : Except Nat Nat :=
  if !(s.windowParams w).memMode then .error 6
  else if len = 0 ∨ off % (max 1 len) ≠ 0 then .error 2
  else if s.memSize w < off + len then .error 1
  else .ok (s.windowParams w).object

/-- The address of a window offset. -/
def State.memAddr (s : State) (obj off : Nat) : Nat := s.frameAddr obj (off / frameBytes) + off % frameBytes

/-- A STORE at its destination (R304, R309): one whose granule is uncorrectable writes under R215 and counts. -/
def State.doStore (s : State) (p : Packet) : State :=
  match look s.windows p.windowId.toNat with
  | none => s.closedWindow
  | some w =>
    let len := p.payload.length
    match s.memTarget w p.offset.toNat len with
    | .error c => (s.countDone p.src).respond p 0x81 c []
    | .ok obj =>
      let a := s.memAddr obj p.offset.toNat
      let poisoned := (s.stores.mem.read a len).1.any fun z => z.bad
      let s := s.writeMem 0 0 a p.payload p.badGranules
      (s.countDone p.src).respond p 0x81 (if poisoned && decide (len < 8) then 4 else 0) []

/-- A LOAD at its destination: DATA with the bytes, or zeros with status POISON (R309). -/
def State.doLoad (s : State) (p : Packet) : State :=
  match look s.windows p.windowId.toNat with
  | none => s.closedWindow
  | some w =>
    let len := p.aux.toNat
    match s.memTarget w p.offset.toNat len with
    | .error c => s.respond p 0x82 c (List.replicate 32 0)
    | .ok obj =>
      let (s, m) := s.readMem 0 0 (s.memAddr obj p.offset.toNat) len
      if m.bad.isEmpty then s.respond p 0x82 0 (padTo 32 m.bytes) else s.respond p 0x82 4 (List.replicate 32 0)

/-! ### Atomics (R217, R316 to R320, R322) -/

/-- An atomic operation, by the controller of its stack or by its slice (R217, R309, R316): the old value, or none where the
bytes are uncorrectable, which it leaves as they are. A cached copy is invalidated (R222). -/
def State.atomicAt (s : State) (a fn : Nat) (wide : Bool) (data : List Byte) : State × Option Nat :=
  let n := if wide then 8 else 4
  let rd := s.readStore 0 0 a n
  if rd.2.bad.isEmpty then
    let old := leNat rd.2.bytes
    let new := atomicFn fn wide old (fld data 0 n) (fld data n n)
    ((rd.1.writePart 0 0 a (natLe n new) []).cacheDrop a n, some old)
  else (rd.1, none)

/-- What an atomic does to its bytes: the status and the old value (R309, R316). Uncorrectable bytes are not changed. -/
def State.applyAtomic (s : State) (p : Packet) : Option (State × Nat × Nat) :=
  match look s.windows p.windowId.toNat with
  | none => none
  | some w =>
    let wide := p.aux.getLsbD 4
    let n := if wide then 8 else 4
    match s.memTarget w p.offset.toNat n with
    | .error c => some (s, c, 0)
    | .ok obj =>
      let (s, old) := s.atomicAt (s.memAddr obj p.offset.toNat) (p.aux.toNat % 16) wide p.payload
      some (s, if old.isSome then 0 else 4, old.getD 0)

/-- The state of R318 kept for a source; at most 4,096 sources (R320). -/
def State.atomState (s : State) (c : Coord) : AtomSource := lookD s.fabric.atoms c.toNat {}

/-- How an atomic's SEQ stands to what has been applied (R318): to apply, to answer from the cache, or a fault. -/
def AtomSource.stand (a : AtomSource) (seq : BitVec 16) : Nat :=
  let d := (seq - a.e).toNat
  if d < 64 then (if a.marked.contains seq then 2 else 1)
  else if 2 ^ 16 - 64 ≤ d then 2 else 3

/-- E advanced past every contiguous applied value. -/
def AtomSource.settle (a : AtomSource) (fuel : Nat) : AtomSource :=
  match fuel with
  | 0 => a
  | fuel + 1 =>
    if a.marked.contains a.e then AtomSource.settle { a with e := a.e + 1, marked := a.marked.filter (· != a.e) } fuel else a

/-- An atomic of a source is marked as applied with its result and status (R318). -/
def State.markAtomic (s : State) (c : Coord) (seq : BitVec 16) (old status : Nat) : State :=
  let a := s.atomState c
  let a := { a with
    marked := a.marked ++ [seq]
    cache := put a.cache (seq.toNat % 64) (BitVec.ofNat 64 old)
    stats := put a.stats (seq.toNat % 64) status }
  s.withFabric fun f => { f with atoms := put f.atoms c.toNat (AtomSource.settle a 65) }

/-- The response to an atomic: ACK to ATOM, RESULT to ATOM_F and REFETCH (R304). -/
def State.answerAtomic (s : State) (p : Packet) (old status : Nat) : State :=
  if p.opc = 0x04 then s.respond p 0x81 status [] else s.respond p 0x83 status (natLe 8 old)

/-- An atomic answered from the replay cache (R318 step 2). -/
def State.replayAtomic (s : State) (p : Packet) : State :=
  let a := s.atomState p.src
  let i := p.seq.toNat % 64
  (s.bump (oFab 0x1010)).answerAtomic p (lookD a.cache i 0).toNat (lookD a.stats i 0)

/-- An ATOM or ATOM_F at its destination (R318). A combined ATOM is applied once for the constituents that are new, and
each constituent is marked, counted and answered for itself (R322). -/
def State.doAtomic (s : State) (p : Packet) : State :=
  let cs := p.constituents
  let standing := cs.map fun c => (c, (s.atomState c.src).stand c.seq)
  let s := (standing.filter fun c => c.2 = 3).foldl
    (fun s c => s.seqFault c.1.src c.1.seq.toNat (s.atomState c.1.src).e.toNat) s
  let s := (standing.filter fun c => c.2 = 2).foldl (fun s c => s.replayAtomic c.1) s
  let fresh := (standing.filter fun c => c.2 = 1).map (·.1)
  if fresh.isEmpty then s else
  match s.applyAtomic p with
  | none => s.closedWindow
  | some (s, status, old) =>
    fresh.foldl (fun s c => ((s.markAtomic c.src c.seq old status).countDone c.src).answerAtomic c old status) s

/-- A REFETCH at its destination (R319): from the replay cache, nothing applied. -/
def State.doRefetch (s : State) (p : Packet) : State :=
  if (s.atomState p.src).stand p.seq = 2 then s.replayAtomic p
  else s.seqFault p.src p.seq.toNat (s.atomState p.src).e.toNat

/-! ### SIGNAL and FAR -/

/-- A SIGNAL at its destination (R64, R124, R304, R315): the signal reaches its semaphore file, and is acknowledged once
applied. -/
def State.doSignal (s : State) (p : Packet) : State :=
  (s.semCycle [{ station := p.windowId.toNat, sem := p.offset.toNat % 64, count := p.aux.toNat, src := some p }]).checkDone

/-- A reply entry (R309). -/
def replyEntry (status : Nat) (bytes : List Byte) : List Byte := natLe 1 status ++ List.replicate 31 0 ++ padTo 32 bytes

/-- A far operation at its proxy agent (R326): performed as a local request of its source, and its reply entry
returned. -/
def State.doFar (s : State) (p : Packet) : State :=
  let e := p.payload
  let op := fld e 0 1
  let off := fld e 0x10 6
  let wide := bit (fld e 3 1) 4
  let len := if op ≤ 2 then 2 ^ (fld e 2 1 % 8) else if wide then 8 else 4
  match look s.windows (fld e 8 2) with
  | none => s.closedWindow
  | some w =>
    let s := if op = 1 then s else s.countDone p.src
    match s.memTarget w off len with
    | .error c => s.respond p 0x84 0 (replyEntry c [])
    | .ok obj =>
      let a := s.memAddr obj off
      match op with
      | 1 =>
        let (s, m) := s.readMem 0 0 a len
        if m.bad.isEmpty then s.respond p 0x84 0 (replyEntry 0 m.bytes)
        else (s.bump (oFab 0x1038)).respond p 0x84 0 (replyEntry 4 [])
      | 2 =>
        let poisoned := decide (len < 8) && (s.stores.mem.read a len).1.any fun z => z.bad
        let s := s.writeMem 0 0 a (sub e 0x20 len) []
        let s := if poisoned then s.bump (oFab 0x1038) else s
        s.respond p 0x84 0 (replyEntry (if poisoned then 4 else 0) [])
      | _ =>
        let (s, old) := s.atomicAt a (fld e 3 1 % 16) wide (e.drop 0x20)
        match old with
        | some x => s.respond p 0x84 0 (replyEntry 0 (if op = 4 then natLe len x else []))
        | none => (s.bump (oFab 0x1038)).respond p 0x84 0 (replyEntry 4 [])

/-! ### The rows -/

/-- A packet leaves the local port's queue as it is served. -/
def State.takeLocal (s : State) (p : Packet) : State := s.withFabric fun f => { f with localIn := f.localIn.erase p }

/-- A request is performed (R281, R304). -/
def State.perform (s : State) (p : Packet) : State :=
  let s := s.wrapBy (oFab 0x1108) 1
  match p.opc.toNat with
  | 1 => s.doWrite p
  | 2 => s.doStore p
  | 3 => s.doLoad p
  | 4 => s.doAtomic p
  | 5 => s.doAtomic p
  | 6 => s.doSignal p
  | 7 => s.doRefetch p
  | 8 => s.doFar p
  | _ => s

/-- The window of a request, and the first and last of the 32-byte atoms that it touches; none for a request that touches no
memory (R312). -/
def atomsOf (p : Packet) : Option (Nat × Nat × Nat) :=
  let span (w off len : Nat) : Option (Nat × Nat × Nat) := some (w, off / 32, (off + max 1 len - 1) / 32)
  match p.opc.toNat with
  | 1 => span p.windowId.toNat p.offset.toNat p.payload.length
  | 2 => span p.windowId.toNat p.offset.toNat p.payload.length
  | 3 => span p.windowId.toNat p.offset.toNat p.aux.toNat
  | 4 => span p.windowId.toNat p.offset.toNat 8
  | 5 => span p.windowId.toNat p.offset.toNat 8
  | 8 => span (fld p.payload 8 2) (fld p.payload 0x10 6) (if fld p.payload 0 1 ≤ 2 then 2 ^ (fld p.payload 2 1 % 8) else 8)
  | _ => none

/-- Two requests touch one atom. -/
def sameAtom (p q : Packet) : Bool :=
  match atomsOf p, atomsOf q with
  | some a, some b => decide (a.1 = b.1) && decide (a.2.1 ≤ b.2.2) && decide (b.2.1 ≤ a.2.2)
  | _, _ => false

/-- In a COMBINE slice a request waits behind the earlier requests of its pair that are held and touch an atom of its own
(R312). -/
def State.behind (s : State) (held : List Packet) (p : Packet) : Bool :=
  s.fabric.table.any (fun t => !t.spread) && held.any fun q => decide (q.src = p.src) && sameAtom q p

/-- A request may be performed, with those held that came before it: ORD waits for its count (R313), R312 for the earlier
requests to its atoms, and a signal for a cell that a rotation copies for the copy's end (R169). -/
def State.mayPerform (s : State) (held : List Packet) (p : Packet) : Bool :=
  (!p.ord || s.ordReady p) && !s.behind held p && !(p.opc = 0x06 && (s.cellOf p.windowId.toNat).any s.copying)

/-- A request reaches its destination: one that may not be performed yet is held (R312, R313). With no slice table it cannot
have come in (R292). -/
def State.accept (s : State) (p : Packet) : State :=
  match s.fabric.table with
  | none => s
  | some _ =>
    let s := s.takeLocal p
    if s.mayPerform s.fabric.ordHeld p then s.perform p
    else (s.withFabric fun f => { f with ordHeld := f.ordHeld ++ [p] }).wrapBy (oFab 0x1128) 1

/-- WRITE stores its payload into a window (R305). -/
def execWrite (p : Packet) (s : State) : Out := .next (s.accept { p with opc := 0x01 })

/-- STORE writes 1 to 32 bytes of a MEM window (R306). -/
def execStore (p : Packet) (s : State) : Out := .next (s.accept { p with opc := 0x02 })

/-- LOAD reads 1 to 32 bytes of a MEM window (R306). -/
def execLoad (p : Packet) (s : State) : Out := .next (s.accept { p with opc := 0x03 })

/-- A function code that the table of atomic functions does not hold: reserved, with behaviour that R6 leaves undefined
(R309, R316, log 43). -/
def reservedFn (fn : Nat) : Bool := decide (6 < fn)

/-- An entry of a far operation with an encoding that R308 and R309 call reserved: OP, SIZE of a LOAD or STORE, or FN of
an atomic (R6, log 43). -/
def reservedEntry (e : List Byte) : Bool :=
  match fld e 0 1 with
  | 1 => decide (5 < fld e 2 1)
  | 2 => decide (5 < fld e 2 1)
  | 3 => reservedFn (fld e 3 1 % 16)
  | 4 => reservedFn (fld e 3 1 % 16)
  | _ => true

/-- ATOM applies an atomic and acknowledges it (R316, R318, R322). -/
def execAtom (p : Packet) (s : State) : Out :=
  if reservedFn (p.aux.toNat % 16) then .fault .reservedEncoding else .next (s.accept { p with opc := 0x04 })

/-- ATOM_F applies an atomic and returns the old value (R316, R318). -/
def execAtomF (p : Packet) (s : State) : Out :=
  if reservedFn (p.aux.toNat % 16) then .fault .reservedEncoding else .next (s.accept { p with opc := 0x05 })

/-- SIGNAL adds to a semaphore after every earlier write of its pair (R313, R315). -/
def execSignal (p : Packet) (s : State) : Out :=
  .next (s.accept { p with opc := 0x06, pflags := p.pflags ||| 1 })

/-- REFETCH asks for an atomic's result again (R319). -/
def execRefetch (p : Packet) (s : State) : Out := .next (s.accept { p with opc := 0x07 })

/-- FAR carries an operation of another block (R326). -/
def execFar (p : Packet) (s : State) : Out :=
  if reservedEntry p.payload then .fault .reservedEncoding else .next (s.accept { p with opc := 0x08 })

/-- A held packet of a source is performed once its count has come, and none before it holds its atoms (R312, R313). -/
def execOrdPacketRelease (src : Coord) (s : State) : Out :=
  let l := s.fabric.ordHeld
  let ready (i : Nat) : Bool := match l[i]? with
    | some p => decide (p.src = src) && s.mayPerform (l.take i) p
    | none => false
  match (List.range l.length).find? ready with
  | some i => match l[i]? with
    | some p => .next ((s.withFabric fun f => { f with ordHeld := f.ordHeld.eraseIdx i }).perform p)
    | none => .next s
  | none => .next s

/-- WIN_RELEASE re-arms COUNT slots from FIRST on, wrapping at SLOTS (R71); a MEM window has none. -/
def execWinRelease (st : Nat) (cf : Common) (first count : Nat) (s : State) : Out :=
  .next (s.gate st cf (· == .window) fun s =>
    let rearm (w : Window) : Window :=
      if w.station = st then
        let n := max 1 (s.windowParams w).slots
        let again := (List.range (min count n)).map fun i => (first + i) % n
        { w with slots := w.slots.filter fun x => !again.contains x.1 }
      else w
    let s := { s with windows := s.windows.map fun (w : Nat × Window) => (w.1, rearm w.2) }
    s.issueDone st [] [(signalOf cf, 1)])

end Sys2Proof.Machine
end

