-- ==== Sys2Proof/Machine/Dma.lean ====
section
/-!
DEFINITION. The DMA contexts and the source side of the fabric (R60, R78 to R80, R125 to R128, R303, R307 to R310, R313,
R315, R317, R326): RD_TILES, WR_TILES, CP_TILES, CP_REMOTE, SEM_REMOTE, and operation lists.
-/
namespace Sys2Proof.Machine

/-! ### Operations in flight (R126, R303) -/

/-- HIGH_WATER follows the operations in flight (R332). -/
def State.markFlight (s : State) : State := s.withFabric fun f => { f with highWater := max f.highWater s.inFlight }

/-- A tag that no operation in flight holds. -/
def State.freeTag (s : State) : Nat :=
  let fs := s.fabric.flights
  let t := s.fabric.nextTag
  (((List.range (fs.length + 1)).map fun i => (t + i) % 32768).find? fun x => !fs.any fun f => f.tag = x).getD t

/-- A packet of a station is sent as an operation in flight (R303). With ORD it carries the count of writes issued to its
destination, and a write is counted (R313). -/
def State.sendOp (s : State) (st : Nat) (kind : OpKind) (cmd : Nat) (p : Packet) : State :=
  let tag := s.freeTag
  let n := s.issuedTo p.dst
  let isWrite := p.opc = 0x01 || p.opc = 0x02 || p.opc = 0x04 || p.opc = 0x05 || p.opc = 0x06 ||
    (p.opc = 0x08 && fld p.payload 0 1 != 1)
  let fl : FlightOp :=
    { tag := tag, dst := p.dst, station := st, kind := kind, cmd := cmd
      atomSeq := if p.opc = 0x04 || p.opc = 0x05 then some p.seq.toNat else none }
  let s := s.withFabric fun f =>
    { f with
      flights := f.flights ++ [fl]
      nextTag := (tag + 1) % 32768
      issued := if isWrite then put f.issued p.dst.toNat ((n + 1) % 2 ^ 16) else f.issued }
  (s.inject { p with tag := BitVec.ofNat 16 tag, wcnt := if p.ord then BitVec.ofNat 16 n else 0 }).markFlight

/-- The transactions of a station's DMA context that are outstanding, local and remote (R125). -/
def State.contextOpen (s : State) (st : Nat) : Nat :=
  localOpen (s.st st) + ((s.flightsOf st).filter fun f => f.kind = .dmaRemote).length

/-- The transactions of the cell of a station that are outstanding (R125). -/
def State.cellOpen (s : State) (st : Nat) : Nat :=
  match s.cellOf st with
  | some c => s.cells.stations.foldl (fun n p => if s.cellOf p.1 = some c then n + s.contextOpen p.1 else n) 0
  | none => s.contextOpen st

/-- The transactions that a station may start now: its context has fewer than 192 outstanding, its cell fewer than 256, and
the device an operation free (R125, R126, R303). -/
def State.opRoom (s : State) (st : Nat) : Nat :=
  min (min (192 - s.contextOpen st) (256 - s.cellOpen st)) (32768 - s.inFlight)

/-! ### Local transfers (R57, R60, R125 to R128) -/

def isReader : Kind → Bool := (· == .reader)
def isWriter : Kind → Bool := (· == .writer)
def isCopy : Kind → Bool := (· == .copy)

/-- Frames moved one after another until one stops the command; whether all moved. -/
def moveAll (count : Nat) (s : State) (f : State → Nat → State × Bool) : State × Bool :=
  (List.range count).foldl (fun p k => if p.2 then f p.1 k else p) (s, true)

/-- A frame of an input port is verified and its SEQ checked, and used (R57 to R59). -/
def State.takeFrame (s : State) (st port n : Nat) (path : ReadPath) (i : Instr) (use : State → List Byte → State) : State × Bool :=
  let r := s.readPort st port n path
  match r.frame with
  | none => (r.state.awaitReread st i, false)
  | some f => if seqOk f n then (use r.state f, true) else (r.state.courseError eStreamOrder st, false)

/-- Transactions of the commands of a list start, those of the first command first, as many as may. -/
def startTodo : Nat → List Outst → List Outst
  | _, [] => []
  | n, o :: r => { o with todo := o.todo - n } :: startTodo (n - o.todo) r

/-- Local transactions of a station start, as many as may (R125, R126). A stopped station starts none (R82). -/
def State.pumpLocal (s : State) (st : Nat) : State :=
  if (s.st st).stopped || (s.st st).outstanding.all (fun o => o.todo = 0) then s
  else (s.withSt st fun r => { r with outstanding := startTodo (s.opRoom st) r.outstanding }).markFlight

/-- A station waits for a free operation since the first of its transactions or requests found none (R126). `before` is the
count in flight before the station's last turn: with one more in flight the wait is a new one. -/
def State.noteWait (s : State) (st before : Nat) (wants : Bool) : State :=
  let old := if before < s.inFlight then none else (s.st st).opSince
  let now := if s.inFlight < 32768 then none else if wants then some (old.getD s.pt) else old
  if now = (s.st st).opSince then s else s.withSt st fun r => { r with opSince := now }

/-- A DMA command of COUNT frames issues: two transactions each (R125), which start as they may. -/
def State.issueDma (s : State) (st : Nat) (cf : Common) (adv : List Advance) (count : Nat) : State :=
  let s := s.issue st [{ kind := .dma, adv := adv, signal := signalOf cf, open_ := 2 * count, todo := 2 * count }]
  let t := s.pumpLocal st
  t.noteWait st s.inFlight ((t.st st).outstanding.any fun o => decide (0 < o.todo))

/-- The work of RD_TILES: frames of an object into a stream, restamped (R60). -/
def State.rdTiles (s : State) (st : Nat) (cf : Common) (obj o first count : Nat) (path : ReadPath) : State :=
  let no := (s.st st).outPos o
  let sid := s.outStream st o
  let (s, ok) := moveAll count s fun s k =>
    let r := s.readFrame st (s.frameAddr obj (first + k)) (path.shift k)
    match r.frame with
    | none => (r.state.awaitReread st (.rdTiles st cf obj o first count path), false)
    | some f => (r.state.writePort st o (no + k) (restamp f sid ((no + k) % 2 ^ 32)), true)
  if ok then s.issueDma st cf (advances cf [] [o] count) count else s

/-- RD_TILES (R73). -/
def execRdTiles (st : Nat) (cf : Common) (object o first count : Nat) (path : ReadPath) (s : State) : Out :=
  .next (s.gate st cf isReader fun s => s.rdTiles st cf object o first count path)

/-- The work of WR_TILES: frames of a stream into an object, restamped (R60). -/
def State.wrTiles (s : State) (st : Nat) (cf : Common) (obj i first count : Nat) (path : ReadPath) : State :=
  let ni := (s.st st).inPos i
  let (s, ok) := moveAll count s fun s k =>
    s.takeFrame st i (ni + k) (path.shift k) (.wrTiles st cf obj i first count path) fun s f =>
      s.writeFrame st (s.frameAddr obj (first + k)) (restamp f obj (first + k))
  if ok then s.issueDma st cf (advances cf [i] [] count) count else s

/-- WR_TILES (R73). -/
def execWrTiles (st : Nat) (cf : Common) (object i first count : Nat) (path : ReadPath) (s : State) : Out :=
  .next (s.gate st cf isWriter fun s => s.wrTiles st cf object i first count path)

/-- The work of CP_TILES between two streams (R60, R307). -/
def State.cpTiles (s : State) (st : Nat) (cf : Common) (i o count : Nat) (path : ReadPath) : State :=
  let ni := (s.st st).inPos i
  let no := (s.st st).outPos o
  let sid := s.outStream st o
  let (s, ok) := moveAll count s fun s k =>
    s.takeFrame st i (ni + k) (path.shift k) (.cpTiles st cf i o count path) fun s f =>
      s.writePort st o (no + k) (restamp f sid ((no + k) % 2 ^ 32))
  if ok then s.issueDma st cf (advances cf [i] [o] count) count else s

/-- CP_TILES with I other than 7 (R307). -/
def execCpTiles (st : Nat) (cf : Common) (i o count : Nat) (path : ReadPath) (s : State) : Out :=
  .next (if i = 7 then s else s.gate st cf isCopy fun s => s.cpTiles st cf i o count path)

/-! ### CP_REMOTE and SEM_REMOTE (R78 to R80, R305, R315) -/

/-- The place of a command by its number among the outstanding ones. -/
def StationRt.indexOf (r : StationRt) (id : Nat) : Option Nat := r.outstanding.findIdx? fun o => o.id = id && !o.done

/-- WRITE packets of a station leave while its transactions may start (R125, R126). A stopped station sends none (R82). -/
def State.pumpSend (s : State) (st fuel : Nat) : State :=
  match fuel with
  | 0 => s
  | fuel + 1 =>
    match (s.st st).sendQ with
    | (id, p) :: rest =>
      if (s.st st).stopped = false ∧ 0 < s.opRoom st then
        ((s.withSt st fun r => { r with sendQ := rest }).sendOp st .dmaRemote id p).pumpSend st fuel
      else s
    | [] => s

/-- One transaction or signal of a command completes; the command completes with its last. -/
def State.opDone (s : State) (st id : Nat) : State :=
  match (s.st st).indexOf id with
  | none => s
  | some i =>
    let s := s.withSt st fun r => { r with outstanding := updAt r.outstanding i fun o => { o with open_ := o.open_ - 1 } }
    match (s.st st).outstanding[i]? with
    | some o => if o.open_ = 0 then s.complete st i else s
    | none => s

/-- The window of an identity in this Course: its station's descriptor. -/
def State.windowDesc (s : State) (id : Nat) : Option StationDesc :=
  s.course.stations.find? fun d => d.kind = .window && d.params.windowId = id

/-- SLOTS of a window for CP_REMOTE (R80, R306). -/
def windowSlots (d : StationDesc) : Nat :=
  if d.params.memMode then d.params.slots * 65536 / frameBytes else d.params.slots

/-- The SEQ that a slot of a window takes at its n-th use by this device (R49, R80, R306, log 25). -/
def slotSeq (d : StationDesc) (slot uses : Nat) : Nat := if d.params.memMode then slot else slot + uses * windowSlots d

/-- The key of a slot of a window of a destination. -/
def slotKey (dst : Coord) (window slot : Nat) : Nat := (dst.toNat * 65536 + window) * 2 ^ 32 + slot

/-- The uses that the stations of this device have made of a slot of a window. -/
def State.usesOf (s : State) (key : Nat) : Nat := s.cells.stations.foldl (fun n p => n + lookD p.2.slotUses key 0) 0

/-- The two WRITE packets of a frame for a slot (R125, R305). -/
def framePackets (dst : Coord) (window slot : Nat) (f : List Byte) : List Packet :=
  [{ opc := 0x01, dst := dst, src := 0, sliceId := 0, windowId := BitVec.ofNat 16 window
     offset := BitVec.ofNat 48 (frameBytes * slot), payload := f.take 4096 },
   { opc := 0x01, dst := dst, src := 0, sliceId := 0, windowId := BitVec.ofNat 16 window
     offset := BitVec.ofNat 48 (frameBytes * slot + 4096), payload := f.drop 4096 }]

/-- The work of CP_REMOTE (R78, R80): COUNT frames restamped and sent into slots of a window of another member. Where one of
them does not verify, none of the command's frames has been sent (DESIGN CHOICE, log 133). -/
def State.cpRemote (s : State) (st : Nat) (cf : Common) (i : Nat) (rank : RankOp) (window slot count : Nat)
    (path : ReadPath) : State :=
  match s.resolveRank rank with
  | none => s.courseError eRankRange st
  | some dst =>
    match s.windowDesc window with
    | none => s
    | some d =>
      let n := max 1 (windowSlots d)
      let ni := (s.st st).inPos i
      let id := (s.st st).nextId
      let sid := if d.params.memMode then d.params.object else d.outPorts.getD 0 0xFFFF
      let before := (s.st st).sendQ
      let (t, ok) := moveAll count s fun s k =>
        s.takeFrame st i (ni + k) (path.shift k) (.cpRemote st cf i rank window slot count path) fun s f =>
          let sl := (slot + k) % n
          let key := slotKey dst window sl
          let g := restamp f sid (slotSeq d sl (s.usesOf key) % 2 ^ 32)
          s.withSt st fun r =>
            { r with
              slotUses := upd r.slotUses key 0 (· + 1)
              sendQ := r.sendQ ++ (framePackets dst window sl g).map fun p => (id, p) }
      if ok then
        let t := t.issue st [{ kind := .dma, adv := advances cf [i] [] count, signal := signalOf cf, open_ := 2 * count
                               remoteTo := some dst.toNat }]
        let u := t.pumpSend st (t.st st).sendQ.length
        u.noteWait st t.inFlight (!(u.st st).sendQ.isEmpty)
      else t.withSt st fun r => { r with sendQ := before, slotUses := (s.st st).slotUses }

/-- CP_REMOTE (R73, R80). -/
def execCpRemote (st : Nat) (cf : Common) (i : Nat) (rank : RankOp) (window slot count : Nat) (path : ReadPath) (s : State) :
    Out :=
  .next (s.gate st cf isCopy fun s => s.cpRemote st cf i rank window slot count path)

/-- Every earlier data write of a station to a place other than a destination has completed, and those to it have left
(R315). -/
def StationRt.clearFor (r : StationRt) (dst : Coord) : Bool :=
  r.sendQ.isEmpty && r.outstanding.all fun o => o.done || o.kind == .nothing || o.remoteTo == some dst.toNat

/-- SEM_REMOTE (R73, R79, R315): a SIGNAL with ORD, sent only after the station's earlier writes elsewhere. -/
def execSemRemote (st : Nat) (cf : Common) (rank : RankOp) (station sem count : Nat) (s : State) : Out :=
  .next (s.gate st cf anyKind fun s =>
    match s.resolveRank rank with
    | none => s.courseError eRankRange st
    | some dst =>
      if !(s.st st).clearFor dst then s
      else if 32768 ≤ s.inFlight then s.noteWait st s.inFlight true else
      let id := (s.st st).nextId
      let s := (s.withSt st fun r => { r with opSince := none }).issue st [{ kind := .nothing, signal := signalOf cf, open_ := 1, remoteTo := some dst.toNat }]
      s.sendOp st .signal id
        { opc := 0x06, pflags := 1, dst := dst, src := 0, sliceId := 0, windowId := BitVec.ofNat 16 station
          offset := BitVec.ofNat 48 sem, aux := BitVec.ofNat 16 count })

/-! ### Operation lists (R307 to R310) -/

/-- What becomes of an entry at its source: RANK_RANGE, a status, or a destination (R309). The checks are made in the
order ENTRY, rank, KIND, ALIGN, RANGE, FAR (log 24). -/
inductive EntryCheck where
  | rankRange
  | status (n : Nat)
  | send (dst : Coord)
  deriving DecidableEq, Repr

/-- The access size of an entry. -/
def entryBytes4 (e : List Byte) : Nat :=
  if fld e 0 1 ≤ 2 then 2 ^ fld e 2 1 else if bit (fld e 3 1) 4 then 8 else 4

/-- An entry's fields are ones that R308 defines. -/
def entryOk (e : List Byte) : Bool :=
  let op := fld e 0 1
  let atomic := decide (3 ≤ op)
  decide (1 ≤ op) && decide (op ≤ 4) && decide (fld e 1 1 < 4) && !(atomic && bit (fld e 1 1) 0) &&
  (if atomic then fld e 2 1 = 0 else fld e 2 1 ≤ 5) && decide (fld e 3 1 < 32) && (!atomic || decide (fld e 3 1 % 16 ≤ 6)) &&
  decide (fld e 4 4 < 2 ^ 18) && allZero (sub e 0xA 6) && allZero (sub e 0x16 2) && allZero (sub e 0x18 8)

/-- The check of an entry. -/
def State.checkEntry (s : State) (e : List Byte) : EntryCheck :=
  if !entryOk e then .status 3 else
  match s.resolveRank { rel := bit (fld e 1 1) 1, rank := BitVec.ofNat 18 (fld e 4 4) } with
  | none => .rankRange
  | some dst =>
    let n := entryBytes4 e
    let off := fld e 0x10 6
    let far := !sameBlock s.here dst && !(s.fabric.table.any (·.farmem))
    match s.windowDesc (fld e 8 2) with
    | some d =>
      if !d.params.memMode then .status 6
      else if off % n ≠ 0 then .status 2
      else if d.params.slots * 65536 < off + n then .status 1
      else if far then .status 5 else .send dst
    | none => if off % n ≠ 0 then .status 2 else if far then .status 5 else .send dst

/-- The packet of an entry (R284, R287, R326). -/
def State.entryPacket (s : State) (e : List Byte) (dst : Coord) : Packet :=
  let op := fld e 0 1
  let n := entryBytes4 e
  let fn := fld e 3 1 % 16
  let base : Packet :=
    { opc := BitVec.ofNat 8 (op + (if op = 1 then 2 else if op = 2 then 0 else 1)), pflags := BitVec.ofNat 8 (fld e 1 1 % 2)
      dst := dst, src := 0, sliceId := 0, windowId := BitVec.ofNat 16 (fld e 8 2), offset := BitVec.ofNat 48 (fld e 0x10 6) }
  if !sameBlock s.here dst then { base with opc := 0x08, pflags := base.pflags ||| 8, payload := padTo 64 e }
  else match op with
  | 1 => { base with aux := BitVec.ofNat 16 n }
  | 2 => { base with payload := sub e 0x20 n }
  | _ =>
    { base with
      aux := BitVec.ofNat 16 (fld e 3 1 % 32)
      seq := BitVec.ofNat 16 (lookD s.fabric.atomSeq dst.toNat 0)
      payload := if fn = 6 then padTo (2 * n) (sub e 0x20 (2 * n)) else padTo 8 (sub e 0x20 n) }

/-- An entry may be sent now: an operation is free, at most 64 atomics of the pair and 256 far operations are outstanding
(R303, R317, R326). -/
def State.maySend (s : State) (p : Packet) : Bool :=
  let atoms := (s.fabric.flights.filter fun f => decide (f.dst = p.dst) && f.atomSeq.isSome).length
  let fars := (s.fabric.flights.filter fun f => match f.kind with
    | .far _ _ => true
    | _ => false).length
  decide (s.inFlight < 32768) && !((p.opc = 0x04 || p.opc = 0x05) && decide (64 ≤ atoms)) && !(p.opc = 0x08 && decide (256 ≤ fars))

/-- The operation lists, as changed. -/
def State.withList (s : State) (id : Nat) (f : OpList → OpList) : State :=
  s.withFabric fun b => { b with lists := b.lists.map fun l => if l.id = id then f l else l }

/-- The reply frame of a list (R307): RAW, its rows the replies. -/
def replyFrame (l : OpList) : List Byte :=
  let body := (List.range l.rows).flatMap fun i => padTo 64 (lookD l.replies i [])
  let h : Hdr := { fmt := 0x30, tflags := l.tflags, rows := l.rows, cols := 64, producer := l.station, stream := l.outStream
                   seq := l.seq, step := l.step.toNat }
  signFrame (hdrBytes h ++ natLe 4 0 ++ List.replicate 128 0 ++ padTo 4096 body)

/-- A list whose every entry has its reply completes: its reply frame is written (R310). -/
def State.closeList (s : State) (id : Nat) : State :=
  match s.fabric.lists.find? (·.id = id) with
  | some l =>
    if l.next = l.rows ∧ l.replies.length = l.rows then
      let s := s.writeFrame l.station (s.slotAddr l.outStream l.slot) (replyFrame l)
      let s := s.withFabric fun f => { f with lists := f.lists.filter fun x => x.id != id }
      s.opDone l.station l.cmd
    else s
  | none => s

/-- The list whose entry a station decides next: of its first two, the first that has one left (R310). A stopped station
decides none (R82). -/
def State.nextList (s : State) (st : Nat) : Option OpList :=
  if (s.st st).stopped then none
  else ((s.fabric.lists.filter fun l => l.station = st).take 2).find? fun l => decide (l.next < l.rows)

/-- The entries of a station's first two lists are decided and sent in row order while they may be (R310). -/
def State.pumpLists (s : State) (st fuel : Nat) : State :=
  match fuel with
  | 0 => s
  | fuel + 1 =>
    match s.nextList st with
    | none => s
    | some l =>
      let e := l.entries.getD l.next []
      match s.checkEntry e with
      | .rankRange => s.courseError eRankRange st
      | .status n =>
        let s := s.withList l.id fun x => { x with next := x.next + 1, replies := put x.replies l.next (replyEntry n []) }
        (s.closeList l.id).pumpLists st fuel
      | .send dst =>
        let p := s.entryPacket e dst
        if !s.maySend p then s else
        let s := s.withList l.id fun x => { x with next := x.next + 1 }
        let s := if p.opc = 0x04 || p.opc = 0x05 then
            s.withFabric fun f => { f with atomSeq := upd f.atomSeq dst.toNat 0 fun n => (n + 1) % 2 ^ 16 }
          else s
        let s := if p.opc = 0x08 then s.wrapBy (oFab 0x1120) 1 else s
        let kind := if p.opc = 0x08 then OpKind.far l.id l.next else .listEntry l.id l.next
        (s.sendOp st kind l.cmd p).pumpLists st fuel

/-- The entries still to be decided, which bound a pump. -/
def State.listWork (s : State) : Nat := s.fabric.lists.foldl (fun n l => n + (l.rows - l.next)) 1

/-- A station has transactions or requests to start or send. -/
def State.wantsOp (s : State) (st : Nat) : Bool :=
  !(s.st st).stopped && (!(s.st st).sendQ.isEmpty || (s.st st).outstanding.any fun o => decide (0 < o.todo)) || (s.nextList st).isSome

/-- A station starts and sends what it may (R125, R126, R303, R310). -/
def State.pumpStation (s : State) (st : Nat) : State :=
  let t := (s.pumpLocal st).pumpSend st (s.st st).sendQ.length
  let t := t.pumpLists st t.listWork
  t.noteWait st s.inFlight (t.wantsOp st)

/-- The stations that wait for an operation, or have one to start or send. -/
def State.waiters (s : State) : List Nat :=
  (s.cells.stations.filter fun p => p.2.opSince.isSome || s.wantsOp p.1).map (·.1)

/-- Whatever waits goes as far as it may, the stations one after another (DESIGN CHOICE, log 134). -/
def State.pumpAll (s : State) : State := s.waiters.foldl State.pumpStation s

/-- An operation list: a RAW frame of 1 to 64 rows and 64 columns (R307). -/
def isOpList (f : List Byte) : Bool :=
  let h := hdrOf f
  h.fmt = 0x30 && decide (1 ≤ h.rows) && decide (h.rows ≤ 64) && h.cols = 64 && h.nscale = 0

/-- The work of CP_TILES with I = 7 (R307, R310). -/
def State.opLists (s : State) (st : Nat) (cf : Common) (o count : Nat) (path : ReadPath) : State :=
  let r := s.st st
  let ni := r.inPos 7
  let no := r.outPos o
  let sid := s.outStream st o
  let before := s.fabric.lists
  let (t, ok) := moveAll count s fun s k =>
    let rd := s.readPort st 7 (ni + k) (path.shift k)
    match rd.frame with
    | none => (rd.state.awaitReread st (.operationList st cf o count path), false)
    | some f =>
      if !seqOk f (ni + k) then (rd.state.courseError eStreamOrder st, false)
      else if !isOpList f then (rd.state.courseError eTileFormat st, false)
      else
        let l : OpList :=
          { id := rd.state.fabric.nextList, station := st, outStream := sid, slot := no + k, seq := (no + k) % 2 ^ 32
            step := r.stepNo, rows := (hdrOf f).rows, cmd := r.nextId, tflags := (hdrOf f).tflags % 4
            entries := chunksOf 64 (sub f 0xA0 (64 * (hdrOf f).rows)) }
        (rd.state.withFabric fun b => { b with lists := b.lists ++ [l], nextList := b.nextList + 1 }, true)
  if ok then
    let t := t.issue st [{ kind := .opList, adv := advances cf [7] [o] count, signal := signalOf cf, open_ := count }]
    let u := t.pumpLists st t.listWork
    u.noteWait st t.inFlight (u.nextList st).isSome
  else t.withFabric fun b => { b with lists := before }

/-- OPERATION_LIST: CP_TILES with I = 7 (R307). -/
def execOperationList (st : Nat) (cf : Common) (o count : Nat) (path : ReadPath) (s : State) : Out :=
  .next (s.gate st cf isCopy fun s => s.opLists st cf o count path)

/-! ### Operations that end (R304) -/

/-- The operation in flight that a response answers: its TAG and responder. -/
def State.flightFor (s : State) (p : Packet) : Option FlightOp :=
  s.fabric.flights.find? fun f => f.tag = p.tag.toNat && decide (f.dst = p.src)

/-- An operation ends. -/
def State.endFlight (s : State) (f : FlightOp) : State := s.withFabric fun b => { b with flights := b.flights.erase f }

end Sys2Proof.Machine
end

