-- ==== Sys2Proof/Machine/Update.lean ====
section
/-!
DEFINITION. The parameter update engines (R237 to R249): the recurrence, the rows of the Course, and UPD_STEP with its
frames.
-/
namespace Sys2Proof.Machine

/-! ### Binary32 operations (R237) -/

def mul32 (a b : Num) : Num := to32 (a.mulX b)
def add32 (a b : Num) : Num := to32 (a.addX b)
def sub32 (a b : Num) : Num := to32 (a.addX b.minus)

/-- The exact quotient with IEEE 754 specials. -/
def Num.divX (a b : Num) : Num :=
  let sg := xor a.neg b.neg
  match a, b with
  | .nan, _ => .nan
  | _, .nan => .nan
  | .inf _, .inf _ => .nan
  | .inf _, .fin _ _ => .inf sg
  | .fin _ _, .inf _ => .fin 0 sg
  | .fin x _, .fin y _ => if y = 0 then (if x = 0 then .nan else .inf sg) else .fin (x / y) sg

def div32 (a b : Num) : Num := to32 (a.divX b)

/-- The square root rounded to binary32, to nearest; no tie can occur. -/
def sqrt32 (v : Num) : Num :=
  match v with
  | .nan => .nan
  | .inf n => if n then .nan else .inf false
  | .fin x z =>
    if x = 0 then .fin 0 z
    else if x < 0 then .nan
    else
      let q := pow2 (expR x / 2 - 23)
      let y := x / (q * q)
      let f := isqrt 26 y.floor.toNat
      let h : Rat := (f : Rat) + mkRat 1 2
      to32 (.fin (((if h * h < y then f + 1 else f : Nat) : Rat) * q) false)

/-- sign(x) of R237. -/
def sign32 (v : Num) : Num :=
  match v with
  | .nan => .nan
  | .inf n => .fin (if n then -1 else 1) false
  | .fin x _ => if x = 0 then .fin 0 false else .fin (if x < 0 then -1 else 1) false

/-! ### Rows (R241, R242) -/

/-- A coefficient row. The lists hold the coefficients of moments 1 to 3. -/
structure Coef where
  sign : Bool
  p : Nat
  rnd : Rnd
  a : List Nat
  b : List Nat
  c : List Nat
  n : List Nat
  ng : Nat
  q : List Nat
  q0 : Nat
  alpha : Nat
  eta : Nat
  eps : Nat
  gs : Nat
  deriving DecidableEq, Repr

/-- A coefficient row from its bytes (Table - Coefficient row). -/
def coefOf (r : List Byte) : Coef :=
  let w (off : Nat) := fld r off 4
  let fl := fld r 1 1
  { sign := bit fl 0, p := bits fl 2 1, rnd := if bits fl 4 3 = 1 then .stochastic else .nearest
    a := [w 0x08, w 0x0C, w 0x10], b := [w 0x14, w 0x18, w 0x1C], c := [w 0x20, w 0x24, w 0x28]
    n := [w 0x2C, w 0x30, w 0x34], ng := w 0x38, q := [w 0x3C, w 0x40, w 0x44], q0 := w 0x48, alpha := w 0x4C
    eta := w 0x50, eps := w 0x54, gs := w 0x58 }

/-- A tensor slot of a set row. -/
structure Slot where
  src : Nat
  dst : Nat
  fmt : Nat
  deriving DecidableEq, Repr

/-- A set row (Table - Set row): FIRST, FRAMES, N_MOMENTS and the slots P, M1, M2, M3, G. -/
structure SetRow where
  nMoments : Nat
  first : Nat
  frames : Nat
  slots : List Slot
  deriving DecidableEq, Repr

def setOf (r : List Byte) : SetRow :=
  { nMoments := fld r 1 1, first := fld r 4 4, frames := fld r 8 4
    slots := (List.range 5).map fun j =>
      { src := fld r (0x10 + 8 * j) 2, dst := fld r (0x12 + 8 * j) 2, fmt := fld r (0x14 + 8 * j) 1 } }

/-- The slots that a set uses: P, its moments and G. -/
def SetRow.used (r : SetRow) : List Slot := r.slots.take (1 + r.nMoments) ++ r.slots.drop 4

/-- The objects of a set. -/
def SetRow.objects (r : SetRow) : List Nat := (r.used.flatMap fun x => [x.src, x.dst]).filter (· != 0xFFFF)

/-! ### The recurrence (R237) -/

/-- A coefficient is +0 or −0. -/
def zeroCoef (c : Nat) : Bool := c % 2 ^ 31 = 0

/-- A product term, omitted where its coefficient is zero. -/
def term (c : Nat) (x : Num) : Option Num := if zeroCoef c then none else some (mul32 (fp32.decode c) x)

/-- The terms that remain, added in order; +0 for none. -/
def sumTerms (l : List (Option Num)) : Option Num :=
  l.foldl (fun s t => match s, t with
    | none, t => t
    | s, none => s
    | some a, some b => some (add32 a b)) none

def orZero (t : Option Num) : Num := t.getD (.fin 0 false)

/-- The recurrence per element: p′ and the moments. -/
def updateElement (r : Coef) (p : Num) (ms : List Num) (gIn : Num) : Num × List Num :=
  let g := orZero (term r.gs gIn)
  let ks := List.range ms.length
  let at0 (l : List Nat) (k : Nat) := l.getD k 0
  let ms' := ks.map fun k =>
    orZero (sumTerms [term (at0 r.a k) (ms.getD k .nan), term (at0 r.b k) g,
      if zeroCoef (at0 r.c k) then none else term (at0 r.c k) (mul32 g g)])
  let n0 := orZero (sumTerms (term r.ng g :: ks.map fun k => term (at0 r.n k) (ms'.getD k .nan)))
  let n := if r.sign then sign32 n0 else n0
  let d0 := orZero (sumTerms ((if zeroCoef r.q0 then none else some (fp32.decode r.q0)) ::
    ks.map fun k => term (at0 r.q k) (ms'.getD k .nan)))
  let d := if r.p = 0 then .fin 1 false else if r.p = 1 then sqrt32 d0 else d0
  let uv := (term r.eta n).map fun u => div32 u (add32 d (fp32.decode r.eps))
  let p' := match term r.alpha p, uv with
    | some x, some y => sub32 x y
    | some x, none => x
    | none, some y => y.minus
    | none, none => .fin 0 false
  (p', ms')

/-! ### UPD_STEP -/

/-- A row of the Course. -/
def State.row (s : State) (i : Nat) : List Byte := s.course.rows.getD i []

/-- Two lists share an element. -/
def meets (a b : List Nat) : Bool := a.any b.contains

/-- UPD_STEP issues (R244, R246): at most two are outstanding. -/
def execUpdStep (st : Nat) (cf : Common) (row set : Nat) (s : State) : Out :=
  .next (s.gate st cf (· == .update) fun s =>
    let r := s.st st
    if 2 ≤ r.upd.length then s else
    let t := setOf (s.row set)
    let c : UpdCmd :=
      { id := r.nextId, row := row, set := set, todo := (List.range t.frames).map (t.first + ·), step := r.stepNo
        objects := t.objects }
    let s := s.issue st [{ kind := .upd, signal := signalOf cf, open_ := 1 }]
    s.withSt st fun r => { r with upd := r.upd ++ [c] })

/-- The stack whose engine owns a frame: that of byte 0 of frame f of the P source (R244). -/
def State.ownerOf (s : State) (set f : Nat) : Option Nat :=
  let p := (setOf (s.row set)).slots.getD 0 { src := 0, dst := 0, fmt := 0 }
  (match s.place (s.frameAddr p.src f) with
    | some (.stack l) => some l.stack
    | _ => none)

/-- The command whose frame an engine works on: the first that is not held by an earlier one sharing an object, with the
frame among its engine's first two (R244, R246). -/
def State.updTarget (s : State) (st engine f : Nat) : Option UpdCmd :=
  let l := (s.st st).upd
  ((List.range l.length).filterMap fun i => match l[i]? with
    | some c =>
      let blocked := (l.take i).any fun x => meets x.objects c.objects
      let mine := (c.todo.filter fun x => s.ownerOf c.set x = some engine).take 2
      if !blocked && mine.contains f then some c else none
    | none => none).head?

/-- An UPD_STEP, as changed. -/
def State.withUpd (s : State) (st id : Nat) (f : UpdCmd → UpdCmd) : State :=
  s.withSt st fun r => { r with upd := r.upd.map fun c => if c.id = id then f c else c }

/-- A frame whose header is all zero, its check value apart (R50, R238, log 27). -/
def zeroHeader (f : List Byte) : Bool := allZero (sub f 0 0x1C)

/-- A frame of a slot as read: its format and bytes; none where it fails the checks of R245. -/
def slotFrame (x : Slot) (f : List Byte) (i : Nat) : Option (Fmt × Option Hdr) :=
  match fmtOf x.fmt with
  | none => none
  | some fm =>
    if zeroHeader f then some (fm, none)
    else
      let h := hdrOf f
      if h.fmt = x.fmt ∧ h.seq = i % 2 ^ 32 ∧ shapeOk fm h = true then some (fm, some h) else none

/-- The shape of the frames at an index: that of those with a header, which must agree; none for TILE_FORMAT (R245). -/
def sharedShape (l : List (Option (Fmt × Option Hdr))) : Option (Nat × Nat) :=
  let hs := l.filterMap fun x => x.bind (·.2)
  match hs with
  | [] => none
  | h :: r => if l.all Option.isSome && r.all fun g => g.rows = h.rows && g.cols = h.cols then some (h.rows, h.cols) else none

/-- The frames that an update of index f writes, slot by slot (R239, R245). -/
def updFrames (c : Coef) (t : SetRow) (fs : List (List Byte)) (rows cols f st step seed : Nat) : List (Slot × List Byte) :=
  let used := t.used
  let n := rows * cols
  let val (k i : Nat) : Num :=
    let fm := (fmtOf (used.getD k ⟨0, 0, 0⟩).fmt).getD .fp32
    let b := fs.getD k []
    if zeroHeader b then .fin 0 false else decode32 fm (elemVal fm b i)
  let m := t.nMoments
  let out := (List.range n).map fun i =>
    updateElement c (val 0 i) ((List.range m).map fun k => val (k + 1) i) (val (m + 1) i)
  let fl := (fs.foldl (fun (x : Byte) b => x ||| BitVec.ofNat 8 ((hdrOf b).tflags % 4)) 0).toNat
  (List.range (m + 1)).map fun k =>
    let x := used.getD k ⟨0, 0, 0⟩
    let fm := (fmtOf x.fmt).getD .fp32
    let vs := out.map fun o => if k = 0 then o.1 else o.2.getD (k - 1) .nan
    (x, mkFrame fm fl rows cols st x.dst f step vs c.rnd seed)

/-- The elements of a frame that are NaN or infinite as encoded (R249). -/
def nonFinite (fmt : Nat) (f : List Byte) (n : Nat) : Nat :=
  match fmtOf fmt with
  | some fm => ((List.range n).filter fun i => match elemVal fm f i with
    | .fin _ _ => false
    | _ => true).length
  | none => 0

/-- A source frame read by an engine, without a Lodge lookup (R244). -/
def State.readSlot (s : State) (st a : Nat) (path : ReadPath) : FrameRead :=
  let rd := s.readHere (s.dieOf st) (s.unitOf st) a frameBytes
  rd.1.frameOf rd.2 st a path

/-- The source frames of an index, read in slot order, until one does not verify (R245 step 1). One that verifies on its
second read is a transient (R58). -/
def State.readSlots (s : State) (st f : Nat) (c : UpdCmd) (l : List Slot) (path : ReadPath) (acc : List (List Byte)) :
    State × Option (List (List Byte)) :=
  match l with
  | [] => (s, some acc)
  | x :: r =>
    let a := s.frameAddr x.src f
    let rd := s.readSlot st a path
    match rd.frame with
    | none => (rd.state, none)
    | some b =>
      let s := if c.retry.contains (f, a) then
          (rd.state.tileTransient a (hdrOf b).producer).withUpd st c.id fun u => { u with retry := u.retry.filter (· != (f, a)) }
        else rd.state
      s.readSlots st f c r (path.shift 1) (acc ++ [b])

/-- The shapes and formats of a set fit each slot. -/
def fitsSlots (t : SetRow) (rows cols : Nat) : Bool :=
  t.used.all fun x => match fmtOf x.fmt with
    | some fm => holds fm rows cols
    | none => false

/-- An engine processes frame f of an UPD_STEP (R245). A source frame that does not verify is read once more, by the next
UPD_FRAME of f, and a second failure of it is the fault of R247. -/
def State.updFrame (s : State) (engine st f : Nat) (path : ReadPath) (c : UpdCmd) : State :=
  let t := setOf (s.row c.set)
  let (s, fs) := s.readSlots st f c t.used path []
  match fs with
  | none =>
    let (a, pr, step) := (s.st st).crcFrame
    if c.retry.contains (f, a) then
      let s := s.withSt st fun r =>
        { r with stopped := true, upd := r.upd.filter (·.id != c.id), outstanding := r.outstanding.filter (·.id != c.id) }
      s.tileFault a pr step
    else s.withUpd st c.id fun x => { x with retry := x.retry ++ [(f, a)] }
  | some fs =>
    let infos := (List.zip t.used fs).map fun p => slotFrame p.1 p.2 f
    match sharedShape infos with
    | none => s.courseError eTileFormat st
    | some (rows, cols) =>
      if !fitsSlots t rows cols then s.courseError eTileFormat st else
      let outs := updFrames (coefOf (s.row c.row)) t fs rows cols f st c.step.toNat s.seed
      let s := outs.foldl (fun s o =>
        let a := s.frameAddr o.1.dst f
        (s.writeMem 0 engine a o.2 []).cacheDrop a frameBytes) s
      let bad := match outs with
        | o :: _ => nonFinite o.1.fmt o.2 (rows * cols)
        | [] => 0
      let s := ((s.wrapBy (oMem engine 0x300) 1).wrapBy (oMem engine 0x308) (rows * cols)).wrapBy (oMem engine 0x310) bad
      s.withUpd st c.id fun x => { x with todo := x.todo.filter (· != f) }

/-- UPD_FRAME (R245). -/
def execUpdFrame (engine st frame : Nat) (path : ReadPath) (s : State) : Out :=
  match s.updTarget st engine frame with
  | some c => .next (s.updFrame engine st frame path c)
  | none => .next s

/-- An UPD_STEP whose every frame is written completes (R246, R249). -/
def execUpdStepComplete (st : Nat) (s : State) : Out :=
  match (s.st st).upd.find? fun c => c.todo.isEmpty with
  | none => .next s
  | some c =>
    let s := s.withSt st fun r => { r with upd := r.upd.filter (·.id != c.id) }
    let s := s.serviceList.foldl (fun s m => s.wrapBy (oMem m 0x318) 1) s
    .next (s.opDone st c.id)

end Sys2Proof.Machine
end

