-- ==== Sys2Proof/Machine/Admission.lean ====
section
/-!
DEFINITION. Admission of a Course (R41 to R50, R67, R68, R73, R74, R243, R306, R334, R488 to R490): the image is read and
checked, and the first code of Table - Course error codes whose condition it meets rejects it (R43).
-/
namespace Sys2Proof.Machine

/-! ### The image and its sections (R41, R489) -/

/-- Kind codes (Table - Station kinds). -/
def kindOf : Nat → Option Kind
  | 1 => some .matrix | 2 => some .vector | 3 => some .glide | 4 => some .update | 5 => some .copy
  | 6 => some .collective | 7 => some .reader | 8 => some .writer | 9 => some .window | _ => none

/-- The code of a kind. -/
def Kind.code : Kind → Nat
  | .matrix => 1 | .vector => 2 | .glide => 3 | .update => 4 | .copy => 5 | .collective => 6 | .reader => 7
  | .writer => 8 | .window => 9

/-- A section of the image: its start and length. -/
abbrev Span := Nat × Nat

/-- The descriptors, rows and object entries of an image, as bytes. -/
def stationRaw (img : List Byte) (i : Nat) : List Byte := sub img (fld img 0x30 8 + 128 * i) 128
def streamRaw (img : List Byte) (i : Nat) : List Byte := sub img (fld img 0x38 8 + 32 * i) 32
def objectRaw (img : List Byte) (i : Nat) : List Byte := sub img (fld img 0x40 8 + 32 * i) 32
def rowRaw (img : List Byte) (i : Nat) : List Byte := sub img (fld img 0x48 8 + 128 * i) 128

/-- The counts of the header. -/
def nStations (img : List Byte) : Nat := fld img 0x20 4
def nStreams (img : List Byte) : Nat := fld img 0x24 4
def nObjects (img : List Byte) : Nat := fld img 0x28 4
def nRows (img : List Byte) : Nat := fld img 0x2C 4

/-- The station, stream, object and row tables. A table whose count is zero occupies nothing (R489). -/
def tableSpans (img : List Byte) : List Span :=
  [(fld img 0x30 8, 128 * nStations img), (fld img 0x38 8, 32 * nStreams img), (fld img 0x40 8, 32 * nObjects img),
   (fld img 0x48 8, 128 * nRows img)].filter (·.2 != 0)

/-- The length of the command section: to the largest CMD_FIRST + CMD_COUNT of any station. -/
def cmdCount (img : List Byte) : Nat :=
  (List.range (nStations img)).foldl (fun n i => let d := stationRaw img i; max n (fld d 8 4 + fld d 12 4)) 0

/-- A span is aligned, and lies beyond the header and within the image. -/
def spanOk (size : Nat) (s : Span) : Bool := s.1 % 128 = 0 && decide (128 ≤ s.1) && decide (s.1 + s.2 ≤ size)

/-- The constant section: to the lowest start of another section at or above it, or to the end (R489). -/
def constSpan (img : List Byte) (others : List Span) : Span :=
  let o := fld img 0x50 8
  let fin := others.foldl (fun e s => if o ≤ s.1 then min e s.1 else e) (fld img 0x10 8)
  (o, fin - o)

/-- The sections other than the header: tables, commands and constants. -/
def allSpans (img : List Byte) : List Span :=
  let others := tableSpans img ++ [(fld img 0x58 8, 16 * cmdCount img)].filter (·.2 != 0)
  others ++ [constSpan img others]

/-- Two spans overlap. -/
def spansMeet (a b : Span) : Bool := decide (a.1 < b.1 + b.2) && decide (b.1 < a.1 + a.2)

/-- Initial contents of an object lie within the constant section; INIT counts from its start (R49, R489). -/
def initOk (img : List Byte) (c : Span) (i : Nat) : Bool :=
  let d := objectRaw img i
  let at0 := fld d 12 8
  at0 = 2 ^ 64 - 1 || decide (at0 + fld d 8 4 * frameBytes ≤ c.2)

/-- Check IMAGE: magic, lengths, CRC, and the sections of R489. -/
def imageOk (img : List Byte) : Bool :=
  let size := fld img 0x10 8
  decide (128 ≤ img.length) && fld img 0 4 = 0x45535243 && fld img 8 4 = 128 && size = img.length &&
  fld img 0x7C 4 = (crc32c (splice img 0x7C (natLe 4 0))).toNat &&
  (tableSpans img).all (spanOk size) &&
  (let l := allSpans img
   let c := constSpan img (l.take (l.length - 1))
   l.all (spanOk size) &&
   (List.range l.length).all (fun i => (l.drop (i + 1)).all fun b => !spansMeet (l.getD i (0, 0)) b) &&
   (List.range (nObjects img)).all (initOk img c))

/-! ### Reserved fields (R43) -/

/-- The bytes of KIND_PARAMS that a kind uses (Table - Kind parameters). The table does not say what the bytes 0x78 to 0x7B of
a glide station are; they are taken as reserved (DESIGN CHOICE, log 130). -/
def paramBytes : Kind → List Nat
  | .matrix | .update => [0]
  | .vector | .copy | .reader | .writer => []
  | .glide => [0, 1, 2, 3, 4, 5, 6, 7]
  | .collective => [0, 1, 2]
  | .window => [0, 1, 2, 4, 5, 6, 7, 8, 9]

/-- The reserved fields of a station descriptor are zero. -/
def stationReserved (d : List Byte) : Bool :=
  fld d 3 1 < 2 && fld d 7 1 = 0 && (List.range 12).all (fun i => fld d (0x30 + 4 * i) 1 = 0) &&
  (List.range 4).all (fun i => fld d (0x62 + 4 * i) 1 = 0) && fld d 0x7C 1 = 0 &&
  (match kindOf (fld d 2 1) with
   | some k => (List.range 12).all fun i => (paramBytes k).contains i || byteAt d (0x70 + i) == 0
   | none => true)

/-- The reserved fields of a row are zero, by its type (R241, R242). -/
def rowReserved (r : List Byte) : Bool :=
  match fld r 0 1 with
  | 1 => fld r 1 1 < 32 && allZero (sub r 2 6) && allZero (sub r 0x5C 36)
  | 2 => allZero (sub r 2 2) && allZero (sub r 12 4) && allZero (sub r 0x38 72) &&
    (List.range 5).all fun j => allZero (sub r (0x15 + 8 * j) 3)
  | _ => true

/-- The operand bits of an opcode (Table - Opcodes), as pairs of highest and lowest; none for an unknown opcode. -/
def operandBits : Nat → Option (List (Nat × Nat))
  | 0x00 | 0x04 | 0x05 | 0x06 => some []
  | 0x01 => some [(95, 90), (79, 64)]
  | 0x02 => some [(95, 92), (79, 64)]
  | 0x03 => some [(95, 64)]
  | 0x07 => some [(95, 95), (94, 77), (76, 61), (60, 55), (47, 32)]
  | 0x10 => some [(92, 90)]
  | 0x11 => some [(95, 87)]
  | 0x12 => some [(95, 93), (92, 90), (89, 82), (81, 80), (79, 79)]
  | 0x20 => some [(95, 69), (63, 32)]
  | 0x30 => some [(95, 64)]
  | 0x31 => some [(95, 80)]
  | 0x40 => some [(95, 48)]
  | 0x50 | 0x60 | 0x61 => some [(95, 90), (79, 64)]
  | 0x51 => some [(95, 36), (31, 16)]
  | 0x62 => some [(95, 80)]
  | 0x70 | 0x71 => some [(95, 77), (63, 16)]
  | 0x80 => some [(95, 74), (63, 48)]
  | _ => none

/-- The reserved bits of a command word are zero (R72, R73). -/
def wordReserved (w : Nat) : Bool :=
  bits w 116 116 = 0 && bits w 105 96 = 0 &&
  (match operandBits (bits w 127 120) with
   | some l => w % 2 ^ 96 = l.foldl (fun n r => n + bits w r.1 r.2 * 2 ^ r.2) 0
   | none => true)

/-- The command words of the image. -/
def wordsOf (img : List Byte) : List CmdWord :=
  (List.range (cmdCount img)).map fun i => BitVec.ofNat 128 (fld img (fld img 0x58 8 + 16 * i) 16)

/-- Every reserved field of the image is zero (R43). -/
def reservedOk (img : List Byte) : Bool :=
  fld img 0xC 4 < 2 && allZero (sub img 0x64 24) &&
  (List.range (nStations img)).all (fun i => stationReserved (stationRaw img i)) &&
  (List.range (nStreams img)).all (fun i => let d := streamRaw img i; fld d 3 1 = 0 && allZero (sub d 0x10 16)) &&
  (List.range (nObjects img)).all (fun i => let d := objectRaw img i
    fld d 3 1 < 4 && allZero (sub d 6 2) && allZero (sub d 20 12)) &&
  (List.range (nRows img)).all (fun i => rowReserved (rowRaw img i)) &&
  (wordsOf img).all fun w => wordReserved w.toNat

/-! ### The Course as read -/

/-- KIND_PARAMS (Table - Kind parameters). -/
def paramsFrom (k : Kind) (d : List Byte) : KindParams :=
  let b (i w : Nat) : Nat := fld d (0x70 + i) w
  match k with
  | .matrix => { accCount := b 0 1 }
  | .glide => { classD := b 0 1 = 1, enobFloor := b 1 1, samples := b 2 2, rows := b 4 2, cols := b 6 2 }
  | .update => { nMoments := b 0 1 }
  | .collective => { group := b 0 1, reduce := b 1 1, accFmt := b 2 1 }
  | .window => { windowId := b 0 2, memMode := b 2 1 = 1, slots := b 4 4, object := b 8 2 }
  | _ => {}

/-- A station descriptor (R44). -/
def stationFrom (d : List Byte) : StationDesc :=
  let k := (kindOf (fld d 2 1)).getD .matrix
  { id := fld d 0 2, kind := k, repro := bit (fld d 3 1) 0, nSem := fld d 4 1
    inPorts := (List.range (fld d 5 1)).map fun i => fld d (0x10 + 2 * i) 2
    outPorts := (List.range (fld d 6 1)).map fun i => fld d (0x20 + 2 * i) 2
    cmdFirst := fld d 8 4, cmdCount := fld d 12 4
    signals := (List.range 12).map fun i =>
      let e := fld d (0x30 + 4 * i) 4
      if bits e 31 16 = 0xFFFF then none else some { station := bits e 31 16, sem := bits e 15 8 }
    semInit := ((List.range 4).map fun i => let e := fld d (0x60 + 4 * i) 4; (bits e 31 24, bits e 15 0)).filter (·.1 != 0xFF)
    params := paramsFrom k d, hint := bits (fld d 0x7C 4) 15 8, affinity := bits (fld d 0x7C 4) 31 16 }

/-- A stream descriptor (R47). -/
def streamFrom (d : List Byte) : StreamDesc :=
  { id := fld d 0 2, level := fld d 2 1, depth := fld d 4 2, producer := fld d 6 2
    consumers := ((List.range 4).map fun i => fld d (8 + 2 * i) 2).filter (· != 0xFFFF) }

/-- An object entry (R49). -/
def objectFrom (d : List Byte) : ObjectDesc :=
  { id := fld d 0 2, level := fld d 2 1, replicated := bit (fld d 3 1) 0, readOnly := bit (fld d 3 1) 1
    writer := if fld d 4 2 = 0xFFFF then none else some (fld d 4 2), frames := fld d 8 4
    init := if fld d 12 8 = 2 ^ 64 - 1 then none else some (fld d 12 8) }

/-- The Course of an image. -/
def courseFrom (img : List Byte) : Course :=
  let wd := fld img 0x60 4
  let c := constSpan img ((allSpans img).take ((allSpans img).length - 1))
  { courseId := fld img 0x18 8, reproAll := bit (fld img 0xC 4) 0, watchdogMs := if wd = 0 then 5000 else wd
    stations := (List.range (nStations img)).map fun i => stationFrom (stationRaw img i)
    streams := (List.range (nStreams img)).map fun i => streamFrom (streamRaw img i)
    objects := (List.range (nObjects img)).map fun i =>
      let o := objectFrom (objectRaw img i)
      { o with init := o.init.map (c.1 + ·) }
    rows := (List.range (nRows img)).map (rowRaw img)
    commands := wordsOf img, image := img }

/-- The command words of a station. -/
def Course.wordsFor (c : Course) (d : StationDesc) : List Nat :=
  ((c.commands.drop d.cmdFirst).take d.cmdCount).map (·.toNat)

/-- A station is reproducible (R45). -/
def Course.isRepro (c : Course) (d : StationDesc) : Bool := d.kind != .glide || d.repro || c.reproAll

def Course.station (c : Course) (i : Nat) : StationDesc := c.stations.getD i { id := 0xFFFF, kind := .matrix }
def Course.stream (c : Course) (i : Nat) : StreamDesc := c.streams.getD i { id := 0xFFFF, level := 0, depth := 0, producer := 0xFFFF }
def Course.object (c : Course) (i : Nat) : ObjectDesc := c.objects.getD i { id := 0xFFFF, level := 0 }

/-- The windows of the Course: identity and station. -/
def Course.windowIds (c : Course) : List (Nat × Nat) :=
  (c.stations.filter (·.kind == .window)).map fun d => (d.params.windowId, d.id)

/-! ### DESCRIPTOR -/

/-- Header values in range (R41). -/
def headerDesc (img : List Byte) : Bool :=
  decide (1 ≤ nStations img) && decide (nStations img ≤ 4096) && decide (nStreams img ≤ 8192) &&
  decide (nObjects img ≤ 16384) && decide (nRows img ≤ 1048576) && decide (fld img 0x60 4 ≤ 60000)

/-- Used ports name streams that name the station back, and every entry above them holds 0xFFFF (R490). -/
def portsOk (c : Course) (d : List Byte) (i : Nat) : Bool :=
  let nin := fld d 5 1
  let nout := fld d 6 1
  decide (nin ≤ 8) && decide (nout ≤ 8) &&
  (List.range 8).all (fun j =>
    let x := fld d (0x10 + 2 * j) 2
    if j < nin then decide (x < c.streams.length) && (c.stream x).consumers.contains i else x = 0xFFFF) &&
  (List.range 8).all fun j =>
    let x := fld d (0x20 + 2 * j) 2
    if j < nout then decide (x < c.streams.length) && (c.stream x).producer = i else x = 0xFFFF

/-- A power of two from 1 to 256. -/
def samplesOk (n : Nat) : Bool := [1, 2, 4, 8, 16, 32, 64, 128, 256].contains n

/-- The windows of the Course: size, identity and object (R67, R68, R306). -/
def windowOk (c : Course) (d : StationDesc) (mode : Nat) : Bool :=
  let p := d.params
  decide (p.windowId < 0xFFF0) && decide (p.object < c.objects.length) && decide (mode ≤ 1) &&
  (c.windowIds.filter (·.1 = p.windowId)).length = 1 &&
  (if p.memMode then decide (1 ≤ p.slots) && decide (p.slots * 65536 ≤ (c.object p.object).frames * frameBytes)
   else decide (1 ≤ p.slots) && decide (p.slots ≤ 256) &&
     (match d.outPorts.head? with
      | some x => (c.stream x).depth = p.slots
      | none => false))

/-- KIND_PARAMS values in range, with the group of a collective station (R145, R334). -/
def paramsOk (c : Course) (groups : List Group) (d : StationDesc) (raw : List Byte) : Bool :=
  let p := d.params
  match d.kind with
  | .matrix => decide (1 ≤ p.accCount) && decide (p.accCount ≤ 8)
  | .glide =>
    decide (fld raw 0x70 1 ≤ 1) && samplesOk p.samples && decide (1 ≤ p.rows) && decide (p.rows ≤ 256) &&
    decide (1 ≤ p.cols) && decide (p.cols ≤ 256)
  | .update => decide (p.nMoments ≤ 3)
  | .collective =>
    let g := groups.getD p.group {}
    decide (p.group ≤ 15) && decide (p.reduce ≤ 2) && [0x10, 0x12, 0x14].contains p.accFmt && g.axes != 0 && g.weight != 0 &&
    (c.stations.filter fun x => x.kind == .collective && x.params.group = p.group).length = 1
  | .window => windowOk c d (fld raw 0x72 1)
  | _ => true

/-- A station descriptor's values (R44, R67, R68, R334, R490). -/
def stationOk (c : Course) (groups : List Group) (raw : List Byte) (i : Nat) : Bool :=
  let d := c.station i
  let n := c.stations.length
  fld raw 0 2 = i && (kindOf (fld raw 2 1)).isSome && decide (1 ≤ d.nSem) && decide (d.nSem ≤ 64) &&
  decide (1 ≤ d.cmdCount) && decide (d.cmdCount ≤ 2 ^ 24) && portsOk c raw i &&
  d.signals.all (fun t => match t with
    | some t => decide (t.station < n) && decide (t.sem < (c.station t.station).nSem)
    | none => true) &&
  d.semInit.all (fun e => decide (e.1 < d.nSem)) &&
  decide (d.hint ≤ 3) && (if d.hint = 1 ∨ d.hint = 2 then decide (d.affinity < n) else true) && paramsOk c groups d raw

/-- A stream descriptor's values (R47, R490). -/
def streamOk (c : Course) (raw : List Byte) (i : Nat) : Bool :=
  let x := c.stream i
  let n := c.stations.length
  fld raw 0 2 = i && decide (x.level ≤ 3) && decide (1 ≤ x.depth) && decide (x.depth ≤ 256) && decide (x.producer < n) &&
  (c.station x.producer).outPorts.contains i && !x.consumers.isEmpty &&
  x.consumers.all fun k => decide (k < n) && (c.station k).inPorts.contains i

/-- An object entry's values (R49). -/
def objectOk (c : Course) (raw : List Byte) (i : Nat) : Bool :=
  let o := c.object i
  fld raw 0 2 = i && (o.level = 2 || o.level = 3) && (match o.writer with
    | some w => decide (w < c.stations.length)
    | none => true)

/-- A binary32 coefficient is NaN or infinite. -/
def coefSpecial (w : Nat) : Bool := bits w 30 23 = 255

/-- A row by itself (R242, R243). -/
def rowOk (r : List Byte) : Bool :=
  match fld r 0 1 with
  | 1 => let f := fld r 1 1; bits f 2 1 != 3 && decide (bits f 4 3 ≤ 1)
  | 2 =>
    let t := setOf r
    decide (t.nMoments ≤ 3) && decide (1 ≤ t.frames) && (t.slots.getD 4 ⟨0, 0, 0⟩).dst = 0xFFFF &&
    (List.range 4).all fun k => decide (k ≤ t.nMoments) || t.slots.getD k ⟨0, 0, 0⟩ = ⟨0xFFFF, 0xFFFF, 0⟩
  | _ => false

/-- The formats of update tensors (R240), which are those of GL_RUN (R180). -/
def tensorFmt (f : Nat) : Bool := (decide (2 ≤ f) && decide (f ≤ 8)) || (decide (0x10 ≤ f) && decide (f ≤ 0x12))

/-- An UPD_STEP with the rows that it names (R243). -/
def updOk (c : Course) (d : StationDesc) (row set : Nat) : Bool :=
  match c.rows[row]?, c.rows[set]? with
  | some r, some t =>
    let k := coefOf r
    let u := setOf t
    let n := d.params.nMoments
    let all := k.a ++ k.b ++ k.c ++ k.n ++ [k.ng] ++ k.q ++ [k.q0, k.alpha, k.eta, k.eps, k.gs]
    let outs := u.used.take (1 + n)
    let objOk (o : Nat) : Bool :=
      decide (o < c.objects.length) && (c.object o).level = 3 && decide (u.first + u.frames ≤ (c.object o).frames)
    fld r 0 1 = 1 && fld t 0 1 = 2 && u.nMoments = n && !all.any coefSpecial &&
    (List.range 3).all (fun i => decide (i < n) || [k.a, k.b, k.c, k.n, k.q].all fun l => zeroCoef (l.getD i 0)) &&
    u.used.all (fun x => objOk x.src && tensorFmt x.fmt) &&
    outs.all (fun x => objOk x.dst && (c.object x.dst).writer = some d.id && (outs.filter (·.dst = x.dst)).length = 1) &&
    (List.range u.used.length).all fun j =>
      let x := u.used.getD j ⟨0, 0, 0⟩
      (x.src = x.dst && decide (j < 1 + n)) ||
      !((List.range (1 + n)).any fun i => i != j && (outs.getD i ⟨0, 0, 0⟩).dst = x.src)
  | _, _ => false

/-- The functions of VEC_OP that take one operand, whose port b is ignored (R77). -/
def oneOperand (fn : Nat) : Bool := fn = 6 || decide (8 ≤ fn)

/-- The operands of a command word (R488, R74, R77, R43, R334). An unknown opcode has none to check. -/
def operandsOk (c : Course) (d : StationDesc) (w : Nat) : Bool :=
  let f (hi lo : Nat) : Nat := bits w hi lo
  let inP (p : Nat) : Bool := decide (p < d.inPorts.length)
  let outP (p : Nat) : Bool := decide (p < d.outPorts.length)
  let obj (o : Nat) : Bool := decide (o < c.objects.length)
  let outFmt (x : Nat) : Bool := (fmtOf x).isSome && x != 0x30
  let rndOk (r : Nat) : Bool := decide (r ≤ 1)
  decide (f 115 110 < d.nSem) && decide (f 109 106 ≤ 11) &&
  (match f 127 120 with
   | 0x01 => decide (f 95 90 < d.nSem) && f 79 64 != 0
   | 0x02 => decide (f 95 92 ≤ 11) && f 79 64 != 0
   | 0x03 => f 95 64 != 0
   | 0x07 => decide (f 76 61 < c.stations.length) && decide (f 60 55 < (c.station (f 76 61)).nSem) && f 47 32 != 0
   | 0x11 => inP (f 95 93) && inP (f 92 90)
   | 0x12 => outP (f 95 93) && outFmt (f 89 82) && rndOk (f 81 80)
   | 0x20 =>
     decide (1 ≤ f 95 88) && decide (f 95 88 ≤ 12) && inP (f 87 85) && (oneOperand (f 95 88) || inP (f 84 82)) &&
     outP (f 81 79) && outFmt (f 78 71) && rndOk (f 70 69)
   | 0x30 => obj (f 95 80) && obj (f 79 64)
   | 0x31 => inP (f 95 93) && outP (f 92 90) && tensorFmt (f 89 82) && rndOk (f 81 80)
   | 0x40 => updOk c d (f 95 64) (f 63 48)
   | 0x50 | 0x60 | 0x61 => inP (f 95 93) && outP (f 92 90) && f 79 64 != 0
   | 0x51 => inP (f 95 93) && (c.windowIds.any (·.1 = f 73 58)) && f 31 16 != 0
   | 0x62 => obj (f 95 80) && (c.object (f 95 80)).replicated
   | 0x70 => obj (f 95 80) && outP (f 79 77) && f 31 16 != 0 && decide (f 63 32 + f 31 16 ≤ (c.object (f 95 80)).frames)
   | 0x71 => obj (f 95 80) && inP (f 79 77) && f 31 16 != 0 && decide (f 63 32 + f 31 16 ≤ (c.object (f 95 80)).frames)
   | 0x80 => f 63 48 != 0
   | _ => true)

/-- Check DESCRIPTOR. -/
def descriptorsOk (img : List Byte) (c : Course) (groups : List Group) : Bool :=
  headerDesc img && (List.range c.objects.length).all (fun i => objectOk c (objectRaw img i) i) &&
  (List.range c.streams.length).all (fun i => streamOk c (streamRaw img i) i) &&
  (List.range c.stations.length).all (fun i => stationOk c groups (stationRaw img i) i) && c.rows.all rowOk &&
  c.stations.all fun d => (c.wordsFor d).all (operandsOk c d)

/-! ### OPCODE (R73) -/

/-- The kinds that an opcode is for. -/
def opcodeFor (opc : Nat) (k : Kind) : Bool :=
  match opc with
  | 0x00 | 0x01 | 0x02 | 0x03 | 0x04 | 0x05 | 0x06 | 0x07 => true
  | 0x10 | 0x11 | 0x12 => k == .matrix
  | 0x20 => k == .vector
  | 0x30 | 0x31 => k == .glide
  | 0x40 => k == .update
  | 0x50 | 0x51 => k == .copy
  | 0x60 | 0x61 | 0x62 => k == .collective
  | 0x70 => k == .reader
  | 0x71 => k == .writer
  | 0x80 => k == .window
  | _ => false

/-- Loops nest to a depth of 4, and each has its end. -/
def loopsOk (depth : Nat) : List Nat → Bool
  | [] => depth = 0
  | w :: r =>
    match bits w 127 120 with
    | 0x03 => decide (depth < 4) && loopsOk (depth + 1) r
    | 0x04 => decide (1 ≤ depth) && loopsOk (depth - 1) r
    | _ => loopsOk depth r

/-- Check OPCODE: opcodes by kind, loop nesting, and a HALT in every station. -/
def opcodesOk (c : Course) : Bool :=
  c.stations.all fun d =>
    let ws := c.wordsFor d
    ws.all (fun w => opcodeFor (bits w 127 120) d.kind) && loopsOk 0 ws && ws.any fun w => bits w 127 120 = 0x05

/-! ### CAPACITY (R48) -/

/-- The labels of stations after joining each set: two stations are joined when they have one label. -/
def components (n : Nat) (sets : List (List Nat)) : List Nat :=
  sets.foldl (fun (ls : List Nat) t =>
    let mine := t.map fun i => ls.getD i 0
    match mine with
    | [] => ls
    | x :: r => let m := r.foldl min x; ls.map fun l => if mine.contains l then m else l) (List.range n)

/-- The cell set and the cluster group of each station (R48, R155), by their lowest station. -/
def Course.cellSets (c : Course) : List Nat :=
  components c.stations.length ((c.streams.filter (·.level = 0)).map (·.consumers))
def Course.clusterGroups (c : Course) : List Nat :=
  components c.stations.length ((c.streams.filter (·.level ≤ 1)).map (·.consumers))

/-- The slots of the streams at a level whose first consumer has a label. -/
def Course.slotsAt (c : Course) (level : Nat) (labels : List Nat) (label : Nat) : Nat :=
  c.streams.foldl (fun n x => if x.level = level && labels.getD (x.consumers.headD 0) 0 = label then n + x.depth else n) 0

/-- The slots of a scratchpad and of a cluster buffer (R48). -/
def padSlots : Nat := 369
def bufferSlots : Nat := 8 * 2 ^ 20 / frameBytes

/-- Check CAPACITY. -/
def capacityOk (c : Course) (lodgeSp : Nat) : Bool :=
  let cs := c.cellSets
  let gs := c.clusterGroups
  let l2 := c.streams.foldl (fun n x => if x.level = 2 then n + x.depth else n) 0 +
    c.objects.foldl (fun n o => if o.level = 2 then n + o.frames else n) 0
  cs.eraseDups.all (fun l => decide (c.slotsAt 0 cs l ≤ padSlots)) &&
  gs.eraseDups.all (fun l => decide (c.slotsAt 1 gs l ≤ bufferSlots)) && decide (l2 * frameBytes ≤ lodgeSp * 2 ^ 26)

/-! ### REPRO (R46) -/

/-- The objects that a command of a station reads (R46, R49). -/
def Course.reads (c : Course) (w : Nat) : List Nat :=
  match bits w 127 120 with
  | 0x30 => [bits w 95 80, bits w 79 64]
  | 0x40 => (setOf (c.rows.getD (bits w 63 48) [])).used.map (·.src)
  | 0x62 | 0x70 => [bits w 95 80]
  | _ => []

/-- The objects that a command of a station writes. -/
def Course.writes (c : Course) (w : Nat) : List Nat :=
  match bits w 127 120 with
  | 0x40 => ((setOf (c.rows.getD (bits w 63 48) [])).used.map (·.dst)).filter (· != 0xFFFF)
  | 0x71 => [bits w 95 80]
  | _ => []

/-- What one more pass over the commands taints: streams and objects. -/
def Course.taintStep (c : Course) (t : List Nat × List Nat) : List Nat × List Nat :=
  c.stations.foldl (fun (t : List Nat × List Nat) d =>
    let inS (p : Nat) : Nat := d.inPorts.getD p 0xFFFF
    let outS (p : Nat) : Nat := d.outPorts.getD p 0xFFFF
    (c.wordsFor d).foldl (fun (t : List Nat × List Nat) w =>
      let f (hi lo : Nat) : Nat := bits w hi lo
      match f 127 120 with
      | 0x50 => if t.1.contains (inS (f 95 93)) then (t.1 ++ [outS (f 92 90)], t.2) else t
      | 0x70 => if t.2.contains (f 95 80) then (t.1 ++ [outS (f 79 77)], t.2) else t
      | 0x71 => if t.1.contains (inS (f 79 77)) then (t.1, t.2 ++ [f 95 80]) else t
      | 0x51 =>
        if t.1.contains (inS (f 95 93)) then
          match c.windowIds.find? (·.1 = f 73 58) with
          | some x =>
            let win := c.station x.2
            (t.1 ++ (if win.params.memMode then [] else win.outPorts.take 1), t.2 ++ [win.params.object])
          | none => t
        else t
      | _ => t) t) t |> fun t => (t.1.eraseDups, t.2.eraseDups)

/-- The tainted streams and objects, once a pass adds none. -/
def Course.taint (c : Course) (fuel : Nat) (t : List Nat × List Nat) : List Nat × List Nat :=
  match fuel with
  | 0 => t
  | fuel + 1 =>
    let u := c.taintStep t
    if u.1.length + u.2.length = t.1.length + t.2.length then t else c.taint fuel u

/-- Check REPRO. -/
def reproOk (c : Course) : Bool :=
  let src := (c.stations.filter fun d => !c.isRepro d).flatMap (·.outPorts)
  let t := c.taint (c.streams.length + c.objects.length + 1) (src.eraseDups, [])
  let strict (d : StationDesc) : Bool := match d.kind with
    | .matrix | .vector | .update | .collective => true
    | .glide => c.isRepro d
    | _ => false
  c.stations.all fun d => !strict d ||
    (d.inPorts.all (fun x => !t.1.contains x) && (c.wordsFor d).all fun w => (c.reads w).all fun o => !t.2.contains o)

/-! ### WRITER (R50, R67) -/

/-- Check WRITER. -/
def writersOk (c : Course) : Bool :=
  c.stations.all fun d =>
    let ok (o : Nat) : Bool := (c.object o).writer = some d.id && !(c.object o).readOnly
    (c.wordsFor d).all (fun w => (c.writes w).all ok) && (d.kind != .window || ok d.params.object)

/-! ### Admission -/

/-- Admission of an image with a group table and Lodge share: its Course, or the first code that applies (R43). -/
def admission (img : List Byte) (groups : List Group) (lodgeSp : Nat) : Except Nat Course :=
  if !imageOk img then .error eImage
  else if fld img 4 2 ≠ 1 ∨ fld img 6 2 ≠ 0 then .error eVersion
  else if !reservedOk img then .error eReserved
  else
    let c := courseFrom img
    if !descriptorsOk img c groups then .error eDescriptor
    else if !opcodesOk c then .error eOpcode
    else if !capacityOk c lodgeSp then .error eCapacity
    else if !reproOk c then .error eRepro
    else if !writersOk c then .error eWriter
    else .ok c

end Sys2Proof.Machine
end

