-- ==== Sys2Proof/Machine/Placer.lean ====
section
/-!
DEFINITION. The placer (R151 to R162, R172): the distance table, the placement of a Course at job start on one generation
of the capacity map, and the placement report.
-/
namespace Sys2Proof.Machine

/-! ### Sites and distances (R152, R153) -/

/-- The hub stop of a site: row and column (Table - Sites). -/
def stopOf (site : Nat) : Option (Nat × Nat) :=
  if site < 0x80 then
    let d := site / 8
    let k := site % 8
    some (2 * (d / 4) + k / 4, 2 * (d % 4) + k % 4 / 2)
  else if site < 0xC0 then some ((site - 0x80) / 8, (site - 0x80) % 8)
  else if site < 0xCC then let m := site - 0xC0; some (if m ≤ 5 then (m + 1, 0) else (m - 5, 7))
  else if site < 0xD0 then let n := site - 0xCC; some (7 * (n / 2), 2 + 3 * (n % 2))
  else if site = 0xD0 then some (4, 4)
  else none

/-- The distance class of two sites: 0 near, 1 mid, 2 far, 3 for a site that is not listed (R152). It is also the weight w
of R156. -/
def distClass (a b : Nat) : Nat :=
  match stopOf a, stopOf b with
  | some (r, c), some (r', c') =>
    let h := (max r r' - min r r') + (max c c' - min c c')
    if h ≤ 1 then 0 else if h ≤ 5 then 1 else 2
  | _, _ => 3

/-- CEL_DIST_n (R153). -/
def celDist (n : Nat) : Word :=
  BitVec.ofNat 64 ((List.range 32).foldl (fun v j => v + distClass (n / 8) (32 * (n % 8) + j) * 2 ^ (2 * j)) 0)

def relaySite : Nat := 0xD0
def glideSite (n : Nat) : Nat := 0xCC + n
def sliceSite (i : Nat) : Nat := 0x80 + i
def cellSite (cell : Nat) : Nat := cell / 16

/-! ### What a placement in progress has taken -/

/-- Contexts by their CONTEXT codes: 0 array, 1 vector, 2 and 3 DMA. `ctxs` and `sems` are what each cell has given,
`pad` and `buf` the slots of streams in scratchpads and cluster buffers, `lodge` the ranges taken in each slice, `top`
the end of level 3, `engines` the stations of each engine, and `late` the candidates that no engine accepted, with the
HINT_RESULT that says why (R161). -/
structure Placing where
  pl : Placement := {}
  ctxs : Table (List Nat) := []
  sems : Table Nat := []
  pad : Table Nat := []
  buf : Table Nat := []
  lodge : Table (List (Nat × Nat)) := []
  top : Nat := 0
  engines : Table (List Nat) := []
  late : Table Nat := []
  deriving DecidableEq, Repr

/-- What a placement is made from (R151): the Course, the Lodge share and the capacity map's generation. -/
structure PlaceIn where
  course : Course
  lodgeSp : Nat
  map : CapMap
  deriving DecidableEq, Repr

/-- A placement, or the STATUS of its refusal (R160, R172). -/
abbrev Placed := Except Nat Placing

def stCells : Nat := 1
def stGroup : Nat := 2
def stLodge : Nat := 3
def stStacks : Nat := 4

/-- The logical cells that the map lists as available (R18, R156). -/
def PlaceIn.cells (x : PlaceIn) : List Nat :=
  clusterSites.flatMap fun c => (List.range (lookD x.map.ranks c 0)).map (16 * c + ·)

/-- The site of a placed station (R156). -/
def Placing.site (p : Placing) (st : Nat) : Option Nat :=
  match look p.pl.stations st with
  | none => none
  | some e =>
    if e.place = 0 then e.cell.map cellSite
    else if e.place = 1 then some (glideSite e.unit)
    else if e.place = 3 then some relaySite
    else none

/-- The site of a placed stream or object. -/
def memSite (m : MemPlace) : Option Nat :=
  match m.level with
  | 0 => some (cellSite m.site)
  | 1 => some m.site
  | 2 => some (sliceSite m.site)
  | _ => none

/-- The streams that stations name in their ports, and the objects that they name in their commands or as windows. -/
def PlaceIn.streamsOf (x : PlaceIn) (set : List Nat) : List Nat :=
  (set.flatMap fun i => let d := x.course.station i; d.inPorts ++ d.outPorts).eraseDups
def PlaceIn.objectsOf (x : PlaceIn) (set : List Nat) : List Nat :=
  (set.flatMap fun i =>
    let d := x.course.station i
    (x.course.wordsFor d).flatMap fun w => x.course.reads w ++ x.course.writes w).eraseDups

/-- The sites that enter the cost of a set of stations (R156): those of the placed stations that share a stream with it,
and of the placed streams and objects that it names. -/
def PlaceIn.costSites (x : PlaceIn) (p : Placing) (set : List Nat) : List Nat :=
  let ss := x.streamsOf set
  let peers := ((ss.flatMap fun i => let d := x.course.stream i; d.producer :: d.consumers).eraseDups).filter (!set.contains ·)
  peers.filterMap p.site ++
  (ss.filterMap fun i => (look p.pl.streams i).bind memSite) ++
  (x.objectsOf set).filterMap fun i => (look p.pl.objects i).bind memSite

/-- The cost of a site against sites (R156). -/
def costOf (sites : List Nat) (c : Nat) : Nat := sites.foldl (fun n s => n + distClass c s) 0

/-! ### Cells (R83, R84, R155 to R157) -/

/-- The context that a station of a kind takes among those that are free; DMA context 0 before 1 (R83, R156). -/
def freeContext (used : List Nat) : Kind → Option Nat
  | .matrix | .glide => if used.contains 0 then none else some 0
  | .vector => if used.contains 1 then none else some 1
  | .reader | .writer | .copy => if !used.contains 2 then some 2 else if !used.contains 3 then some 3 else none
  | _ => none

/-- The contexts that a set of stations takes on a cell, in ascending station order. -/
def PlaceIn.contextsFor (x : PlaceIn) (used : List Nat) : List Nat → Option (List Nat)
  | [] => some []
  | i :: r =>
    match freeContext used (x.course.station i).kind with
    | none => none
    | some k => (x.contextsFor (k :: used) r).map (k :: ·)

/-- The semaphores of a set. -/
def PlaceIn.semsFor (x : PlaceIn) (set : List Nat) : Nat := set.foldl (fun n i => n + (x.course.station i).nSem) 0

/-- A cell has the contexts and semaphores that a set needs (R84, R156). -/
def PlaceIn.hasRoom (x : PlaceIn) (p : Placing) (set : List Nat) (cell : Nat) : Bool :=
  (x.contextsFor (lookD p.ctxs cell []) set).isSome && decide (lookD p.sems cell 0 + x.semsFor set ≤ 64)

/-- The slots of level-0 streams of a cell set, and of level-1 streams of a cluster group (R48). -/
def PlaceIn.padFor (x : PlaceIn) (set : List Nat) : Nat :=
  x.course.streams.foldl (fun n d => if d.level = 0 && set.contains (d.consumers.headD 0xFFFF) then n + d.depth else n) 0
def PlaceIn.bufFor (x : PlaceIn) (group : List Nat) : Nat :=
  x.course.streams.foldl (fun n d => if d.level = 1 && group.contains (d.consumers.headD 0xFFFF) then n + d.depth else n) 0

/-- A scratchpad has room for the streams of a set, and a cluster buffer for those of a group (R156). -/
def PlaceIn.padFits (x : PlaceIn) (p : Placing) (set : List Nat) (cell : Nat) : Bool :=
  decide (lookD p.pad cell 0 + x.padFor set ≤ padSlots)
def PlaceIn.bufFits (x : PlaceIn) (p : Placing) (group : List Nat) (cluster : Nat) : Bool :=
  decide (lookD p.buf cluster 0 + x.bufFor group ≤ bufferSlots)

/-- The least of a list by cost and then by index. -/
def leastBy (cost : Nat → Nat) : List Nat → Option Nat
  | [] => none
  | c :: r => some (r.foldl (fun (m : Nat) d => if cost d < cost m then d else m) c)

/-- The result of one hint (R157): the code of HINT_RESULT where it is ignored, else what limits the candidates: a site to
be near, or a cluster. -/
inductive HintUse where
  | ignored (result : Nat)
  | near (site : Nat)
  | cluster (c : Nat)
  deriving DecidableEq, Repr

/-- What a station's hint 0x01 or 0x02 asks (R157). -/
def PlaceIn.hintUse (x : PlaceIn) (p : Placing) (d : StationDesc) : HintUse :=
  let a := x.course.station d.affinity
  if a.kind = .window then .ignored 3
  else if a.kind = .update ∨ a.kind = .collective ∧ d.hint = 2 then .ignored 4
  else
    match look p.pl.stations d.affinity with
    | none => .ignored 3
    | some e =>
      if a.kind = .collective then .near relaySite
      else
        match e.cell with
        | some c => if d.hint = 1 then .near (cellSite c) else .cluster (cellSite c)
        | none => .ignored 4

/-- The candidates left by the hints of a set, in ascending station order, and HINT_RESULT of each station (R157). -/
def PlaceIn.applyHints (x : PlaceIn) (p : Placing) : List Nat → List Nat → List Nat × List (Nat × Nat)
  | [], cs => (cs, [])
  | i :: r, cs =>
    let d := x.course.station i
    if d.hint = 1 ∨ d.hint = 2 then
      let (lim, no) := match x.hintUse p d with
        | .ignored n => (cs, n)
        | .near s => (cs.filter fun c => distClass (cellSite c) s = 0, 2)
        | .cluster k => (cs.filter fun c => cellSite c = k, 2)
      let ok := no = 2 && !lim.isEmpty
      let (cs', rs) := x.applyHints p r (if ok then lim else cs)
      (cs', (i, if ok then 1 else no) :: rs)
    else
      let (cs', rs) := x.applyHints p r cs
      (cs', (i, if d.hint = 3 && d.kind != .glide then 4 else 0) :: rs)

/-- A level-0 or level-1 stream placed at the end of what its memory holds (DESIGN CHOICE, log 122: the spec gives it no
offset there). -/
def Placing.putStreams (p : Placing) (x : PlaceIn) (level site base : Nat) (set : List Nat) : Placing :=
  x.course.streams.foldl (fun (p : Placing) d =>
    if d.level = level && set.contains (d.consumers.headD 0xFFFF) then
      let taken := if level = 0 then lookD p.pad site 0 else lookD p.buf site 0
      let m : MemPlace := { level := level, site := site, span := 1, base := base + frameBytes * taken }
      { p with
        pl := { p.pl with streams := put p.pl.streams d.id m }
        pad := if level = 0 then put p.pad site (taken + d.depth) else p.pad
        buf := if level = 0 then p.buf else put p.buf site (taken + d.depth) }
    else p) p

/-- A cell set bound to a cell: contexts, semaphores from the lowest free base, and its level-0 streams. -/
def Placing.bindSet (p : Placing) (x : PlaceIn) (set : List Nat) (cell : Nat) (results : List (Nat × Nat)) : Placing :=
  let cs := (x.contextsFor (lookD p.ctxs cell []) set).getD []
  let p := (List.zip set cs).foldl (fun (p : Placing) ic =>
    let d := x.course.station ic.1
    let base := lookD p.sems cell 0
    let e : StationPlace :=
      { place := 0, context := ic.2, cell := some cell, semBase := base, hint := d.hint
        hintResult := (look results ic.1).getD 0 }
    { p with
      pl := { p.pl with stations := put p.pl.stations ic.1 e }
      ctxs := upd p.ctxs cell [] (ic.2 :: ·)
      sems := put p.sems cell (base + d.nSem) }) p
  p.putStreams x 0 cell (scratchBase + cell * 2 ^ 21) set

/-- A cell set bound under R156 among candidate cells; none where no candidate is left. -/
def PlaceIn.placeSet (x : PlaceIn) (p : Placing) (set cells : List Nat) : Option Placing :=
  let cs := cells.filter fun c => x.hasRoom p set c && x.padFits p set c
  let (cs, rs) := x.applyHints p set cs
  let sites := x.costSites p set
  (leastBy (fun c => costOf sites (cellSite c)) cs).map fun c => p.bindSet x set c rs

/-- The further cell sets of a group, in the cluster of the first (R155). -/
def PlaceIn.placeRest (x : PlaceIn) (cells : List Nat) : Placing → List (List Nat) → Option Placing
  | p, [] => some p
  | p, set :: r => match x.placeSet p set cells with
    | some p' => x.placeRest cells p' r
    | none => none

/-- The cell sets of a group, in ascending order of their lowest station. -/
def PlaceIn.setsOf (x : PlaceIn) (group : List Nat) : List (List Nat) :=
  let ls := x.course.cellSets
  ((group.map fun i => ls.getD i 0).eraseDups).map fun l => group.filter fun i => ls.getD i 0 = l

/-- A group tried on candidates of its first set in order of cost and then of index, until one leads to a cluster that can
hold it (R155). -/
def PlaceIn.tryGroup (x : PlaceIn) (p : Placing) (group : List Nat) (first : List Nat) (rest : List (List Nat))
    (rs : List (Nat × Nat)) : List Nat → Option Placing
  | [] => none
  | c :: r =>
    let k := cellSite c
    let here := x.cells.filter fun d => cellSite d = k
    let q := (p.bindSet x first c rs)
    match x.placeRest here q rest with
    | some q => some (q.putStreams x 1 k (bufferBase + k * 2 ^ 23) group)
    | none => x.tryGroup p group first rest rs r

/-- The candidates of a set in order of cost and then of index. -/
def PlaceIn.ordered (x : PlaceIn) (p : Placing) (set cells : List Nat) : List Nat :=
  let sites := x.costSites p set
  let cost := clusterSites.map fun k => (k, costOf sites k)
  sortBy cells fun a b =>
    let ca := lookD cost (cellSite a) 0
    let cb := lookD cost (cellSite b) 0
    decide (ca < cb) || (ca = cb && decide (a ≤ b))

/-- The cluster of a candidate cell can hold the whole group: with the first set on that cell, the remaining sets bind (R155). -/
def PlaceIn.clusterHolds (x : PlaceIn) (p : Placing) (first : List Nat) (rest : List (List Nat)) (c : Nat) : Bool :=
  rest.isEmpty || (x.placeRest (x.cells.filter fun d => cellSite d = cellSite c) (p.bindSet x first c []) rest).isSome

/-- A group of stations bound to cells of one cluster (R155, R156). It is refused for want of cells or contexts where no
cell has left what its first set needs and an empty one would, and else because the group does not fit (log 67). -/
def PlaceIn.placeGroup (x : PlaceIn) (p : Placing) (group : List Nat) : Placed :=
  match x.setsOf group with
  | [] => .ok p
  | first :: rest =>
    if group.any fun i => (freeContext [] (x.course.station i).kind).isNone then .error stGroup else
    let roomy := x.cells.filter fun c => x.hasRoom p first c
    let cs := roomy.filter fun c => x.padFits p first c && x.bufFits p group (cellSite c) && x.clusterHolds p first rest c
    let (lim, rs) := x.applyHints p first cs
    match x.tryGroup p group first rest rs (x.ordered p first lim) with
    | some q => .ok q
    | none => .error (if roomy.isEmpty && x.hasRoom {} first 0 then stCells else stGroup)

/-! ### Glide stations (R161, R162) -/

/-- The ENOB that the map predicts for a station on an engine, in 1/16 bit (R161). -/
def PlaceIn.predEnob (x : PlaceIn) (n : Nat) (k : KindParams) : Nat :=
  if k.classD then bits (lookD x.map.engineRegs n 0).toNat 6 0
  else let e := Nat.log2 (max 1 k.samples); bits (lookD x.map.predN n 0).toNat (7 * e + 6) (7 * e)

/-- An engine has room for a station's class (R161). -/
def PlaceIn.engineRoom (x : PlaceIn) (p : Placing) (n : Nat) (k : KindParams) : Bool :=
  let on := lookD p.engines n []
  x.map.engines.getLsbD n && (if k.classD then on.isEmpty
    else decide (on.length ≤ 3) && on.all fun i => !(x.course.station i).params.classD)

/-- The engine that takes a candidate: of highest predicted ENOB, the lowest-numbered among equals (R161). -/
def PlaceIn.engineFor (x : PlaceIn) (p : Placing) (k : KindParams) : Option Nat :=
  let ok := (List.range 4).filter fun n => x.engineRoom p n k && decide (k.enobFloor ≤ x.predEnob n k)
  match ok with
  | [] => none
  | n :: r => some (r.foldl (fun (m : Nat) j => if x.predEnob m k < x.predEnob j k then j else m) n)

/-- Why no engine accepts a candidate, as HINT_RESULT: its ENOB floor, or no capacity (R161, R172). -/
def PlaceIn.whyNot (x : PlaceIn) (p : Placing) (k : KindParams) : Nat :=
  if (List.range 4).any fun n => x.engineRoom p n k then 5 else 2

/-- HINT_RESULT of a bound glide station that stays on its cell: with hint 0x03 it says why (R172). -/
def Placing.keepOnCell (p : Placing) (i why : Nat) : Placing :=
  match look p.pl.stations i with
  | none => p
  | some e =>
    let e : StationPlace := { e with hintResult := if e.hint = 3 then why else e.hintResult }
    { p with pl := { p.pl with stations := put p.pl.stations i e } }

/-- A candidate whose host cell is bound moves to the engine that accepts it (R161, R162). -/
def PlaceIn.toEngine (x : PlaceIn) (p : Placing) (i : Nat) : Placing :=
  let k := (x.course.station i).params
  match look p.pl.stations i, x.engineFor p k with
  | some e, some n =>
    let h := (x.course.station i).hint
    let e : StationPlace :=
      { e with place := 1, unit := n, predEnob := x.predEnob n k, hint := h
               hintResult := if h = 3 then 1 else if h = 0 then 0 else 4 }
    { p with
      pl := { p.pl with stations := put p.pl.stations i e }
      engines := upd p.engines n [] (· ++ [i]) }
  | _, _ => p.keepOnCell i (x.whyNot p k)

/-- The candidates in the order of R161: those with hint 0x03, then Class D before Class N, then ascending. -/
def PlaceIn.glideOrder (x : PlaceIn) : List Nat :=
  let cand := x.course.stations.filter fun d => d.kind == .glide && !x.course.isRepro d
  let part (h : Bool) (dd : Bool) := (cand.filter fun d => (d.hint == 3) == h && d.params.classD == dd).map (·.id)
  part true true ++ part true false ++ part false true ++ part false false

/-! ### Memory (R158, R159) -/

/-- The bytes of a slice's scratchpad (R219, R226). -/
def PlaceIn.sliceBytes (x : PlaceIn) (i : Nat) : Nat := if x.map.lodge.getLsbD i then x.lodgeSp * 2 ^ 20 else 0

/-- A range is free in a slice. -/
def rangeFree (taken : List (Nat × Nat)) (size o len : Nat) : Bool :=
  decide (o + len ≤ size) && taken.all fun t => decide (o + len ≤ t.1) || decide (t.1 + t.2 ≤ o)

/-- The lowest offset at which a range is free in every slice of a group (R158). -/
def PlaceIn.groupOffset (x : PlaceIn) (p : Placing) (slices : List Nat) (len : Nat) : Option Nat :=
  let ends := 0 :: slices.flatMap fun i => (lookD p.lodge i []).map fun t => t.1 + t.2
  let ok := ends.filter fun o => slices.all fun i => rangeFree (lookD p.lodge i []) (x.sliceBytes i) o len
  match ok with
  | [] => none
  | o :: r => some (r.foldl min o)

/-- A range taken in slices. -/
def Placing.takeLodge (p : Placing) (slices : List Nat) (o len : Nat) : Placing :=
  { p with lodge := slices.foldl (fun t i => upd t i [] ((o, len) :: ·)) p.lodge }

/-- The site that an object's place looks to (R158): its WRITER's, or its lowest-numbered placed reader's. -/
def PlaceIn.objectSite (x : PlaceIn) (p : Placing) (o : ObjectDesc) : Option Nat :=
  let reader := ((x.course.stations.filter fun d =>
    (x.course.wordsFor d).any fun w => (x.course.reads w).contains o.id).find? fun d => (look p.pl.stations d.id).isSome).map (·.id)
  match o.writer with
  | some w => if (x.course.station w).kind = .window then reader.bind p.site else p.site w
  | none => reader.bind p.site

/-- A level-2 object in one slice, or over the smallest group of slices with room (R158). -/
def PlaceIn.placeL2Object (x : PlaceIn) (o : ObjectDesc) (p : Placing) : Placed :=
  let site := x.objectSite p o
  let cost (g : List Nat) : Nat := match site with
    | some s => g.foldl (fun n i => n + distClass (sliceSite i) s) 0
    | none => 0
  let try' (n : Nat) : Option (List Nat × Nat) :=
    let gs := (List.range (64 / n)).map fun j => (List.range n).map (n * j + ·)
    let ok := gs.filterMap fun g => (x.groupOffset p g ((o.frames + n - 1) / n * frameBytes)).map fun o => (g, o)
    match ok with
    | [] => none
    | y :: r => some (r.foldl (fun (m z : List Nat × Nat) => if cost z.1 < cost m.1 then z else m) y)
  match [1, 2, 4, 8, 16, 32, 64].findSome? try' with
  | none => .error stLodge
  | some (g, off) =>
    let first := g.headD 0
    let m : MemPlace := { level := 2, site := first, span := g.length, firstSlice := first, base := lodgeBase + first * 2 ^ 24 + off }
    let p := p.takeLodge g off ((o.frames + g.length - 1) / g.length * frameBytes)
    .ok { p with pl := { p.pl with objects := put p.pl.objects o.id m } }

/-- A level-2 stream in the slice with room that is nearest to its first consumer (R158), at the lowest offset with room there
(DESIGN CHOICE, log 67: the spec gives it none). -/
def PlaceIn.placeL2Stream (x : PlaceIn) (d : StreamDesc) (p : Placing) : Placed :=
  let len := d.depth * frameBytes
  let ok := (List.range 64).filterMap fun i => (x.groupOffset p [i] len).map fun o => (i, o)
  let cost (i : Nat) : Nat := match p.site (d.consumers.headD 0xFFFF) with
    | some s => distClass (sliceSite i) s
    | none => 0
  match ok with
  | [] => .error stLodge
  | y :: r =>
    let (i, o) := r.foldl (fun (m z : Nat × Nat) => if cost z.1 < cost m.1 then z else m) y
    let m : MemPlace := { level := 2, site := i, span := 1, firstSlice := i, base := lodgeBase + i * 2 ^ 24 + o }
    let p := p.takeLodge [i] o len
    .ok { p with pl := { p.pl with streams := put p.pl.streams d.id m } }

/-- Level-3 objects and then streams, each from a 64 KiB boundary (R159). -/
def PlaceIn.placeL3 (x : PlaceIn) (p : Placing) : Placed :=
  let n := (maskBits 12 x.map.stackSet.toNat).length
  let next (p : Placing) (frames : Nat) : Placing := { p with top := (p.top + frames * frameBytes + 65535) / 65536 * 65536 }
  let m (p : Placing) : MemPlace := { level := 3, span := n, base := p.top }
  let p := x.course.objects.foldl (fun (p : Placing) o =>
    if o.level = 3 then next { p with pl := { p.pl with objects := put p.pl.objects o.id (m p) } } o.frames else p) p
  let p := x.course.streams.foldl (fun (p : Placing) d =>
    if d.level = 3 then next { p with pl := { p.pl with streams := put p.pl.streams d.id (m p) } } d.depth else p) p
  if p.top ≤ n * stackUnit then .ok p else .error stStacks

/-- The hub stop of a window station: that of the memory that holds frame 0 of its object (R154). -/
def PlaceIn.windowStop (x : PlaceIn) (p : Placing) (obj : Nat) : Nat :=
  let m := lookD p.pl.objects obj {}
  let site := if m.level = 2 then sliceSite m.site
    else 0xC0 + (interleave (maskBits 12 x.map.stackSet.toNat) m.base).1
  match stopOf site with
  | some (r, c) => 8 * r + c
  | none => 0xFF

/-! ### The placement of a Course (R154) -/

/-- Stations placed one after another. -/
def placeAll (f : Nat → Placing → Placed) : List Nat → Placing → Placed
  | [], p => .ok p
  | i :: r, p => match f i p with
    | .ok p => placeAll f r p
    | .error e => .error e

/-- Collective and update stations (R154). -/
def PlaceIn.placeFixed (x : PlaceIn) (i : Nat) (p : Placing) : Placed :=
  let d := x.course.station i
  let e : StationPlace := match d.kind with
    | .collective => { place := 3, unit := d.params.group }
    | _ => { place := 2, unit := (maskBits 12 x.map.stackSet.toNat).length }
  let e' : StationPlace := { e with hint := d.hint, hintResult := if d.hint = 0 then 0 else 4 }
  .ok { p with pl := { p.pl with stations := put p.pl.stations i e' } }

/-- The whole group of a station is bound, unless it is already (R155). -/
def PlaceIn.bindGroup (x : PlaceIn) (i : Nat) (p : Placing) : Placed :=
  let gs := x.course.clusterGroups
  let g := gs.getD i 0
  let group := (x.course.stations.map (·.id)).filter fun j => gs.getD j 0 = g
  if (look p.pl.stations i).isSome then .ok p else x.placeGroup p group

/-- A placement's input with no hint for a station: one that an engine takes is not placed on cells, and its hint 0x01 or 0x02
limits nothing (R157). -/
def PlaceIn.noHint (x : PlaceIn) (i : Nat) : PlaceIn :=
  { x with course := { x.course with stations := x.course.stations.map fun d => if d.id = i then { d with hint := 0 } else d } }

/-- A candidate of R161 in its turn: an engine takes it with a host cell, or it is left to the row of the cells. -/
def PlaceIn.placeGlide (x : PlaceIn) (i : Nat) (p : Placing) : Placed :=
  let k := (x.course.station i).params
  if (look p.pl.stations i).isSome || (x.engineFor p k).isSome then
    match (if (x.engineFor p k).isSome then x.noHint i else x).bindGroup i p with
    | .error e => .error e
    | .ok p => .ok (x.toEngine p i)
  else .ok { p with late := put p.late i (x.whyNot p k) }

/-- A station of a cell row (R154, R155). A glide station that runs on cells has its HINT_RESULT here: 4 for a
reproducible one, which is no candidate (R161). -/
def PlaceIn.placeCell (x : PlaceIn) (i : Nat) (p : Placing) : Placed :=
  let d := x.course.station i
  match x.bindGroup i p with
  | .error e => .error e
  | .ok p => .ok (
    if d.kind = .glide then
      if x.course.isRepro d then p.keepOnCell i 4
      else match look p.late i with
        | some why => p.keepOnCell i why
        | none => p
    else p)

/-- Every level-0 and level-1 stream has its place by now: a stream whose consumers have no cell is refused (R155, R160,
log 67). -/
def PlaceIn.allNear (x : PlaceIn) (p : Placing) : Placed :=
  if x.course.streams.all fun d => decide (2 ≤ d.level) || (look p.pl.streams d.id).isSome then .ok p else .error stGroup

/-- Window stations (R154). -/
def PlaceIn.placeWindow (x : PlaceIn) (i : Nat) (p : Placing) : Placed :=
  let d := x.course.station i
  let e : StationPlace := { place := 4, unit := x.windowStop p d.params.object, hint := d.hint, hintResult := if d.hint = 0 then 0 else 4 }
  .ok { p with pl := { p.pl with stations := put p.pl.stations i e } }

/-- The stations of a kind, ascending. -/
def PlaceIn.ofKind (x : PlaceIn) (k : Kind) : List Nat := (x.course.stations.filter (·.kind == k)).map (·.id)

/-- The stations bound to cells, in the order of R154: the row of matrix and glide on cells, the vector row, and the row of
reader, writer and copy, each ascending (log 66). -/
def PlaceIn.cellOrder (x : PlaceIn) : List Nat :=
  [[Kind.matrix, .glide], [.vector], [.reader, .writer, .copy]].flatMap fun ks =>
    (x.course.stations.filter fun d => ks.contains d.kind).map (·.id)

/-- The placement of a Course (R151, R154): placed, or refused with a STATUS and nothing placed (R160). -/
def PlaceIn.place (x : PlaceIn) : Placed :=
  let objs := (x.course.objects.filter (·.level = 2)).map (·.id)
  let strs := (x.course.streams.filter (·.level = 2)).map (·.id)
  match x.placeL3 {} with
  | .error e => .error e
  | .ok p =>
    match placeAll x.placeFixed (x.ofKind .collective ++ x.ofKind .update) p with
    | .error e => .error e
    | .ok p =>
      match placeAll x.placeGlide x.glideOrder p with
      | .error e => .error e
      | .ok p =>
        match (placeAll x.placeCell x.cellOrder p).bind x.allNear with
        | .error e => .error e
        | .ok p =>
          match placeAll (fun i => x.placeL2Object (x.course.object i)) objs p with
          | .error e => .error e
          | .ok p =>
            match placeAll x.placeWindow (x.ofKind .window) p with
            | .error e => .error e
            | .ok p => placeAll (fun i => x.placeL2Stream (x.course.stream i)) strs p

/-! ### The report (R172) -/

/-- A station entry (Table - Placement report entry). -/
def stationEntry (k : Kind) (i : Nat) (e : StationPlace) : List Byte :=
  item 1 1 ++ item 1 k.code ++ item 2 i ++ item 1 e.place ++ item 1 e.context ++ item 2 (e.cell.getD 0xFFFF) ++ item 1 e.unit ++
  item 1 e.semBase ++ item 1 e.hint ++ item 1 e.hintResult ++ item 2 e.predEnob ++ item 2 0

/-- A stream (type 2) or object (type 3) entry. -/
def memEntry (type i : Nat) (m : MemPlace) : List Byte :=
  item 1 type ++ item 1 m.level ++ item 2 i ++ item 2 (if m.level = 3 then 0xFFFF else m.site) ++ item 1 m.span ++ item 1 0 ++ item 8 m.base

/-- The logical cells that hold a station, and the engines that do. -/
def cellsUsed (p : Placement) : Nat := ((p.stations.filterMap fun e => e.2.cell).eraseDups).length
def enginesUsed (p : Placement) : Nat := ((p.stations.filter fun e => e.2.place = 1).map fun e => e.2.unit).eraseDups.length

/-- A placement report with its entries (R172). -/
def State.placementReport (s : State) (event status : Nat) (entries : List (List Byte)) : List Byte :=
  let p := s.placed
  let avail := s.cap.ranks.foldl (fun n r => n + r.2) 0
  let h := natLe 4 0x504C4352 ++ natLe 2 1 ++ natLe 2 status ++ natLe 8 s.course.courseId ++ natLe 4 s.cap.gen.toNat ++
    natLe 1 event ++ natLe 3 0 ++ natLe 4 s.nvm.bootCount.toNat ++ natLe 4 entries.length ++ natLe 8 s.pt.toNat ++
    natLe 2 (cellsUsed p) ++ natLe 2 avail ++ natLe 1 (maskBits 12 s.cap.stackSet.toNat).length ++ natLe 1 (enginesUsed p) ++
    List.replicate 14 0
  let es := entries.flatMap id
  h ++ natLe 4 (crc32c (h ++ natLe 4 0 ++ es)).toNat ++ es

/-- The report is sent to the job service (R172, R445). -/
def State.sendPlacement (s : State) (event status : Nat) (entries : List (List Byte)) : State :=
  s.report 0x43 (s.placementReport event status entries) true

/-- The entry of a station as it is placed now. -/
def State.entryFor (s : State) (st : Nat) : List Byte :=
  stationEntry ((s.desc st).elim .matrix (·.kind)) st (s.placeOf st)

/-- Every station, stream and object, in ascending order by table. -/
def State.allEntries (s : State) : List (List Byte) :=
  (s.course.stations.map fun d => s.entryFor d.id) ++
  (s.course.streams.map fun d => memEntry 2 d.id (lookD s.placed.streams d.id {})) ++
  s.course.objects.map fun o => memEntry 3 o.id (lookD s.placed.objects o.id {})

end Sys2Proof.Machine
end

