-- ==== Sys2Proof/Machine/Relay.lean ====
section
/-!
DEFINITION. The Relay engine (R333 to R356): instances, rings and their canonical order, frames in staging, combination,
digests and tallies, laggards. Frames of a ring step go in ascending order of chunk and position (log 31).
-/
namespace Sys2Proof.Machine

def isCollective : Kind → Bool := (· == .collective)

/-! ### Instances and rings (R335, R340, R341) -/

/-- The group table's entry of a group. -/
def State.groupOf (s : State) (g : Nat) : Group := ((s.job.map fun j => j.groups.getD g {})).getD {}

/-- An instance of a group: its members on each axis, this member's place, and the closure of each axis. -/
structure Ring where
  gx : Nat
  gy : Nat
  gz : Nat
  mx : Nat
  my : Nat
  mz : Nat
  cx : Bool
  cy : Bool
  cz : Bool
  deriving DecidableEq, Repr

/-- G_a, the member's coordinate and the closure on an axis. -/
def Ring.g (r : Ring) (a : Nat) : Nat := match a with
  | 0 => r.gx
  | 1 => r.gy
  | _ => r.gz
def Ring.m (r : Ring) (a : Nat) : Nat := match a with
  | 0 => r.mx
  | 1 => r.my
  | _ => r.mz
def Ring.closed (r : Ring) (a : Nat) : Bool := match a with
  | 0 => r.cx
  | 1 => r.cy
  | _ => r.cz

/-- The instance that this member belongs to (R335). -/
def State.ringOf (s : State) (g : Nat) : Ring :=
  let axes := (s.groupOf g).axes
  match s.fabric.table with
  | some t =>
    let ga (a : Nat) : Nat := if bit axes a then t.size a else 1
    let ma (a : Nat) : Nat := if bit axes a then s.logicalAt t s.here a else 0
    ⟨ga 0, ga 1, ga 2, ma 0, ma 1, ma 2, t.isClosed 0, t.isClosed 1, t.isClosed 2⟩
  | none => ⟨1, 1, 1, 0, 0, 0, false, false, false⟩

/-- M and ρ. -/
def Ring.size (r : Ring) : Nat := r.gx * r.gy * r.gz
def Ring.rank (r : Ring) : Nat := r.mx + r.gx * (r.my + r.gy * r.mz)

/-- A chunk's coordinate on an axis (R340). -/
def Ring.chunkAt (r : Ring) (c a : Nat) : Nat := match a with
  | 0 => c % r.gx
  | 1 => c / r.gx % r.gy
  | _ => c / (r.gx * r.gy) % r.gz

/-- The axes with more than one member, in the order of the stages. -/
def Ring.axes (r : Ring) : List Nat := [0, 1, 2].filter fun a => 1 < r.g a

/-- σ of R341: a closed ring in order; an open one folded, the even coordinates up and the odd ones down. -/
def ringOrder (g : Nat) (closed : Bool) : List Nat :=
  if closed then List.range g
  else (List.range g).filter (· % 2 = 0) ++ ((List.range g).filter (· % 2 = 1)).reverse

/-- The position of this member on the ring of an axis. -/
def Ring.pos (r : Ring) (a : Nat) : Nat := ((ringOrder (r.g a) (r.closed a)).findIdx? (· = r.m a)).getD 0

/-- The position k places behind this member's against the direction of a ring. -/
def Ring.behind (r : Ring) (a : Nat) (minus : Bool) (k : Nat) : Nat :=
  let g := max 1 (r.g a)
  if minus then (r.pos a + k) % g else (r.pos a + g - k % g) % g

/-- The keys c·COUNT + j of the frames that travel for the owners or holders at a ring position (R340, R341): the chunks
that the member still handles on the axis, and the positions of the ring's parity. -/
def Ring.keysAt (r : Ring) (reduce : Bool) (a count p : Nat) (minus : Bool) : List Nat :=
  let t := (ringOrder (r.g a) (r.closed a)).getD p 0
  let mine (c : Nat) : Bool := [0, 1, 2].all fun b =>
    if b = a then r.chunkAt c b = t
    else if reduce then (a < b || r.chunkAt c b = r.m b) else (b < a || r.chunkAt c b = r.m b)
  let onRing (j : Nat) : Bool := if r.closed a then (j % 2 = 1) = minus else !minus
  ((List.range r.size).filter mine).flatMap fun c => ((List.range count).filter onRing).map fun j => c * count + j

/-- The frames that a member sends on a ring of a stage, in order, and those that it receives (R342, R343). -/
def Ring.sendKeys (r : Ring) (reduce : Bool) (a count : Nat) (minus : Bool) : List Nat :=
  (List.range (r.g a - 1)).flatMap fun s => r.keysAt reduce a count (r.behind a minus (s + b2n reduce)) minus
def Ring.recvKeys (r : Ring) (reduce : Bool) (a count : Nat) (minus : Bool) : List Nat :=
  (List.range (r.g a - 1)).flatMap fun s => r.keysAt reduce a count (r.behind a minus (s + 1 + b2n reduce)) minus

/-- The machine coordinate of the next member of a ring. -/
def State.ringNext (s : State) (r : Ring) (a : Nat) (minus : Bool) : Coord :=
  match s.fabric.table with
  | some t =>
    let g := max 1 (r.g a)
    let p := if minus then (r.pos a + g - 1) % g else (r.pos a + 1) % g
    let x := (ringOrder (r.g a) (r.closed a)).getD p 0
    let l (b : Nat) : Nat := if b = a then x else s.logicalAt t s.here b
    s.machineOf t (l 0) (l 1) (l 2)
  | none => s.here

/-! ### Staging slots (R346) -/

/-- The slots that each ring of a group has, and the first slot of a group (R346, log 31). -/
def State.slotsOf (s : State) (g : Nat) : Nat :=
  let w (i : Nat) : Nat := let e := s.groupOf i; if e.axes = 0 then 0 else e.weight
  let sum := (List.range 16).foldl (fun n i => n + w i) 0
  7680 * w g / max 1 sum / 2
def State.slotBase (s : State) (g : Nat) : Nat := (List.range g).foldl (fun n i => n + 2 * s.slotsOf i) 0

/-- A ring's key among the device's rings. -/
def ringKey (g : Nat) (minus : Bool) : Nat := 2 * g + b2n minus

/-- The staging slot of the n-th frame of a ring in the job, in rotation. -/
def State.slotAt (s : State) (g : Nat) (minus : Bool) (n : Nat) : Nat :=
  let k := s.slotsOf g
  s.slotBase g + b2n minus * k + n % max 1 k

/-- A slot at the ring successor is free: no packet that fills it is unacknowledged. -/
def State.slotFree (s : State) (key slot : Nat) : Bool :=
  !s.fabric.flights.any fun f => match f.kind with
    | .relay k => k = key && f.cmd = slot
    | _ => false

/-- The slot that a ring uses next is free. -/
def State.ringFree (s : State) (g : Nat) (minus : Bool) : Bool :=
  let n := lookD s.relay.sent (ringKey g minus) 0
  s.slotFree (ringKey g minus) (s.slotAt g minus n)

/-- The ticks for which a ring has had no free slot. -/
def State.noSlotTicks (s : State) (key : Nat) : Nat :=
  let x := lookD s.relay.noSlot key (0, none)
  match x.2 with
  | some t => x.1 + s.since t
  | none => x.1

/-- The record of a ring's lack of slots is brought up to date (R352). -/
def State.markSlots (s : State) (g : Nat) (minus : Bool) : State :=
  let key := ringKey g minus
  let n := s.noSlotTicks key
  let since : Option Word := if s.ringFree g minus then none else some s.pt
  s.withRelay fun r => { r with noSlot := put r.noSlot key (n, since) }

/-! ### Frames (R144, R337, R338, R342, R344) -/

/-- Flags that a reduction passes on: ANALOG and OOC (R61), and CPLX, which says what the elements are (log 32). -/
def relayFlags (f : List Byte) : Nat := (hdrOf f).tflags % 8

/-- The element values of a frame. -/
def frameVals (f : List Byte) : List Num :=
  match frameFmt f with
  | some (fm, h) => (List.range (h.rows * h.cols)).map (elemVal fm f)
  | none => []

/-- A frame may enter a reduction into ACC_FMT (R337). -/
def reducible (acc : Fmt) (f : List Byte) : Bool :=
  match frameFmt f with
  | some (fm, h) => (if acc = .int32 then fm.isInt else !fm.isInt) && decide (h.rows * h.cols ≤ acc.maxElems)
  | none => false

/-- A partial in ACC_FMT (R342, R344): values rounded once to nearest, STREAM 0xFFFF, SEQ j. -/
def partialOf (acc : Fmt) (station step j flags rows cols : Nat) (vs : List Num) : List Byte :=
  mkFrame acc flags rows cols station 0xFFFF j step vs .nearest 0

/-- One combination of exact values before its rounding (R145): 0 sum, 1 max, 2 min; the partial comes first. A sum that is
zero is +0 (DESIGN CHOICE, log 136). -/
def reduceNum (fn : Nat) (p q : Num) : Num :=
  match fn with
  | 1 => p.maxX q
  | 2 => p.minX q
  | _ => match p, q with
    | .fin x _, .fin y _ => .fin (x + y) false
    | .nan, _ => .nan
    | _, .nan => .nan
    | .inf a, .inf b => if a = b then .inf a else .nan
    | .inf a, _ => .inf a
    | _, .inf b => .inf b

/-- A received partial combined with this member's contribution (R145, R342); none where they differ in shape or the
partial is not in ACC_FMT (R337). -/
def combineFrames (acc : Fmt) (fn station step j : Nat) (p q : List Byte) : Option (List Byte) :=
  match frameFmt p, frameFmt q with
  | some (fp, hp), some (_, hq) =>
    if fp = acc ∧ hp.rows = hq.rows ∧ hp.cols = hq.cols then
      some (partialOf acc station step j (relayFlags p ||| relayFlags q) hp.rows hp.cols
        ((List.zip (frameVals p) (frameVals q)).map fun x => reduceNum fn x.1 x.2))
    else none
  | _, _ => none

/-- This member's contribution as the first partial. -/
def firstPartial (acc : Fmt) (station step j : Nat) (f : List Byte) : List Byte :=
  let h := hdrOf f
  partialOf acc station step j (relayFlags f) h.rows h.cols (frameVals f)

/-- A frame as its owner produces it (R338). -/
def ownerFrame (f : List Byte) (producer stream seq step : Nat) : List Byte :=
  signFrame (splice (splice (splice (splice f 0x10 (natLe 4 step)) 8 (natLe 2 producer)) 0xA (natLe 2 stream)) 0xC (natLe 4 seq))

/-- The relay trailer (R345). -/
def trailer (serial opk stage step frame lag rank : Nat) : List Byte :=
  natLe 4 serial ++ natLe 1 opk ++ natLe 1 stage ++ natLe 2 step ++ natLe 4 frame ++ natLe 4 lag ++ natLe 4 rank ++
  List.replicate 12 0

/-- OPK and the STATE of a kind. -/
def CollKind.opk : CollKind → Nat
  | .rs => 0x60 | .ag => 0x61 | .digest => 0x62
def CollKind.code : CollKind → Nat
  | .rs => 1 | .ag => 2 | .digest => 3

/-! ### Commands in progress -/

/-- The command of a group, and as changed. -/
def State.coll (s : State) (g : Nat) : Option Coll := look s.relay.cmds g
def State.withColl (s : State) (g : Nat) (f : Coll → Coll) : State :=
  s.withRelay fun r => { r with cmds := r.cmds.map fun p => if p.1 = g then (p.1, f p.2) else p }

/-- A ring of a command, and as changed. -/
def Coll.ring (c : Coll) (minus : Bool) : RingState := if minus then c.minus else c.plus
def Coll.withRing (c : Coll) (minus : Bool) (f : RingState → RingState) : Coll :=
  if minus then { c with minus := f c.minus } else { c with plus := f c.plus }

/-- The ACC_FMT and REDUCE of a command's station. -/
def State.accOf (s : State) (c : Coll) : Fmt := ((fmtOf (s.paramsOf c.station).accFmt)).getD .fp32

/-- LAG of a command so far, in ns (R352). -/
def Coll.lag (c : Coll) : Nat := min 0xFFFFFFFF (c.waits.foldl (fun n w => n + w.2) 0)

/-- The worse of two pairs of lag and rank: the larger lag, the lower rank among equals (R352). -/
def worsePair (a b : Nat × Nat) : Nat × Nat := if a.1 < b.1 ∨ a.1 = b.1 ∧ b.2 < a.2 then b else a

/-- This member's slice logical rank. -/
def State.myRank (s : State) : Nat := match s.fabric.table with
  | some t => s.rankOf t s.here
  | none => 0

/-- The worst pair that a command knows, its own LAG included. -/
def State.worstOf (s : State) (c : Coll) : Nat × Nat := worsePair (c.worstLag, c.worstRank) (c.lag, s.myRank)

/-- The STAGE byte of an axis and ring (R345). -/
def stageByte (a : Nat) (minus : Bool) : Nat := a + 128 * b2n minus

/-- The index of a frame within its command: j in COL_RS, c·COUNT + j in COL_AG (R336, R345). -/
def Coll.frameIx (c : Coll) (key : Nat) : Nat := if c.kind = .rs then key % max 1 c.count else key

/-! ### Sending (R345, R346) -/

/-- The frame that is the n-th of a ring's order, if the member has it yet. -/
def State.toSend (s : State) (c : Coll) (minus : Bool) (keys : List Nat) (k n : Nat) : Option (List Byte) :=
  match keys[n]? with
  | some key =>
    if n < k then
      (look c.held key).map fun f =>
        if c.kind = .rs then firstPartial (s.accOf c) c.station c.step.toNat (key % max 1 c.count) f else f
    else look (c.ring minus).fwd (n - k)
  | none => none

/-- The next frame of a ring is sent as two RELAY packets, if it is there and the successor's slot is free. -/
def State.sendRing (s : State) (g : Nat) (minus : Bool) : State × Bool :=
  match s.coll g with
  | some c =>
    let r := s.ringOf g
    match r.axes[c.stage]? with
    | some a =>
      let reduce := c.kind = .rs
      let keys := r.sendKeys reduce a c.count minus
      let k := keys.length / max 1 (r.g a - 1)
      let n := (c.ring minus).sent
      match s.toSend c minus keys k n with
      | some f =>
        if s.ringFree g minus ∧ s.inFlight + 2 ≤ 32768 ∧ (s.st c.station).stopped = false then
          let total := lookD s.relay.sent (ringKey g minus) 0
          let slot := s.slotAt g minus total
          let (lag, rank) := s.worstOf c
          let tr := trailer c.serial c.kind.opk (stageByte a minus) (n / max 1 k + 1) (c.frameIx (keys.getD n 0)) lag rank
          let pk (part : Nat) (body : List Byte) : Packet :=
            { opc := 0x09, dst := s.ringNext r a minus, src := 0, sliceId := 0, windowId := BitVec.ofNat 16 g
              offset := BitVec.ofNat 48 (slot + 65536 * part), payload := body }
          let s := s.sendOp c.station (.relay (ringKey g minus)) slot (pk 0 (f.take 4096))
          let s := s.sendOp c.station (.relay (ringKey g minus)) slot (pk 1 (f.drop 4096 ++ tr))
          let s := s.withRelay fun q => { q with sent := put q.sent (ringKey g minus) (total + 1) }
          let s := s.withColl g fun c => c.withRing minus fun x => { x with sent := n + 1, fwd := del x.fwd (n - k) }
          ((s.wrapBy (oRly 0x1108) 1).markSlots g minus, true)
        else (s, false)
      | none => (s, false)
    | none => (s, false)
  | none => (s, false)

/-! ### Receiving (R344, R347, R352, R354) -/

/-- The staged frame that a ring of a group expects next: from its predecessor in the rotation's slot, complete. -/
def State.stagedFor (s : State) (g : Nat) (minus : Bool) : Option Staged :=
  let slot := s.slotAt g minus (lookD s.relay.recv (ringKey g minus) 0)
  s.relay.staged.find? fun x => x.group = g && x.slot = slot && x.part0.isSome && x.part1.isSome

/-- The address that names a staging slot in an event: one outside the address map (log 31). -/
def stagingAddr (slot : Nat) : Nat := 2 ^ 48 + slot

/-- A relay frame that cannot be used: a tile-integrity fault; its command does not complete (R347, R361). -/
def State.relayFault (s : State) (g : Nat) (x : Staged) (f : List Byte) : State :=
  let h := hdrOf f
  let s := s.withColl g fun c => { c with failed := true }
  let s := match s.coll g with
    | some c => s.withSt c.station fun r => { r with stopped := true }
    | none => s
  s.tileFault (stagingAddr x.slot) h.producer h.step

/-- A frame is consumed: both its packets are acknowledged and its slot is free (R347). -/
def State.consume (s : State) (x : Staged) : State :=
  let s := s.withRelay fun r => { r with staged := r.staged.filter (· != x) }
  let ack (s : State) (p : Option Packet) : State := match p with
    | some p => s.inject { opc := 0x85, dst := p.src, src := 0, sliceId := 0, windowId := p.windowId, offset := p.offset, tag := p.tag }
    | none => s
  ack (ack s x.part0) x.part1

/-- The outcome of a combination's residue checks (R354): passed; failed and passed on its repeat, event 0x63; failed
twice, event 0x62, and the Relay engine is a confirmed silent-error unit (R362). -/
def State.combinerCheck (s : State) (g : Nat) (c : Coll) (stage frame fails : Nat) (p q : List Byte) : State × Bool :=
  let body := item 1 g ++ item 4 c.serial ++ item 1 stage ++ item 4 frame
  match fails with
  | 0 => (s, true)
  | 1 => (((s.bump (oRly 0x1000)).record 0x63 0 body).addPoints 1 0x63, true)
  | _ =>
    let s := s.satBy (oRly 0x1000) 2
    let s := s.record 0x62 0 (body ++ [Config.itemCode 0x62 4 0, Config.itemCode 0x62 5 0, Config.itemCode 0x62 6 0, Config.itemCode 0x62 7 0])
    let s := (s.keepPattern (relayPattern p q)).1
    let s := s.withColl g fun c => { c with failed := true }
    (s.orderDrain drSilent, false)

/-- The next frame that a ring expects is taken from staging, verified, and combined or forwarded (R342 to R344);
one that does not verify is read once more from its slot (R58). -/
def State.recvRing (s : State) (g : Nat) (minus : Bool) (fails : RelayChecks) : State × Bool :=
  match s.coll g, s.stagedFor g minus with
  | some c, some x =>
    let r := s.ringOf g
    match r.axes[c.stage]? with
    | some a =>
      let reduce := c.kind = .rs
      let keys := r.recvKeys reduce a c.count minus
      let k := keys.length / max 1 (r.g a - 1)
      let n := (c.ring minus).recv
      if c.failed = true ∨ c.kind = .digest ∨ keys.length ≤ n ∨ (s.st c.station).stopped = true then (s, false) else
      let key := keys.getD n 0
      let step := n / max 1 k + 1
      let p1 := (x.part1.map (·.payload)).getD []
      let f := (x.part0.map (·.payload)).getD [] ++ p1.take 160
      let tr := p1.drop 160
      let bad := (x.part0.any fun p => !p.badGranules.isEmpty) || (x.part1.any fun p => !p.badGranules.isEmpty)
      let wrong := bad || !crcOk f
      let s := if wrong || decide (0 < fails.reads) then s.bump (oRly 0x1008) else s
      if wrong || decide (1 < fails.reads) then (s.relayFault g x f, false) else
      let s := if fails.reads = 1 then s.tileTransient (stagingAddr x.slot) (hdrOf f).producer else s
      if fld tr 0 4 ≠ c.serial ∨ fld tr 4 1 ≠ c.kind.opk ∨ fld tr 5 1 ≠ stageByte a minus ∨ fld tr 6 2 ≠ step then
        (s.relayFault g x f, false)
      else
        let wait := 10 * (s.since x.arrived - (s.noSlotTicks (ringKey g minus) - x.blocked))
        let worst := worsePair (c.worstLag, c.worstRank) (fld tr 0xC 4, fld tr 0x10 4)
        let wk := 64 * a + step
        let note (s : State) : State :=
          let s := s.withRelay fun q => { q with recv := put q.recv (ringKey g minus) (lookD q.recv (ringKey g minus) 0 + 1) }
          s.withColl g fun c => { c with
            waits := put c.waits wk (max (lookD c.waits wk 0) wait)
            worstLag := worst.1, worstRank := worst.2 }
        let last := step + 1 = r.g a
        let keep (s : State) (out : List Byte) (final : Bool) : State :=
          let s := s.withColl g fun c => c.withRing minus fun q => { q with recv := n + 1, fwd := if last then q.fwd else put q.fwd n out }
          let s := if final then s.withColl g fun c => { c with next := put c.next key out } else s
          (note (s.wrapBy (oRly 0x1110) 1)).consume x
        if reduce then
          let own := lookD c.held key []
          let (s, ok) := s.combinerCheck g c (stageByte a minus) (c.frameIx key) fails.combiner f own
          if !ok then (s, false) else
          match combineFrames (s.accOf c) (s.paramsOf c.station).reduce c.station c.step.toNat (key % max 1 c.count) f own with
          | some out => (keep (s.wrapBy (oRly 0x1118) 1) out last, true)
          | none => (s.courseError eTileFormat c.station, false)
        else (keep s f true, true)
    | none => (s, false)
  | _, _ => (s, false)

/-! ### Progress (R338, R340) -/

/-- The member's output frames are written into its stream (R338). -/
def State.finishColl (s : State) (g : Nat) (c : Coll) : State :=
  let r := s.ringOf g
  let sid := s.outStream c.station c.outPort
  let s := match c.kind with
    | .rs => (List.range c.count).foldl (fun (s : State) (j : Nat) =>
        let f := lookD c.held (r.rank * c.count + j) []
        let f := firstPartial (s.accOf c) c.station c.step.toNat j f
        s.writePort c.station c.outPort (c.outBase + j) (restamp f sid ((c.outBase + j) % 2 ^ 32))) s
    | _ => (List.range (r.size * c.count)).foldl (fun (s : State) (i : Nat) =>
        s.writePort c.station c.outPort (c.outBase + i) (lookD c.held i [])) s
  s.withColl g fun c => { c with finished := true }

/-- A stage whose rings have sent and received everything ends, and the next begins; after the last the outputs are
written. -/
def State.nextStage (s : State) (g : Nat) : State × Bool :=
  match s.coll g with
  | some c =>
    if c.finished || c.failed || c.kind = .digest then (s, false) else
    let r := s.ringOf g
    match r.axes[c.stage]? with
    | some a =>
      let reduce := c.kind = .rs
      let done (minus : Bool) : Bool :=
        let n := (r.sendKeys reduce a c.count minus).length
        (c.ring minus).sent = n && (c.ring minus).recv = n
      if done false && done true then
        let held := if reduce then c.next else c.next.foldl (fun t p => put t p.1 p.2) c.held
        (s.withColl g fun c =>
          { c with stage := c.stage + 1, plus := {}, minus := {}, held := held, next := [] }, true)
      else (s, false)
    | none => (s.finishColl g c, false)
  | none => (s, false)

/-- A group's command goes as far as it can: frames are received, sent and stages ended until nothing moves. `fails`
concerns the first frame received. -/
def State.pumpColl (s : State) (g : Nat) (fails : RelayChecks) (fuel : Nat) : State :=
  match fuel with
  | 0 => s
  | fuel + 1 =>
    let (s, a) := s.recvRing g false fails
    let (s, b) := s.recvRing g true (if a then {} else fails)
    let f' : RelayChecks := if a || b then {} else fails
    let (s, c) := s.sendRing g false
    let (s, d) := s.sendRing g true
    let (s, e) := s.nextStage g
    if a || b || c || d || e then s.pumpColl g f' fuel else s

/-- A bound on the moves that a group's command has left. -/
def State.collWork (s : State) (g : Nat) : Nat :=
  match s.coll g with
  | some c => let r := s.ringOf g; 4 * (r.size * max 1 c.count + 1) * 3 * (r.gx + r.gy + r.gz) + 8
  | none => 0

/-- A group's command goes on. -/
def State.pumpGroup (s : State) (g : Nat) (fails : RelayChecks) : State := s.pumpColl g fails (s.collWork g)

/-! ### COL_RS and COL_AG (R336, R337, R339) -/

/-- The input frames of a collective command, read, verified and checked; none where one stops the command. -/
def State.collInputs (s : State) (st i n : Nat) (path : ReadPath) (ins : Instr) (ok : List Byte → Bool) :
    State × Option (List (List Byte)) :=
  let base := (s.st st).inPos i
  (List.range n).foldl (fun (p : State × Option (List (List Byte))) k =>
    match p.2 with
    | none => p
    | some l =>
      let r := p.1.readPort st i (base + k) (path.shift k)
      match r.frame with
      | none => (r.state.awaitReread st ins, none)
      | some f =>
        if !seqOk f (base + k) then (r.state.courseError eStreamOrder st, none)
        else if !ok f then (r.state.courseError eTileFormat st, none)
        else (r.state, some (l ++ [f]))) (s, some [])

/-- The group of a collective station has no command in progress (R339). -/
def State.collIdle (s : State) (g : Nat) : Bool := (s.coll g).isNone

/-- A collective command begins: its serial number, and its frames as held. -/
def State.startColl (s : State) (g : Nat) (c : Coll) (cf : Common) (adv : List Advance) : State :=
  let s := s.issue c.station [{ kind := .coll, adv := adv, signal := signalOf cf }]
  let s := s.withSt c.station fun r => { r with serial := r.serial + 1, opSince := none }
  let s := s.withRelay fun r => { r with cmds := put r.cmds g c }
  s.pumpGroup g {}

/-- The Piste pauses every issue of the Relay engine: p = 8 (R402). -/
def State.relayPaused (s : State) : Bool := lookD s.thermal.pause 0 0 = 8

/-- The work of COL_RS and COL_AG. -/
def State.colWork (s : State) (kind : CollKind) (st : Nat) (cf : Common) (i o count : Nat) (path : ReadPath) (ins : Instr) :
    State :=
  let p := s.paramsOf st
  let g := p.group
  let r := s.ringOf g
  if !s.collIdle g then s
  else if 2 ^ 32 ≤ r.size * count then s.courseError eTileFormat st else
  let n := if kind = .rs then r.size * count else count
  let acc := ((fmtOf p.accFmt)).getD .fp32
  let (s, fs) := s.collInputs st i n path ins fun f => kind != .rs || reducible acc f
  match fs with
  | none => s
  | some fs =>
    let x := s.st st
    let no := x.outPos o
    let base : Coll :=
      { kind := kind, station := st, serial := x.serial.toNat, step := x.stepNo, count := count, outPort := o, outBase := no
        worstRank := s.myRank }
    let held : Table (List Byte) := if kind = .rs then (List.range n).map fun k => (k, fs.getD k [])
      else (List.range n).map fun j =>
        let key := r.rank * count + j
        (key, ownerFrame (fs.getD j []) st (s.outStream st o) ((no + key) % 2 ^ 32) x.stepNo.toNat)
    let nin := n
    let nout := if kind = .rs then count else r.size * count
    let adv := if cf.adv then [{ out := false, port := i, count := nin }, { out := true, port := o, count := nout }] else []
    s.startColl g { base with held := held } cf adv

/-- The work of each command. -/
def State.colRs (s : State) (st : Nat) (cf : Common) (i o count : Nat) (path : ReadPath) : State :=
  s.colWork .rs st cf i o count path (.colRs st cf i o count path)
def State.colAg (s : State) (st : Nat) (cf : Common) (i o count : Nat) (path : ReadPath) : State :=
  s.colWork .ag st cf i o count path (.colAg st cf i o count path)

/-- COL_RS reduce-scatters M × COUNT frames over the instance (R336). -/
def execColRs (st : Nat) (cf : Common) (i o count : Nat) (path : ReadPath) (s : State) : Out :=
  .next (s.gate st cf isCollective fun s => if s.relayPaused then s else s.colRs st cf i o count path)

/-- COL_AG gathers the chunks of every member of the instance (R336). -/
def execColAg (st : Nat) (cf : Common) (i o count : Nat) (path : ReadPath) (s : State) : Out :=
  .next (s.gate st cf isCollective fun s => if s.relayPaused then s else s.colAg st cf i o count path)

/-! ### Digests (R349 to R351) -/

/-- The bytes of a tally (R350). -/
def tallyBytes (l : List TallyEntry) : List Byte :=
  padTo 64 (l.flatMap fun e => natLe 8 e.digest.toNat ++ natLe 4 e.count ++ natLe 4 e.rank)

/-- The entries of a tally's bytes. -/
def tallyOf (b : List Byte) : List TallyEntry :=
  ((chunksOf 16 (b.take 64)).map fun e =>
    ({ digest := BitVec.ofNat 64 (fld e 0 8), count := fld e 8 4, rank := fld e 12 4 } : TallyEntry)).filter (0 < ·.count)

/-- One entry merged into a tally: counts added and the lower rank for equal digests. -/
def mergeEntry (l : List TallyEntry) (e : TallyEntry) : List TallyEntry :=
  if l.any (·.digest = e.digest) then
    l.map fun x => if x.digest = e.digest then { x with count := x.count + e.count, rank := min x.rank e.rank } else x
  else l ++ [e]

/-- Tallies merged, the entries in order of falling count and rising rank; at most four are kept, and whether more were
found (R350). -/
def mergeTally (l : List TallyEntry) : List TallyEntry × Bool :=
  let m := sortBy (l.foldl mergeEntry []) fun a b => decide (b.count < a.count) || (decide (a.count = b.count) && decide (a.rank ≤ b.rank))
  (m.take 4, decide (4 < m.length))

/-- The member's digest of an object (R349), and the state after its reads. -/
def State.digestOf (s : State) (st obj : Nat) : State × Word :=
  let n := match s.objectOf obj with
    | some o => o.frames
    | none => 0
  let (s, hs) := (List.range n).foldl (fun (p : State × List (List Byte)) f =>
    let m := p.1.readMem (p.1.dieOf st) (p.1.unitOf st) (p.1.frameAddr obj f) 32
    (m.1, p.2 ++ [m.2.bytes])) (s, [])
  let lo := (crc32c (hs.flatMap fun h => sub h 0x1C 4)).toNat
  let hi := (crc32c hs.flatten).toNat
  (s, BitVec.ofNat 64 (lo + 2 ^ 32 * hi))

/-- A tally packet of a stage and step (R350). -/
def State.sendTally (s : State) (g : Nat) (c : Coll) (a step : Nat) (bytes : List Byte) : State :=
  let r := s.ringOf g
  let (lag, rank) := s.worstOf c
  s.sendOp c.station (.relay (ringKey g false)) (2 ^ 32)
    { opc := 0x09, dst := s.ringNext r a false, src := 0, sliceId := 0, windowId := BitVec.ofNat 16 g
      offset := BitVec.ofNat 48 (2 ^ 17), payload := bytes ++ trailer c.serial 0x62 (stageByte a false) step 0 lag rank }

/-- A digest's tallies go on (R343, R350): the expected one of the stage is forwarded and gathered; with all of them the
stage's tallies are merged and the next stage begins. -/
def State.pumpTally (s : State) (g fuel : Nat) : State :=
  match fuel with
  | 0 => s
  | fuel + 1 =>
    match s.coll g with
    | some c =>
      let r := s.ringOf g
      match r.axes[c.stage]? with
      | some a =>
        let n := c.plus.recv
        if c.kind != .digest || c.finished || (s.st c.station).stopped then s
        else if n + 1 = r.g a then
          if (r.axes[c.stage + 1]?).isSome ∧ 32768 ≤ s.inFlight then s else
          let (t, o) := mergeTally (c.tally ++ c.gathered)
          let c' : Coll := { c with tally := t, gathered := [], overflow := c.overflow || o, stage := c.stage + 1, plus := {} }
          let s := s.withColl g fun _ => c'
          let s := match r.axes[c.stage + 1]? with
            | some b => s.sendTally g c' b 1 (tallyBytes t)
            | none => s.withColl g fun c => { c with finished := true }
          s.pumpTally g fuel
        else
          match s.relay.tallies.find? fun m => m.group = g && m.serial = c.serial && m.stage = stageByte a false && m.step = n + 1 with
          | some m =>
            if n + 2 < r.g a ∧ 32768 ≤ s.inFlight then s else
            let s := s.withRelay fun q => { q with tallies := q.tallies.filter (· != m) }
            let s := s.withColl g fun c => { c with plus := { c.plus with recv := n + 1 }, gathered := c.gathered ++ tallyOf m.bytes }
            let s := if n + 2 < r.g a then s.sendTally g c a (n + 2) m.bytes else s
            s.pumpTally g fuel
          | none => s
      | none => s.withColl g fun c => { c with finished := true }
    | none => s

/-- The work of COL_DIGEST (R349, R350). -/
def State.colDigest (s : State) (st : Nat) (cf : Common) (obj : Nat) : State :=
  let g := (s.paramsOf st).group
  let r := s.ringOf g
  if !s.collIdle g then s
  else if (r.axes[0]?).isSome ∧ 32768 ≤ s.inFlight then s.noteWait st s.inFlight true else
  let (s, d) := s.digestOf st obj
  let x := s.st st
  let t : List TallyEntry := [{ digest := d, count := 1, rank := r.rank }]
  let c : Coll :=
    { kind := .digest, station := st, serial := x.serial.toNat, step := x.stepNo, count := 0, object := obj, tally := t, own := d
      worstRank := s.myRank }
  let s := s.startColl g c cf []
  let s := match r.axes[0]? with
    | some a => s.sendTally g c a 1 (tallyBytes t)
    | none => s
  s.pumpTally g (3 * (r.gx + r.gy + r.gz) + 8)

/-- COL_DIGEST (R349). -/
def execColDigest (st : Nat) (cf : Common) (object : Nat) (s : State) : Out :=
  .next (s.gate st cf isCollective fun s => if s.relayPaused then s else s.colDigest st cf object)

/-! ### Waiting for an operation (R303) -/

/-- The groups' commands go on. -/
def State.pumpRings (s : State) : State :=
  s.relay.cmds.foldl (fun s p =>
    if p.2.kind = .digest then
      let r := s.ringOf p.1
      s.pumpTally p.1 (3 * (r.gx + r.gy + r.gz) + 8)
    else s.pumpGroup p.1 {}) s

/-- An operation has ended since a state: what waits goes on, the groups too where too few operations were free for a relay
frame (R126, R303). -/
def State.opEnded (s before : State) : State :=
  let s := s.pumpAll
  if 32767 ≤ before.inFlight then s.pumpRings else s

/-! ### The end of a command (R339, R351 to R353) -/

/-- A command's last packet has been acknowledged. -/
def State.collAcked (s : State) (c : Coll) : Bool :=
  !s.fabric.flights.any fun f => f.station = c.station && (match f.kind with
    | .relay _ => true
    | _ => false)

/-- The laggard registers and reports of a command that ends (R352, R353). -/
def State.lagReport (s : State) (g : Nat) (c : Coll) : State :=
  let (lag, rank) := s.worstOf c
  let limit := 1000 * s.relay.lagAlertUs.toNat
  let s := s.withRelay fun q => { q with regs := upd q.regs g {} fun x =>
    { x with ownLag := BitVec.ofNat 32 c.lag, worstLag := BitVec.ofNat 32 lag, worstRank := BitVec.ofNat 18 rank
             serial := BitVec.ofNat 32 c.serial } }
  let s := if limit ≤ c.lag then
      (s.bump (oRly 0x1018)).record 0x60 0 (item 1 g ++ item 4 c.serial ++ item 4 c.lag ++ item 4 lag ++ item 3 rank)
    else s
  if limit ≤ lag ∧ (s.ringOf g).rank = 0 then
    s.report 0x47 (item 1 g ++ item 4 c.serial ++ item 4 lag ++ item 3 rank) true
  else s

/-- The digest registers, event and report of a COL_DIGEST that ends (R351, R376). -/
def State.digestReport (s : State) (g : Nat) (c : Coll) : State :=
  let top := (c.tally.head?.map (·.digest)).getD 0
  let odd := (c.tally.filter fun e => e.digest != top).foldl (fun m e => min m e.rank) 0x3FFFF
  let agree := ((c.tally.find? fun e => e.digest = c.own).map (·.count)).getD 0
  let s := s.withRelay fun q => { q with regs := upd q.regs g {} fun x =>
    { x with digest := c.own, agree := BitVec.ofNat 32 agree, distinct := BitVec.ofNat 3 c.tally.length
             overflow := c.overflow, oddRank := BitVec.ofNat 18 odd } }
  if c.tally.length ≤ 1 then s.withRelay fun q => { q with agreed := put q.agreed g c.step }
  else
    let body := item 1 g ++ item 2 c.object ++ item 4 c.serial
    let s := (s.bump (oRly 0x1010)).record 0x61 0 (body ++ tallyBytes c.tally ++ item 1 (b2n c.overflow))
    if (s.ringOf g).rank = 0 then s.report 0x46 (body ++ item 1 (b2n c.overflow) ++ tallyBytes c.tally) true else s

/-- A collective command ends: its outputs are stored and its packets acknowledged, or its tally is final (R339). -/
def execCollectiveComplete (st : Nat) (s : State) : Out :=
  let g := (s.paramsOf st).group
  match s.coll g with
  | some c =>
    if c.station = st ∧ c.finished = true ∧ s.collAcked c = true then
      let s := s.lagReport g c
      let s := if c.kind = .digest then s.digestReport g c else s
      let s := s.withRelay fun r => { r with cmds := del r.cmds g }
      .next ((s.wrapBy (oRly 0x1100) 1).completeKind st .coll)
    else .next s
  | none => .next s

/-! ### Packets (R345, R347, R350) -/

/-- A RELAY packet is received into its staging slot; a complete frame is verified, then combined or forwarded as far as
the group's command has come (R344). `checks` says what the checks of the first frame taken find (R58, R354). -/
def execRelay (p : Packet) (checks : RelayChecks) (s : State) : Out :=
  let s := s.takeLocal p
  if s.job.isNone || !s.dev.bound then .next s else
  let g := p.windowId.toNat % 16
  let off := p.offset.toNat
  let slot := off % 65536
  let old := (s.relay.staged.find? fun x => x.src = p.src && x.group = g && x.slot = slot).getD { src := p.src, group := g, slot := slot }
  let new := if bit off 16 then { old with part1 := some p } else { old with part0 := some p }
  let minus := decide (s.slotBase g + s.slotsOf g ≤ slot)
  let new := if new.part0.isSome && new.part1.isSome then
    { new with arrived := s.pt, blocked := s.noSlotTicks (ringKey g minus) } else new
  let s := s.withRelay fun r => { r with staged := r.staged.filter (· != old) ++ [new] }
  if s.relayPaused then .next s else .next (s.pumpGroup g checks)

/-- A tally is acknowledged on receipt and merged (R350). -/
def execRelayTally (p : Packet) (s : State) : Out :=
  let s := s.takeLocal p
  if s.job.isNone || !s.dev.bound then .next s else
  let g := p.windowId.toNat % 16
  let tr := p.payload.drop 64
  let m : TallyMsg := { group := g, serial := fld tr 0 4, stage := fld tr 5 1, step := fld tr 6 2, bytes := p.payload.take 64 }
  let s := s.inject { opc := 0x85, dst := p.src, src := 0, sliceId := 0, windowId := p.windowId, offset := p.offset, tag := p.tag }
  let s := s.withRelay fun r => { r with tallies := r.tallies ++ [m] }
  let s := s.withColl g fun c =>
    let w := worsePair (c.worstLag, c.worstRank) (fld tr 0xC 4, fld tr 0x10 4)
    { c with worstLag := w.1, worstRank := w.2 }
  let r := s.ringOf g
  .next (s.pumpTally g (3 * (r.gx + r.gy + r.gz) + 8))

/-- A RELAY_ACK frees the sender's slot and ends the operation (R346, R347). -/
def execRelayAck (p : Packet) (s : State) : Out :=
  let s := s.takeLocal p
  match s.flightFor p with
  | some f => match f.kind with
    | .relay k =>
      let t := (s.endFlight f).markSlots (k / 2) (k % 2 = 1)
      .next ((t.pumpGroup (k / 2) {}).opEnded s)
    | _ => .next s
  | none => .next s

end Sys2Proof.Machine
end

