-- ==== Sys2Proof/Machine/Jobs.lean ====
section
/-!
DEFINITION. Jobs and the placer's events (R151, R160 to R166, R172, R360, R376, R380, R381, R447 to R450): the manifest,
job start, START, the moves of Glide stations, confirmations, the heartbeat.
-/
namespace Sys2Proof.Machine

/-- What a request of the management plane does: the state, and the STATUS and body of its response (R443, R446). -/
abbrev Answer := State × Nat × List Byte

def stOk : Nat := 0x00
def stBusy : Nat := 0x01
def stState : Nat := 0x02
def stFormat : Nat := 0x03
def stAccess : Nat := 0x05
def stAuth : Nat := 0x06
def stNonce : Nat := 0x07
def stRefused : Nat := 0x08
def stSize : Nat := 0x09

/-! ### The manifest (R447, R448) -/

/-- The group table of a manifest (R333). -/
def groupsOf (b : List Byte) : List Group :=
  (List.range 16).map fun g => { axes := fld b (0x40 + 8 * g) 1, weight := fld b (0x41 + 8 * g) 1 }

/-- Where the RESTORE entries of a manifest begin. -/
def restoreAt (b : List Byte) : Nat := 0xC0 + 8 * ((fld b 0x20 8 + 7) / 8)

/-- The RESTORE entries of a manifest. -/
def restoresOf (b : List Byte) : List RestoreEntry :=
  (List.range (fld b 0x28 4)).map fun i =>
    { object := fld b (restoreAt b + 8 * i) 2, source := fld b (restoreAt b + 8 * i + 4) 4 % 2 ^ 18 }

/-- The layout of a manifest, with its reserved fields zero (R333, R447). -/
def manifestOk (jobId : BitVec 64) (b : List Byte) : Bool :=
  decide (0xC0 ≤ b.length) && fld b 0 4 = 0x4D4E4654 && fld b 4 2 = 1 && decide (fld b 6 2 < 2) &&
  fld b 8 8 = jobId.toNat && decide (fld b 0x1C 1 ≤ 16) && allZero (sub b 0x1D 3) && decide (fld b 0x28 4 ≤ 16384) &&
  allZero (sub b 0x2C 20) &&
  (List.range 16).all (fun g =>
    decide (fld b (0x40 + 8 * g) 1 < 8) && decide (fld b (0x41 + 8 * g) 1 < 16) && allZero (sub b (0x42 + 8 * g) 6)) &&
  b.length = restoreAt b + 8 * fld b 0x28 4 &&
  (List.range (fld b 0x28 4)).all fun i =>
    allZero (sub b (restoreAt b + 8 * i + 2) 2) && decide (fld b (restoreAt b + 8 * i + 4) 4 < 2 ^ 18)

/-- The members of a slice. -/
def SliceTable.members (t : SliceTable) : Nat := t.shape.1 * t.shape.2.1 * t.shape.2.2

/-- A RESTORE entry names a REPLICATED object of the Course and a rank within the slice (R447). -/
def restoreOk (c : Course) (t : SliceTable) (e : RestoreEntry) : Bool :=
  c.objects.any (fun o => o.id = e.object && o.replicated) && decide (e.source < t.members)

/-- The placement and service list that a re-formation compares with (R380): those of the last job that was placed. -/
def State.lastPlaced (s : State) : Placement × List Nat :=
  match s.job with
  | some j =>
    match j.phase with
    | .admitted | .refused => (j.prevPlacement, j.prevService)
    | _ => (j.original, j.serviceList)
  | none => ({}, [])

/-- MANIFEST (R445, R447, R448, R453): refused in the wrong state or by I3C, or malformed, or with the Course error code of
admission; else the job waits to be placed. A manifest that comes while another waits to be placed is BUSY. -/
def State.manifest (s : State) (m : Msg) : Answer :=
  match s.fabric.table with
  | none => (s, stState, [])
  | some t =>
    if m.route = .i3c ∨ (s.dev.mode ≠ .ready ∧ s.dev.mode ≠ .watch) ∨ s.dev.bound = true then (s, stState, []) else
    if s.job.any (fun j => j.phase = .admitted) then (s, stBusy, []) else
    if !manifestOk m.jobId m.body then (s, stFormat, []) else
    let b := m.body
    let groups := groupsOf b
    match admission (sub b 0xC0 (fld b 0x20 8)) groups (fld b 0x1C 1) with
    | .error e => (s, stRefused, item 1 e)
    | .ok c =>
      if !(restoresOf b).all (restoreOk c t) then (s, stRefused, item 1 eDescriptor) else
      let (pl, svc) := s.lastPlaced
      let j : Job :=
        { jobId := m.jobId, seed := BitVec.ofNat 64 (fld b 0x10 8), startStep := BitVec.ofNat 32 (fld b 0x18 4)
          lodgeSp := fld b 0x1C 1, reform := bit (fld b 6 2) 0, groups := groups, restore := restoresOf b, course := c
          replyTo := m.route, prevPlacement := pl, prevService := svc }
      ({ s with job := some j }, stOk, [])

/-- START (R445, R448): the stations of the bound job issue their first commands. -/
def State.startJob (s : State) (m : Msg) : Answer :=
  match s.job with
  | some j =>
    if m.route = .i3c ∨ s.dev.bound = false ∨ j.jobId ≠ m.jobId then (s, stState, []) else
    if !m.body.isEmpty then (s, stSize, []) else
    (s.withJob fun j => { j with phase := if j.phase = .bound then .started else j.phase }, stOk, [])
  | none => (s, stState, [])

/-! ### Job start (R154, R165, R219, R380, R381, R434, R448) -/

/-- The capacity map is not what the device has now: a job start reads it afresh (R166, R464). -/
def State.capOld (s : State) : Bool :=
  s.cap.ranks != (clusterSites.map fun c => (c, s.ranks c)) || s.cap.stackSet != BitVec.ofNat 12 (maskOf s.stacksIn) ||
  s.cap.engines != BitVec.ofNat 4 (maskOf s.enginesIn) || s.cap.lodge != s.lodgeIn

/-- An on-demand test ends as the device is admitted to a slice (R434): ABANDONED and event 0x87. -/
def State.abandonTest (s : State) : State :=
  if s.test.running then
    let s := s.withTest fun t => { t with running := false, abandoned := true }
    s.record 0x87 0xFF (item 1 s.test.target.toNat ++ [Config.itemCode 0x87 1 1] ++ item 4 0)
  else s

/-- The Lodge at job start (R219, R224): its share fixed, its cache portion emptied, with what is still on its way to it
marked, and its scratchpads as never written. -/
def State.setLodge (s : State) (k : Nat) : State :=
  s.withStores fun c =>
    { c with lodgeSp := k, cache := [], fills := c.fills.map fun f => { f with marked := true }
             mem := c.mem.erase lodgeBase (lodgeBase + 2 ^ 30) }

/-- A station's contexts at job start (R44, R63, R382): step number and semaphores. -/
def stationAt (j : Job) (d : StationDesc) : StationRt :=
  { stepNo := j.startStep
    sems := d.semInit.foldl (fun l p => setGrow l p.1 0 p.2) (List.replicate d.nSem 0) }

/-- The contents of an object at job start (R49, R50): its initial frames, or zero frames. -/
def objectFrames (c : Course) (o : ObjectDesc) : List (List Byte) :=
  (List.range o.frames).map fun f => match o.init with
    | some a => sub c.image (a + frameBytes * f) frameBytes
    | none => zeroFrame

/-- An object laid out and filled. -/
def State.fillObject (s : State) (o : ObjectDesc) : State :=
  let fs := objectFrames s.course o
  (List.range fs.length).foldl (fun (s : State) f => s.fillMem (s.frameAddr o.id f) (fs.getD f [])) s

/-- The objects of a Course as a job start leaves them. `keep` leaves those at level 3 in place (R380). -/
def State.fillObjects (s : State) (keep : Bool) : State :=
  s.course.objects.foldl (fun (s : State) o => if keep && o.level = 3 then s else s.fillObject o) s

/-- The stations that a placement puts on an engine, ascending. -/
def Placement.onEngine (p : Placement) (n : Nat) : List Nat :=
  (p.stations.filter fun e => e.2.place = 1 && e.2.unit = n).map (·.1)

/-- The engines at job start (R161, R173): each holds its stations, and is resident with a Class D one. -/
def State.bindEngines (s : State) : State :=
  (List.range 4).foldl (fun (s : State) n =>
    let l := s.placed.onEngine n
    if l.isEmpty && (s.engine n).stations.isEmpty && (s.engine n).moved.isEmpty then s else
    s.withEngine n fun e =>
      { e with stations := l, moved := [], slots := [], applied := none, shadows := [], shadowRecs := []
               resident := l.any fun i => (s.paramsOf i).classD }) s

/-- Stacks that a failed margining or a row without spares takes out of service from the next job start (R231, R235). -/
def State.leaveStacks (s : State) : State :=
  s.withStores fun c => { c with stackSet := c.stackSet.map fun k => (k.1, if k.2.state = 3 then { k.2 with state := 4 } else k.2) }

/-- Slices with a defect found in a field test go out of service at the next job start (R226). -/
def State.leaveSlices (s : State) : State :=
  s.withStores fun c => { c with lodgeOos := c.lodgeOos ||| c.lodgeLeaving, lodgeLeaving := 0 }

/-- The rotations and tests of cells stand back for a job, whose placement binds the slot maps afresh (R17, log 33). -/
def State.dropTests (s : State) : State :=
  s.withCells fun c => { c with dueQueue := [], clusters := c.clusters.map fun k => (k.1, { k.2 with rotation := none }) }

/-- The placement of a job is taken (R154, R210). -/
def State.takePlacement (s : State) (p : Placement) : State :=
  s.withJob fun j =>
    { j with placement := p, original := p, serviceList := maskBits 12 s.cap.stackSet.toNat, phase := .bound }

/-- The stations of the job start afresh (R44, R382). -/
def State.openStations (s : State) (j : Job) : State :=
  s.withCells fun c =>
    { c with stations := j.course.stations.map (fun d => (d.id, stationAt j d)), signals := [], semFiles := [], arrays := [] }

/-- The windows of the job open (R67, R448), and the restore window where the manifest asks for a restore (R381). -/
def State.openWindows (s : State) (j : Job) : State :=
  { s with
    windows := j.course.windowIds.foldl (fun (t : Table Window) (w : Nat × Nat) => put t w.1 { station := w.2 }) []
    restore := if j.restore.isEmpty then none else some { todo := j.restore } }

/-- READY becomes RUN; WATCH stays (R448). -/
def State.toRun (s : State) : State :=
  match s.dev.mode with
  | .ready => s.goto .run
  | _ => s

/-- The device becomes a member of the slice (R32, R448): RUN from READY, and BOUND. -/
def State.becomeMember (s : State) : State :=
  let s := s.toRun
  if s.dev.mode = .run ∨ s.dev.mode = .watch then s.withDev fun d => { d with bound := true } else s

/-- A job as placed is bound (R448 step 4): stations, engines, objects, windows and restore, BOUND, and RUN from READY. -/
def State.bindJob (s : State) (j : Job) (p : Placement) : State :=
  let keep := j.reform && p == j.prevPlacement && maskBits 12 s.cap.stackSet.toNat == j.prevService
  let s := (s.takePlacement p).becomeMember
  let s := (s.openStations j).bindEngines
  let s := (s.fillObjects keep).openWindows j
  let s := s.withRelay fun r => { r with agreed := [] }
  s.withMgmt fun m => { m with hbLast := s.pt }

/-- The placer takes confirmations before any other event, and then departures and returns of engines (R165). -/
def State.placerFree (s : State) : Bool := s.cells.placeQueue.isEmpty || s.cells.confirmation.isSome
def State.placerIdle (s : State) : Bool := s.placerFree && s.glide.leaving.isEmpty && s.glide.returning.isEmpty

/-- STATUS of a job start below the capacity floor (R172, R369): cells, or stacks; 0x0001 too where it is neither (DESIGN CHOICE,
log 123). -/
def State.floorStatus (s : State) : Nat := if 1920 ≤ s.cellsActive ∧ s.stacksIn.length < 11 then stStacks else stCells

/-- The job that was admitted is placed, and bound or refused; either way its report goes (R154, R160, R172, R448). Events of
earlier rows come first (R165). -/
def execPlacementJobStart (s : State) : Out :=
  match s.job with
  | some j =>
    if j.phase = .admitted ∧ (s.dev.mode = .ready ∨ s.dev.mode = .watch) ∧ s.dev.bound = false ∧ s.placerIdle = true then
      let s := (s.leaveStacks.leaveSlices.dropTests.bindClusters).abandonTest
      let s := if s.capOld then s.writeMapNow else s
      if s.belowFloor then
        let s := s.withJob fun j => { j with phase := .refused }
        .next (s.sendPlacement 0 s.floorStatus []).checkFloor
      else
      let s := s.setLodge j.lodgeSp
      match PlaceIn.place { course := j.course, lodgeSp := j.lodgeSp, map := s.cap } with
      | .error e =>
        let s := s.withJob fun j => { j with phase := .refused }
        .next (s.sendPlacement 0 e [])
      | .ok p =>
        let s := s.bindJob j p.pl
        .next (s.sendPlacement 0 0 s.allEntries)
    else .next s
  | none => .next s

/-! ### Glide engines that leave and return (R161 to R164) -/

/-- The user ticket of an engine that leaves service becomes the ticket of its recalibration or retrack (R387). -/
def State.keepTicket (s : State) (n : Nat) : State :=
  if s.holds (.glideUser n) then
    s.withPower fun p => { p with held := p.held.map fun t => if t.cls = .glideUser n then { t with cls := .glideCal n } else t }
  else s.requestCal n

/-- The place of a station, as changed. -/
def State.replace (s : State) (st : Nat) (f : StationPlace → StationPlace) : State :=
  s.withJob fun j => { j with placement := { j.placement with stations := upd j.placement.stations st {} f } }

/-- A station of an engine that leaves service moves to its host cell, which reloads W (R163). -/
def State.toHost (s : State) (st : Nat) : State :=
  (s.replace st hostPlace).rerunOnCell st

/-- The stations of the engine that leaves service move, and its recalibration or retrack begins (R163, R195). -/
def execPlacementGlideLeave (engine : Nat) (s : State) : Out :=
  if s.glide.leaving.head? = some engine ∧ s.placerFree = true ∧ (s.engine engine).state = 2 then
    let sts := (s.engine engine).stations
    let s := s.withGlide fun g => { g with leaving := g.leaving.drop 1 }
    let s := sts.foldl State.toHost s
    let s := s.withEngine engine fun e =>
      { e with stations := [], moved := e.moved ++ sts, slots := [], applied := none, state := if e.fullRecal then 3 else 4 }
    let s := s.keepTicket engine
    if s.dev.bound then .next (s.sendPlacement 2 0 (sts.map s.entryFor)) else .next s
  else .next s

/-- The placement in progress that an event of a running job starts from: what each engine holds. -/
def State.enginesTaken (s : State) : Placing :=
  { pl := s.placed, engines := (List.range 4).map fun n => (n, (s.engine n).stations) }

/-- The phase map of the station's last GL_LOAD is read for an engine (R164), and the cause of a refusal: 0 where it is loaded, or
where no GL_LOAD has been issued; none where a frame does not verify, and the station stays where it is (log 34). -/
def State.loadBack (s : State) (n st : Nat) : State × Option Nat :=
  match (s.st st).glLoad with
  | none => (s, some 0)
  | some (w, map) =>
    let p := s.paramsOf st
    let (s, ws) := s.readFrames st (s.objectAddrs w (tiles64 p.rows * tiles64 p.cols)) .clean
    let (s, ms) := s.readFrames st (s.objectAddrs map 65) .clean
    match ws, ms with
    | some ws, some ms =>
      match wFmt (ws.headD []) with
      | some fm =>
        let cause := mapCause ms ws p.rows p.cols
        if cause = 0 then
          let g := decodeW fm ws p.rows p.cols (((mapRmax (mapBytes ms)).finite).getD 0)
          ((s.withSt st fun r => { r with glW := some g }).storeMap n st (phaseMap (mapBytes ms)), some 0)
        else (s, some cause)
      | none => (s, none)
    | _, _ => (s, none)

/-- The stations that were moved to their host cells and may return, in the order of R161 (R164). -/
def State.movedStations (s : State) : List Nat :=
  let x : PlaceIn := { course := s.course, lodgeSp := 0, map := s.cap }
  let moved := s.glide.engines.flatMap fun e => e.2.moved
  x.glideOrder.filter fun i => moved.contains i && !s.glide.barred.contains i

/-- The engine among some that accepts a station under R161: of highest predicted ENOB, the lowest-numbered among equals. -/
def State.engineBack (s : State) (ns : List Nat) (st : Nat) : Option Nat :=
  let x : PlaceIn := { course := s.course, lodgeSp := 0, map := s.cap }
  let k := s.paramsOf st
  let ok := ns.filter fun n => x.engineRoom s.enginesTaken n k && decide (k.enobFloor ≤ x.predEnob n k)
  match ok with
  | [] => none
  | n :: r => some (r.foldl (fun (m : Nat) j => if x.predEnob m k < x.predEnob j k then j else m) n)

/-- A station returns to the engine that accepts it (R164). One whose map the engine refuses as it loads it stays on its host
cell until the next job start (R179). -/
def State.returnStation (s : State) (ns : List Nat) (st : Nat) : State × Bool :=
  match s.engineBack ns st with
  | none => (s, false)
  | some n =>
    match s.loadBack n st with
    | (s, none) => (s, false)
    | (s, some cause) =>
      if cause ≠ 0 then (s.refuseMap n st cause, false) else
      let x : PlaceIn := { course := s.course, lodgeSp := 0, map := s.cap }
      let k := s.paramsOf st
      let s := s.replace st fun e => { e with place := 1, unit := n, predEnob := x.predEnob n k }
      let s := s.withGlide fun g => { g with engines := g.engines.map fun e => (e.1, { e.2 with moved := e.2.moved.erase st }) }
      (s.withEngine n fun e => { e with stations := e.stations ++ [st], resident := k.classD }, true)

/-- The stations that some engines accept return to them, in the order of R161; the answer lists them. -/
def State.returnTo (s : State) (ns : List Nat) : State × List Nat :=
  s.movedStations.foldl (fun (a : State × List Nat) st =>
    let (t, ok) := a.1.returnStation ns st
    (t, if ok then a.2 ++ [st] else a.2)) (s, [])

/-- An engine returns to service (R164). The placer acts once a generation of the capacity map lists it (R166). -/
def execPlacementGlideReturn (engine : Nat) (s : State) : Out :=
  if s.glide.returning.head? = some engine ∧ s.placerFree = true ∧ s.glide.leaving.isEmpty = true then
    if (s.engine engine).state ≠ 1 ∨ s.dev.bound = false then
      .next (s.withGlide fun g => { g with returning := g.returning.drop 1 })
    else if s.cap.engines.getLsbD engine then
      let s := s.withGlide fun g => { g with returning := g.returning.drop 1 }
      let (s, l) := s.returnTo [engine]
      .next (s.sendPlacement 3 0 (l.map s.entryFor))
    else .next s
  else .next s

/-! ### Confirmations (R101, R166, R360) -/

/-- The slot that a cluster would give a confirmation: its spare, or the freed slot that a rotation tests (R166). -/
def Cluster.spareNow (c : Cluster) : Option Nat :=
  match c.spare, c.rotation with
  | some x, _ => some x
  | none, some r => if r.phase = .testing ∧ c.slots.contains r.due = false then some r.due else none
  | none, none => none

/-- The physical cell that confirms a failure on a cluster: the cluster's own spare, else that of the nearest cluster, the
lowest-numbered among equals (R166). -/
def State.secondCell (s : State) (c : Nat) : Option Nat :=
  let with_ := clusterSites.filter fun k => (s.cluster k).spareNow.isSome
  match leastBy (fun k => if k = c then 0 else 1 + distClass k c) with_ with
  | some k => (s.cluster k).spareNow.map (pIndex k)
  | none => none

/-- A test on a slot stands aside for a confirmation, or is taken up again after it (R166). -/
def State.setTest (s : State) (p : Nat) (from_ to_ : RotPhase) : State :=
  let change (r : Rotation) : Rotation := if r.phase == from_ && r.due == p % 17 then { r with phase := to_ } else r
  s.withCluster (p / 17) fun c => { c with rotation := c.rotation.map change }

/-- HLT_VERDICT and event 0x11 (R360): RESULT, both physical cells, and the journal index of the pattern, all ones for none
(log 35). -/
def State.verdict (s : State) (result first : Nat) (second : Option Nat) (jidx : BitVec 32) : State :=
  let s := s.withCells fun c => { c with verdict := result, verdictFirst := first, verdictSecond := second.getD 0 }
  s.record 0x11 0xFF (item 1 result ++ item 2 first ++ item 2 (second.getD 0xFFFF) ++ item 4 jidx.toNat)

/-- The placer's choice for the confirmation request that waits first (R166), or its end with RESULT 3 (R360). -/
def execPlacementConfirmation (s : State) : Out :=
  match s.cells.placeQueue, s.cells.confirmation with
  | st :: rest, none =>
    match (s.st st).failed, s.cellOf st with
    | some (_, f), some cell =>
      let p := s.physical cell
      let s := s.withCells fun c => { c with placeQueue := rest }
      match s.secondCell (cell / 16) with
      | some q =>
        let s := s.setTest q .testing .suspended
        let s := s.withCells fun c => { c with confirmation := some { station := st, firstCell := p, secondCell := some q, fail := f } }
        .next (s.sendPlacement 4 0 [])
      | none =>
        let s := s.withSt st fun r => { r with stopped := true, confirming := false }
        let s := ((s.verdict 3 p none 0xFFFFFFFF).raiseAndDrain 0x11).markConcern p 3
        let s := s.withPCell p fun c => { c with testDue := true }
        .next (s.sendPlacement 4 0 [])
    | _, _ => .next (s.withCells fun c => { c with placeQueue := rest })
  | _, _ => .next s

/-- The confirmation run ends with its verdict (R360, R363, R373). `check` is what a failing run showed. -/
def execConfirmationComplete (run : ConfirmRun) (check : ArrayFail) (s : State) : Out :=
  match s.cells.confirmation with
  | some k =>
    match k.secondCell with
    | some q =>
      let s := match run with
        | .passes => s
        | .failsThenPasses => s.checkEvent q check 0
        | .failsTwice => (s.checkEvent q check 0).checkEvent q check 1
      let (s, jidx) := s.keepPattern (s.failPattern k.station k.fail k.firstCell)
      let s := s.withCells fun c => { c with confirmation := none }
      let s := (s.setTest q .suspended .testing).withSt k.station fun r => { r with stopped := true, confirming := false }
      match run with
      | .passes => .next ((s.verdict 1 k.firstCell (some q) jidx).orderDrain drSilent)
      | _ => .next ((s.verdict 2 k.firstCell (some q) jidx).raiseAndDrain 0x11)
    | none => .next s
  | none => .next s

/-! ### The heartbeat (R376, R450) -/

/-- The body of a heartbeat. -/
def State.heartbeatBody (s : State) : List Byte :=
  let start := (s.job.map (·.startStep)).getD 0
  item 8 s.mgtState.toNat ++ item 4 s.nvm.bootCount.toNat ++ item 8 s.pt.toNat ++
  (List.range 16).flatMap fun g => item 4 ((lookD s.relay.agreed g (start - 1)).toNat)

/-- HEARTBEAT goes every HB_MS while BOUND (R376, R450). -/
def execHeartbeat (s : State) : Out :=
  if s.dev.bound = true ∧ ticksMs s.mgmt.hbMs.toNat ≤ s.since s.mgmt.hbLast then
    let s := s.withMgmt fun m => { m with hbLast := s.pt }
    .next (s.report 0x40 s.heartbeatBody false)
  else .next s

end Sys2Proof.Machine
end

