-- ==== Sys2Proof/Machine/Rotation.lean ====
section
/-!
DEFINITION. Cell rotation and field tests (R168 to R171, R366, R367, R372, R433), and the bucket's leak and release (R364,
R365).
-/
namespace Sys2Proof.Machine

/-! ### The schedule (R168) -/

/-- T in ticks. -/
def State.interval (s : State) : Nat := ticksS s.cells.intervalS.toNat

/-- Cluster c is due now: PT = T × (n + c/128) (R168). -/
def State.clusterDue (s : State) (c : Nat) : Bool :=
  let t := s.interval
  s.cells.rotEn && decide (0 < t) && decide (s.pt.toNat % t = t / 128 * c) && (s.cluster c).lastDue != some s.pt

/-- The clusters of a compute die. -/
def clustersOf (d : Nat) : List Nat := (List.range 8).map (8 * d + ·)

/-- Some cluster of cluster c's die rotates or is tested (R171). -/
def State.dieRotates (s : State) (c : Nat) : Bool := (clustersOf (c / 8)).any fun k => (s.cluster k).rotation.isSome

/-- The full field test still has slots of a cluster to test (R171). -/
def State.fullTestWants (s : State) (c : Nat) : Bool :=
  match s.cells.fullTest with
  | some l => l.any fun p => decide (p / 17 = c) && !(s.pcell p).faulty
  | none => false

/-- A cluster's turn has come: by the schedule, or in a full field test with no other of its die at work (R168, R171). -/
def State.turnOf (s : State) (c : Nat) : Bool :=
  if s.cells.fullTest.isSome then s.fullTestWants c && !s.dieRotates c else s.clusterDue c

/-- A cell is to be tested ahead of its time (R361, R366, R367). -/
def State.wanted (s : State) (p : Nat) : Bool := (s.pcell p).concern || (s.pcell p).testDue

/-- The first of two slots of a cluster by their last tests: a cell of concern first, then the oldest test (R168, R366). -/
def State.older (s : State) (c a b : Nat) : Bool :=
  let key (i : Nat) : Nat × Nat := match (s.pcell (pIndex c i)).tested with
    | some (boot, pt) => (boot + 1, pt)
    | none => (0, 0)
  let wa := s.wanted (pIndex c a)
  let wb := s.wanted (pIndex c b)
  if wa != wb then wa
  else decide ((key a).1 < (key b).1) || decide ((key a).1 = (key b).1) && decide ((key a).2 < (key b).2)

/-- The slot that is due among some of a cluster: the lowest among equals (R168). -/
def State.dueSlot (s : State) (c : Nat) (slots : List Nat) : Option Nat :=
  match sortBy slots (fun a b => decide (a ≤ b)) with
  | [] => none
  | x :: r => some (r.foldl (fun (m : Nat) i => if s.older c i m then i else m) x)

/-! ### Rotation (R169, R170) -/

/-- A rotation waits for the placer: another event is before it, of an earlier row or of its own (R165). -/
def State.rotationWaits (s : State) (cluster : Nat) : Bool :=
  !s.placerIdle || (s.cells.dueQueue.head?.any fun c => c != cluster)

/-- A rotation begins: the placer picks the due cell, and orders its contexts to stop at a boundary (R168, R169). -/
def State.beginRotation (s : State) (cluster : Nat) : State :=
  let s := s.withCells fun c => { c with dueQueue := c.dueQueue.filter (· != cluster) }
  match s.dueSlot cluster (s.cluster cluster).slots with
  | some d =>
    s.withCluster cluster fun k => { k with rotation := some { due := d, phase := .waiting, since := s.pt }, lastDue := some s.pt }
  | none => s

/-- A rotation falls due, waits for the events before it, or is retried 1 s after its last attempt (R165, R168, R169). -/
def execRotationDue (cluster : Nat) (s : State) : Out :=
  let c := s.cluster cluster
  let may := s.dev.bound && (s.dev.mode == .run || s.dev.mode == .watch) && decide (cluster < 128)
  match c.rotation with
  | none =>
    let queued := s.cells.dueQueue.contains cluster
    if may && c.spare.isSome && (queued || s.turnOf cluster) then
      if !s.rotationWaits cluster then .next (s.beginRotation cluster)
      else if queued then .next s
      else .next ((s.withCells fun k => { k with dueQueue := k.dueQueue ++ [cluster] }).withCluster cluster fun k => { k with lastDue := some s.pt })
    else .next (s.withCells fun k => { k with dueQueue := k.dueQueue.filter (· != cluster) })
  | some r =>
    if may && r.phase == .retrying && decide (ticksS 1 ≤ s.since r.since) then
      .next (s.withCluster cluster fun k => { k with rotation := some { r with phase := .waiting, since := s.pt } })
    else .next s

/-- A station's context is at a command boundary with its transactions complete (R169), and no GL_RUN of it is outstanding
(Table - Decided coincidences). -/
def StationRt.atBoundary (r : StationRt) : Bool :=
  r.pendingMm.isEmpty && r.held.isEmpty && r.failed.isNone && r.crcWait.isNone && r.sendQ.isEmpty && r.outstanding.all (·.done)

/-- A shadow frame of a station of a cell waits for its recomputation there (R197; Table - Decided coincidences). -/
def State.shadowWaits (s : State) (cell : Nat) : Bool :=
  s.glide.engines.any fun e => e.2.shadows.any fun f => s.cellOf f.station = some cell

/-- The logical cell that a slot of a cluster serves. -/
def State.cellAt (s : State) (cluster slot : Nat) : Option Nat :=
  ((s.cluster cluster).slots.findIdx? (· = slot)).map (16 * cluster + ·)

/-- All contexts of the due cell are at a boundary and its shadow recomputations done: its arrays give up their ticket, and the copy begins (R169). -/
def execRotationBoundary (cluster : Nat) (s : State) : Out :=
  match (s.cluster cluster).rotation with
  | some r =>
    match s.cellAt cluster r.due with
    | some cell =>
      if r.phase == .waiting && (s.cells.stations.all fun p => s.cellOf p.1 != some cell || p.2.atBoundary) &&
          !s.shadowWaits cell then
        let s := (s.release (.arrayBurst cell)).setPhase cell .idle
        .next (s.withCluster cluster fun k => { k with rotation := some { r with phase := .copying } })
      else .next s
    | none => .next s
  | none => .next s

/-- The boundary has not come for 1 ms: the contexts resume, and the rotation is retried, at most eight times; a rotation that
is abandoned is reported (R169, R172). -/
def execRotationTimeout (cluster : Nat) (s : State) : Out :=
  match (s.cluster cluster).rotation with
  | some r =>
    if r.phase == .waiting && decide (ticksMs 1 ≤ s.since r.since) then
      if 8 ≤ r.retries then
        let s := s.withCluster cluster fun k => { k with rotation := none }
        .next (if s.dev.bound then s.sendPlacement 1 0 [] else s)
      else .next (s.withCluster cluster fun k => { k with rotation := some { r with phase := .retrying, retries := r.retries + 1 } })
    else .next s
  | none => .next s

/-- The engines in service are offered to the stations on host cells after a rotation (R165): each station, in the order of
R161, goes to the engine that accepts it with the highest predicted ENOB. -/
def State.returnAll (s : State) : State × List Nat := s.returnTo s.enginesIn

/-- The report of a rotation: of logical cells nothing changes but what returns to an engine (R165, R172). -/
def State.reportRotation (s : State) : State :=
  let (s, l) := s.returnAll
  if s.dev.bound then s.sendPlacement 1 0 (l.map s.entryFor) else s

/-- The scratchpad of a logical cell as the copy writes it (R170): read with Z72 correction, what is uncorrectable poisoned. -/
def State.copyCell (s : State) (cell : Nat) : State :=
  let a := scratchBase + cell * 2 ^ 21
  let zs := s.stores.mem.listed a (a + 2 ^ 21)
  let s := s.granEvents none zs
  s.withStores fun c => { c with mem := c.mem.restored (zs.map (·.1)), padFix := c.padFix.filter fun l => !(a ≤ 64 * l && 64 * l < a + 2 ^ 21) }

/-- The copy ends (R169, R170): the rank is bound to the spare slot, the contexts resume, and the freed slot is tested. A
write fault at the spare leaves the rank where it was, and the spare is tested at once. -/
def execRotationCopyComplete (cluster : Nat) (writeFault : Bool) (s : State) : Out :=
  let c := s.cluster cluster
  match c.rotation, c.spare with
  | some r, some sp =>
    if r.phase != .copying then .next s
    else if writeFault then
      .next (s.withCluster cluster fun k => { k with rotation := some { r with due := sp, phase := .testing, inPlace := true } }).reportRotation
    else
      let slots := c.slots.map fun i => if i = r.due then sp else i
      let s := match s.cellAt cluster r.due with
        | some cell => s.copyCell cell
        | none => s
      .next (s.withCluster cluster fun k =>
        { k with slots := slots, spare := none, rotation := some { r with phase := .testing } }).reportRotation
  | _, _ => .next s

/-! ### Self-test failures (R425, R428) -/

/-- TST_FAIL_LOC of a failure. -/
def failLocOf (f : SelfTestFail) : Word :=
  BitVec.ofNat 64 (f.test % 256 * 2 ^ 56 + f.die % 256 * 2 ^ 48 + f.unit % 2 ^ 16 * 2 ^ 32 + f.address % 2 ^ 24 * 2 ^ 8 +
    b2n f.repaired * 2 ^ 7 + f.bit % 128)

/-- A self-test failure is recorded (R425): TST_FAIL_LOC, the count and event 0x81. A repair adds its spare-map entry, KIND
0x03 or 0x04 (R428), and event 0x1A. -/
def State.selfTestFail (s : State) (source : Nat) (f : SelfTestFail) : State :=
  let s := (s.withTest fun t => { t with failLoc := failLocOf f }).bump (oTst 0x1000)
  let s := s.record 0x81 f.die (item 8 (failLocOf f).toNat ++ [Config.itemCode 0x81 1 (b2n f.repaired)])
  if f.repaired then
    let s := s.addSpare (if f.byColumn then 4 else 3) f.die f.unit f.element (f.bit % 256 + f.spare * 256) source
    s.record 0x1A f.die ([Config.itemCode 0x1A 0 (if f.byColumn then 4 else 3)] ++ item 2 f.unit ++ item 1 0)
  else s

/-- A physical cell is marked faulty, with its spare-map entry (R367, R428), and is its cluster's spare no longer. The slot map
is left to the placer (R17). -/
def State.cellFaulty (s : State) (p source : Nat) : State :=
  let s := (s.withPCell p fun c => { c with faulty := true, concern := false, testDue := false }).addSpare 5 (dieCompute (p / 136)) p 0 0 source
  s.withCluster (p / 17) fun k => { k with spare := if k.spare = some (p % 17) then none else k.spare }

/-! ### Cell tests (R170 to R172, R365, R433) -/

/-- The pattern entries that a cell test runs (R372, R424). -/
def State.arrayPatterns (s : State) : Nat := (s.nvm.patterns.filter (·.kind = 1)).length

/-- The full field test loses a slot; with none left it has passed (R171). -/
def State.slotTested (s : State) (p : Nat) : State :=
  match s.cells.fullTest with
  | some l =>
    let l := l.filter fun q => decide (q ≠ p) && !(s.pcell q).faulty
    if l.isEmpty then s.withCells fun c => { c with fullTest := none, fullTestPassed := true }
    else s.withCells fun c => { c with fullTest := some l }
  | none => s

/-- Event 0x15: the result of a cell test, with the failing test or pattern in 2 bytes (log 13). -/
def State.testResult (s : State) (p : Nat) (passed : Bool) (what : Nat) : State :=
  s.record 0x15 (dieCompute (p / 136)) (item 2 p ++ [Config.itemCode 0x15 1 (b2n passed)] ++ item 2 what)

/-- A cell test ends (R170, R172, R372, R425): its failures and failing patterns are recorded. A cell that passes is the
spare, or stays what it was; one that fails is marked faulty, and capacity is judged against the floor. -/
def execCellTestComplete (pcell : Nat) (failures : List SelfTestFail) (badPatterns : List Nat) (s : State) : Out :=
  let c := pcell / 17
  match (s.cluster c).rotation with
  | some r =>
    if r.phase != .testing || r.due != pcell % 17 then .next s else
    let source := if r.inPlace then 7 else 4
    let s := failures.foldl (fun (s : State) f => s.selfTestFail source { f with die := dieCompute (pcell / 136), unit := pcell }) s
    let hard := failures.filter fun f => !f.repaired
    let ok := hard.isEmpty && badPatterns.isEmpty
    let s := badPatterns.foldl (fun (s : State) i => (s.bump oPatternFail).testResult pcell false i) s
    let s := if badPatterns.isEmpty then s.testResult pcell ok ((hard.head?.map (·.test)).getD 0) else s
    let s := (s.wrapBy oPatternRuns s.arrayPatterns).wrapBy (if r.inPlace then oTst 0x1100 else oRotDone) 1
    let s := s.withPCell pcell fun x =>
      { x with tested := some (s.nvm.bootCount.toNat, s.pt.toNat), concern := false, testDue := false }
    let s := s.withCluster c fun k => { k with rotation := none }
    if ok then
      .next ((if r.inPlace then s else s.withCluster c fun k => { k with spare := some (pcell % 17) }).slotTested pcell)
    else
      let s := if r.inPlace then s else s.bump oRotFail
      let s := s.cellFaulty pcell source
      let s := s.record 0x1A (dieCompute (pcell / 136)) ([Config.itemCode 0x1A 0 5] ++ item 2 pcell ++ item 1 0)
      .next (s.slotTested pcell).checkFloor
  | none => .next s

/-- A slot may be tested in place now (R168, R171, R366): by the schedule or the full field test, or a wanted cell of a
cluster without a spare. -/
def State.inPlaceDue (s : State) (c : Nat) : Bool :=
  s.turnOf c || (s.cluster c).spare.isNone && (List.range 17).any fun i => s.wanted (pIndex c i)

/-- Without a job, a cluster's oldest-tested slot is tested in place, spare and active alike (R168, R171). -/
def execInPlaceTestDue (cluster : Nat) (s : State) : Out :=
  let may := !s.dev.bound && (s.dev.mode == .ready || s.dev.mode == .watch) && decide (cluster < 128)
  if may && (s.cluster cluster).rotation.isNone && s.inPlaceDue cluster then
    match s.dueSlot cluster (s.goodSlots cluster) with
    | some d =>
      .next (s.withCluster cluster fun k =>
        { k with rotation := some { due := d, phase := .testing, inPlace := true, since := s.pt }, lastDue := some s.pt })
    | none => .next s
  else .next s

/-- A write of FULL_TEST starts a full field test in READY, RUN and WATCH (R171). -/
def execFullTest (s : State) : Out := if s.dev.mode.running then .next s.startFullTest else .next s

/-! ### The bucket (R364, R365) -/

/-- LEVEL falls by 1/256 point (R364): one point takes LEAK_H hours. -/
def execBucketLeak (s : State) : Out :=
  let step := ticksH s.bucket.leakH.toNat / 256
  if s.dev.mode = .off ∨ s.since s.bucket.leakSince < step then .next s else
  let s := s.withBucket fun b => { b with leakSince := b.leakSince + BitVec.ofNat 64 step }
  if s.nvm.level = 0 then .next s else .next (s.setLevel (s.nvm.level.toNat - 1) 0)

/-- The release condition of WATCH (R365). -/
def State.released (s : State) : Bool :=
  s.cells.fullTestPassed && s.bucket.belowLowSince.any fun t => decide (ticksH s.bucket.releaseH.toNat ≤ s.since t)

/-- WATCH is left for READY, or for RUN if the device is bound, and its record is erased (R37, R365). -/
def execWatchRelease (s : State) : Out :=
  if s.dev.mode = .watch ∧ s.released = true then
    let s := s.withNvm fun n => { n with watchRecord := false }
    .next (s.goto (if s.dev.bound then .run else .ready))
  else .next s

end Sys2Proof.Machine
end

