-- ==== Sys2Proof/Machine/Controllers.lean ====
section
/-!
DEFINITION. The memory controllers and the Lodge (R211 to R236): queues and their schedulers, the cache portion,
write-backs, scrubbing, margining, strobe tracking, row tests and failed stacks.
-/
namespace Sys2Proof.Machine

/-! ### Queues (R211) -/

/-- The queue of a request. -/
inductive QueueId where
  | bulkRd | bulkWr | narrow | update
  deriving DecidableEq, Repr

/-- The queue of a request by its kind, length and place in a line. -/
def queueOf (r : MemReq) : QueueId :=
  if r.update then .update
  else if narrow r.addr r.len then .narrow
  else match r.kind with
    | .read => .bulkRd
    | _ => .bulkWr

/-- Entries of a queue (Table - Controller queues). -/
def QueueId.room : QueueId → Nat
  | .bulkRd | .bulkWr => 64
  | .narrow => 32
  | .update => 16

/-- A queue of a pseudo-channel. -/
def PseudoChannel.queue (c : PseudoChannel) : QueueId → List QReq
  | .bulkRd => c.bulkRd
  | .bulkWr => c.bulkWr
  | .narrow => c.narrow
  | .update => c.update
def PseudoChannel.withQueue (c : PseudoChannel) (q : QueueId) (f : List QReq → List QReq) : PseudoChannel :=
  match q with
  | .bulkRd => { c with bulkRd := f c.bulkRd }
  | .bulkWr => { c with bulkWr := f c.bulkWr }
  | .narrow => { c with narrow := f c.narrow }
  | .update => { c with update := f c.update }

/-- A pseudo-channel of a stack. -/
def State.channel (s : State) (m pc : Nat) : PseudoChannel := lookD (s.stack m).channels pc {}
def State.withChannel (s : State) (m pc : Nat) (f : PseudoChannel → PseudoChannel) : State :=
  s.withStack m fun k => { k with channels := upd k.channels pc {} f }

/-- The parts of a request by unit of 256 bytes (R211). -/
def unitParts (r : MemReq) : List MemReq :=
  let first := r.addr / 256
  let n := (r.addr + r.len + 255) / 256 - first
  (List.range n).map fun i =>
    let lo := max r.addr (256 * (first + i))
    let hi := min (r.addr + r.len) (256 * (first + i) + 256)
    { r with addr := lo, len := hi - lo, data := sub r.data (lo - r.addr) (hi - lo) }

/-- The parts that a request enters the queues as. -/
def partsOf (r : MemReq) : List MemReq := match queueOf r with
  | .narrow => [r]
  | _ => unitParts r

/-- The stack and pseudo-channel of an address; none outside the stacks. -/
def State.stackLoc (s : State) (a : Nat) : Option StackLoc := match s.place a with
  | some (.stack l) => some l
  | _ => none

/-- The granules of a request that are read: those of a read, or of an atomic's operand, and those that a write covers in
part (R215). -/
def readsOf (r : MemReq) : List Nat :=
  let n := match r.kind with
    | .atomic _ wide => if wide then 8 else 4
    | .write => r.data.length
    | .read => r.len
  let g := granSpan r.addr n
  let l := (List.range g.2).map (g.1 + ·)
  match r.kind with
  | .write => l.filter fun i => !wholeIn r.addr n i
  | _ => l

/-- A queued request, with its lines as the writes accepted before it have left them (R213). -/
def State.queued (s : State) (r : MemReq) (order : Nat) : QReq :=
  let line := r.addr / 64
  let n := (r.addr + r.len + 63) / 64 - line
  { req := r, order := order, bytes := cellsAt s.stores.mem.data (64 * line) (64 * n), checks := cellsAt s.stores.mem.check (8 * line) (8 * n) }

/-- What the reads of a queued request's granules find (R205): each with the data that is used. -/
def QReq.reads (e : QReq) : List (Nat × ZRead × Nat) :=
  let base := e.req.addr / 64 * 8
  (readsOf e.req).map fun g => (g, zDecode (granWord e.bytes (g - base)) (e.checks.getD (g - base) 0))

/-- The bytes that a queued read or atomic returns. -/
def QReq.got (e : QReq) (n : Nat) : List Byte := sub (e.reads.flatMap fun x => natLe 8 x.2.2) (e.req.addr % 8) n

/-- What an accepted request does to memory (R213 to R215, R217, R222, R223): a write's bytes and an atomic's result are in
place for whatever is accepted after it, and the cached copies are updated or invalidated. An atomic leaves uncorrectable
bytes as they are (R309). -/
def State.takeEffect (s : State) (e : QReq) : State :=
  let r := e.req
  match r.kind with
  | .read => s
  | .write =>
    let s := s.storeBytes r.addr r.data []
    if r.update then s.cacheDrop r.addr r.len else s
  | .atomic fn wide =>
    let n := if wide then 8 else 4
    if e.reads.any fun x => x.2.1.bad then s else
    let new := atomicFn fn wide (leNat (e.got n)) (fld r.data 0 n) (fld r.data n n)
    (s.storeBytes r.addr (natLe n new) []).cacheDrop r.addr n

/-- A part of a request is accepted into its queue (R211, R213). -/
def State.acceptPart (s : State) (r : MemReq) : State :=
  match s.stackLoc r.addr with
  | none => s
  | some l =>
    let e := s.queued r (s.stack l.stack).accepted
    let s := s.withStack l.stack fun k => { k with accepted := k.accepted + 1 }
    let s := s.withChannel l.stack l.pc fun c => c.withQueue (queueOf r) (· ++ [e])
    let s := s.countNarrow (.stack l) r.addr r.len (if r.kind = .write ∧ readsOf r ≠ [] then 2 else 1)
    (s.takeEffect e).burstRequest l.stack

/-- The queues have room for the parts of a request. -/
def State.roomFor (s : State) (ps : List MemReq) : Bool :=
  ps.all fun r => match s.stackLoc r.addr with
    | some l =>
      let same := ps.filter fun x => match s.stackLoc x.addr with
        | some y => y.stack = l.stack && y.pc = l.pc && queueOf x = queueOf r
        | none => false
      decide (((s.channel l.stack l.pc).queue (queueOf r)).length + same.length ≤ (queueOf r).room)
    | none => true

/-- A request for the stacks reaches its controllers (R203, R211). Where a queue is full the sender is held back. An
unmapped part is an address error: a read of it returns poisoned bytes. -/
def State.toControllers (s : State) (r : MemReq) : State :=
  let ps := partsOf r
  if !s.roomFor ps then s else
  ps.foldl (fun s p =>
    if (s.stackLoc p.addr).isSome then s.acceptPart p
    else
      let s := s.badAccess 0 0 p.addr
      match p.kind with
      | .read => s.withStores fun c => { c with replies := c.replies ++ [(p.id, List.replicate p.len 0, !inWindow p.addr)] }
      | _ => s) s

/-- STACK_REQUEST (R211). -/
def execStackRequest (req : MemReq) (s : State) : Out := .next (if req.len = 0 then s else s.toControllers req)

/-! ### Requests performed (R205, R213 to R217) -/

/-- The value that a finished request returns, with its poisoned granules; a fill takes it instead (R222), corrected, and
with the poisoned granules marked (R206). -/
def State.reply (s : State) (r : MemReq) (m : MemRead) : State :=
  let isFill := s.stores.fills.any fun f => f.req = r.id && f.unit = r.addr / 256 && !f.returned
  if isFill && r.kind = .read then
    s.withStores fun c => { c with fills := c.fills.map fun f =>
      if f.req = r.id ∧ f.unit = r.addr / 256 ∧ f.returned = false then
        { f with
          bytes := m.bytes
          checks := (List.range 32).map fun i =>
            if m.bad.contains i then zPoison (granWord m.bytes i) else zCheck (granWord m.bytes i)
          returned := true }
      else f }
  else s.withStores fun c => { c with replies := c.replies ++ [(r.id, m.bytes, !m.bad.isEmpty)] }

/-- A write-back waits for a line that a queued request has found corrected, unless a write to it was accepted since, or is
the request itself (R216). -/
def QReq.fixes (e : QReq) (m : Memory) : List Nat :=
  let line := e.req.addr / 64
  match e.req.kind with
  | .read => (List.range (e.bytes.length / 64)).filterMap fun i =>
      if cellsAt m.data (64 * (line + i)) 64 = sub e.bytes (64 * i) 64 ∧ cellsAt m.check (8 * (line + i)) 8 = sub e.checks (8 * i) 8
      then some (line + i) else none
  | _ => []

/-- A queued request is performed (R205, R213 to R217, R236): what its reads find is recorded, and a read or an atomic
returns what it has read, poisoned where a granule is uncorrectable or the stack has failed. -/
def State.serve (s : State) (e : QReq) : State :=
  let r := e.req
  match s.stackLoc r.addr with
  | none => s
  | some l =>
    let p := Place.stack l
    let dead := s.dead p
    let zs := e.reads.map fun x => (x.1, x.2.1)
    let fix := s.stores.stackFix
    let t := if dead then s else s.granEvents none zs
    let t := t.withStores fun c =>
      { c with stackFix := c.stackFix.filter fun x => fix.contains x || (e.fixes c.mem).contains x }
    let read (n : Nat) : MemRead :=
      { bytes := e.got n, bad := (List.range zs.length).filter fun i => dead || (zs.getD i (0, .clean)).2.bad }
    match r.kind with
    | .read => (t.countBytes p 0x200 r.len).reply r (read r.len)
    | .write => (if zs.isEmpty then t else t.countBytes p 0x218 1).countBytes p 0x208 r.data.length
    | .atomic _ wide =>
      let n := if wide then 8 else 4
      let t := t.countBytes p 0x200 n
      let m := read n
      if m.bad.isEmpty then (t.countBytes p 0x208 n).reply r m else t.reply r { m with bytes := List.replicate n 0 }

/-- An access to a scratchpad portion is performed by its slice (R217, R220). -/
def State.serveSlice (s : State) (r : MemReq) : State :=
  match r.kind with
  | .read =>
    let rd := s.readStore 0 0 r.addr r.len
    rd.1.reply r rd.2
  | .write => s.writeMem 0 0 r.addr r.data []
  | .atomic fn wide =>
    let n := if wide then 8 else 4
    let rd := s.atomicAt r.addr fn wide r.data
    match rd.2 with
    | some x => rd.1.reply r { bytes := natLe n x, bad := [] }
    | none => rd.1.reply r { bytes := List.replicate n 0, bad := [0] }

/-! ### The scheduler of a pseudo-channel (R212, R389) -/

/-- Every waiting request with its queue, oldest acceptance first. -/
def PseudoChannel.all (c : PseudoChannel) : List (QueueId × QReq) :=
  let l := c.bulkRd.map (fun e => (QueueId.bulkRd, e)) ++ c.bulkWr.map (fun e => (QueueId.bulkWr, e)) ++
    c.narrow.map (fun e => (QueueId.narrow, e)) ++ c.update.map (fun e => (QueueId.update, e))
  sortBy l fun a b => decide (a.2.order ≤ b.2.order)

/-- Two requests touch one 64-byte line. -/
def sameLine (a b : MemReq) : Bool :=
  decide (a.addr / 64 ≤ (b.addr + b.len - 1) / 64) && decide (b.addr / 64 ≤ (a.addr + a.len - 1) / 64)

/-- The requests that may be performed now: none accepted earlier touches a line of theirs (R213), and no row test holds
their bank (R233). -/
def eligible (held : MemReq → Bool) (l : List (QueueId × QReq)) : List (QueueId × QReq) :=
  (List.range l.length).filterMap fun i => match l[i]? with
    | some e => if held e.2.req || (l.take i).any fun x => sameLine x.2.req e.2.req then none else some e
    | none => none

/-- A request is a read, and one that writes. -/
def QReq.isRead (q : QReq) : Bool := q.req.kind = .read

/-- Write-drain after what waits now (R212). -/
def PseudoChannel.drainNext (c : PseudoChannel) : Bool :=
  let writes := c.bulkWr.length + (c.update.filter fun e => !e.isRead).length
  let reads := c.bulkRd.length + (c.update.filter fun e => e.isRead).length
  if c.writeDrain then !(decide (writes ≤ 16) && decide (0 < reads))
  else decide (48 ≤ writes) || decide (reads = 0)

/-- The first of a list that goes to an open row, else the first (R212). -/
def openFirst (rowOpen : MemReq → Bool) (l : List (QueueId × QReq)) : Option (QueueId × QReq) :=
  match l.find? fun e => rowOpen e.2.req with
  | some e => some e
  | none => l.head?

/-- What a scheduler carries out in a CK_M. -/
inductive Pick where
  | request (q : QueueId) (e : QReq)
  | maint (r : MaintReq)
  deriving DecidableEq, Repr

/-- A request of the queues below maintenance (R212 steps 2 to 4). -/
def PseudoChannel.chooseRequest (c : PseudoChannel) (rowOpen : MemReq → Bool) (l : List (QueueId × QReq)) :
    Option (QueueId × QReq) :=
  match l.find? fun e => decide (512 ≤ e.2.waited) with
  | some e => some e
  | none =>
    match l.find? fun e => e.1 = .narrow with
    | some e => some e
    | none =>
      let bulk := l.filter fun e => e.1 != .narrow
      openFirst rowOpen (bulk.filter fun e => if c.writeDrain then !e.2.isRead else e.2.isRead)

/-- The request that a scheduler chooses (R212): one that has waited 512 CK_M or more goes first, the oldest of them, be it
a maintenance request (R227), which else goes last. -/
def PseudoChannel.choose (c : PseudoChannel) (held : Nat → Bool) (place : Nat → Option StackLoc) : Option Pick :=
  let bankHeld (r : MemReq) : Bool := (place r.addr).any fun l => held l.bank
  let rowOpen (r : MemReq) : Bool := (place r.addr).any fun l => look c.openRows l.bank = some l.row
  let ready (w : MaintWork) : Bool := match w with
    | .writeBack line => !(place (64 * line)).any fun l => held l.bank
    | .scrub u => !(place (256 * u)).any fun l => held l.bank
    | .rowTest _ _ => c.heldBank.isNone
  let work := c.maint.find? fun x => ready x.work
  let request := c.chooseRequest rowOpen (eligible bankHeld c.all)
  match request, work with
  | none, none => none
  | some e, none => some (.request e.1 e.2)
  | none, some w => some (.maint w)
  | some e, some w => if 512 ≤ w.waited ∧ e.2.waited < w.waited then some (.maint w) else some (.request e.1 e.2)

/-- Commands that a pseudo-channel may take in 16 CK_M (R389): 4, or 4 + 3k with a burst ticket of k. -/
def State.commandRate (s : State) (m : Nat) : Nat :=
  s.power.held.foldl (fun n t => match t.cls with
    | .stackBurst m' k => if m' = m then 4 + 3 * k else n
    | _ => n) 4

/-! ### Maintenance (R212, R216, R227, R233) -/

/-- The corrected granules of a line are written back. -/
def State.fixLine (s : State) (line : Nat) : State :=
  let (zs, data) := s.stores.mem.readGranules (8 * line) 8
  (List.range 8).foldl (fun s i => match zs.getD i .clean with
    | .corrected _ =>
      let d := sub data (8 * i) 8
      s.withStores fun c => { c with mem := c.mem.setGranules (8 * line + i) d [zCheck (leNat d)] }
    | _ => s) s

/-- The scrub pass that is in progress: a period of SCRUB_H hours of powered time (R227, R232, log 121). -/
def State.scrubPass (s : State) : Nat := s.pt.toNat / max 1 (ticksH s.stores.scrubH.toNat)

/-- A read of granules for their events alone, in a scrub pass. -/
def State.scrub (s : State) (a len : Nat) : State := s.granEvents (some s.scrubPass) (s.granReads a len)

/-- The address of a unit of a row of a stack: the inverse of R208 and R209. -/
def State.rowUnit (s : State) (m pc bank row col : Nat) : Option Nat :=
  let svc := s.serviceList
  match svc.findIdx? (· = m) with
  | none => none
  | some slot =>
    let n := max 1 svc.length
    let t := row * 64 + (bank ^^^ row % 16) * 4 + col
    let q := t * 64 + (pc ^^^ t % 64 ^^^ t / 64 % 64)
    let r := (slot + 2 * n - q % n - (q / 256) % n) % n
    some (256 * (q * n + r))

/-- The 256-byte unit with number i of a pseudo-channel, in the order in which the scrubber walks it (R227). -/
def State.scrubUnit (s : State) (m pc i : Nat) : Option Nat :=
  (s.rowUnit m pc (i / 4 % 16) (i / 64) (i % 4)).map (· / 256)

/-- The units of a pseudo-channel: 131,072 rows of 16 banks, 4 units each. -/
def pcUnits : Nat := 2 ^ 23

/-- The next scrub read of a pseudo-channel is due: the scrubber walks all of it in SCRUB_H hours (R227). -/
def State.scrubDue (s : State) (m : Nat) (c : PseudoChannel) : Bool :=
  (s.stack m).inService && decide (ticksH s.stores.scrubH.toNat / pcUnits ≤ s.since c.scrubPt)

/-- The maintenance work that waits for a place in a pseudo-channel's queue: row tests, write-backs, and the scrub read that is
due. -/
def State.maintWork (s : State) (m pc : Nat) : List MaintWork :=
  let tests := ((s.stack m).testQueue.filter fun r => r.1 = pc).map fun r => MaintWork.rowTest r.2.1 r.2.2
  let lines := s.stores.stackFix.filter fun x => (s.stackLoc (64 * x)).any fun l => l.stack = m && l.pc = pc
  let unit := if s.scrubDue m (s.channel m pc) then (s.scrubUnit m pc (s.channel m pc).scrubNext).toList else []
  tests ++ lines.map MaintWork.writeBack ++ unit.map MaintWork.scrub

/-- A pseudo-channel with the work that its maintenance queue of 4 entries has room for (R211). A row under test is queued
once. -/
def State.withMaint (s : State) (m pc : Nat) (c : PseudoChannel) : PseudoChannel :=
  let fresh := (s.maintWork m pc).filter fun w => !(c.maint.any fun x => x.work = w) && match w with
    | .rowTest bank _ => c.heldBank ≠ some bank
    | _ => true
  let taken := fresh.take (4 - c.maint.length)
  let scrubs := taken.any fun w => match w with
    | .scrub _ => true
    | _ => false
  { c with
    maint := c.maint ++ taken.map fun w => { work := w }
    scrubNext := if scrubs then (c.scrubNext + 1) % pcUnits else c.scrubNext
    scrubPt := if scrubs then c.scrubPt + BitVec.ofNat 64 (ticksH s.stores.scrubH.toNat / pcUnits) else c.scrubPt }

/-- A pseudo-channel after one more CK_M, with what its maintenance queue takes up. -/
def State.aged (s : State) (m pc : Nat) : PseudoChannel :=
  let c := s.withMaint m pc (s.channel m pc)
  let age (l : List QReq) : List QReq := l.map fun e => { e with waited := e.waited + 1 }
  { c with bulkRd := age c.bulkRd, bulkWr := age c.bulkWr, narrow := age c.narrow, update := age c.update
           maint := c.maint.map fun e => { e with waited := e.waited + 1 }, writeDrain := c.drainNext }

/-- A maintenance request is carried out: a line is written back, a unit is read for its events, or a row test takes its bank,
whose open row is closed, until it ends (R216, R227, R233). -/
def State.maintain (s : State) (m pc : Nat) (w : MaintWork) : State :=
  match w with
  | .writeBack line =>
    if s.stores.stackFix.contains line then
      (s.fixLine line).withStores fun c => { c with stackFix := c.stackFix.filter (· != line) }
    else s
  | .scrub u => s.scrub (256 * u) 256
  | .rowTest bank _ => s.withChannel m pc fun c => { c with heldBank := some bank, openRows := del c.openRows bank }

/-- The row that maintenance work opens: its bank and row. -/
def State.maintRow (s : State) (w : MaintWork) : Option (Nat × Nat) :=
  let loc : Option StackLoc := match w with
    | .writeBack line => s.stackLoc (64 * line)
    | .scrub u => s.stackLoc (256 * u)
    | .rowTest _ _ => none
  loc.map fun l => (l.bank, l.row)

/-- The row of a bank that is open after an access. -/
def PseudoChannel.openRow (c : PseudoChannel) (r : Option (Nat × Nat)) : PseudoChannel :=
  match r with
  | some r => { c with openRows := put c.openRows r.1 r.2 }
  | none => c

/-- One CK_M of a pseudo-channel's scheduler (R207, R212, R389): a refresh of a bank that is due, or what the scheduler chooses,
is carried out, and what waits has waited one cycle more. A partial write counts as two commands (R215). -/
def execPseudoChannelCommand (m pc : Nat) (refresh : Option Nat) (s : State) : Out :=
  let c := s.aged m pc
  let note (n : Nat) (x : PseudoChannel) : PseudoChannel := { x with recent := (n :: x.recent).take 15 }
  match refresh with
  | some bank => .next (s.withChannel m pc fun _ => note 0 { c with openRows := del c.openRows bank })
  | none =>
    if s.commandRate m ≤ c.recent.sum then .next (s.withChannel m pc fun _ => note 0 c)
    else
      match c.choose (fun b => c.heldBank = some b) s.stackLoc with
      | none => .next (s.withChannel m pc fun _ => note 0 c)
      | some (.request q e) =>
        let rest := c.withQueue q fun l => l.filter fun x => x.order != e.order
        let cost := if e.req.kind = .write ∧ readsOf e.req ≠ [] then 2 else 1
        .next ((s.withChannel m pc fun _ =>
          note cost (rest.openRow ((s.stackLoc e.req.addr).map fun l => (l.bank, l.row)))).serve e)
      | some (.maint r) =>
        let rest := { c with maint := c.maint.erase r }
        .next ((s.withChannel m pc fun _ => note 1 (rest.openRow (s.maintRow r.work))).maintain m pc r.work)

/-- A controller releases its burst ticket once every pseudo-channel has held fewer than 8 for 1 µs, or where the budgets
in force now hold a larger one, which it then requests (R387). -/
def execStackBurstRelease (m : Nat) (s : State) : Out :=
  match s.power.held.find? fun t => match t.cls with
    | .stackBurst m' _ => m' = m
    | _ => false with
  | none => .next s
  | some t =>
    let k := match t.cls with
      | .stackBurst _ k => k
      | _ => 0
    let idle := (s.stack m).channels.all fun c => decide (c.2.load < 8)
    if idle || decide (k < burstK s.power m) then .next ((s.release t.cls).burstRequest m) else .next s

/-! ### Write-backs (R120, R216) -/

/-- A corrected line of a stack is written back as a maintenance request (R216). -/
def execCorrectionWriteback (m line : Nat) (s : State) : Out :=
  if s.stores.stackFix.contains line && (match s.stackLoc (64 * line) with
      | some l => l.stack = m
      | none => false) then
    .next ((s.fixLine line).withStores fun c => { c with stackFix := c.stackFix.filter (· != line) })
  else .next s

/-- A corrected line of a scratchpad is written back (R120). -/
def execScratchpadWriteback (line : Nat) (s : State) : Out :=
  if s.stores.padFix.contains line then
    .next ((s.fixLine line).withStores fun c => { c with padFix := c.padFix.filter (· != line) })
  else .next s

/-! ### The Lodge (R217, R219 to R225) -/

/-- A unit missing from its home slice is asked of the controllers, and a fill waits for it (R222). -/
def State.miss (s : State) (r : MemReq) : State :=
  let u := r.addr / 256
  let ask : MemReq := { id := r.id, kind := .read, addr := 256 * u, len := 256 }
  if !s.roomFor [ask] then s else
  let s := s.withStores fun c => { c with fills := c.fills ++ [{ unit := u, bytes := [], checks := [], req := r.id, addr := r.addr, len := r.len }] }
  (s.wrapBy 0x08F208 1).acceptPart ask

/-- A read of one unit through its home slice (R222, R225). -/
def State.lodgeRead (s : State) (r : MemReq) : State :=
  let u := r.addr / 256
  let slice := s.homeSlice r.addr
  match (s.cacheOf slice).find? (·.unit = u) with
  | some c =>
    let g := granSpan (r.addr % 256) r.len
    if ((c.read.1.drop g.1).take g.2).any (·.bad) then (s.refetch slice u).miss r
    else
      let rd := s.readUnit 0 0 r.addr r.len
      rd.1.reply r rd.2
  | none => s.miss r

/-- LODGE_REQUEST (R217, R220, R222): a scratchpad access is served by its slice; a stack access passes through its home
slice, or goes to the controllers where the Lodge is all scratchpad. -/
def execLodgeRequest (req : MemReq) (s : State) : Out :=
  if req.len = 0 then .next s else
  match s.place req.addr with
  | some (.lodge _ _) => .next (s.serveSlice req)
  | some (.stack _) =>
    if s.stores.lodgeSp = 16 then .next (s.toControllers req) else
    match req.kind with
    | .read => .next ((unitParts req).foldl State.lodgeRead s)
    | _ => .next (s.toControllers req)
  | _ =>
    let s := s.badAccess 0 0 req.addr
    match req.kind with
    | .read => .next (s.withStores fun c => { c with replies := c.replies ++ [(req.id, List.replicate req.len 0, !inWindow req.addr)] })
    | _ => .next s

/-- A fill returns to its home slice (R222, R224): installed unless marked, and its requester served. -/
def execLodgeFillReturn (unit : Nat) (s : State) : Out :=
  match s.stores.fills.find? fun f => f.unit = unit && f.returned with
  | none => .next s
  | some f =>
    let s := s.withStores fun c => { c with fills := c.fills.erase f }
    let line : CacheLine := { unit := unit, bytes := f.bytes, checks := f.checks }
    let s := if f.marked then s else s.install line
    let bad := (line.read.1).any (·.bad)
    .next (s.withStores fun c => { c with replies := c.replies ++ [(f.req, sub line.read.2 (f.addr % 256) f.len, bad)] })

/-! ### Scrubbing (R121, R227) -/

/-- A line of a slice's cache portion is scrubbed (R225, R227): corrections are recorded and written back, and a line found
uncorrectable is fetched again. -/
def State.scrubCached (s : State) (slice : Nat) (c : CacheLine) : State :=
  let zs := c.read.1
  if zs.any (·.bad) then ((s.refetch slice c.unit).fetchUnit 0 0 c.unit).1
  else if zs.all (· == .clean) then s
  else
    let fixed := (c.write 0 c.read.2 []).1
    (s.withCache slice fun l => l.map fun x => if x.unit = c.unit then fixed else x).cacheEvents slice c.unit zs

/-- A line of a scratchpad, a cluster buffer or a Lodge slice is scrubbed (R121, R227). In a slice's cache portion the
line is one of those held, and R225 applies. -/
def execScratchpadScrub (store : ScrubStore) (unit line : Nat) (s : State) : Out :=
  match store with
  | .scratchpad => .next (s.scrub (scratchBase + 2 ^ 21 * unit + 64 * line) 64)
  | .clusterBuffer => .next (s.scrub (bufferBase + 2 ^ 23 * unit + 64 * line) 64)
  | .lodge =>
    let sp := s.stores.lodgeSp * 2 ^ 20
    if 64 * line < sp then .next (s.scrub (lodgeBase + 2 ^ 24 * unit + 64 * line) 64)
    else
      match (s.cacheOf unit)[(64 * line - sp) / 256]? with
      | some c => .next (s.scrubCached unit c)
      | none => .next s

/-- A unit of a stack is scrubbed through the maintenance queue (R227). -/
def execStackScrub (m unit : Nat) (s : State) : Out :=
  match s.stackLoc (256 * unit) with
  | some l => if l.stack = m ∧ (s.stack m).inService = true then .next (s.scrub (256 * unit) 256) else .next s
  | none => .next s

/-! ### Row tests (R232 to R235) -/

/-- A line is written from the save buffer of a row test (R206, R233): corrected granules as corrected, and uncorrectable ones
poisoned. -/
def State.restoreLine (s : State) (line : Nat) : State :=
  s.withStores fun c => { c with mem := c.mem.restored ((List.range 8).map (8 * line + ·)) }

/-- A row is rewritten from its save buffer with correction; poisoned granules stay marked (R233). -/
def State.rewriteRow (s : State) (m pc bank row : Nat) : State :=
  (List.range 4).foldl (fun s col => match s.rowUnit m pc bank row col with
    | some a => (List.range 4).foldl (fun s i => s.restoreLine (a / 64 + i)) s
    | none => s) s

/-- A row test lets its bank go: its open row has been closed, and it waits no more (R233). -/
def Stack.rowTested (k : Stack) (pc bank row : Nat) : Stack :=
  let c := lookD k.channels pc {}
  let done : PseudoChannel :=
    { c with openRows := del c.openRows bank, maint := c.maint.filter fun x => x.work != .rowTest bank row
             heldBank := if c.heldBank = some bank then none else c.heldBank }
  { k with
    channels := if c = done then k.channels else put k.channels pc done
    testQueue := k.testQueue.filter (· != (pc, bank, row))
    suspects := k.suspects.filter fun e => !(e.pc = pc && e.bank = bank && e.row = row) }

/-- A row test ends (R233 to R235): a pass clears the row's entry; a failure is repaired from the bank's spares, softly
and at once, or exhausts them. -/
def execRowTest (m pc bank row : Nat) (failingBit : Option Nat) (sparesLeft : Nat) (s : State) : Out :=
  if (s.stack m).testQueue.contains (pc, bank, row) && (s.stack m).inService then
    let s := (s.rewriteRow m pc bank row).withStack m fun k => k.rowTested pc bank row
    let res := match failingBit with
      | none => item 1 (Config.itemCode 0x23 4 0).toNat ++ item 1 0xFF
      | some b => item 1 (Config.itemCode 0x23 4 1).toNat ++ item 1 b
    let s := (s.bump (oMem m 0x110)).record 0x23 (dieStack m) (item 1 m ++ item 2 pc ++ item 2 bank ++ item 4 row ++ res)
    match failingBit with
    | none => .next s
    | some b =>
      if 0 < sparesLeft then
        let left := sparesLeft - 1
        let s := (s.bump (oMem m 0x118)).addSpare 6 (dieStack m) m (pc * 2 ^ 26 + bank * 2 ^ 22 + row) b 5
        let s := s.withStack m fun k => { k with pprLeft := min k.pprLeft left }
        let s := s.record 0x24 (dieStack m) (item 1 m ++ item 2 pc ++ item 2 bank ++ item 4 row ++ item 1 left)
        .next (s.record 0x1A (dieStack m) ([Config.itemCode 0x1A 0 6] ++ item 1 (dieStack m) ++ item 2 pc ++ item 2 bank ++ item 4 row ++
          item 2 0 ++ item 1 left))
      else
        let s := s.withStack m fun k => { k with exhausted := true, state := 3 }
        .next (s.record 0x25 (dieStack m) (item 1 m ++ item 2 bank))
  else .next s

/-! ### Strobes, margining, failures (R228 to R231, R236) -/

/-- The payload of a margin event. -/
def marginBody (m pc lane : Nat) (x : MarginResult) : List Byte :=
  item 1 m ++ item 2 pc ++ item 1 lane ++ item 4 x.rdWidth ++ item 4 x.wrWidth ++ item 4 x.height

/-- The lane of a pseudo-channel in the tables of a stack: 32 data and 4 check lanes. -/
def laneKey (pc lane : Nat) : Nat := 36 * pc + lane

/-- A lane's read strobe is re-centred by at most one step, once in every 32 ms (R230); at its range limit it stays and a margin
event is recorded. -/
def execStrobeTracking (m pc lane : Nat) (step : Int) (limit : Option MarginResult) (s : State) : Out :=
  let k := s.stack m
  let key := laneKey pc lane
  if k.inService && decide (ticksMs 32 ≤ s.since (lookD k.strobePt key 0)) then
    let s := s.withStack m fun k => { k with strobePt := put k.strobePt key s.pt }
    match limit with
    | some x => .next (s.record 0x27 (dieStack m) (marginBody m pc lane x))
    | none =>
      .next (s.withStack m fun k => { k with strobes := upd k.strobes key 0 (· + max (-1) (min 1 step)) })
  else .next s

/-- A width of at least 24 steps, and a height of at least 10 (R229). -/
def laneCause (rd wr height : Int) : Nat :=
  if rd < 24 then 1 else if wr < 24 then 2 else if height < 10 then 3 else 0

/-- The cause that keeps a stack out of service (R229): what training reports, else that of its narrowest lane, else that of
another; 0 where every lane passes. -/
def failCause (x : MarginResult) : Nat :=
  let causes := x.cause :: laneCause x.rdWidth x.wrWidth x.height :: x.lanes.map fun l =>
    laneCause (l.read.2 - l.read.1) (l.write.2 - l.write.1) (l.reference.2 - l.reference.1)
  (causes.find? (· != 0)).getD 0

/-- The centre of a passing range (R228 step 4). -/
def centre (r : Int × Int) : Int := (r.1 + r.2) / 2

/-- A stack's margins as found, and each lane's delays and reference at the centres of their ranges (R228, R229). -/
def State.marginStack (s : State) (x : MarginResult) : State :=
  let centred (f : LaneMargin → Int × Int) (t : Table Int) : Table Int :=
    x.lanes.foldl (fun t l => put t (laneKey l.pc l.lane) (centre (f l))) t
  s.withStack x.stack fun k =>
    { k with
      margin := some x, marginPt := s.pt, marginCause := BitVec.ofNat 8 (failCause x), pprLeft := x.pprLeft
      lanesRepaired := x.repaired.length, strobes := centred LaneMargin.read k.strobes
      writeDelays := centred LaneMargin.write k.writeDelays, references := centred LaneMargin.reference k.references }

/-- What margining found of a stack; one without a report does not respond (R229). -/
def resultFor (l : List MarginResult) (m : Nat) : MarginResult :=
  (l.find? fun x => x.stack = m).getD { stack := m, rdWidth := 0, wrWidth := 0, height := 0, cause := 4 }

/-- MARGIN_GO may run (R231): in READY or WATCH with no slice bound. -/
def State.marginOpen (s : State) : Bool := (s.dev.mode = .ready || s.dev.mode = .watch) && !s.dev.bound

/-- A stack in service is margined again; one that fails is out of service from the next job start (R231). -/
def State.marginAgain (s : State) (x : MarginResult) : State :=
  let s := s.marginStack x
  if failCause x = 0 then s
  else (s.withStack x.stack fun k => { k with state := 3 }).record 0x27 (dieStack x.stack)
    (marginBody x.stack x.worstPc x.worstLane x)

/-- MARGIN_GO (R231): in READY or WATCH with no slice bound, or where a write of the register has begun it, every stack in
service is margined again. Otherwise it is ignored and MARGIN_REFUSED set. -/
def execMarginGo (results : List MarginResult) (s : State) : Out :=
  if s.marginOpen || s.stores.marginDue then
    .next ((s.stacksIn.foldl (fun s m => s.marginAgain (resultFor results m)) s).withStores fun c => { c with marginDue := false })
  else if s.dev.mode = .off then .next s
  else .next (s.withStores fun c => { c with marginRefused := true })

/-- A stack fails in running (R236): event 0x28 and a drain with DR_REFORM. -/
def execStackFailed (m cause : Nat) (s : State) : Out :=
  if (s.stack m).inService then
    let s := s.withStack m fun k => { k with state := 5 }
    .next ((s.record 0x28 (dieStack m) (item 1 m ++ item 1 cause)).orderDrain drReform)
  else .next s

end Sys2Proof.Machine
end

