-- ==== Sys2Proof/Machine/Tickets.lean ====
section
/-!
DEFINITION. Grants and recalls of tickets (R102 to R104, R386 to R393).
-/
namespace Sys2Proof.Machine

/-- A request that the controller may grant in DRAIN (R393): work already in flight. -/
def State.drainWork (s : State) (t : Ticket) : Bool :=
  match t.cls with
  | .arrayBurst cell => s.arrayWork cell
  | .glideUser n => s.cells.stations.any fun p => p.2.held.any fun h => h.engine = some n
  | .stackBurst m _ => (s.stack m).channels.any fun c => !c.2.all.isEmpty
  | _ => false

/-- The requests that may be granted now, in order (R390, R393). -/
def State.grantable (s : State) : List Ticket :=
  if s.dev.mode = .drain then s.power.queue.filter s.drainWork else s.power.queue

/-- A request stands at the head of each of its pools (R390). -/
def atHeads (q : List Ticket) (t : Ticket) : Bool := t.claims.all fun c => headOf q c.1 = some t

/-- The stations that wait for a ticket wait no longer. -/
def State.ticketHere (s : State) (sts : List Nat) : State :=
  sts.foldl (fun s st => s.withSt st fun r => { r with ticketSince := none }) s

/-- The stations on a cell. -/
def State.stationsOn (s : State) (cell : Nat) : List Nat :=
  (s.cells.stations.filter fun p => s.cellOf p.1 = some cell).map (·.1)

/-- What a grant starts: arrays ramp up (R103), an engine due for a retrack begins it (R201), training resumes (R392). -/
def State.granted (s : State) (c : TicketClass) (ballast : List ArrayFail) : State :=
  let retrack (s : State) (n : Nat) : State :=
    if (s.engine n).retrackDue && (s.engine n).state = 1 then s.withEngine n fun e => { e with state := 4 } else s
  match c with
  | .arrayBurst cell =>
    ((s.setPhase cell .running).ticketHere (s.stationsOn cell)).ballastFails cell ballast
  | .glideUser n => retrack (s.ticketHere (s.engine n).stations) n
  | .glideCal n => retrack s n
  | .stackBurst _ _ => s
  | .link n => s.withPort n fun p => { p with suspendedLimit := false, since := s.pt }

/-- The request at the head of a pool's queue is granted once each of its pools has room (R386, R390, R404). -/
def execTicketGrant (pool : Nat) (ballast : List ArrayFail) (s : State) : Out :=
  match headOf s.grantable pool with
  | some t =>
    if atHeads s.grantable t && fits s.power t && !s.thermal.stepActive then
      let s := s.withPower fun p => setTickets p s.pt (p.queue.filter (· != t)) (p.held ++ [t])
      .next ((s.wrapBy oGrants 1).granted t.cls ballast)
    else .next s
  | none => .next s

/-- The held tickets of a pool that recall takes, oldest grant first, until the head fits what is left (R391). Arrays that
already ramp down after a recall count as taken. -/
def recallList (room : Nat → Bool) (pool : Nat) (l : List Ticket) (taken : Nat) : List Ticket :=
  match l with
  | [] => []
  | t :: r => if room taken then [] else t :: recallList room pool r (taken + t.units pool)

/-- A ticket is recalled (R107, R391): arrays ramp down and keep it until their ramp-down ends; a controller gives it
back. Each asks again at the tail while it still has work. -/
def State.recallTicket (s : State) (t : Ticket) : State :=
  match t.cls with
  | .arrayBurst cell =>
    let s := s.setPhase cell .rampDown
    if s.arrayWork cell then
      s.withPower fun p =>
        { setTickets p s.pt (p.queue ++ [{ cls := t.cls, claims := t.claims, order := p.nextOrder }]) p.held with
          nextOrder := p.nextOrder + 1 }
    else s
  | .stackBurst m _ => (s.release t.cls).burstRequest m
  | _ => s

/-- A ticket whose arrays already ramp down. -/
def State.fading (s : State) (t : Ticket) : Bool := match t.cls with
  | .arrayBurst cell => s.arrayPhase cell = .rampDown
  | _ => false

/-- The head of a pool's queue has waited there for 20 µs: tickets are recalled until it would fit (R391). -/
def execTicketRecall (pool : Nat) (s : State) : Out :=
  match headOf s.grantable pool with
  | some h =>
    if ticksUs 20 ≤ s.since (lookD s.power.headSince pool s.pt) then
      let p := s.power
      let mine := p.held.filter fun t => t.inPool pool && t.cls.recallable
      let fading := (mine.filter s.fading).foldl (fun n t => n + t.units pool) 0
      let room (taken : Nat) : Bool := decide (heldUnits p pool + h.units pool ≤ ticketable p pool + taken)
      let gone := recallList room pool (mine.filter fun t => !s.fading t) fading
      let s := s.withPower fun p => { p with headSince := put p.headSince pool s.pt }
      .next ((gone.foldl State.recallTicket s).wrapBy oRecalls gone.length)
    else .next s
  | none => .next s

end Sys2Proof.Machine
end

