-- ==== Sys2Proof/Machine/Sensors.lean ====
section
/-!
DEFINITION. Junction sensors, the snowplough, temperature steps and the trip (R398 to R406). Temperatures are in 1/64 °C.
-/
namespace Sys2Proof.Machine

/-! ### The sensor plan (R398) -/

/-- The die of a sensor (Table - Sensor plan). Numbers from 476 on stand for the stacks' own temperatures (log 36). -/
def dieOfSensor (i : Nat) : Nat :=
  if i < 384 then dieCompute (i / 24) else if i < 416 then 0 else if i < 448 then dieGlide ((i - 416) / 8)
  else if i < 476 then dieEdge ((i - 448) / 4) else dieStack (i - 476)

/-- A continuous sensor. -/
def continuous (i : Nat) : Bool := if i < 384 then decide (i % 24 < 4) else decide (416 ≤ i)

/-- The sensors of a die. -/
def sensorsOf (die : Nat) : List Nat :=
  if die = 0 then (List.range 32).map (384 + ·)
  else if die ≤ 0x10 then (List.range 24).map (24 * (die - 1) + ·)
  else if die ≤ 0x14 then (List.range 8).map (416 + 8 * (die - 0x11) + ·)
  else if die ≤ 0x1B then (List.range 4).map (448 + 4 * (die - 0x15) + ·)
  else []

/-- A sensor, as held and as changed. -/
def State.sensor (s : State) (i : Nat) : Sensor := lookD s.thermal.sensors i {}
def State.withSensor (s : State) (i : Nat) (f : Sensor → Sensor) : State :=
  s.withThermal fun t => { t with sensors := upd t.sensors i {} f }

/-- A trusted sensor. -/
def Sensor.trusted (x : Sensor) : Bool := x.valid && !x.suspect && !x.faulty

/-- A suspect sensor; a faulty one is suspect for good (R426). -/
def Sensor.doubted (x : Sensor) : Bool := x.suspect || x.faulty

/-! ### Neighbours (R399) -/

/-- The three entries of a sensor in the gradient tables. -/
def State.neighbours (s : State) (i : Nat) : List (Nat × Int × Int) := (s.config.gradients.drop (3 * i)).take 3

/-- G of an entry: linear in the die's held ticket units, from idle to its full ticketable load (R399). -/
def State.gradient (s : State) (die : Nat) (g : Nat × Int × Int) : Int :=
  let full := maxBudget die - fixedDraw s.power die
  if full = 0 then g.2.1 else g.2.1 + (g.2.2 * (heldUnits s.power die : Int)).fdiv (full : Int)

/-- The median of three. -/
def median3 : List Int → Int
  | [a, b, c] => max (min a b) (min (max a b) c)
  | l => l.headD 0

/-- The neighbour estimate of a sensor (R399). -/
def State.estimate (s : State) (i : Nat) : Int :=
  median3 ((s.neighbours i).map fun g => s.sensorT g.1 + s.gradient (dieOfSensor i) g)

/-- Sensors are checked and steps are detected once step 8 of cold start has ended (R420). -/
def State.checked (s : State) : Bool := s.boot.done.contains 8

/-- At least two neighbours are trusted (R399). -/
def State.checkable (s : State) (i : Nat) : Bool :=
  decide (2 ≤ ((s.neighbours i).filter fun g => (s.sensor g.1).trusted).length)

/-- Event 0x72: a sensor is suspect or restored. -/
def State.suspectEvent (s : State) (i : Nat) : State :=
  let x := s.sensor i
  s.record 0x72 (dieOfSensor i) (item 2 i ++ itemS 2 x.t ++ itemS 2 x.est)

/-- A reading against its estimate (R399): suspect at the third in a row beyond 8 °C, trusted again after 100 in a row
within 4 °C. -/
def State.checkSensor (s : State) (i : Nat) : State :=
  if !(s.checked && s.checkable i) || (s.sensor i).faulty then s else
  let x := s.sensor i
  let d := (x.t - x.est).natAbs
  let bad := if 512 < d then x.badRun + 1 else 0
  let good := if d ≤ 256 then x.goodRun + 1 else 0
  let s := s.withSensor i fun x => { x with badRun := bad, goodRun := good }
  if !x.suspect && decide (3 ≤ bad) then
    ((s.withSensor i fun x => { x with suspect := true, goodRun := 0 }).bump oThmSuspect).suspectEvent i
  else if x.suspect && decide (100 ≤ good) then
    (s.withSensor i fun x => { x with suspect := false, badRun := 0 }).suspectEvent i
  else s

/-! ### Die temperature and the snowplough (R400 to R402) -/

/-- T_d of a die, with the sensor that gives it (R400); 0x1FF for a stack, whose TEMP_C it is. -/
def State.dieTemp (s : State) (die : Nat) : Int × Nat :=
  if 0x1C ≤ die then (lookD s.thermal.stackTemp (die - 0x1C) 0, 0x1FF) else
  let l := (sensorsOf die).filter fun i => (s.sensor i).valid || (s.sensor i).doubted
  let top := l.foldl (fun (m : Int × Nat) i => if m.2 = 0x1FF ∨ m.1 < s.sensorT i then (s.sensorT i, i) else m) (0, 0x1FF)
  if 4 < (l.filter fun i => (s.sensor i).doubted).length then (max top.1 6400, top.2) else top

/-- The temperature from which a die pauses, and from which it stops (R401, Table - Snowplough domains). -/
def pauseFrom (die : Nat) : Int := if 0x1C ≤ die then 95 else 97

/-- The pause count of a temperature (R401). -/
def pauseOf (die : Nat) (t : Int) : Nat :=
  let lo := pauseFrom die
  if t < lo * 64 then 0 else if (lo + 7) * 64 ≤ t then 8 else (t.fdiv 64 - (lo - 1)).toNat

/-- The pause count after a reading: it falls only 0.5 °C below the lowest temperature that gives the present one (R401). -/
def nextPause (die p : Nat) (t : Int) : Nat :=
  let q := pauseOf die t
  if p ≤ q then q else if t ≤ (pauseFrom die + p - 1) * 64 - 32 then q else p

/-- A die's pause count and event 0x75 where it changes. -/
def State.setPause (s : State) (die p : Nat) : State :=
  if lookD s.thermal.pause die 0 = p then s else
  let s := s.withThermal fun t => { t with pause := put t.pause die p }
  s.record 0x75 die (item 1 die ++ item 1 p ++ itemS 2 (s.dieTemp die).1)

/-- A die that a step in force holds at p = 8: a compute die or a Glide engine (R404). -/
def stepHolds (die : Nat) : Bool := decide (1 ≤ die) && decide (die ≤ 0x14)

/-- A die's pause count under R401, unless a step holds it. -/
def State.plough (s : State) (die : Nat) : State :=
  if s.thermal.stepActive && stepHolds die then s
  else s.setPause die (nextPause die (lookD s.thermal.pause die 0) (s.dieTemp die).1)

/-! ### Steps shown (R403) -/

/-- The reading 200 µs earlier. -/
def readingAt (l : List (Word × Int)) (pt : Word) : Option Int :=
  (l.filter fun h => decide (h.1.toNat + ticksUs 200 ≤ pt.toNat)).getLast?.map (·.2)

/-- The change of a new reading that shows a step, if it does (R403). -/
def Sensor.shows (x : Sensor) (i : Nat) (pt : Word) (t : Int) : Option Int :=
  if continuous i then
    match readingAt x.history pt with
    | some u => if 64 < (t - u).natAbs then some (t - u) else none
    | none => none
  else if x.valid then
    let d := t - x.t
    let elapsed := pt.toNat - x.lastPt.toNat
    if 320 * elapsed < d.natAbs * ticksMs 1 then some d else none
  else none

/-- A sensor's readings of the last 200 µs and the one before them. -/
def keepHistory (l : List (Word × Int)) (pt : Word) : List (Word × Int) :=
  let recent := l.filter fun h => decide (pt.toNat < h.1.toNat + ticksUs 200)
  match (l.filter fun h => !decide (pt.toNat < h.1.toNat + ticksUs 200)).getLast? with
  | some h => h :: recent
  | none => recent

/-! ### Readings (R398, R405) -/

/-- Two trusted sensors of a die at 115 °C trip; one alone is recorded as event 0x76 when it gets there (R405, log 37). -/
def State.checkTrip (s : State) (i : Nat) (before : Int) : State :=
  let die := dieOfSensor i
  let hot := (sensorsOf die).filter fun j => (s.sensor j).trusted && decide (7360 ≤ (s.sensor j).t)
  let body := item 1 die ++ hot.flatMap (item 2) ++ hot.flatMap fun j => itemS 2 (s.sensor j).t
  if !s.armed || s.thermal.trip || (s.sensor i).t < 7360 then s
  else if 2 ≤ hot.length then s.trip body die
  else if before < 7360 then s.record 0x76 die (item 1 die ++ item 2 i ++ itemS 2 (s.sensor i).t)
  else s

/-- A reading of a Glide engine's sensor is classified: it counts for the runs held whose last slot was before it (R183). -/
def State.classified (s : State) (i : Nat) : State :=
  let n := (i - 416) / 8
  let count (h : HeldRun) : HeldRun :=
    if h.engine = some n && h.issued && !s.sampling n h then { h with readings := upd h.readings i 0 (· + 1) } else h
  if 416 ≤ i ∧ i < 448 then
    s.withCells fun c => { c with stations := c.stations.map fun p => (p.1, { p.2 with held := p.2.held.map count }) }
  else s

/-- A sensor of a Glide engine reads (R195): T's history of a second is kept. -/
def State.glideReading (s : State) (n : Nat) : State :=
  let x := s.engineSum n
  s.withEngine n fun e =>
    { e with history := (e.history.filter fun h => decide (s.pt.toNat ≤ h.1.toNat + ticksS 1)) ++ [(s.pt, x)] }

/-- A junction sensor's reading (R398 to R403, R405). -/
def State.readSensor (s : State) (i : Nat) (t : Int) : State :=
  let x := s.sensor i
  let shown := if s.checked then x.shows i s.pt t else none
  let s := s.withSensor i fun x =>
    { x with
      t := t, valid := true, lastPt := s.pt
      fast := if continuous i then false else if 85 * 64 ≤ t then true else if t < 83 * 64 then false else x.fast
      history := if continuous i then keepHistory (x.history ++ [(s.pt, t)]) s.pt else [] }
  let est := s.estimate i
  let s := (s.withSensor i fun x => { x with est := est }).checkSensor i
  let s := match shown with
    | some d => s.withThermal fun h => { h with stepShown := h.stepShown ++ [(i, s.pt, d)], stepLast := s.pt }
    | none => s.classified i
  let s := if decide (416 ≤ i) && decide (i < 448) then s.glideReading ((i - 416) / 8) else s
  (s.plough (dieOfSensor i)).checkTrip i x.t

/-- SENSOR_READING (R398): in STANDBY the sensors of the management island alone read, and in OFF none. -/
def execSensorReading (sensor : Nat) (t : Int) (s : State) : Out :=
  let island := decide (384 ≤ sensor) && decide (sensor < 388)
  if s.dev.mode = .off ∨ s.dev.mode = .standby ∧ island = false ∨ 488 ≤ sensor then .next s
  else if sensor < 476 then .next (s.readSensor sensor t)
  else
    let s := s.withThermal fun h => { h with stackTemp := put h.stackTemp (sensor - 476) t }
    .next (s.plough (dieOfSensor sensor))

/-! ### Temperature steps (R200, R201, R403, R404) -/

/-- Two neighbours have changed in the same direction by at least half the sensor's change (R403). -/
def stepConfirmed (change : Int) (l : List Int) : Bool :=
  decide (2 ≤ (l.filter fun n => decide (0 < n * change) && decide (change.natAbs ≤ 2 * n.natAbs)).length)

/-- An engine under a confirmed step (R201): its out-of-calibration interval begins 1 µs before the first reading that
showed it, the runs held with slots in it are marked, and a retrack is due, for which it asks its ticket. -/
def State.stepEngine (s : State) (first : Word) (n : Nat) : State :=
  if (s.engine n).state ≠ 1 then s else
  let start := BitVec.ofNat 64 (first.toNat - ticksUs 1)
  let mark (h : HeldRun) : HeldRun :=
    if h.engine = some n && h.issued && decide (0 < h.slots) && decide (start.toNat ≤ h.pt.toNat + h.ticks) then { h with ooc := true } else h
  let s := s.withCells fun c =>
    { c with stations := c.stations.map fun p => (p.1, { p.2 with held := p.2.held.map mark }) }
  let s := s.withEngine n fun e =>
    { e with oocSince := if e.oocSince.isSome then e.oocSince else some start, retrackFor := 6, retrackDue := true }
  if (s.engine n).stations.isEmpty then s.request (.glideCal n) else s.request (.glideUser n)

/-- A confirmed step (R404): every ticket is revoked and grants stop, p = 8 on compute dies and Glide engines, and every
engine in service takes it under R201. -/
def State.confirmStep (s : State) (i : Nat) (first : Word) (change : Int) (l : List Int) : State :=
  let s := s.withThermal fun h =>
    { h with stepActive := true, stepPt := if h.stepActive then h.stepPt else first, stepLast := s.pt }
  let s := (s.bump oThmStep).record 0x73 (dieOfSensor i) (item 2 i ++ itemS 2 change ++ l.flatMap (itemS 2))
  let gone := s.power.held
  let s := s.revoke 2 gone
  let s := (List.range 4).foldl (fun (s : State) n => s.stepEngine first n) s
  let s := s.requestAgain gone
  ((List.range 0x15).filter stepHolds).foldl (fun (s : State) d => s.setPause d 8) s

/-- A sensor showed a step, and its neighbours' changes confirm it or not (R403): `neighbours` are their changes over the
same span. One that they do not confirm makes the sensor suspect. -/
def execStepConfirmation (sensor : Nat) (neighbours : List Int) (s : State) : Out :=
  match s.thermal.stepShown.find? (·.1 = sensor) with
  | some (i, first, change) =>
    let s := (s.withThermal fun h => { h with stepShown := h.stepShown.erase (i, first, change) }).classified i
    if stepConfirmed change neighbours then .next (s.confirmStep i first change neighbours)
    else
      let s := (s.bump oThmReject).record 0x74 (dieOfSensor i) (item 2 i ++ itemS 2 change)
      if (s.sensor i).suspect then .next s
      else .next ((s.withSensor i fun x => { x with suspect := true, goodRun := 0 }).bump oThmSuspect)
  | none => .next s

/-- No sensor has shown a step for 1 ms: grants resume, and the snowplough returns to R401 (R404). -/
def execStepEnd (s : State) : Out :=
  if s.thermal.stepActive = true ∧ ticksMs 1 ≤ s.since s.thermal.stepLast then
    let s := s.withThermal fun h => { h with stepActive := false }
    .next (((List.range 0x15).filter stepHolds).foldl (fun (s : State) d => s.setPause d (pauseOf d (s.dieTemp d).1)) s)
  else .next s

end Sys2Proof.Machine
end

