-- ==== Sys2Proof/Machine/Registers.lean ====
section
/-!
DEFINITION. The register map as it reads (R10 to R13, R39, R153, R280, R384, R409, R420, R438, R440, R455 to R464): every
register of the management window by its offset, the ledger and journal windows, and the counters.
-/
namespace Sys2Proof.Machine

/-- A register from its fields: values and the bits that they begin at. -/
def regOf (l : List (Nat × Nat)) : Word := BitVec.ofNat 64 (l.foldl (fun n f => n + f.1 * 2 ^ f.2) 0)

/-- The eight bytes of a window at an offset. -/
def wordAt (l : List Byte) (off : Nat) : Word := BitVec.ofNat 64 (fld l off 8)

/-! ### The counters by offset -/

/-- Offsets of the units of a block: `n` units `step` apart, each with the offsets listed. -/
def offsets (base step n : Nat) (l : List Nat) : List Nat := (List.range n).flatMap fun i => l.map fun o => base + step * i + o

/-- The SAT counters (R12). -/
def satOffsets : List Nat :=
  [oAccessErr, oSignedReject, oI3cCrc, oMsgGiveup] ++ offsets 0x010500 8 8 [0] ++ [oPwrReject, oLimitAssert] ++
  [oThmSuspect, oThmStep, oThmReject] ++ offsets 0x050000 0x2000 7 ((List.range 9).map fun i => 0x100 + 8 * i) ++
  offsets 0x080000 0x1000 12 ((List.range 5).map fun i => 0x100 + 8 * i) ++ [0x08F100, 0x08F108, 0x08F110] ++
  offsets 0x0A0000 0x1000 4 ((List.range 7).map fun i => 0x100 + 8 * i) ++ offsets (oFab 0x1000) 8 8 [0] ++
  offsets (oRly 0x1000) 8 4 [0] ++ offsets (oTst 0x1000) 8 4 [0]

/-- The wrapping counters (R13). -/
def wrapOffsets : List Nat :=
  [oMsgIn, oMsgOut, oMsgResend, oRotDone, oPatternRuns] ++ offsets 0x021100 8 5 [0] ++ [0x033100] ++
  offsets 0x050000 0x2000 7 ((List.range 4).map fun i => 0x200 + 8 * i) ++
  offsets 0x080000 0x1000 12 [0x200, 0x208, 0x210, 0x218, 0x300, 0x308, 0x310, 0x318] ++ [0x08F200, 0x08F208] ++
  offsets 0x0A0000 0x1000 4 ((List.range 4).map fun i => 0x200 + 8 * i) ++ offsets (oFab 0x1100) 8 6 [0] ++
  offsets (oFab 0x2000) 0x100 7 [0, 8, 16] ++ offsets (oRly 0x1100) 8 4 [0] ++ [oTst 0x1100]

/-! ### MGT_ and HLT_ (R384, R456, R459, R463) -/

/-- The MGT_ registers. -/
def State.readMgt (s : State) (o : Nat) : Option Word :=
  match o with
  | 0x00 => some (regOf [(0x1536, 48), (0xB0, 40), (1, 32), (1, 24), (0, 16), (1, 8)])
  | 0x08 => some s.fuses.deviceId
  | 0x10 => some s.mgtState
  | 0x18 => some 0
  | 0x20 => some (regOf [(s.mgmt.event.toNat, 0)])
  | 0x28 => some (regOf [(s.mgmt.alertEn.toNat, 0)])
  | 0x30 => some s.mgmt.nonce
  | 0x38 => some (regOf ((List.range 4).map fun i => ((s.fuses.slots.getD i {}).roles.toNat, 8 * i)))
  | 0x40 => some (regOf [(s.mgmt.debugScope.toNat, 4), (b2n s.fuses.fuseLock, 0)])
  | 0x48 => some (regOf [(s.mgmt.i3c.dynAddr.toNat, 9), (b2n s.mgmt.i3c.addrValid, 8), (b2n s.mgmt.i3c.ibiEn, 0)])
  | 0x50 => some (regOf [(s.mgmt.telDst.toNat, 32), (b2n s.mgmt.telSvc, 31), (s.mgmt.telMs.toNat, 0)])
  | 0x58 => some (regOf [(s.mgmt.signedCmd.toNat, 48), (s.mgmt.signedCause.toNat, 40), (b2n s.mgmt.signedPending, 0)])
  | _ => none

/-- HLT_BUCKET. -/
def State.hltBucket (s : State) : Word :=
  regOf [(s.bucket.fullTests.toNat, 32), (b2n (s.dev.mode == .watch && s.bucket.belowLowSince.isSome), 17),
    (b2n s.levelHigh, 16), (s.nvm.level.toNat, 0)]

/-- HLT_LEDGER. -/
def State.hltLedger (s : State) : Word := regOf [(s.card.head.toNat, 0)]

/-- The HLT_ registers, the journal window and the ledger window. -/
def State.readHlt (s : State) (o : Nat) : Option Word :=
  let b := s.bucket
  match o with
  | 0x0000 => some s.hltLedger
  | 0x0020 => some (regOf [(s.card.jrnlSel.toNat, 0)])
  | 0x0028 => some (regOf [(s.nvm.oldestJidx.toNat, 32), (s.card.found.toNat, 24), (s.card.units, 0)])
  | 0x0400 => some s.hltBucket
  | 0x0408 => some (regOf [(b.releaseH.toNat, 48), (b.leakH.toNat, 32), (b.high.toNat, 24), (b.low.toNat, 16)])
  | 0x0410 => some s.hltCapacity
  | 0x0418 => some (regOf [(s.cells.verdict, 60), (s.cells.verdictSecond, 32), (s.cells.verdictFirst, 0)])
  | 0x0420 => some (regOf [(s.mgmt.hbMs.toNat, 0)])
  | o =>
    if 0x4000 ≤ o ∧ o < 0x5000 then some (wordAt s.card.window (o - 0x4000))
    else if 0x8000 ≤ o then
      match look s.card.ledger ((o - 0x8000) / 32) with
      | some r => some (wordAt (recordBytes r) (o % 32))
      | none => some 0
    else none

/-! ### PWR_, THM_ and TIM_ (R409) -/

/-- PWR_INPUT. -/
def State.pwrInput (s : State) : Word :=
  regOf [(satTo 16 (fixedW s.power), 32), ((Config.measuredInput (s.pt.toNat / ticksMs 1)).toNat, 16),
    (satTo 16 (pLim s.power.limitW.toNat).floor.toNat, 0)]

/-- The PWR_ registers. -/
def State.readPwr (s : State) (o : Nat) : Option Word :=
  let p := s.power
  match o with
  | 0x0000 => some (regOf [(p.limitW.toNat, 32), (b2n p.budgetReject, 2), (b2n s.pins.pwrLimit, 1), (b2n p.limitActive, 0)])
  | 0x0008 => some s.pwrInput
  | o =>
    if 0x0100 ≤ o ∧ o < 0x0100 + 8 * nPools then
      let i := (o - 0x0100) / 8
      some (regOf [(budgetOf p i, 48), (limBudget p i, 36), (heldUnits p i, 24), (fixedDraw p i, 12),
        (satTo 12 (p.queue.filter fun t => t.inPool i).length, 0)])
    else none

/-- The dies that have a T_d (R400): all but the stacks. -/
def sensedDies : List Nat := List.range 0x1C

/-- The die of the highest T_d and that temperature. -/
def State.hotDie (s : State) : Nat × Int :=
  sensedDies.foldl (fun (m : Nat × Int) d => let t := (s.dieTemp d).1; if m.2 < t then (d, t) else m) (0, (s.dieTemp 0).1)

/-- THM_STATUS. -/
def State.thmStatus (s : State) : Word :=
  let (d, t) := s.hotDie
  regOf [(fieldOf 16 t, 32), (d, 16), (b2n s.thermal.stepActive, 2), (b2n s.thermal.trip, 1),
    (b2n (s.thermal.pause.any fun p => decide (0 < p.2)), 0)]

/-- The THM_ registers. -/
def State.readThm (s : State) (o : Nat) : Option Word :=
  if o = 0 then some s.thmStatus
  else if o = 8 then some s.thermal.stepPt
  else if 0x0100 ≤ o ∧ o < 0x0100 + 8 * 0x28 then
    let d := (o - 0x0100) / 8
    let (t, hot) := s.dieTemp d
    let n := ((sensorsOf d).filter fun i => (s.sensor i).doubted).length
    some (regOf [(fieldOf 16 t, 32), (lookD s.thermal.pause d 0, 24), (n, 16), (hot, 0)])
  else if 0x1000 ≤ o ∧ o < 0x1000 + 8 * 476 then
    let i := (o - 0x1000) / 8
    let x := s.sensor i
    some (regOf [(fieldOf 16 x.est, 32), (fieldOf 16 x.t, 16), (b2n (continuous i), 3), (b2n x.fast, 2),
      (b2n x.doubted, 1), (b2n x.valid, 0)])
  else none

/-- TIM_CLK. -/
def State.timClk (s : State) : Word :=
  regOf [(b2n s.pins.refPresent, 3), (b2n s.clocks.pllLock, 2), (s.clocks.clkSrc.toNat, 0)]

/-- The TIM_ registers. -/
def State.readTim (s : State) (o : Nat) : Option Word :=
  match o with
  | 0x00 => some s.pt
  | 0x08 => some (regOf [(s.nvm.bootCount.toNat, 0)])
  | 0x10 => some s.timClk
  | _ => none

/-! ### LNK_ (R280) -/

/-- LNK_STATUS_n. -/
def State.lnkStatus (s : State) (n : Nat) : Word :=
  let p := s.port n
  let recent := (p.retrains.filter fun t => decide (s.since t < ticksS 1)).length
  regOf [(if p.state = .up then lanesOf n else 0, 40), (min (p.spareFibres n) (p.txSpares n), 36), (satTo 8 (p.spareChans n), 28), (if s.cabled n then p.holdCause else hUncabled, 24),
    (p.combs.length, 22), (p.active, 20), (p.epoch % 16, 16), (satTo 8 recent, 8), (p.state.code, 0)]

/-- LNK_NEIGH_n. -/
def State.lnkNeigh (s : State) (n : Nat) : Word :=
  let p := s.port n
  regOf [(b2n p.neighValid, 63), (satTo 16 p.rtt, 40), (p.peerPort, 32), (p.peerCoord.toNat, 0)]

/-- LNK_FIBRE_n_f. -/
def State.lnkFibre (s : State) (n f : Nat) : Word :=
  let p := s.port n
  let rx := match (p.inUse n).findIdx? (· = f) with
    | some i => i
    | none => if (p.goodFibres n).contains f then 0xE else 0xF
  let tx := if p.peerFibres.getLsbD f then (lookD p.peerMaps f 0).toNat else 0
  let used := if (p.inUse n).contains f then maskOf (p.chansInUse f) else 0
  regOf [(rx, 60), (tx, 36), (used, 18), (maskOf (p.goodChans f), 0)]

/-- LNK_LANE_n_L. -/
def State.lnkLane (s : State) (n l : Nat) : Word :=
  let p := s.port n
  match p.lanePlace n l with
  | some (f, w) =>
    let c := p.chan f w
    regOf [(satTo 16 c.lastWindow, 32), (c.margin, 24), (f, 12), (w, 7)]
  | none => 0

/-- LNK_TOPO. -/
def State.lnkTopo (s : State) : Word :=
  regOf [(b2n s.links.strapOk, 55), (s.links.strapCoord.toNat, 37), (s.config.cabled.toNat, 30), (s.config.extentZ, 14),
    (s.config.extentY, 7), (s.config.extentX, 0)]

/-- The LNK_ registers. -/
def State.readLnk (s : State) (o : Nat) : Option Word :=
  let n := o / 0x2000
  let r := o % 0x2000
  if o = 0xE000 then some s.lnkTopo
  else if 7 ≤ n then none
  else if r = 0 then some (s.lnkStatus n)
  else if r = 8 then some (regOf [(b2n (s.port n).holdReg, 1)])
  else if r = 0x10 then some (s.lnkNeigh n)
  else if 0x40 ≤ r ∧ r < 0x40 + 72 then some (s.lnkFibre n ((r - 0x40) / 8))
  else if 0x400 ≤ r ∧ r < 0x800 then some (s.lnkLane n ((r - 0x400) / 8))
  else none

/-! ### MEM_ and GLD_ -/

/-- MEM_STACK_m and MEM_MARGIN_m. -/
def State.memStack (s : State) (m : Nat) : Word :=
  let k := s.stack m
  let temp := (lookD s.thermal.stackTemp m 0).fdiv 64
  regOf [(satTo 8 k.pprLeft, 48), (satTo 8 k.lanesRepaired, 40), (k.marginCause.toNat, 32), (b2n k.exhausted, 16),
    ((max 0 (min 255 temp)).toNat, 8), (k.state.toNat, 0)]
def State.memMargin (s : State) (m : Nat) : Word :=
  match (s.stack m).margin with
  | some x => regOf [(satTo 8 x.worstPc, 40), (satTo 8 x.worstLane, 32), (satTo 8 x.rdWidth, 24), (satTo 8 x.wrWidth, 16),
      (satTo 8 x.height, 8)]
  | none => 0

/-- The MEM_ registers. -/
def State.readMem' (s : State) (o : Nat) : Option Word :=
  let m := o / 0x1000
  match o % 0x1000 with
  | 0x00 =>
    if m < 12 then some (s.memStack m)
    else if m = 15 then
      some (regOf [(b2n s.stores.marginRefused, 33), (s.stores.scrubH.toNat, 16), (b2n s.clocks.derated, 8), (s.stores.lodgeSp, 0)])
    else none
  | 0x08 => if m < 12 then some (s.memMargin m) else if m = 15 then some s.stores.lodgeOos else none
  | 0x10 => if m < 12 then some (s.stack m).marginPt else none
  | 0x18 => if m < 12 then some (s.stack m).ueLoc else none
  | _ => none

/-- The GLD_ registers. -/
def State.readGld (s : State) (o : Nat) : Option Word :=
  let n := o / 0x1000
  if o = 0x8000 then
    let g := s.glide
    some (regOf [(g.guard.toNat, 32), (g.horizonS.toNat, 16), (g.maxAgeH.toNat, 8), (g.shadowLog2.toNat, 0)])
  else if 4 ≤ n then none
  else match o % 0x1000 with
    | 0x00 => some (s.gldStatus n)
    | 0x08 => some (s.predN n)
    | 0x10 => some (s.predDReg n)
    | 0x18 => some (s.engine n).calPt
    | 0x20 => some (s.gldTemp n)
    | 0x28 => some (s.gldShadow n)
    | _ => none

/-! ### CEL_ (R153, R171, R464) -/

/-- CEL_UNITS. -/
def State.celUnits (s : State) : Word :=
  let m := s.cap
  let cells := m.ranks.foldl (fun n p => n + p.2) 0
  regOf [(b2n m.belowFloor, 36), (cells, 24), (m.ports.toNat, 16), (m.engines.toNat, 12), (m.stackSet.toNat, 0)]

/-- The CEL_ registers. A cluster that no generation has listed yet shows no spare. -/
def State.readCel (s : State) (o : Nat) : Option Word :=
  let m := s.cap
  if o = 0 then some (regOf [(b2n m.writing, 32), (m.gen.toNat, 0)])
  else if o = 8 then some s.celUnits
  else if o = 0x10 then some m.lodge
  else if o = 0x100 then some (regOf [(b2n s.cells.rotEn, 32), (s.cells.intervalS.toNat, 0)])
  else if 0x200 ≤ o ∧ o < 0x240 then
    some (if o % 16 = 0 then lookD m.engineRegs ((o - 0x200) / 16) 0 else lookD m.predN ((o - 0x200) / 16) 0)
  else if 0x1000 ≤ o ∧ o < 0x1400 then some (lookD m.clusterRegs ((o - 0x1000) / 8) 0x1F0000)
  else if 0x4000 ≤ o ∧ o < 0x8000 then some (celDist ((o - 0x4000) / 8))
  else none

/-! ### FAB_ and RLY_ (R332, R356) -/

/-- A table's SHAPE field. -/
def SliceTable.shapeM1 (t : SliceTable) : Nat := (t.size 0 - 1) + 64 * (t.size 1 - 1) + 4096 * (t.size 2 - 1)

/-- FAB_PORT_n. -/
def State.fabPort (s : State) (n : Nat) : Word :=
  let gs := match s.fabric.table with
    | some t => s.gondolasOn t n
    | none => []
  regOf [(gs.foldl (fun k g => k + g.share) 0, 16), (gs.length, 8), (b2n (s.fabric.fenced.contains n), 1), (b2n (s.inSlice n), 0)]

/-- FAB_GND_g. -/
def State.fabGnd (s : State) (i : Nat) : Word :=
  match s.fabric.table with
  | some t =>
    let g := t.gondolas.getD i {}
    regOf [(g.share, 48), (b2n g.valid, 47), (s.gndPort t g, 44), (g.dst.toNat, 18), (g.src.toNat, 0)]
  | none => regOf [(7, 44)]

/-- The FAB_ registers. -/
def State.readFab (s : State) (o : Nat) : Option Word :=
  let f := s.fabric
  if o = 0 then
    let r := (f.refuseCause.toNat, 24)
    some (match f.table with
      | some t => regOf [(t.sliceId.toNat, 48), (t.gen.toNat, 32), r, (b2n t.farmem, 17), (b2n t.spread, 16)]
      | none => regOf [r])
  else if o = 8 then
    some (match f.table with
      | some t => regOf [(b2n (t.isClosed 2), 39), (b2n (t.isClosed 1), 38), (b2n (t.isClosed 0), 37), (t.shapeM1, 18), (t.origin.toNat, 0)]
      | none => 0)
  else if o = 0x10 then
    some (match f.table with
      | some t =>
        let l := coordOf (s.logicalAt t s.here 0) (s.logicalAt t s.here 1) (s.logicalAt t s.here 2)
        regOf [(l.toNat, 32), (s.rankOf t s.here, 0)]
      | none => 0)
  else if o = 0x18 then some (regOf [(satTo 16 f.highWater, 32), (satTo 16 s.inFlight, 0)])
  else if 0x100 ≤ o ∧ o < 0x138 then some (s.fabPort ((o - 0x100) / 8))
  else if 0x200 ≤ o ∧ o < 0x280 then some (s.fabGnd ((o - 0x200) / 8))
  else none

/-- The STATE of a group: its command in progress. -/
def State.collState (s : State) (g : Nat) : Nat :=
  match look s.relay.cmds g with
  | some c => match c.kind with
    | .rs => 1
    | .ag => 2
    | .digest => 3
  | none => 0

/-- The RLY_ registers. -/
def State.readRly (s : State) (o : Nat) : Option Word :=
  if o = 0 then some (regOf [(s.relay.lagAlertUs.toNat, 32)])
  else if 0x100 ≤ o ∧ o < 0x180 then
    let g := (o - 0x100) / 8
    let e := s.groupOf g
    let r := s.ringOf g
    some (if e.axes = 0 then 0 else
      regOf [(r.size, 42), (r.rank, 24), (e.weight, 20), (e.axes, 17), (s.collState g, 15), (s.slotsOf g, 0)])
  else if 0x200 ≤ o ∧ o < 0x300 then
    let r := lookD s.relay.regs ((o - 0x200) / 16) {}
    some (if o % 16 = 0 then regOf [(r.ownLag.toNat, 32), (r.worstLag.toNat, 0)] else regOf [(r.serial.toNat, 32), (r.worstRank.toNat, 0)])
  else if 0x400 ≤ o ∧ o < 0x500 then
    let r := lookD s.relay.regs ((o - 0x400) / 16) {}
    some (if o % 16 = 0 then r.digest
      else regOf [(r.agree.toNat, 32), (r.distinct.toNat, 29), (b2n r.overflow, 28), (r.oddRank.toNat, 0)])
  else none

/-! ### TST_ and IMG_ (R438) -/

/-- The TST_ registers. -/
def State.readTst (s : State) (o : Nat) : Option Word :=
  let t := s.test
  match o with
  | 0x00 => some (regOf [(s.boot.limitStep, 44), (maskOf (s.boot.done.map (· - 1)), 16), (s.boot.step, 0)])
  | 0x10 => some (regOf [(t.target.toNat, 12), (b2n t.refused, 3), (b2n t.abandoned, 2), (b2n t.running, 1)])
  | 0x20 => some t.failLoc
  | 0x30 => some (regOf [(t.packRefuse.toNat, 56), (s.nvm.patterns.length, 0)])
  | 0x38 => some s.nvm.packSeq
  | o => if 0x108 ≤ o ∧ o ≤ 0x158 then some (lookD s.boot.endPt ((o - 0x100) / 8) 0) else none

/-- The IMG_ registers. -/
def State.readImg (s : State) (o : Nat) : Option Word :=
  let i := s.img
  match o with
  | 0x00 => some (regOf [(i.booted.toNat, 56), (i.causeB.toNat, 48), (i.causeA.toNat, 40), (s.fuses.minSvn.toNat % 256, 32), (i.svn.toNat, 0)])
  | 0x08 => some (regOf [(b2n s.nvm.preferB, 0)])
  | 0x10 => some i.buildId
  | _ => none

/-! ### The window (R10, R440, R455) -/

/-- The blocks on the management island, which answer from STANDBY on (R420, log 38). -/
def onIsland (off : Nat) : Bool := [0x00, 0x01, 0x03, 0x04, 0x12, 0x14].contains (off / 0x10000)

/-- The other blocks read zero until step 3 of cold start ends (R420), and without main power. -/
def State.blockUp (s : State) (off : Nat) : Bool :=
  onIsland off || s.dev.mode != .off && s.dev.mode != .standby && s.boot.done.contains 3

/-- A register by its offset, as its block holds it; none where nothing lies there. -/
def State.regAt (s : State) (off : Nat) : Option Word :=
  if satOffsets.contains off then some (lookD s.sat off 0)
  else if wrapOffsets.contains off then some (lookD s.wrap off 0)
  else
    let o := off % 0x10000
    match off / 0x10000 with
    | 0x00 => s.readMgt o
    | 0x01 => s.readHlt o
    | 0x02 => s.readPwr o
    | 0x03 => s.readThm o
    | 0x04 => s.readTim o
    | 0x05 => s.readLnk o
    | 0x08 => s.readMem' o
    | 0x0A => s.readGld o
    | 0x0C => s.readCel o
    | 0x0E => s.readFab o
    | 0x10 => s.readRly o
    | 0x12 => s.readTst o
    | 0x14 => s.readImg o
    | _ => none

/-- A register read (R10, R440): its value, or none for an access error, which is counted. -/
def State.regRead (s : State) (off : Nat) : State × Option Word :=
  if off % 8 ≠ 0 then (s.bump oAccessErr, none) else
  match s.regAt off with
  | none => (s.bump oAccessErr, none)
  | some v => (s, some (if s.blockUp off then v else 0))

end Sys2Proof.Machine
end

