-- ==== Sys2Proof/Machine/Parts.lean ====
section
/-!
DEFINITION. Parts that fail their self-test (R226, R362, R367, R425 to R429): what each takes out of service, at start-up and
in the tests of R434.
-/
namespace Sys2Proof.Machine

/-! ### Parts that fail (R226, R362, R367, R425 to R429) -/

/-- A cluster is unavailable, its 17 cells faulty (R425). -/
def State.clusterLost (s : State) (c : Nat) : State :=
  let s := (List.range 17).foldl (fun (s : State) i => s.withPCell (pIndex c i) fun x => { x with faulty := true }) s
  s.withCluster c fun k => { k with unavailable := true }

/-- A Lodge slice is out of service (R226). -/
def State.sliceLost (s : State) (i : Nat) : State :=
  s.withStores fun c => { c with lodgeOos := c.lodgeOos ||| BitVec.ofNat 64 (2 ^ (i % 64)) }

/-- A Lodge slice with a defect found in a field test goes out of service at the next job start (R226). -/
def State.sliceLeaves (s : State) (i : Nat) : State :=
  s.withStores fun c => { c with lodgeLeaving := c.lodgeLeaving ||| BitVec.ofNat 64 (2 ^ (i % 64)) }

/-- A stack is out of service for the boot. -/
def State.stackLost (s : State) (m : Nat) : State := s.withStack m fun k => { k with state := 4 }

/-- A Glide engine is faulty. -/
def State.engineLost (s : State) (n : Nat) : State := s.withEngine n fun e => { e with state := 6 }

/-- A port cannot field its lanes: HELD with cause DEVICE (R278). -/
def State.portLost (s : State) (n : Nat) : State := s.holdPort n hDevice

/-- A sensor is faulty, which is permanently suspect (R399, R426). -/
def State.sensorLost (s : State) (i : Nat) : State := s.withSensor i fun x => { x with faulty := true }

/-- The sites at a hub stop, row by row. -/
def sitesAt (stop : Nat) : List Nat := (List.range 0xD0).filter fun site => stopOf site = some (stop / 8, stop % 8)

/-- Every site at a hub stop is unavailable (R425): clusters, a Lodge slice, a memory controller, a Glide engine. -/
def State.stopLost (s : State) (stop : Nat) : State :=
  (sitesAt stop).foldl (fun (s : State) x =>
    if x < 0x80 then s.clusterLost x
    else if x < 0xC0 then s.sliceLost (x - 0x80)
    else if x < 0xCC then s.stackLost (x - 0xC0)
    else s.engineLost (x - 0xCC)) s

/-- Router core, hub-network core, admission controller or Relay engine: the device is below the floor (R369, R425). -/
def State.coreLost (s : State) : State := s.withBoot fun b => { b with coreFailed := true }

/-- Piste blocks by their numbers in the spare map: 0 a core, 0x100 + stop, 0x200 + controller, 0x300 + port (log 42). -/
def State.blockLost (s : State) (u : Nat) : State :=
  if u = 0 then s.coreLost
  else if u < 0x200 then s.stopLost (u - 0x100)
  else if u < 0x300 then s.stackLost (u - 0x200)
  else s.portLost (u - 0x300)

/-- An unrepaired failure's outcome, with its spare-map entry (Table - Self-test outcomes). -/
def State.partFails (s : State) (p : Part) (source : Nat) : State :=
  match p with
  | .cell p => s.cellFaulty p source
  | .cluster c => (s.clusterLost c).addSpare 0x0A (dieCompute (c / 8)) c 0 0 source
  | .hubStop h => (s.stopLost h).addSpare 0x0C 0 (0x100 + h) 0 0 source
  | .memoryController m => (s.stackLost m).addSpare 0x0C 0 (0x200 + m) 0 0 source
  | .linkLogic n => (s.portLost n).addSpare 0x0C 0 (0x300 + n) 0 0 source
  | .glide n => (s.engineLost n).addSpare 0x0B (dieGlide n) n 0 0 source
  | .lodgeSlice i => (if source = 1 then s.sliceLost i else s.sliceLeaves i).addSpare 0x08 0 i 0 0 source
  | .core => s.coreLost.addSpare 0x0C 0 0 0 0 source
  | .ccPair => s.enterFault 0x04
  | .mcPair => s.enterFault 0x03
  | .relayCombiner => s.orderDrain drSilent

end Sys2Proof.Machine
end

