-- ==== Sys2Proof/Machine/Writes.lean ====
section
/-!
DEFINITION. Register writes (R10 to R12, R39, R153, R171, R231, R280, R332, R356, R376, R384, R385, R394, R395, R409, R434,
R438, R440, R449, R454, R462, R463): what a write of each field does, and the table's rows for the writes with behaviour of
their own. A write of a value that a field's table calls ignored leaves that field.
-/
namespace Sys2Proof.Machine

/-- A field of a written value. -/
def fieldAt (v : Word) (hi lo : Nat) : Nat := bits v.toNat hi lo

/-- A value within a range, or what the field holds (R11). -/
def inRange (lo hi new old : Nat) : Nat := if lo ≤ new ∧ new ≤ hi then new else old

/-! ### MGT_CTL: drain orders (R36, R449) -/

/-- A management drain order (R36, R449): it holds until a release. In a state that takes no order it does nothing. -/
def State.drainHold (s : State) : State :=
  if s.dev.mode.running || s.dev.mode = .drain || s.dev.mode = .boot then
    (s.withDev fun d => { d with mgtHold := true }).orderDrain drMgt
  else s

/-- A release of every management order in force (R449); that of a debug unlock stands (R467). -/
def State.drainRelease (s : State) : State :=
  let s := s.withDev fun d => { d with mgtHold := false }
  match s.dev.mode with
  | .boot => if s.dev.debugHold then s else s.withDev fun d => { d with bootDrain := d.bootDrain &&& ~~~1 }
  | _ => s.leaveDrain

/-- DRAIN_GO (R449). -/
def execDrainGo (s : State) : Out := .next s.drainHold

/-- DRAIN_RELEASE (R449). -/
def execDrainRelease (s : State) : Out := .next s.drainRelease

/-- POWERDOWN (R32, R449): a drain with DR_POWERDOWN. -/
def execPowerdown (s : State) : Out := .next (s.orderDrain drPowerdown)

/-- A write of MGT_CTL. -/
def State.writeCtl (s : State) (v : Word) : State :=
  let s := if v.getLsbD 0 then s.drainHold else s
  let s := if v.getLsbD 1 then s.drainRelease else s
  if v.getLsbD 2 then s.orderDrain drPowerdown else s

/-! ### MGT_ and HLT_ -/

/-- A write of MGT_TEL_CTL: a new period runs from the write. -/
def State.writeTel (s : State) (v : Word) : State :=
  let ms := fieldAt v 15 0
  s.withMgmt fun m =>
    { m with telDst := BitVec.ofNat 18 (fieldAt v 49 32), telSvc := v.getLsbD 31
             telMs := if ms = 0 ∨ (10 ≤ ms ∧ ms ≤ 60000) then BitVec.ofNat 16 ms else m.telMs
             telLast := s.pt }

/-- A write of an MGT_ register. -/
def State.writeMgt (s : State) (o : Nat) (v : Word) : State :=
  match o with
  | 0x18 => s.writeCtl v
  | 0x20 => s.withMgmt fun m => { m with event := m.event &&& ~~~(v.setWidth 6) }
  | 0x28 => s.withMgmt fun m => { m with alertEn := v.setWidth 6 }
  | 0x50 => s.writeTel v
  | _ => s

/-- HLT_JRNL_SEL (R463): the entry is shown from the flush buffer as it will be written, or from the ring; one that fails its
CRC reads as absent with FOUND 3, and one that is in neither with FOUND 2. -/
def State.selectEntry (s : State) (j : BitVec 32) : State :=
  let s := s.withCard fun c => { c with jrnlSel := j }
  match (s.card.buffer ++ s.nvm.journal).find? (·.jidx = j) with
  | some e =>
    if e.crcBad then s.withCard fun c => { c with found := 3, units := 0, window := [] }
    else s.withCard fun c => { c with found := 1, units := unitsOf e.payload, window := padTo 4096 (entryBytes e) }
  | none => s.withCard fun c => { c with found := 2, units := 0, window := [] }

/-- HLT_JRNL_SEL (R463). -/
def execJrnlSelWrite (value : Word) (s : State) : Out :=
  if s.dev.mode = .off then .next s else .next (s.selectEntry (value.setWidth 32))

/-- HLT_BUCKET_CTL (R385): HIGH and LOW are taken together, and only with LOW below HIGH; no crossing is recorded. -/
def State.writeBucket (s : State) (v : Word) : State :=
  let b := s.bucket
  let high := inRange 2 64 (fieldAt v 31 24) b.high.toNat
  let low := inRange 0 63 (fieldAt v 23 16) b.low.toNat
  let pair := if low < high then (high, low) else (b.high.toNat, b.low.toNat)
  let below := decide (s.nvm.level.toNat < pair.2 * 256)
  s.withBucket fun b =>
    { b with releaseH := BitVec.ofNat 16 (inRange 1 720 (fieldAt v 63 48) b.releaseH.toNat)
             leakH := BitVec.ofNat 16 (inRange 1 720 (fieldAt v 47 32) b.leakH.toNat)
             high := BitVec.ofNat 8 pair.1, low := BitVec.ofNat 8 pair.2
             belowLowSince := if below then (if b.belowLowSince.isSome then b.belowLowSince else some s.pt) else none }

/-- HLT_BUCKET_CTL (R385). -/
def execBucketCtlWrite (value : Word) (s : State) : Out :=
  if s.dev.mode = .off then .next s else .next (s.writeBucket value)

/-- A write of an HLT_ register. -/
def State.writeHlt (s : State) (o : Nat) (v : Word) : State :=
  match o with
  | 0x0020 => s.selectEntry (v.setWidth 32)
  | 0x0408 => s.writeBucket v
  | 0x0420 => s.withMgmt fun m => { m with hbMs := BitVec.ofNat 8 (inRange 1 13 (fieldAt v 7 0) m.hbMs.toNat) }
  | _ => s

/-! ### PWR_ (R387, R394, R395, R397, R409) -/

/-- A budget written to pool i (R394): rejected with event 0x77, or taken, with the limit budgets recomputed. -/
def State.writeBudget (s : State) (i : Nat) (v : Word) : State :=
  let b := fieldAt v 59 48
  if budgetOk s.power i b then
    (s.withPower fun p => { p with budgets := put p.budgets i b }).enforceLimit.growBursts
  else ((s.withPower fun p => { p with budgetReject := true }).bump oPwrReject).record 0x77 0xFF (item 1 i ++ item 8 v.toNat)

/-- PWR_POOL_i (R394). -/
def execPoolBudgetWrite (pool : Nat) (value : Word) (s : State) : Out :=
  if pool < nPools ∧ s.blockUp 0x020000 = true then .next (s.writeBudget pool value) else .next s

/-- LIMIT_W (R395, R397): 1,900 to 4,400; the limit budgets are recomputed. -/
def State.writeLimit (s : State) (w : Nat) : State :=
  if 1900 ≤ w ∧ w ≤ 4400 then (s.withPower fun p => { p with limitW := BitVec.ofNat 16 w }).enforceLimit.growBursts else s

/-- PWR_CTL: LIMIT_W, and BUDGET_REJECT cleared by writing 1. -/
def State.writePwrCtl (s : State) (v : Word) : State :=
  let s := s.writeLimit (fieldAt v 47 32)
  s.withPower fun p => { p with budgetReject := p.budgetReject && !v.getLsbD 2 }

/-- LIMIT_W in PWR_CTL (R395). -/
def execLimitWWrite (value : Word) (s : State) : Out :=
  if s.blockUp 0x020000 then .next (s.writePwrCtl value) else .next s

/-- A write of a PWR_ register. -/
def State.writePwr (s : State) (o : Nat) (v : Word) : State :=
  if o = 0 then s.writePwrCtl v
  else if 0x0100 ≤ o ∧ o < 0x0100 + 8 * nPools then s.writeBudget ((o - 0x0100) / 8) v
  else s

/-! ### LNK_, MEM_, GLD_, CEL_, FAB_ and RLY_ -/

/-- A write of LNK_CTL_n: HOLD takes the value written, and RETRAIN_GO starts training (R280). -/
def State.writeLnk (s : State) (o : Nat) (v : Word) : State :=
  if o % 0x2000 = 8 ∧ o / 0x2000 < 7 then
    let s := s.setHold (o / 0x2000) (v.getLsbD 1)
    if v.getLsbD 0 then s.retrainPort (o / 0x2000) else s
  else s

/-- A write of MEM_CTL: SCRUB_H and MARGIN_REFUSED, and MARGIN_GO, which begins the margining whose results its own step
brings (R231). -/
def State.writeMem' (s : State) (o : Nat) (v : Word) : State :=
  if o = 0xF000 then
    let go := v.getLsbD 32
    s.withStores fun c =>
      { c with scrubH := BitVec.ofNat 8 (inRange 1 48 (fieldAt v 23 16) c.scrubH.toNat)
               marginDue := c.marginDue || (go && s.marginOpen)
               marginRefused := (c.marginRefused && !v.getLsbD 33) || (go && !s.marginOpen) }
  else s

/-- A write of GLD_CTL. -/
def State.writeGld (s : State) (o : Nat) (v : Word) : State :=
  if o = 0x8000 then
    s.withGlide fun g =>
      { g with guard := BitVec.ofNat 8 (fieldAt v 39 32)
               horizonS := BitVec.ofNat 16 (inRange 1 3600 (fieldAt v 31 16) g.horizonS.toNat)
               maxAgeH := BitVec.ofNat 8 (inRange 1 168 (fieldAt v 15 8) g.maxAgeH.toNat)
               shadowLog2 := BitVec.ofNat 4 (inRange 6 14 (fieldAt v 3 0) g.shadowLog2.toNat) }
  else s

/-- A write of CEL_ROT_CTL: T, ROT_EN, and FULL_TEST, which READY, RUN and WATCH take (R171). -/
def State.writeCel (s : State) (o : Nat) (v : Word) : State :=
  if o = 0x100 then
    let s := s.withCells fun c =>
      { c with intervalS := BitVec.ofNat 32 (inRange 10 3600 (fieldAt v 31 0) c.intervalS.toNat), rotEn := v.getLsbD 32 }
    if v.getLsbD 33 && s.dev.mode.running then s.startFullTest else s
  else s

/-- A write of FAB_PORT_n: FENCE_GO (R293, R332). -/
def State.writeFab (s : State) (o : Nat) (v : Word) : State :=
  if 0x100 ≤ o ∧ o < 0x138 ∧ v.getLsbD 2 = true then s.fence ((o - 0x100) / 8) 1 else s

/-- A write of RLY_CTL (R356). -/
def State.writeRly (s : State) (o : Nat) (v : Word) : State :=
  if o = 0 then
    s.withRelay fun r => { r with lagAlertUs := BitVec.ofNat 32 (inRange 1 1000000 (fieldAt v 63 32) r.lagAlertUs.toNat) }
  else s

/-! ### TST_ and IMG_ (R416, R434, R438) -/

/-- A target of TST_CTL. -/
def targetOk (t : Nat) : Bool := (decide (1 ≤ t) && decide (t ≤ 5)) || decide (t = 0xF)

/-- GO: the tests of TARGET start in READY or WATCH with BOUND 0; else REFUSED is set (R434). -/
def State.testGo (s : State) : State :=
  if (s.dev.mode = .ready ∨ s.dev.mode = .watch) ∧ s.dev.bound = false then s.withTest fun t => { t with running := true }
  else s.withTest fun t => { t with refused := true }

/-- A write of TST_CTL. -/
def State.writeTstCtl (s : State) (v : Word) : State :=
  let target := fieldAt v 15 12
  let s := s.withTest fun t =>
    { t with target := if targetOk target then BitVec.ofNat 4 target else t.target
             refused := t.refused && !v.getLsbD 3, abandoned := t.abandoned && !v.getLsbD 2 }
  if v.getLsbD 0 then s.testGo else s

/-- TST_CTL GO with a target (R434). -/
def execTstGo (target : Nat) (s : State) : Out :=
  if s.dev.mode = .off then .next s else
  .next (s.writeTstCtl (BitVec.ofNat 64 (target % 16 * 2 ^ 12 + 1)))

/-- A failure of the on-demand tests (R425, R434): one that no repair covers takes its part out of service. -/
def State.demandFail (s : State) (f : SelfTestFail) : State :=
  let s := s.selfTestFail 0 f
  if f.repaired then s else s.partFails f.part 0

/-- The on-demand tests end (R425, R434): their failures are handled, event 0x87 is recorded, and capacity is judged against
the floor. -/
def execOnDemandTestEnd (failures : List SelfTestFail) (s : State) : Out :=
  if s.test.running then
    let s := failures.foldl State.demandFail s
    let s := s.withTest fun t => { t with running := false }
    let body := item 1 s.test.target.toNat ++ [Config.itemCode 0x87 1 0] ++ item 4 failures.length
    .next ((s.wrapBy (oTst 0x1100) 1).record 0x87 0xFF body).checkFloor
  else .next s

/-- A write of a TST_ register. -/
def State.writeTst (s : State) (o : Nat) (v : Word) : State := if o = 0x10 then s.writeTstCtl v else s

/-- A write of IMG_CTL: PREFER (R416). -/
def State.writeImg (s : State) (o : Nat) (v : Word) : State :=
  if o = 8 then s.withNvm fun n => { n with preferB := v.getLsbD 0 } else s

/-! ### A write of any register (R10 to R13, R420, R440) -/

/-- A SAT counter is cleared by a write with bit 63 set (R12). -/
def State.clearSat (s : State) (off : Nat) (v : Word) : State :=
  if v.getLsbD 63 then { s with sat := put s.sat off 0 } else s

/-- A write to an occupied offset. -/
def State.writeAt (s : State) (off : Nat) (v : Word) : State :=
  if satOffsets.contains off then s.clearSat off v
  else
    let o := off % 0x10000
    match off / 0x10000 with
    | 0x00 => s.writeMgt o v
    | 0x01 => s.writeHlt o v
    | 0x02 => s.writePwr o v
    | 0x05 => s.writeLnk o v
    | 0x08 => s.writeMem' o v
    | 0x0A => s.writeGld o v
    | 0x0C => s.writeCel o v
    | 0x0E => s.writeFab o v
    | 0x10 => s.writeRly o v
    | 0x12 => s.writeTst o v
    | 0x14 => s.writeImg o v
    | _ => s

/-- A register write by its offset, and whether the offset is occupied and aligned: another writes nothing and counts as
an access error (R10, R440). Blocks that are not up yet ignore it (R420). -/
def State.regWrite (s : State) (off : Nat) (v : Word) : State × Bool :=
  if off % 8 ≠ 0 ∨ (s.regAt off).isNone = true then (s.bump oAccessErr, false)
  else (if s.blockUp off then s.writeAt off v else s, true)

/-- A SAT counter's clearing write (R12). -/
def execSatCounterClear (offset : Nat) (value : Word) (s : State) : Out :=
  if s.dev.mode = .off ∨ satOffsets.contains offset = false ∨ s.blockUp offset = false then .next s
  else .next (s.clearSat offset value)

/-- A write of a register: one of 64 bits at an aligned offset acts, and any other is an access error (R10, R440). -/
def execRegisterWrite (offset bytes : Nat) (value : Word) (s : State) : Out :=
  if s.dev.mode = .off then .next s
  else if bytes ≠ 8 then .next (s.bump oAccessErr)
  else .next (s.regWrite offset value).1

/-! ### The capacity map and the journal (R462, R464) -/

/-- The capacity map is written with the next generation (R22, R464). -/
def execCapacityMapWrite (s : State) : Out :=
  match s.dev.mode with
  | .off | .standby => .next s
  | _ => .next s.writeMapNow

/-- A journal write fails (R462): JOURNAL_ERR is set and the write is retried once, in the next sector. Entries whose retry
fails too stay in the buffer for the next flush (log 39). -/
def State.flushFails (s : State) : State :=
  (s.setEvent evJournalErr 0).withCard fun c =>
    if c.retrying then { c with flushDue := false, retrying := false, lastFlush := s.pt } else { c with flushDue := true, retrying := true }

/-- The flush buffer is written to the flash (R462): every 1 s, after an ALERT entry, on entry to FAULT or BENCHED and when
it fills. -/
def execJournalFlush (writeOk : Bool) (s : State) : Out :=
  if s.dev.mode = .off then .next s
  else if s.card.flushDue || decide (ticksS 1 ≤ s.since s.card.lastFlush) then .next (if writeOk then s.flush else s.flushFails)
  else .next s

end Sys2Proof.Machine
end

