-- ==== Sys2Proof/Machine/Boot.lean ====
section
/-!
DEFINITION. Cold start (R270, R272, R362, R371, R414, R415, R418 to R432): its steps, what each finds, and the state it
ends in.
-/
namespace Sys2Proof.Machine

/-! ### The spare map and the tests of step 4 (R425 to R429) -/

/-- A spare-map entry as step 1 applies it (R428, R429): KINDs that mark a part. Lanes, rows and columns that an entry
replaces only leave their bundle fewer spares. -/
def State.applySpare (s : State) (e : SpareEntry) : State :=
  match e.kind with
  | 0x01 => s.withPort (e.die - 0x15) fun p => { p with bridgeSpares := upd p.bridgeSpares e.unit 0 (· + 1) }
  | 0x05 => s.withPCell e.unit fun x => { x with faulty := true }
  | 0x08 => s.sliceLost e.unit
  | 0x09 => s.sensorLost e.unit
  | 0x0A => s.clusterLost e.unit
  | 0x0B => s.engineLost e.unit
  | 0x0C => s.blockLost e.unit
  | _ => s

/-- The spare map as read at step 1 (R429): entry i of it; one whose CRC fails is skipped, counted and recorded. -/
def State.readSpare (s : State) (i : Nat) : State :=
  match s.nvm.spareMap[i]? with
  | some e =>
    if e.crcBad then (s.bump (oTst 0x1010)).record 0x84 0 ([Config.itemCode 0x84 0 0] ++ item 4 i)
    else s.applySpare e
  | none => s

/-- A self-test failure of step 4 (R425). -/
def State.bootTestFail (s : State) (f : SelfTestFail) : State :=
  let s := s.selfTestFail 1 f
  if f.repaired then s else s.partFails f.part 1

/-- Event 0x82 of an analog check, by its number in Table - Analog checks at start-up (log 13). -/
def State.analogEvent (s : State) (k die : Nat) : State := s.record 0x82 die ([Config.itemCode 0x82 0 (16 + k)] ++ item 1 die)

/-- An analog check of step 4 fails (R426). -/
def State.analogFails (s : State) (a : AnalogFail) : State :=
  match a with
  | .clockMonitor => (s.analogEvent 0 0).enterFault 0x01
  | .dieClock d =>
    ((s.analogEvent 1 d).withClocks fun c => { c with lostDies := if c.lostDies.contains d then c.lostDies else c.lostDies ++ [d] }).enterFault 0x01
  | .supply => (s.analogEvent 2 0).enterFault 0x09
  | .sensor i => ((s.analogEvent 3 (dieOfSensor i)).sensorLost i).addSpare 0x09 (dieOfSensor i) i 0 0 1
  | .glideConverter n => ((s.analogEvent 4 (dieGlide n)).engineLost n).addSpare 0x0B (dieGlide n) n 0 0 1
  | .edgeChannel n f w => (s.analogEvent 5 (dieEdge n)).retireChan n f w 0x10
  | .comb n c =>
    let s := (s.analogEvent 6 (dieEdge n)).withPort n fun p => { p with combs := p.combs.filter (· != c) }
    if (s.port n).combs.isEmpty then s.portLost n else s

/-! ### Lanes and stacks (R371, R427, R430) -/

/-- A bundle or bond group beyond its spares (R427): its Edge port, cluster port or Glide port. Bond groups are numbered
eight to a cluster port (log 42). -/
def State.laneLost (s : State) (r : LaneReport) : State :=
  if r.bridge then s.portLost (r.die - 0x15)
  else if r.die < 0x11 then
    let c := 8 * (r.die - 1) + r.unit / 8 % 8
    (s.clusterLost c).addSpare 0x0A r.die c 0 0 2
  else (s.engineLost (r.die - 0x11)).addSpare 0x0B r.die (r.die - 0x11) 0 0 2

/-- A lane or sub-group that fails at step 5 (R371, R427): replaced, with its spare-map entry and event 0x83, or its port
is lost. A trained width on which the die still disagrees after the further retrain is FAULT 0x08. -/
def State.laneFails (s : State) (r : LaneReport) : State :=
  let kind := if r.bridge then 1 else 2
  let n := if r.spare.isSome then 1 else 0
  let s := s.record 0x83 r.die (item 1 r.die ++ item 1 r.unit ++ item 1 n ++ [Config.itemCode 0x83 3 n])
  let s := match r.spare with
    | some x =>
      let s := s.addSpare kind r.die r.unit r.element (x * 256) 2
      if r.bridge then s.withPort (r.die - 0x15) fun p => { p with bridgeSpares := upd p.bridgeSpares r.unit 0 (· + 1) } else s
    | none => s.laneLost r
  if r.widthAgrees then s
  else (s.record 0x18 r.die (item 1 r.die ++ item 1 r.unit ++ [Config.itemCode 0x18 2 0, Config.itemCode 0x18 3 0])).enterFault 0x08

/-- A stack row that the march of step 6 finds failing (R425, R430): event 0x23 and MEM_UE_LOC_m; repaired hard at once, or
the stack is out of service. -/
def State.rowFails (s : State) (m : Nat) (r : RowFail) : State :=
  let s := s.withStack m fun k =>
    { k with ueLoc := BitVec.ofNat 64 (r.pc * 2 ^ 58 + r.bank * 2 ^ 54 + r.row * 2 ^ 37 + r.byte % 1024 * 2 ^ 27 + r.syndrome % 256) }
  let s := s.record 0x23 (dieStack m) (item 1 m ++ item 2 r.pc ++ item 2 r.bank ++ item 4 r.row ++ [Config.itemCode 0x23 4 1] ++ item 1 r.bit)
  if r.repaired then
    let s := (s.withStack m fun k => { k with pprLeft := min k.pprLeft r.sparesLeft }).bump (oMem m 0x120)
    s.record 0x1A (dieStack m) ([Config.itemCode 0x1A 0 6] ++ item 1 (dieStack m) ++ item 2 r.pc ++ item 2 r.bank ++ item 4 r.row ++
      item 2 r.byte ++ item 1 r.sparesLeft)
  else ((s.withStack m fun k => { k with exhausted := true }).stackLost m).record 0x25 (dieStack m) (item 1 m ++ item 2 r.bank)

/-- The soft repairs of a stack that the spare map lists and that its training has not made hard yet (R234). -/
def State.softRows (s : State) (m : Nat) : List Nat :=
  ((s.nvm.spareMap.filter fun e => decide (e.kind = 6) && decide (e.unit = m) && !e.crcBad).map (·.element)).filter fun r =>
    !s.nvm.hardRows.contains (m, r)

/-- A stack's training makes its soft repairs hard (R234, R430). -/
def State.hardRepairs (s : State) (m : Nat) : State :=
  (s.softRows m).foldl (fun (s : State) r =>
    if s.nvm.hardRows.contains (m, r) then s
    else (s.withNvm fun n => { n with hardRows := n.hardRows ++ [(m, r)] }).bump (oMem m 0x120)) s

/-- A stack comes up at step 6 (R228, R229, R234, R430), or stays out of service with its cause. Each lane that its repair has
replaced adds an entry to the spare map. -/
def State.bringStack (s : State) (x : MarginResult) : State :=
  let m := x.stack
  let lost := decide ((s.stack m).state = 4)
  let cause := failCause x
  let s := (s.hardRepairs m).marginStack x
  let s := if lost || decide (cause ≠ 0) then s.stackLost m else s.withStack m fun k => { k with state := 2 }
  let s := if cause = 0 then s else s.record 0x27 (dieStack m) (marginBody m x.worstPc x.worstLane x)
  let s := x.rowFails.foldl (fun (s : State) r => s.rowFails m r) s
  x.repaired.foldl (fun (s : State) l => s.addSpare 0x07 (dieStack m) m (l.1 * 2 ^ 26 + l.2) 0 3) s

/-- Stacks with no report do not respond (R229, MARGIN_CAUSE 0x04). -/
def State.silentStacks (s : State) : State :=
  ((List.range 12).filter fun m => !((s.stack m).state = 2 || (s.stack m).state = 4)).foldl (fun (s : State) m =>
    (s.withStack m fun k => { k with marginCause := 4 }).stackLost m) s

/-! ### Straps (R270) -/

/-- The straps are valid: both samples agree, with an odd number of ones, and each axis lies within its EXTENT. -/
def State.strapsOk (s : State) (x : StrapSample) : Bool :=
  let ones := (maskBits 18 x.pos1.toNat).length + b2n x.par1
  decide (x.pos1 = x.pos2) && x.par1 == x.par2 && decide (ones % 2 = 1) && [0, 1, 2].all fun a => decide (axisOf x.pos1 a < s.extent a)

/-- The straps are read (R270, R431): valid, ports at MAP go on to IDENT; otherwise event 0x38, and every cabled torus port is
HELD with cause STRAP. -/
def State.readStraps (s : State) (x : StrapSample) : State :=
  if s.strapsOk x then s.withLinks fun l => { l with strapOk := true, strapCoord := x.pos1 }
  else
    let s := s.record 0x38 0 (item 3 x.pos1.toNat ++ item 3 x.pos2.toNat ++ item 1 (b2n x.par1) ++ item 1 (b2n x.par2))
    let s := s.withLinks fun l => { l with strapOk := false, strapCoord := x.pos1 }
    ((List.range 6).filter s.cabled).foldl (fun (s : State) n => s.holdPort n hStrap) s

/-! ### The end of cold start (R36, R421) -/

/-- Drain orders that came in BOOT apply on entry to READY or WATCH (R36, R422): those still in force. -/
def State.bootOrders (s : State) : State :=
  let inForce (r : Nat) : Bool :=
    if r = drPin then s.pins.drainReq else if r = drMgt then s.dev.mgtHold || s.dev.debugHold else s.dev.bootDrain.getLsbD r
  if s.dev.mode = .ready ∨ s.dev.mode = .watch then
    let l := (List.range 7).filter inForce
    let s := s.withDev fun d => { d with bootDrain := 0 }
    match l with
    | [] => s
    | r :: rest =>
      let all := maskOf (r :: rest)
      let s := s.goto .drain
      (s.withDev fun d => { d with reasons := BitVec.ofNat 8 all, drainStart := s.pt, drained := false }).completeDrain []
  else s

/-- The state that cold start ends in (R421), with event 0x86. A device in WATCH starts its full field test (R364). -/
def State.endBoot (s : State) : State :=
  let s := if s.dev.mode ≠ .boot then s
    else if s.nvm.benchRecord || s.belowFloor then s.enterBenched
    else if s.nvm.watchRecord then s.enterWatch true
    else s.goto .ready
  let ends := (List.range 11).flatMap fun k => item 8 (lookD s.boot.endPt (k + 1) 0).toNat
  (s.record 0x86 0xFF (item 1 s.dev.mode.code ++ ends)).bootOrders

/-! ### The steps (R418, R419) -/

/-- A step begins; step 10 with the samples of the straps, which the ports at MAP then go on with (R270, R431). -/
def State.beginStep (s : State) (k : Nat) : State :=
  let s := s.withBoot fun b => { b with step := k, stepSince := s.pt }
  match k with
  | 7 => ((List.range 7).filter fun n => s.cabled n && (s.port n).holdCause = hNone).foldl State.toLight s
  | 9 =>
    ((List.range 4).filter fun n => (s.engine n).state ≠ 6).foldl (fun (s : State) n =>
      (s.withEngine n fun e => { e with state := 3 }).requestCal n) s
  | 10 => (List.range 7).foldl State.advancePort (s.readStraps s.boot.straps)
  | _ => s

/-- Every cabled port is at MAP or beyond, is held, or has waited 3 s in LIGHT (R265). -/
def State.portsReady (s : State) : Bool :=
  ((List.range 7).filter s.cabled).all fun n =>
    let p := s.port n
    match p.state with
    | .map | .ident | .up | .retrain | .held | .down => true
    | .light => decide (ticksS 3 ≤ s.since p.since)
    | _ => false

/-- Engines that are not calibrated when step 9 is over go to STATE 0x5 and retry under R196 (R419). -/
def State.uncalibrated (s : State) : State :=
  ((List.range 4).filter fun n => (s.engine n).state = 3).foldl (fun (s : State) n =>
    (s.withEngine n fun e => { e with state := 5, failSince := s.pt }).release (.glideCal n)) s

/-- The work of a step as it ends (R418): fuses, clocks, image, tests, lanes, stacks, ports, tables, calibrations, the capacity
map. -/
def State.stepWork (s : State) (k : Nat) (r : StepReport) : State :=
  match k with
  | 1 =>
    let s := { s with fuses := { s.fuses with usable := r.fuses.readable } }
    let s := r.fuses.factoryRepairs.foldl State.applySpare s
    (List.range s.nvm.spareMap.length).foldl State.readSpare s
  | 2 => s.withClocks fun c => { c with pllLock := true, clkSrc := 0, ckCHL := true }
  | 3 => s.bootImage r.headerReadsA r.headerReadsB
  | 4 => r.analog.foldl State.analogFails (r.selfTest.foldl State.bootTestFail s)
  | 5 => r.lanes.foldl State.laneFails s
  | 6 => (r.stackSet.foldl State.bringStack s).silentStacks
  | 8 =>
    ((List.range 4).filter fun n => (s.engine n).state ≠ 6).foldl (fun (s : State) n =>
      s.withEngine n fun e => { e with tCal := signedOf 16 (fld (s.config.tuning.getD n []) 0x440 2) }) s
  | 9 =>
    let s := r.glide.foldl (fun (s : State) c => if (s.engine c.engine).state = 3 then s.calibrated c else s) s
    s.uncalibrated
  | 11 => s.bindClusters.writeMapNow
  | _ => s

/-- A step ends (R418): its end is noted and the next begins; after step 11 cold start is over (R421). -/
def State.stepDone (s : State) (k : Nat) : State :=
  let s := s.withBoot fun b => { b with done := b.done ++ [k], endPt := put b.endPt k s.pt }
  if k = 11 then s.endBoot
  else s.beginStep (k + 1)

/-- IDENT has ended on every port that is at MAP with its work done, or beyond (R418). -/
def State.identsDone (s : State) : Bool :=
  ((List.range 7).filter s.cabled).all fun n =>
    let p := s.port n
    !(p.state == .ident || (p.state == .map && p.workDone))

/-- COLD_START_STEP_END: the step in progress ends with what it observed (R418). Step 7 lasts until R265 lets it end, and step
10 until IDENT has ended. Step 10 begins with the samples of the straps that the last report brought (log 141). -/
def execColdStartStepEnd (report : StepReport) (s : State) : Out :=
  let k := s.boot.step
  if s.dev.mode = .boot ∧ (k = 7 → s.portsReady = true) ∧ (k = 10 → s.identsDone = true) then
    let s := (s.withBoot fun b => { b with straps := report.straps }).stepWork k report
    if s.dev.mode = .boot then .next (s.stepDone k) else .next s
  else .next s

/-- The limit of a step, in ticks (Table - Cold start). -/
def stepLimit (k : Nat) : Nat :=
  match k with
  | 1 => ticksMs 10 | 2 => ticksMs 5 | 3 => ticksS 1 | 4 => ticksS 60 | 5 => ticksS 2 | 6 => ticksS 5 | 7 => ticksS 4
  | 8 => ticksMs 200 | 9 => ticksS 1 | 10 => ticksMs 100 | _ => ticksMs 100

/-- COLD_START_STEP_LIMIT (R419): FAULT 0x07, but for steps 7, 9 and 10, whose work goes on in the background. -/
def execColdStartStepLimit (s : State) : Out :=
  let k := s.boot.step
  if s.dev.mode = .boot ∧ stepLimit k ≤ s.since s.boot.stepSince then
    let s := s.withBoot fun b => { b with limitStep := k }
    if k = 7 ∨ k = 9 ∨ k = 10 then
      let s := s.withBoot fun b => { b with background := b.background ++ [k] }
      let s := if k = 9 then s.uncalibrated else s
      .next (s.beginStep (k + 1))
    else .next (s.enterFault 0x07)
  else .next s

end Sys2Proof.Machine
end

