-- ==== Sys2Proof/Machine/Slices.lean ====
section
/-!
DEFINITION. The slice table as it is loaded (R288 to R290, R292, R293, R300, R313, R320).
-/
namespace Sys2Proof.Machine

/-- The gondolas of a slice table's bytes. -/
def gondolasOf (b : List Byte) : List Gondola :=
  (List.range 16).map fun i =>
    let e := fld b (0x10 + 8 * i) 8
    { src := BitVec.ofNat 18 (bits e 17 0), dst := BitVec.ofNat 18 (bits e 41 24), share := bits e 55 48, valid := bit e 56 }

/-- The slice table that 144 bytes describe (R288). -/
def tableOf (b : List Byte) : SliceTable :=
  let sh := fld b 8 3
  let mode := fld b 0xB 1
  { sliceId := BitVec.ofNat 16 (fld b 0 2), gen := BitVec.ofNat 16 (fld b 2 2), origin := BitVec.ofNat 18 (fld b 4 3)
    shape := (bits sh 5 0 + 1, bits sh 11 6 + 1, bits sh 17 12 + 1), closed := (bit mode 0, bit mode 1, bit mode 2)
    spread := bit mode 3, farmem := bit mode 4, gondolas := gondolasOf b }

/-- The reserved fields of a slice table are zero (R288). -/
def tableReservedOk (b : List Byte) : Bool :=
  fld b 4 3 < 2 ^ 18 && fld b 7 1 = 0 && fld b 8 3 < 2 ^ 18 && fld b 0xB 1 < 32 && fld b 0xC 4 = 0 &&
  (List.range 16).all fun i =>
    let e := fld b (0x10 + 8 * i) 8
    bits e 23 18 = 0 && bits e 47 42 = 0 && bits e 63 57 = 0

/-- A shape fits an axis (R289): no larger than its EXTENT, and equal to it where the axis is closed. -/
def State.shapeFits (s : State) (t : SliceTable) (a : Nat) : Bool :=
  decide (t.size a ≤ s.extent a) && (!t.isClosed a || decide (t.size a = s.extent a))

/-- The gondolas of a table pass R300 on this device. -/
def State.gondolasOk (s : State) (t : SliceTable) : Bool :=
  (t.gondolas.all fun g => !g.valid || (s.inBox t g.src && s.inBox t g.dst && decide (1 ≤ g.share) && decide (g.share ≤ 48))) &&
  (List.range 7).all fun n =>
    let gs := s.gondolasOn t n
    decide (gs.length ≤ 16) && decide (gs.foldl (fun k g => k + g.share) 0 ≤ 48)

/-- The first condition of R289 that refuses a table; 0 where none does. -/
def State.tableCause (s : State) (b : List Byte) : Nat :=
  let t := tableOf b
  if !((s.dev.mode == .ready || s.dev.mode == .watch) && !s.dev.bound) then 1
  else if !([0, 1, 2].all (s.shapeFits t)) then 2
  else if !s.inBox t s.here then 3
  else if t.farmem && decide (4096 < t.size 0 * t.size 1 * t.size 2) then 4
  else if !s.gondolasOk t then 5
  else if !tableReservedOk b then 6
  else 0

/-- A port carries data, and so counts as UP for its fence: a fast retrain does not end that (R274, R293). -/
def State.portLive (s : State) (n : Nat) : Bool := (s.port n).state == .up || (s.port n).state == .retrain

/-- A table is loaded (R289): the fences are cleared and every torus port that is not UP is fenced (R293); the counts of
R313, the atomics of R320 and the largest count in flight start anew. A SLICE_ID of 0 then clears the table. -/
def State.loadTable (s : State) (t : SliceTable) : State :=
  let s := s.withFabric fun f =>
    { f with table := some t, fenced := [], issued := [], completed := [], ordHeld := [], atomSeq := [], atoms := []
             combines := [] }
  let s := s.withFabric fun f => { f with highWater := s.inFlight }
  let s := ((List.range 6).filter fun n => !s.portLive n).foldl (fun (s : State) n => s.fence n 2) s
  let s := s.record 0x53 0 (item 2 t.sliceId.toNat ++ item 2 t.gen.toNat ++ item 4 (t.gondolas.filter (·.valid)).length)
  if t.sliceId = 0 then s.clearTable else s

/-- SLICE_TABLE (R288, R289, R453): loaded, or refused with its cause, which event 0x54 records. -/
def State.sliceTable (s : State) (m : Msg) : Answer :=
  if m.route = .i3c then (s, stState, [])
  else if m.body.length ≠ 144 then (s, stFormat, [])
  else
    let cause := s.tableCause m.body
    if cause = 0 then (s.loadTable (tableOf m.body), stOk, [])
    else
      let s := s.withFabric fun f => { f with refuseCause := BitVec.ofNat 8 cause }
      (s.record 0x54 0 (item 1 cause), stRefused, item 1 cause)

end Sys2Proof.Machine
end

