-- ==== Sys2Proof/Machine/Signed.lean ====
section
/-!
DEFINITION. What is signed (R412 to R416, R435 to R437, R456, R465 to R467): signed commands, pattern packs and images.
-/
namespace Sys2Proof.Machine

/-! ### Signed commands (R465 to R467) -/

/-- The fields of a signed command (Table - Signed command). -/
def sgCmd (b : List Byte) : Nat := fld b 6 2
def sgSlot (b : List Byte) : Nat := fld b 0x28 1
def sgArg (b : List Byte) : List Byte := sub b 0x18 16

/-- Check 1 of R465: the format and the reserved fields. -/
def sgFormat (b : List Byte) : Bool :=
  b.length = 256 && fld b 0 4 = 0x53434D44 && fld b 4 2 = 1 && decide (1 ≤ sgCmd b) && decide (sgCmd b ≤ 4) &&
  decide (sgSlot b < 4) && allZero (sub b 0x29 7) && allZero (sub b 0x91 15)

/-- The role that a command needs: DEBUG for DEBUG_UNLOCK, else CMD. -/
def sgRole (cmd : Nat) : Nat := if cmd = 4 then 3 else 2

/-- The state allows a command (Table - Signed command codes). -/
def State.sgAllowed (s : State) (b : List Byte) : Bool :=
  let idle := (s.dev.mode == .ready || s.dev.mode == .watch) && !s.dev.bound
  match sgCmd b with
  | 1 | 2 => s.dev.mode != .boot
  | 3 => idle || ((s.dev.mode == .fault || s.dev.mode == .benched) && !s.dev.bound)
  | _ => match fld (sgArg b) 0 1 with
    | 1 => s.dev.mode == .standby
    | 2 => idle
    | _ => true

/-- ARG is valid. -/
def State.sgArgOk (s : State) (b : List Byte) : Bool :=
  let a := sgArg b
  match sgCmd b with
  | 1 => allZero a
  | 2 => allZero (a.drop 8) && (fld a 0 1 = 0xFF || (decide (1 ≤ fld a 0 1) && decide (fld a 0 1 ≤ 0xC)))
  | 3 => allZero (a.drop 4) && decide (s.fuses.minSvn.toNat < fld a 0 4) && decide (fld a 0 4 ≤ s.img.svn.toNat)
  | _ => allZero (a.drop 1) && (fld a 0 1 = 1 || fld a 0 1 = 2)

/-- The cause of R465: the first check that fails, 0 where the command is accepted. -/
def State.sgCause (s : State) (b : List Byte) : Nat :=
  let key := sub b 0x30 97
  if !sgFormat b then 1
  else if !s.fuses.role (sgSlot b) (sgRole (sgCmd b)) then 2
  else if !s.fuses.keyOk (sgSlot b) key then 3
  else if !Config.ecdsaVerify key (sub b 0xA0 96) (Config.sha384 (sub b 0 0xA0)) then 4
  else if fld b 8 8 ≠ s.fuses.deviceId.toNat then 5
  else if fld b 0x10 8 ≠ s.mgmt.nonce.toNat then 6
  else if !s.sgAllowed b then 7
  else if !s.sgArgOk b then 8
  else 0

/-- DEBUG_UNLOCK (R467): the scope opens and event 0x88 records it. With scope 1 the device stays in STANDBY until the next
reset; scope 2 drains it until then. -/
def State.debugUnlock (s : State) (scope slot : Nat) : State :=
  let s := s.withMgmt fun m => { m with debugScope := BitVec.ofNat 4 scope }
  let s := s.record 0x88 0 (item 1 scope ++ item 1 slot ++ item 8 s.pt.toNat)
  if scope = 1 then s.withPins fun p => { p with pwrEn := false, pwrEnSpent := true }
  else (s.withDev fun d => { d with debugHold := true }).orderDrain drMgt

/-- The effect of an accepted command (Table - Signed command codes). -/
def State.sgEffect (s : State) (b : List Byte) : State :=
  let a := sgArg b
  let pend (s : State) : State := s.withMgmt fun m => { m with signedPending := true }
  match sgCmd b with
  | 1 => pend (s.withNvm fun n => { n with clearBench := true })
  | 2 => pend (s.withNvm fun n => { n with clearSpares := n.clearSpares ++ [(fld a 0 1, fld a 1 1, fld a 2 2, fld a 4 4)] })
  | 3 => { s with fuses := { s.fuses with minSvn := BitVec.ofNat 32 (fld a 0 4) } }
  | _ => s.debugUnlock (fld a 0 1) (sgSlot b)

/-- The STATUS that answers a cause (R465). -/
def sgStatus (cause : Nat) : Nat :=
  if cause = 0 then stOk else if cause = 3 ∨ cause = 4 ∨ cause = 5 then stAuth else if cause = 6 then stNonce else stRefused

/-- SIGNED (R465, R466): evaluated, with its cause in MGT_SIGNED; whichever the outcome, the nonce is used up. -/
def State.signed (s : State) (m : Msg) : Answer :=
  let cause := s.sgCause m.body
  let s := s.withMgmt fun g => { g with signedCmd := BitVec.ofNat 16 (sgCmd m.body), signedCause := BitVec.ofNat 8 cause }
  let s := (if cause = 0 then s.sgEffect m.body else s.bump oSignedReject).newNonce
  (s, sgStatus cause, if sgStatus cause = stRefused then item 1 cause else [])

/-! ### Pattern packs (R435 to R437) -/

/-- An entry of a pack is valid (R436): MAGIC, VERSION, KIND and CRC. -/
def packEntryOk (e : List Byte) : Bool :=
  fld e 0 4 = 0x50415454 && fld e 4 2 = 1 && (fld e 7 1 = 1 || fld e 7 1 = 2) && fld e 0x7FC 4 = (crc32c (sub e 0 0x7FC)).toNat

/-- The entries of a pack. -/
def packEntries (b : List Byte) : List (List Byte) := chunksOf 2048 (b.drop 256)

/-- The cause of R436, 0 for a pack that is accepted. A pack carries no public key; its signature is verified under the key
that its slot's fused hash stands for (log 7). -/
def State.packCause (s : State) (b : List Byte) : Nat :=
  let slot := fld b 0x10 1
  let key := (s.fuses.slots.getD slot {}).keyHash
  let format := fld b 0 4 = 0x5041434B && fld b 4 2 = 1 && decide (fld b 6 2 ≤ 480) && b.length = 256 + 2048 * fld b 6 2 &&
    decide (slot < 4) && allZero (sub b 0x11 15) && allZero (sub b 0xB0 80)
  if !format then 1
  else if !s.fuses.role slot 1 then 2
  else if !Config.ecdsaVerify key (sub b 0x50 96) (Config.sha384 (sub b 0 0x50)) then 3
  else if Config.sha384 (b.drop 256) ≠ sub b 0x20 48 then 4
  else if fld b 8 8 ≤ s.nvm.packSeq.toNat then 5
  else if !(packEntries b).all packEntryOk then 6
  else 0

/-- PACK (R436, R437): accepted, its entries replace those of the pattern partition; refused, nothing changes. Either way
event 0x85 records it and TRANSFER is set. -/
def State.pack (s : State) (m : Msg) : Answer :=
  let b := m.body
  let cause := s.packCause b
  let s := s.record 0x85 0 (item 8 (fld b 8 8) ++ item 4 (fld b 6 2) ++ item 1 cause)
  let s := s.setEvent evTransfer 0x85
  if cause = 0 then
    let l := (packEntries b).map fun e => ({ kind := fld e 7 1, bytes := e } : Pattern)
    (s.withNvm fun n => { n with packSeq := BitVec.ofNat 64 (fld b 8 8), patterns := l }, stOk, [])
  else
    let s := s.withTest fun t => { t with packRefuse := BitVec.ofNat 8 cause }
    (s.bump (oTst 0x1018), stRefused, item 1 cause)

/-! ### Images (R416, R456) -/

/-- The copy that an IMAGE message names may be written: it is not the one that booted (R416). -/
def State.copyFree (s : State) (copy : Nat) : Bool := s.img.booted.toNat != copy

/-- A copy of the image in the flash. -/
def State.copyBytes (s : State) (copy : Nat) : List Byte := if copy = 0 then s.nvm.imageA else s.nvm.imageB

/-- A copy of the image as changed. -/
def State.withCopy (s : State) (copy : Nat) (b : List Byte) : State :=
  s.withNvm fun n => if copy = 0 then { n with imageA := b } else { n with imageB := b }

/-- The header of an IMAGE message's body: the copy, and 7 reserved bytes. -/
def imageHeadOk (b : List Byte) : Bool := decide (8 ≤ b.length) && decide (fld b 0 1 < 2) && allZero (sub b 1 7)

/-- IMAGE (R416, R456): the copy that did not boot is written and R414 applied to it. -/
def State.image (s : State) (m : Msg) : Answer :=
  if s.dev.mode = .boot then (s, stState, [])
  else if !imageHeadOk m.body then (s, stFormat, [])
  else
    let copy := fld m.body 0 1
    let s := s.setEvent evTransfer 0
    if !s.copyFree copy then (s, stRefused, item 1 1)
    else
      let img := m.body.drop 8
      let s := s.withCopy copy img
      let cause := imageCause s.fuses img true
      if cause = 0 then (s, stOk, []) else (s, stRefused, item 1 cause)

end Sys2Proof.Machine
end

