-- ==== Sys2Proof/Machine/Messages.lean ====
section
/-!
DEFINITION. Management messages (R299, R439 to R450): chunks, reassembly, responses and resends, and what each message type
does. The table's rows for messages are complete messages, whose chunks come in order and are answered one by one.
-/
namespace Sys2Proof.Machine

/-! ### What each request does (R445) -/

/-- REG_READ: 1 to 256 window offsets (R440, R445, R446). -/
def State.regReads (s : State) (m : Msg) : Answer :=
  let b := m.body
  let n := b.length / 8
  if b.length % 8 ≠ 0 ∨ n = 0 ∨ 256 < n then (s, stFormat, []) else
  (List.range n).foldl (fun (a : Answer) i =>
    let (t, v) := a.1.regRead (fld b (8 * i) 8)
    (t, if v.isNone then stAccess else a.2.1, a.2.2 ++ natLe 8 (v.getD 0).toNat)) (s, stOk, [])

/-- REG_WRITE: 1 to 256 pairs of a window offset and a value, applied in order (R445, R446). -/
def State.regWrites (s : State) (m : Msg) : Answer :=
  let b := m.body
  let n := b.length / 16
  if b.length % 16 ≠ 0 ∨ n = 0 ∨ 256 < n then (s, stFormat, []) else
  (List.range n).foldl (fun (a : Answer) i =>
    let (t, ok) := a.1.regWrite (fld b (16 * i) 8) (BitVec.ofNat 64 (fld b (16 * i + 8) 8))
    (t, if ok then a.2.1 else stAccess, [])) (s, stOk, [])

/-- DRAIN (R449): REASON 0 holds with DR_MGT, 1 sets DR_REFORM, 2 sets DR_JOBEND. -/
def State.drainMsg (s : State) (m : Msg) : Answer :=
  if m.body.length ≠ 1 then (s, stFormat, []) else
  match fld m.body 0 1 with
  | 0 => (s.drainHold, stOk, [])
  | 1 => (s.orderDrain drReform, stOk, [])
  | 2 => (s.orderDrain drJobend, stOk, [])
  | _ => (s, stFormat, [])

/-- DRAIN_RELEASE (R449). -/
def State.releaseMsg (s : State) (m : Msg) : Answer :=
  if m.body.isEmpty then (s.drainRelease, stOk, []) else (s, stFormat, [])

/-- FENCE (R293, R453): bit n of the mask fences port n; bit 7 is reserved. -/
def State.fenceMsg (s : State) (m : Msg) : Answer :=
  if m.route = .i3c then (s, stState, [])
  else if m.body.length ≠ 1 ∨ 128 ≤ fld m.body 0 1 then (s, stFormat, [])
  else ((maskBits 7 (fld m.body 0 1)).foldl (fun (s : State) n => s.fence n 0) s, stOk, [])

/-- A suspect notice (R363, R375): event 0x17, and LEVEL is raised to HIGH. A device that is in WATCH with LEVEL at HIGH
already runs its full field test too, unless one has started in the last 24 hours (log 40). -/
def State.suspectNotice (s : State) (m : Msg) : Answer :=
  if m.body.length ≠ 7 then (s, stFormat, []) else
  let was := s.levelHigh
  let s := ((s.record 0x17 0xFF m.body).bump oSuspect).raiseHigh 0x17
  (if was && s.dev.mode == .watch then s.testAgain else s, stOk, [])

/-- What a complete request of a type does (R445): the state, and the STATUS and body of its response. A type that is not in
the table is malformed; one that only the device sends is not allowed. -/
def State.act (s : State) (mtype : Nat) (m : Msg) : Answer :=
  match mtype with
  | 0x01 => s.regReads m
  | 0x02 => s.regWrites m
  | 0x10 => s.sliceTable m
  | 0x11 => s.manifest m
  | 0x12 => s.startJob m
  | 0x13 => s.drainMsg m
  | 0x14 => s.releaseMsg m
  | 0x15 => s.fenceMsg m
  | 0x16 => s.suspectNotice m
  | 0x20 => s.pack m
  | 0x21 => s.image m
  | 0x22 => s.signed m
  | n => (s, if 0x40 ≤ n ∧ n ≤ 0x48 then stState else stFormat, [])

/-! ### Chunks (R441 to R443) -/

/-- A chunk of a request (R441). -/
structure Chunk where
  route : Route
  mtype : Nat
  mseq : BitVec 32
  jobId : BitVec 64
  off : Nat
  total : Nat
  body : List Byte
  deriving DecidableEq, Repr

/-- The largest body of a type (R445, R446): what its layout allows, and never more than 64 MiB. -/
def maxBody (mtype : Nat) : Nat :=
  match mtype with
  | 0x01 => 2048 | 0x02 => 4096 | 0x12 => 0 | 0x13 => 1 | 0x14 => 0 | 0x15 => 1 | 0x16 => 7
  | 0x20 => 256 + 480 * 2048 | 0x21 => 8 + 2 ^ 25 | 0x22 => 256
  | _ => 2 ^ 26

/-- Entries of one source's last 64 message numbers are kept (R443). -/
def keepLast (l : List Stored) (r : Route) : List Stored :=
  let seqs := ((l.filter (·.route = r)).map (·.mseq)).eraseDups
  let old := seqs.take (seqs.length - 64)
  l.filter fun x => decide (x.route ≠ r) || !old.contains x.mseq

/-- A chunk is answered with its MSEQ and CHUNK_OFF, and the response is kept (R443). -/
def State.answer (s : State) (c : Chunk) (status : Nat) (body : List Byte) : State :=
  let a : OutMsg :=
    { dest := c.route, mtype := c.mtype, resp := true, status := status, mseq := c.mseq, chunkOff := c.off, jobId := c.jobId
      body := body, sentPt := s.pt }
  let entry : Stored := { route := c.route, mseq := c.mseq, chunkOff := c.off, answer := a }
  (s.withMgmt fun m => { m with stored := keepLast (m.stored ++ [entry]) c.route }).sendChunkOf body.length a

/-- The partly received message of a source, unless a chunk disagrees with it (R442). -/
def State.partialOf (s : State) (c : Chunk) : Option Partial :=
  s.mgmt.partials.find? fun p =>
    decide (p.route = c.route) && decide (p.mseq = c.mseq) && decide (p.mtype = c.mtype) && decide (p.total = c.total)

/-- A source's partly received message is gone. -/
def State.dropPartial (s : State) (r : Route) : State :=
  s.withMgmt fun m => { m with partials := m.partials.filter fun p => decide (p.route ≠ r) }

/-- The body of a message as placed so far: its chunks at their offsets, later ones over earlier ones. -/
def bodyPlaced (total : Nat) (l : List (Nat × List Byte)) : List Byte :=
  l.foldl (fun b c => splice b c.1 c.2) (List.replicate total 0)

/-- TOTAL bytes have been placed: no byte is missing (R442). -/
def allPlaced (total : Nat) (l : List (Nat × List Byte)) : Bool :=
  let sorted := sortBy l fun a b => decide (a.1 ≤ b.1)
  let reach := sorted.foldl (fun r c => if c.1 ≤ r then max r (c.1 + c.2.length) else r) 0
  decide (total ≤ reach)

/-- A chunk of an IMAGE is programmed as it is placed, once its copy is known (R456): into a copy that may be written. -/
def State.program (s : State) (p : Partial) : State :=
  let b := bodyPlaced p.total p.chunks
  if p.mtype = 0x21 && (p.chunks.any fun c => decide (c.1 = 0)) && imageHeadOk b && s.copyFree (fld b 0 1) && s.dev.mode != .boot then
    let copy := fld b 0 1
    s.withCopy copy (p.chunks.foldl (fun img c => splice img (c.1 - 8) (c.2.drop (8 - c.1))) (s.copyBytes copy))
  else s

/-- A chunk is placed (R442, R443): the one that completes its message gets the whole response, every other an empty one. -/
def State.place_ (s : State) (c : Chunk) : State :=
  let p := (s.partialOf c).getD { route := c.route, mtype := c.mtype, mseq := c.mseq, total := c.total, jobId := c.jobId }
  let p := { p with chunks := p.chunks ++ [(c.off, c.body)], lastPt := s.pt }
  let s := s.dropPartial c.route
  if allPlaced c.total p.chunks then
    let m : Msg := { route := c.route, mseq := c.mseq, jobId := c.jobId, body := bodyPlaced c.total p.chunks }
    let (s, status, body) := s.act c.mtype m
    s.answer c status body
  else ((s.withMgmt fun m => { m with partials := m.partials ++ [p] }).program p).answer c stOk []

/-- A chunk of a request is received (R442, R443, R446). One that is answered already is answered again from the store, and
is not acted on. -/
def State.receiveChunk (s : State) (c : Chunk) : State :=
  if s.dev.mode = .off then s else
  let s := s.wrapBy oMsgIn 1
  if c.mtype = 0x40 ∨ c.mtype = 0x41 ∨ c.mtype = 0x42 then s else
  match s.mgmt.stored.find? fun x => decide (x.route = c.route) && decide (x.mseq = c.mseq) && decide (x.chunkOff = c.off) with
  | some x => s.sendChunkOf x.answer.body.length x.answer
  | none =>
    if maxBody c.mtype < c.total then (s.dropPartial c.route).answer c stSize []
    else if c.total < c.off + c.body.length then (s.dropPartial c.route).answer c stFormat []
    else s.place_ c

/-- A response to a message of the device ends its resending (R443). -/
def State.responded (s : State) (mseq : BitVec 32) (off : Nat) : State :=
  if s.dev.mode = .off then s else
  (s.withMgmt fun m =>
    { m with waiting := m.waiting.filter fun x => decide (x.mseq ≠ mseq) || decide (x.chunkOff ≠ off) }).wrapBy oMsgIn 1

/-- The header of a chunk's bytes passes R442: its length, its reserved fields and MCRC. -/
def chunkOk (b : List Byte) : Bool :=
  let n := fld b 0x18 2
  decide (32 ≤ b.length) && decide (n ≤ 4032) && b.length = 32 + n && fld b 1 1 < 4 && fld b 3 1 = 0 && fld b 0x1A 2 = 0 &&
  fld b 0x1C 4 = (crc32c (splice b 0x1C (natLe 4 0))).toNat

/-- The bytes of a chunk arrive from a source (R441 to R444); one that fails its checks is ignored. `fabric` is the
coordinate that it came from, none for I3C. -/
def State.receive (s : State) (src : Option Coord) (b : List Byte) : State :=
  if !chunkOk b then s
  else if bit (fld b 1 1) 0 then s.responded (BitVec.ofNat 32 (fld b 4 4)) (fld b 8 4)
  else
    let route : Route := match src with
      | some x => .fabric x (bit (fld b 1 1) 1)
      | none => .i3c
    s.receiveChunk
      { route := route, mtype := fld b 0 1, mseq := BitVec.ofNat 32 (fld b 4 4), jobId := BitVec.ofNat 64 (fld b 0x10 8)
        off := fld b 8 4, total := fld b 0xC 4, body := b.drop 32 }

/-- A whole message comes, its chunks in order (R441 to R443). -/
def State.receiveMsg (s : State) (mtype : Nat) (m : Msg) : State :=
  let n := max 1 ((m.body.length + 4031) / 4032)
  (List.range n).foldl (fun (s : State) k =>
    s.receiveChunk
      { route := m.route, mtype := mtype, mseq := m.mseq, jobId := m.jobId, off := 4032 * k, total := m.body.length
        body := sub m.body (4032 * k) 4032 }) s

/-! ### The rows -/

/-- REG_READ reads 1 to 256 registers (R440, R445). -/
def execRegRead (m : Msg) (s : State) : Out := .next (s.receiveMsg 0x01 m)

/-- REG_WRITE writes 1 to 256 registers in order (R440, R445). -/
def execRegWrite (m : Msg) (s : State) : Out := .next (s.receiveMsg 0x02 m)

/-- SLICE_TABLE loads a slice table or is refused (R288, R289). -/
def execSliceTable (m : Msg) (s : State) : Out := .next (s.receiveMsg 0x10 m)

/-- MANIFEST: a job manifest is checked and its Course admitted (R447, R448). -/
def execManifest (m : Msg) (s : State) : Out := .next (s.receiveMsg 0x11 m)

/-- START lets the stations of the bound job issue their first commands (R448). -/
def execStart (m : Msg) (s : State) : Out := .next (s.receiveMsg 0x12 m)

/-- DRAIN places a drain order (R449). -/
def execDrain (m : Msg) (s : State) : Out := .next (s.receiveMsg 0x13 m)

/-- DRAIN_RELEASE releases the management drain orders (R449). -/
def execMsgDrainRelease (m : Msg) (s : State) : Out := .next (s.receiveMsg 0x14 m)

/-- FENCE fences ports (R293). -/
def execFence (m : Msg) (s : State) : Out := .next (s.receiveMsg 0x15 m)

/-- SUSPECT: a suspect notice (R375). -/
def execSuspect (m : Msg) (s : State) : Out := .next (s.receiveMsg 0x16 m)

/-- PACK: a pattern pack is accepted or refused (R436). -/
def execPack (m : Msg) (s : State) : Out := .next (s.receiveMsg 0x20 m)

/-- IMAGE: an image is written and authenticated (R456). -/
def execImage (m : Msg) (s : State) : Out := .next (s.receiveMsg 0x21 m)

/-- CLEAR_BENCH, a signed command (R465). -/
def execClearBench (m : Msg) (s : State) : Out := .next (s.receiveMsg 0x22 m)

/-- CLEAR_SPAREMAP, a signed command (R465). -/
def execClearSparemap (m : Msg) (s : State) : Out := .next (s.receiveMsg 0x22 m)

/-- RAISE_MIN_SVN, a signed command (R465). -/
def execRaiseMinSvn (m : Msg) (s : State) : Out := .next (s.receiveMsg 0x22 m)

/-- DEBUG_UNLOCK, a signed command (R465, R467). -/
def execDebugUnlock (m : Msg) (s : State) : Out := .next (s.receiveMsg 0x22 m)

/-- A response chunk arrives for a message that the device sent (R443). -/
def execMessageResponse (mseq : BitVec 32) (chunkOff : Nat) (s : State) : Out := .next (s.responded mseq chunkOff)

/-- A chunk has had no response for 2 ms (R443): it is resent, or its message given up after 8 sends. -/
def execMessageResendTimeout (mseq : BitVec 32) (chunkOff : Nat) (s : State) : Out :=
  match s.mgmt.waiting.find? fun x => decide (x.mseq = mseq) && decide (x.chunkOff = chunkOff) with
  | some c =>
    if s.since c.sentPt < ticksMs 2 then .next s
    else if 8 ≤ c.sends then
      .next ((s.withMgmt fun m => { m with waiting := m.waiting.filter fun x => decide (x.mseq ≠ mseq) }).bump oMsgGiveup)
    else
      let again : OutMsg := { c with sends := c.sends + 1, sentPt := s.pt }
      let s := s.withMgmt fun m => { m with waiting := m.waiting.map fun x => if x = c then again else x }
      let total := ((s.mgmt.waiting.filter fun x => decide (x.mseq = mseq)).foldl (fun n x => max n (x.chunkOff + x.body.length)) 0)
      .next ((s.wrapBy oMsgResend 1).sendChunkOf total again)
  | none => .next s

/-- A partly received message gets no chunk for 1 s and is discarded (R442). -/
def execPartialMessageTimeout (route : Route) (s : State) : Out :=
  if s.mgmt.partials.any fun p => decide (p.route = route) && decide (ticksS 1 ≤ s.since p.lastPt) then .next (s.dropPartial route)
  else .next s

/-- The body of TELEMETRY (R450). -/
def State.telemetryBody (s : State) : List Byte :=
  [s.mgtState, BitVec.ofNat 64 s.nvm.bootCount.toNat, s.pt, s.pwrInput, s.thmStatus, s.hltCapacity, s.hltBucket, s.hltLedger].flatMap
    fun (w : Word) => natLe 8 w.toNat

/-- TELEMETRY goes every TEL_MS to TEL_DST (R450). -/
def execTelemetry (s : State) : Out :=
  if s.mgmt.telMs ≠ 0 ∧ s.dev.mode ≠ .off ∧ ticksMs s.mgmt.telMs.toNat ≤ s.since s.mgmt.telLast then
    let s := s.withMgmt fun m => { m with telLast := s.pt }
    .next (s.send (.fabric s.mgmt.telDst s.mgmt.telSvc) 0x42 0 s.telemetryBody false)
  else .next s

/-- A management packet that has come to this device is delivered to the management controllers (R299, R444). -/
def State.deliverMgt (s : State) (p : Packet) : State :=
  let s := s.takeLocal p
  if p.badGranules.isEmpty && !p.pflags.getLsbD 2 then s.receive (some p.src) p.payload else s

/-- A management packet (R299, R439, R444): one that the router has delivered is handled; any other arrives at the port, is
routed with its detours, and is handled at once where it has come to this device. -/
def execMgtPacket (port : Nat) (p : Packet) (s : State) : Out :=
  if s.fabric.localIn.contains p then .next (s.deliverMgt p)
  else if !s.portLive port then .next s
  else
    let s := s.noteFixed port p
    let p := { p with fixedBits := [] }
    let s := s.wrapBy (oFab (0x2008 + 0x100 * port)) p.flits
    if p.badHeader || p.hchk ≠ p.check then .next (s.headerFail port p)
    else
      let s := s.routeMgt (some port) p
      .next (if s.fabric.localIn.contains p then s.deliverMgt p else s)

end Sys2Proof.Machine
end

