-- ==== Sys2Proof/Machine/I3c.lean ====
section
/-!
DEFINITION. The I3C target (R451 to R454): the common commands, the frames of private writes, and private reads. A frame is
every byte of a private write, its CRC-8 last. What the target drives on the bus is kept in `lastRead`.
-/
namespace Sys2Proof.Machine

/-- The target answers from STANDBY on (R420, R451). -/
def State.i3cUp (s : State) : Bool := s.dev.mode != .off

/-- The target has its address, without which nothing else reaches it. -/
def State.i3cOn (s : State) : Bool := s.i3cUp && s.mgmt.i3c.addrValid

/-- The bytes that the target answers. -/
def State.drive (s : State) (l : List Byte) : State := s.withI3c fun c => { c with lastRead := l }

/-- The provisional ID: the low 48 bits of DEVICE_ID, most significant byte first (R451). -/
def State.pid (s : State) : List Byte := (natLe 6 (s.fuses.deviceId.toNat % 2 ^ 48)).reverse

/-- The BCR: IBI-capable with one mandatory data byte (R451); its other bits are free (log 9). -/
def bcr : Byte := (Config.i3cBcrBits &&& 0xF9) ||| 0x06

/-! ### Common commands (R451) -/

/-- ENTDAA: a target without an address sends its ID and takes the address that the controller assigns. -/
def execEntdaa (addr : BitVec 7) (s : State) : Out :=
  if s.i3cUp && !s.mgmt.i3c.addrValid then
    .next ((s.withI3c fun c => { c with dynAddr := addr, addrValid := true }).drive (s.pid ++ [bcr, Config.i3cDcr]))
  else .next s

/-- RSTDAA: the dynamic address is gone. -/
def execRstdaa (s : State) : Out :=
  if s.i3cUp then .next (s.withI3c fun c => { c with dynAddr := 0, addrValid := false }) else .next s

/-- ENEC: in-band interrupts are enabled (R451, R454). -/
def execEnec (s : State) : Out := if s.i3cUp then .next (s.withI3c fun c => { c with ibiEn := true }) else .next s

/-- DISEC: in-band interrupts are disabled (R451, R454). -/
def execDisec (s : State) : Out := if s.i3cUp then .next (s.withI3c fun c => { c with ibiEn := false }) else .next s

/-- GETPID returns the provisional ID. -/
def execGetpid (s : State) : Out := if s.i3cOn then .next (s.drive s.pid) else .next s

/-- GETBCR returns the BCR. -/
def execGetbcr (s : State) : Out := if s.i3cOn then .next (s.drive [bcr]) else .next s

/-- GETDCR returns the DCR (log 9). -/
def execGetdcr (s : State) : Out := if s.i3cOn then .next (s.drive [Config.i3cDcr]) else .next s

/-- GETSTATUS returns the target status, two bytes whose value the manual does not state (log 9). -/
def execGetstatus (s : State) : Out :=
  if s.i3cOn then
    .next ({ s with freeIdx := s.freeIdx + 1 }.drive (natLe 2 (Config.i3cStatus s.freeIdx).toNat).reverse)
  else .next s

/-! ### Private writes (R452, R453) -/

/-- A frame's CRC-8 verifies. -/
def frameCrcOk (f : List Byte) : Bool := decide (2 ≤ f.length) && f.getLast? == some (crc8 f.dropLast)

/-- The lengths that a frame of a CMD may have, CMD and CRC counted. -/
def frameLenOk (f : List Byte) : Bool :=
  match fld f 0 1 with
  | 1 => f.length = 13
  | 2 => f.length = 5
  | 3 => decide (3 ≤ f.length) && decide (f.length ≤ 257)
  | 4 | 5 => f.length = 2
  | _ => false

/-- CMD 0x01: a register write, whose STATUS the reads that follow return. -/
def State.i3cWrite (s : State) (f : List Byte) : State :=
  let (s, ok) := s.regWrite (fld f 1 3) (BitVec.ofNat 64 (fld f 4 8))
  s.withI3c fun c => { c with selected := 1, writeStatus := if ok then stOk else stAccess }

/-- Inbound bytes are handled as the chunks of a message from I3C as each chunk is whole (R442, R453). A header that names a
body longer than a chunk may carry loses the message. -/
def State.takeInbox (s : State) : State :=
  let b := s.mgmt.i3c.inbox
  let n := 32 + fld b 0x18 2
  if b.length < 32 then s
  else if 4032 < fld b 0x18 2 then s.withI3c fun c => { c with inbox := [] }
  else if b.length < n then s
  else (s.withI3c fun c => { c with inbox := b.drop n }).receive none (b.take n)

/-- CMD 0x03: bytes are appended to the inbound mailbox; the first of a new message discard an unread response (R453). -/
def State.i3cAppend (s : State) (f : List Byte) : State :=
  let l := (f.drop 1).dropLast
  (s.withI3c fun c =>
    { c with inbox := c.inbox ++ l, outbox := if c.inbox.isEmpty then [] else c.outbox }).takeInbox

/-- A private write (R452): a frame with a wrong CRC, an unknown CMD or a length that is no frame's is ignored and counted. -/
def State.i3cFrame (s : State) (f : List Byte) : State :=
  if !s.i3cOn then s
  else if !frameCrcOk f || !frameLenOk f then s.bump oI3cCrc
  else
    match fld f 0 1 with
    | 1 => s.i3cWrite f
    | 2 => s.withI3c fun c => { c with selected := 2, readPtr := fld f 1 3 }
    | 3 => s.i3cAppend f
    | 4 => (s.withI3c fun c => { c with inbox := [] }).dropPartial .i3c
    | _ => s.withI3c fun c => { c with selected := 3 }

/-- CMD 0x01 writes a register (R452). -/
def execI3cRegisterWrite (frame : List Byte) (s : State) : Out := .next (s.i3cFrame frame)

/-- CMD 0x02 sets the read pointer (R452). -/
def execI3cSetReadPointer (frame : List Byte) (s : State) : Out := .next (s.i3cFrame frame)

/-- CMD 0x03 appends to the inbound mailbox (R452, R453). -/
def execI3cMailboxAppend (frame : List Byte) (s : State) : Out := .next (s.i3cFrame frame)

/-- CMD 0x04 discards a partly written inbound message (R452). -/
def execI3cMailboxDiscard (frame : List Byte) (s : State) : Out := .next (s.i3cFrame frame)

/-- CMD 0x05 selects the outbound mailbox (R452). -/
def execI3cSelectOutbound (frame : List Byte) (s : State) : Out := .next (s.i3cFrame frame)

/-! ### Private reads (R452) -/

/-- An answer with its CRC-8. -/
def withCrc8 (l : List Byte) : List Byte := l ++ [crc8 l]

/-- A private read returns what the last frame selected (R452): a write's STATUS, the register at the pointer, which then
advances by 8, or the outbound mailbox. -/
def execI3cPrivateRead (s : State) : Out :=
  if !s.i3cOn then .next s
  else
    let c := s.mgmt.i3c
    match c.selected with
    | 1 => .next (s.drive (withCrc8 (natLe 1 c.writeStatus)))
    | 2 =>
      let (s, v) := s.regRead c.readPtr
      let s := s.drive (withCrc8 (natLe 8 (v.getD 0).toNat ++ natLe 1 (if v.isSome then stOk else stAccess)))
      .next (s.withI3c fun c => { c with readPtr := (c.readPtr + 8) % 2 ^ 24 })
    | 3 =>
      let s := s.drive (withCrc8 (natLe 2 c.outbox.length ++ c.outbox.take 255))
      .next (s.withI3c fun c => { c with outbox := c.outbox.drop 255 })
    | _ => .next (s.drive [])

end Sys2Proof.Machine
end

