-- ==== Sys2Proof/Machine/Limits.lean ====
section
/-!
DEFINITION. A drain that reaches its limit (R35, R247, R329, R355, R360).
-/
namespace Sys2Proof.Machine

/-- A frame of undefined bytes (R247, log 8). -/
def undefinedFrame (k : Nat) : List Byte := (List.range frameBytes).map (Config.undefinedByte k)

/-- The contents of an object become undefined (R247): every frame takes bytes drawn for it. -/
def State.undefineObject (s : State) (obj : Nat) : State :=
  (List.range (s.objectSize obj)).foldl (fun (s : State) f =>
    { s.fillMem (s.frameAddr obj f) (undefinedFrame s.freeIdx) with freeIdx := s.freeIdx + 1 }) s

/-- The DST objects of the UPD_STEP commands in progress. -/
def State.abortedDst (s : State) : List Nat :=
  (s.cells.stations.flatMap fun p => p.2.upd.flatMap fun c => (setOf (s.row c.set)).used.map (·.dst)).filter (· != 0xFFFF)

/-- A confirmation that has no verdict yet is abandoned (R360): RESULT 3, and the first cell is due for test. -/
def State.abandonConfirmation (s : State) : State :=
  match s.cells.confirmation with
  | some k =>
    let s := s.withCells fun c => { c with confirmation := none }
    let s := match k.secondCell with
      | some q => s.setTest q .suspended .testing
      | none => s
    (s.verdict 3 k.firstCell k.secondCell 0xFFFFFFFF).withPCell k.firstCell fun c => { c with testDue := true }
  | none => s

/-- Every ticket but those of calibrations and of ports in training, whose work goes on outside the drain (R393), is given up. -/
def State.dropTickets (s : State) : State :=
  let stays (t : Ticket) : Bool := decide (t.cls.num = 2) || decide (t.cls.num = 4)
  s.withPower fun p => setTickets p s.pt (p.queue.filter stays) (p.held.filter stays)

/-- 200 ms after the first drain order the device is still not drained (R35): the remaining operations are aborted and their
results discarded, DR_INCOMPLETE is set, event 0x55 names what is outstanding, and the device reports itself drained. -/
def execDrainLimit (s : State) : Out :=
  if s.dev.mode = .drain ∧ s.dev.drained = false ∧ ticksMs 200 ≤ s.since s.dev.drainStart ∧ s.isDrained = false then
    let s := s.abandonConfirmation
    let s := s.abortedDst.foldl State.undefineObject s
    let s := s.withDev fun d => { d with reasons := d.reasons ||| BitVec.ofNat 8 (2 ^ drIncomplete) }
    let body := s.outstandingBody
    let s := (s.record 0x55 0xFF body).dropTickets
    .next (s.completeDrain body)
  else .next s

end Sys2Proof.Machine
end

