-- ==== Sys2Proof/Machine/Responses.lean ====
section
/-!
DEFINITION. The ends of operations at their source (R128, R303, R304, R319): local transactions, and the responses of other
devices. Each lets what waits for an operation go on.
-/
namespace Sys2Proof.Machine

/-- A reply to an entry is kept, its operation ends, and what waited may go. -/
def State.entryReply (s : State) (f : FlightOp) (id row : Nat) (reply : List Byte) : State :=
  let t := (s.endFlight f).withList id fun l => { l with replies := put l.replies row reply }
  (t.closeList id).opEnded s

/-- A local transaction of a station completes (R128): one of its oldest command with a transaction under way (DESIGN
CHOICE, log 135). -/
def execDmaTransactionComplete (st : Nat) (s : State) : Out :=
  match (s.st st).outstanding.findIdx? fun o => o.kind = .dma && o.remoteTo.isNone && decide (o.todo < o.open_) with
  | none => .next s
  | some i =>
    let t := s.withSt st fun r => { r with outstanding := updAt r.outstanding i fun o => { o with open_ := o.open_ - 1 } }
    match (t.st st).outstanding[i]? with
    | some o => .next ((if o.open_ = 0 then t.complete st i else t).opEnded s)
    | none => .next s

/-! ### Responses at their source (R304, R319) -/

/-- ACK: a WRITE, STORE, ATOM or SIGNAL of this device has completed (R304). -/
def execAck (p : Packet) (s : State) : Out :=
  let s := s.takeLocal p
  match s.flightFor p with
  | none => .next s
  | some f =>
    match f.kind with
    | .dmaRemote =>
      .next (((s.endFlight f).opDone f.station f.cmd).opEnded s)
    | .signal => .next (((s.endFlight f).opDone f.station f.cmd).opEnded s)
    | .listEntry id row => .next (s.entryReply f id row (replyEntry (p.aux.toNat % 256) []))
    | _ => .next s

/-- The load entry of this router that a combined DATA answers (R321). -/
def State.loadEntry (s : State) (p : Packet) : Option (Nat × Nat) :=
  (List.range 6).findSome? fun port =>
    ((s.combinesOf port).findIdx? fun c => c.isLoad && decide (c.first.tag = p.tag) && decide (c.first.dst = p.src)).map
      fun i => (port, i)

/-- DATA: a LOAD has its bytes (R304). A combined one goes on to each requester of its entry, with that requester's TAG
and the original responder as SRC (R285, R321). -/
def execData (p : Packet) (s : State) : Out :=
  let s := s.takeLocal p
  if p.cmb then
    match s.loadEntry p with
    | some (port, i) =>
      match (s.combinesOf port)[i]? with
      | some c =>
        let s := s.withCombines port fun l => l.eraseIdx i
        .next (c.waiters.foldl (fun s w =>
          s.forward none { p with pflags := (p.pflags &&& 0xFD) ||| (w.pflags &&& 2), dst := w.src, tag := w.tag
                                  vc := vcByte 1 false false false }.restamp) s)
      | none => .next s
    | none => .next s
  else
    match s.flightFor p with
    | some f => match f.kind with
      | .listEntry id row =>
        let n := match s.fabric.lists.find? (·.id = id) with
          | some l => entryBytes4 (l.entries.getD row [])
          | none => 32
        let st := if p.badGranules.isEmpty then p.aux.toNat % 256 else 4
        .next (s.entryReply f id row (replyEntry st (if st = 0 then p.payload.take n else [])))
      | _ => .next s
    | none => .next s

/-- RESULT: an ATOM_F or REFETCH has the old value (R304). One that cannot be read is asked for again, at most twice
(R319). -/
def execResult (p : Packet) (s : State) : Out :=
  let s := s.takeLocal p
  match s.flightFor p with
  | some f => match f.kind with
    | .listEntry id row =>
      if p.badGranules.isEmpty then
        let n := match s.fabric.lists.find? (·.id = id) with
          | some l => entryBytes4 (l.entries.getD row [])
          | none => 8
        .next (s.entryReply f id row (replyEntry (p.aux.toNat % 256) (p.payload.take n)))
      else if f.refetches < 2 then
        let s := s.withFabric fun b =>
          { b with flights := b.flights.map fun x => if x = f then { f with refetches := f.refetches + 1 } else x }
        .next ((s.bump (oFab 0x1018)).inject
          { opc := 0x07, dst := f.dst, src := 0, sliceId := 0, seq := p.seq, tag := p.tag })
      else .next (s.headerFail 7 p)
    | _ => .next s
  | none => .next s

/-- FAR_RSP: a far operation has its reply entry (R326). -/
def execFarRsp (p : Packet) (s : State) : Out :=
  let s := s.takeLocal p
  match s.flightFor p with
  | some f => match f.kind with
    | .far id row => .next (s.entryReply f id row (padTo 64 p.payload))
    | _ => .next s
  | none => .next s

end Sys2Proof.Machine
end

