-- ==== Sys2Proof/Machine/Rereads.lean ====
section
/-!
DEFINITION. The second read of a frame whose CRC did not verify (R58), for every command of a station that consumes
frames. UPD_FRAME (R247) and RELAY (R344) read again on their own.
-/
namespace Sys2Proof.Machine

/-- A command proceeds with the second read: its work is done over frames that verify, but for one that the path damages
further on (R58). -/
def State.proceed (s : State) (i : Instr) (path : ReadPath) : State :=
  match i with
  | .mmRun st cf a b acc _ checks => s.mmRun st cf a b acc path checks
  | .vecOp st cf fn a b o fmt rnd imm _ => s.vecOp st cf fn a b o fmt rnd imm path
  | .glLoad st cf w map _ => s.glLoad st cf w map path
  | .glRun st cf i o fmt rnd adc _ checks => s.glRun st cf i o fmt rnd adc path checks
  | .cpTiles st cf i o count _ => s.cpTiles st cf i o count path
  | .operationList st cf o count _ => s.opLists st cf o count path
  | .cpRemote st cf i rank window slot count _ => s.cpRemote st cf i rank window slot count path
  | .colRs st cf i o count _ => s.colRs st cf i o count path
  | .colAg st cf i o count _ => s.colAg st cf i o count path
  | .rdTiles st cf object o first count _ => s.rdTiles st cf object o first count path
  | .wrTiles st cf object i first count _ => s.wrTiles st cf object i first count path
  | _ => s

/-- The frame that a station waits for is read once more from the same place (R58). A match is a transient and the
command proceeds; a second failure stops the command as a tile-integrity fault (R361). The path's frame 0 is the frame
read again; a later one is a later frame of the command. -/
def execTileCrcReread (st : Nat) (path : ReadPath) (s : State) : Out :=
  let r := s.st st
  if r.stopped then .next s else
  match r.crcWait with
  | none => .next s
  | some i =>
    let (a, producer, step) := r.crcFrame
    let t := s.withSt st fun r => { r with crcWait := none }
    let again := t.readFrame st a path
    match again.frame with
    | some _ => .next ((t.tileTransient a producer).proceed i path)
    | none => .next ((again.state.withSt st fun r => { r with stopped := true }).tileFault a producer step)

end Sys2Proof.Machine
end

