-- ==== Sys2Proof/Machine/Dispatch.lean ====
section
/-!
DEFINITION. One arm for each command of the block: a direct call of its meaning.
-/
namespace Sys2Proof.Machine

def exec (i : Instr) (s : State) : Host.Outcome State Fault Refusal :=
  match i with
  | .resetAssert => Sys2Proof.Machine.execResetAssert s
  | .standbyPowerLost => Sys2Proof.Machine.execStandbyPowerLost s
  | .standbyEntry refPresent => Sys2Proof.Machine.execStandbyEntry refPresent s
  | .pwrEnAssert => Sys2Proof.Machine.execPwrEnAssert s
  | .pgoodAssert => Sys2Proof.Machine.execPgoodAssert s
  | .pgoodTimeout => Sys2Proof.Machine.execPgoodTimeout s
  | .pgoodLost => Sys2Proof.Machine.execPgoodLost s
  | .drainReqPinAssert => Sys2Proof.Machine.execDrainReqPinAssert s
  | .drainReqPinDeassert => Sys2Proof.Machine.execDrainReqPinDeassert s
  | .pwrLimitAssert => Sys2Proof.Machine.execPwrLimitAssert s
  | .pwrLimitRelease => Sys2Proof.Machine.execPwrLimitRelease s
  | .rootPllLoss refPresent => Sys2Proof.Machine.execRootPllLoss refPresent s
  | .clockLoss die => Sys2Proof.Machine.execClockLoss die s
  | .lockstepMismatch courseControllers => Sys2Proof.Machine.execLockstepMismatch courseControllers s
  | .tripComparator die comp => Sys2Proof.Machine.execTripComparator die comp s
  | .coldStartStepEnd report => Sys2Proof.Machine.execColdStartStepEnd report s
  | .coldStartStepLimit => Sys2Proof.Machine.execColdStartStepLimit s
  | .drained => Sys2Proof.Machine.execDrained s
  | .drainLimit => Sys2Proof.Machine.execDrainLimit s
  | .nop st cf => Sys2Proof.Machine.execNop st cf s
  | .semWait st cf sem count => Sys2Proof.Machine.execSemWait st cf sem count s
  | .semSignal st cf slot count => Sys2Proof.Machine.execSemSignal st cf slot count s
  | .loop st cf count => Sys2Proof.Machine.execLoop st cf count s
  | .endLoop st cf => Sys2Proof.Machine.execEndLoop st cf s
  | .halt st cf => Sys2Proof.Machine.execHalt st cf s
  | .step st cf => Sys2Proof.Machine.execStep st cf s
  | .semRemote st cf rank station sem count => Sys2Proof.Machine.execSemRemote st cf rank station sem count s
  | .mmClear st cf acc => Sys2Proof.Machine.execMmClear st cf acc s
  | .mmRun st cf a b acc path checks => Sys2Proof.Machine.execMmRun st cf a b acc path checks s
  | .mmRunCommit st => Sys2Proof.Machine.execMmRunCommit st s
  | .arrayRepeat st checks => Sys2Proof.Machine.execArrayRepeat st checks s
  | .mmDrain st cf o acc fmt rnd clr => Sys2Proof.Machine.execMmDrain st cf o acc fmt rnd clr s
  | .vecOp st cf fn a b o fmt rnd imm path => Sys2Proof.Machine.execVecOp st cf fn a b o fmt rnd imm path s
  | .glLoad st cf w map path => Sys2Proof.Machine.execGlLoad st cf w map path s
  | .glRun st cf ip o fmt rnd adc path checks => Sys2Proof.Machine.execGlRun st cf ip o fmt rnd adc path checks s
  | .glRunComplete run => Sys2Proof.Machine.execGlRunComplete run s
  | .updStep st cf row set => Sys2Proof.Machine.execUpdStep st cf row set s
  | .updFrame engine st frame path => Sys2Proof.Machine.execUpdFrame engine st frame path s
  | .updStepComplete st => Sys2Proof.Machine.execUpdStepComplete st s
  | .cpTiles st cf ip o count path => Sys2Proof.Machine.execCpTiles st cf ip o count path s
  | .operationList st cf o count path => Sys2Proof.Machine.execOperationList st cf o count path s
  | .cpRemote st cf ip rank window slot count path => Sys2Proof.Machine.execCpRemote st cf ip rank window slot count path s
  | .colRs st cf ip o count path => Sys2Proof.Machine.execColRs st cf ip o count path s
  | .colAg st cf ip o count path => Sys2Proof.Machine.execColAg st cf ip o count path s
  | .colDigest st cf object => Sys2Proof.Machine.execColDigest st cf object s
  | .collectiveComplete st => Sys2Proof.Machine.execCollectiveComplete st s
  | .rdTiles st cf object o first count path => Sys2Proof.Machine.execRdTiles st cf object o first count path s
  | .wrTiles st cf object ip first count path => Sys2Proof.Machine.execWrTiles st cf object ip first count path s
  | .winRelease st cf first count => Sys2Proof.Machine.execWinRelease st cf first count s
  | .signalArrival first others => Sys2Proof.Machine.execSignalArrival first others s
  | .watchdog st => Sys2Proof.Machine.execWatchdog st s
  | .tileCrcReread st path => Sys2Proof.Machine.execTileCrcReread st path s
  | .ticketGrant pool ballast => Sys2Proof.Machine.execTicketGrant pool ballast s
  | .rampDownStart cell ballast => Sys2Proof.Machine.execRampDownStart cell ballast s
  | .rampDownComplete cell => Sys2Proof.Machine.execRampDownComplete cell s
  | .ticketRecall pool => Sys2Proof.Machine.execTicketRecall pool s
  | .stackBurstRelease m => Sys2Proof.Machine.execStackBurstRelease m s
  | .manifest m => Sys2Proof.Machine.execManifest m s
  | .placementJobStart => Sys2Proof.Machine.execPlacementJobStart s
  | .placementConfirmation => Sys2Proof.Machine.execPlacementConfirmation s
  | .placementGlideLeave engine => Sys2Proof.Machine.execPlacementGlideLeave engine s
  | .placementGlideReturn engine => Sys2Proof.Machine.execPlacementGlideReturn engine s
  | .rotationDue cluster => Sys2Proof.Machine.execRotationDue cluster s
  | .rotationBoundary cluster => Sys2Proof.Machine.execRotationBoundary cluster s
  | .rotationTimeout cluster => Sys2Proof.Machine.execRotationTimeout cluster s
  | .rotationCopyComplete cluster writeFault => Sys2Proof.Machine.execRotationCopyComplete cluster writeFault s
  | .cellTestComplete pcell failures badPatterns => Sys2Proof.Machine.execCellTestComplete pcell failures badPatterns s
  | .inPlaceTestDue cluster => Sys2Proof.Machine.execInPlaceTestDue cluster s
  | .fullTest => Sys2Proof.Machine.execFullTest s
  | .confirmationComplete run check => Sys2Proof.Machine.execConfirmationComplete run check s
  | .bucketLeak => Sys2Proof.Machine.execBucketLeak s
  | .watchRelease => Sys2Proof.Machine.execWatchRelease s
  | .heartbeat => Sys2Proof.Machine.execHeartbeat s
  | .telemetry => Sys2Proof.Machine.execTelemetry s
  | .fastWindow engine st codes => Sys2Proof.Machine.execFastWindow engine st codes s
  | .driftWindow engine st => Sys2Proof.Machine.execDriftWindow engine st s
  | .shadowRecompute run => Sys2Proof.Machine.execShadowRecompute run s
  | .glideRecalTrigger engine code => Sys2Proof.Machine.execGlideRecalTrigger engine code s
  | .recalibrationComplete cal => Sys2Proof.Machine.execRecalibrationComplete cal s
  | .retrackComplete engine => Sys2Proof.Machine.execRetrackComplete engine s
  | .recalRetry engine => Sys2Proof.Machine.execRecalRetry engine s
  | .glideMapSwitch engine => Sys2Proof.Machine.execGlideMapSwitch engine s
  | .tuningUpdate engine => Sys2Proof.Machine.execTuningUpdate engine s
  | .stackRequest req => Sys2Proof.Machine.execStackRequest req s
  | .correctionWriteback m line => Sys2Proof.Machine.execCorrectionWriteback m line s
  | .scratchpadWriteback line => Sys2Proof.Machine.execScratchpadWriteback line s
  | .lodgeRequest req => Sys2Proof.Machine.execLodgeRequest req s
  | .lodgeFillReturn unit => Sys2Proof.Machine.execLodgeFillReturn unit s
  | .scratchpadScrub store unit line => Sys2Proof.Machine.execScratchpadScrub store unit line s
  | .stackScrub m unit => Sys2Proof.Machine.execStackScrub m unit s
  | .rowTest m pc bank row failingBit sparesLeft => Sys2Proof.Machine.execRowTest m pc bank row failingBit sparesLeft s
  | .strobeTracking m pc lane step limit => Sys2Proof.Machine.execStrobeTracking m pc lane step limit s
  | .marginGo results => Sys2Proof.Machine.execMarginGo results s
  | .stackFailed m cause => Sys2Proof.Machine.execStackFailed m cause s
  | .dmaTransactionComplete st => Sys2Proof.Machine.execDmaTransactionComplete st s
  | .lightDetected port fibres => Sys2Proof.Machine.execLightDetected port fibres s
  | .trainingWord port fibre chan word rtt => Sys2Proof.Machine.execTrainingWord port fibre chan word rtt s
  | .marginTest port results dark => Sys2Proof.Machine.execMarginTest port results dark s
  | .trainingLimit port => Sys2Proof.Machine.execTrainingLimit port s
  | .linkFrame port lane frame => Sys2Proof.Machine.execLinkFrame port lane frame s
  | .linkRetryRequest port lane ack => Sys2Proof.Machine.execLinkRetryRequest port lane ack s
  | .replayTimeout port lane => Sys2Proof.Machine.execReplayTimeout port lane s
  | .correctedSymbolWindow port fibre chan => Sys2Proof.Machine.execCorrectedSymbolWindow port fibre chan s
  | .lightLost port loss => Sys2Proof.Machine.execLightLost port loss s
  | .bridgeLineCheckFail port bundle lane => Sys2Proof.Machine.execBridgeLineCheckFail port bundle lane s
  | .combFailure port linePower => Sys2Proof.Machine.execCombFailure port linePower s
  | .fastRetrainComplete port report => Sys2Proof.Machine.execFastRetrainComplete port report s
  | .loopbackTest port fieldsFullSet => Sys2Proof.Machine.execLoopbackTest port fieldsFullSet s
  | .hold port value => Sys2Proof.Machine.execHold port value s
  | .retrainGo port => Sys2Proof.Machine.execRetrainGo port s
  | .packetArrival port p => Sys2Proof.Machine.execPacketArrival port p s
  | .write p => Sys2Proof.Machine.execWrite p s
  | .store p => Sys2Proof.Machine.execStore p s
  | .load p => Sys2Proof.Machine.execLoad p s
  | .atom p => Sys2Proof.Machine.execAtom p s
  | .atomF p => Sys2Proof.Machine.execAtomF p s
  | .signal p => Sys2Proof.Machine.execSignal p s
  | .refetch p => Sys2Proof.Machine.execRefetch p s
  | .far p => Sys2Proof.Machine.execFar p s
  | .relay p checks => Sys2Proof.Machine.execRelay p checks s
  | .relayTally p => Sys2Proof.Machine.execRelayTally p s
  | .ack p => Sys2Proof.Machine.execAck p s
  | .data p => Sys2Proof.Machine.execData p s
  | .result p => Sys2Proof.Machine.execResult p s
  | .farRsp p => Sys2Proof.Machine.execFarRsp p s
  | .relayAck p => Sys2Proof.Machine.execRelayAck p s
  | .mgtPacket port p => Sys2Proof.Machine.execMgtPacket port p s
  | .ordPacketRelease src => Sys2Proof.Machine.execOrdPacketRelease src s
  | .combineEntryClose port entry => Sys2Proof.Machine.execCombineEntryClose port entry s
  | .sensorReading sensor t => Sys2Proof.Machine.execSensorReading sensor t s
  | .stepConfirmation sensor neighbours => Sys2Proof.Machine.execStepConfirmation sensor neighbours s
  | .stepEnd => Sys2Proof.Machine.execStepEnd s
  | .regRead m => Sys2Proof.Machine.execRegRead m s
  | .regWrite m => Sys2Proof.Machine.execRegWrite m s
  | .sliceTable m => Sys2Proof.Machine.execSliceTable m s
  | .start m => Sys2Proof.Machine.execStart m s
  | .drain m => Sys2Proof.Machine.execDrain m s
  | .msgDrainRelease m => Sys2Proof.Machine.execMsgDrainRelease m s
  | .fence m => Sys2Proof.Machine.execFence m s
  | .suspect m => Sys2Proof.Machine.execSuspect m s
  | .pack m => Sys2Proof.Machine.execPack m s
  | .image m => Sys2Proof.Machine.execImage m s
  | .clearBench m => Sys2Proof.Machine.execClearBench m s
  | .clearSparemap m => Sys2Proof.Machine.execClearSparemap m s
  | .raiseMinSvn m => Sys2Proof.Machine.execRaiseMinSvn m s
  | .debugUnlock m => Sys2Proof.Machine.execDebugUnlock m s
  | .messageResponse mseq chunkOff => Sys2Proof.Machine.execMessageResponse mseq chunkOff s
  | .messageResendTimeout mseq chunkOff => Sys2Proof.Machine.execMessageResendTimeout mseq chunkOff s
  | .partialMessageTimeout route => Sys2Proof.Machine.execPartialMessageTimeout route s
  | .entdaa addr => Sys2Proof.Machine.execEntdaa addr s
  | .rstdaa => Sys2Proof.Machine.execRstdaa s
  | .enec => Sys2Proof.Machine.execEnec s
  | .disec => Sys2Proof.Machine.execDisec s
  | .getpid => Sys2Proof.Machine.execGetpid s
  | .getbcr => Sys2Proof.Machine.execGetbcr s
  | .getdcr => Sys2Proof.Machine.execGetdcr s
  | .getstatus => Sys2Proof.Machine.execGetstatus s
  | .i3cRegisterWrite frame => Sys2Proof.Machine.execI3cRegisterWrite frame s
  | .i3cSetReadPointer frame => Sys2Proof.Machine.execI3cSetReadPointer frame s
  | .i3cPrivateRead => Sys2Proof.Machine.execI3cPrivateRead s
  | .i3cMailboxAppend frame => Sys2Proof.Machine.execI3cMailboxAppend frame s
  | .i3cMailboxDiscard frame => Sys2Proof.Machine.execI3cMailboxDiscard frame s
  | .i3cSelectOutbound frame => Sys2Proof.Machine.execI3cSelectOutbound frame s
  | .drainGo => Sys2Proof.Machine.execDrainGo s
  | .drainRelease => Sys2Proof.Machine.execDrainRelease s
  | .powerdown => Sys2Proof.Machine.execPowerdown s
  | .fenceGo port => Sys2Proof.Machine.execFenceGo port s
  | .tstGo target => Sys2Proof.Machine.execTstGo target s
  | .onDemandTestEnd failures => Sys2Proof.Machine.execOnDemandTestEnd failures s
  | .jrnlSelWrite value => Sys2Proof.Machine.execJrnlSelWrite value s
  | .bucketCtlWrite value => Sys2Proof.Machine.execBucketCtlWrite value s
  | .poolBudgetWrite pool value => Sys2Proof.Machine.execPoolBudgetWrite pool value s
  | .limitWWrite value => Sys2Proof.Machine.execLimitWWrite value s
  | .satCounterClear offset value => Sys2Proof.Machine.execSatCounterClear offset value s
  | .registerWrite offset bytes value => Sys2Proof.Machine.execRegisterWrite offset bytes value s
  | .capacityMapWrite => Sys2Proof.Machine.execCapacityMapWrite s
  | .journalFlush writeOk => Sys2Proof.Machine.execJournalFlush writeOk s
  | .referenceClockLoss => Sys2Proof.Machine.execReferenceClockLoss s
  | .poweredTimeTick => Sys2Proof.Machine.execPoweredTimeTick s
  | .codeword port fibre chan symbols => Sys2Proof.Machine.execCodeword port fibre chan symbols s
  | .pseudoChannelCommand m pc refresh => Sys2Proof.Machine.execPseudoChannelCommand m pc refresh s
  | .creditReturn port vc flits => Sys2Proof.Machine.execCreditReturn port vc flits s

end Sys2Proof.Machine
end

