-- ==== Sys2Proof/Machine/Outgoing.lean ====
section
/-!
DEFINITION. What a port sends (R255 to R258, R261, R262, R265, R266, R269, R270, R274): training words, link frames and
codewords, as the state determines them.
-/
namespace Sys2Proof.Machine

/-! ### Training words (R265, R266, R269, R270, R274) -/

/-- A port sends training words: from LIGHT to IDENT, and in a fast retrain. -/
def LinkState.sendsWords : LinkState → Bool
  | .light | .lock | .align | .margin | .map | .ident | .retrain => true
  | _ => false

/-- MAP_BITS of a receive fibre: its channels in use. -/
def Port.mapBits (p : Port) (n f : Nat) : Nat := if (p.inUse n).contains f then maskOf (p.chansInUse f) else 0

/-- The bits [127:16] of the word that a port sends on a transmit fibre and channel, with the map of a receive fibre. -/
def State.wordBody (s : State) (n fibre chan mapFibre : Nat) : Nat :=
  let p := s.port n
  0xB5E3 * 2 ^ 112 + (n * 2 ^ 13 + fibre * 2 ^ 9 + chan * 2 ^ 4) * 2 ^ 96 + p.state.code * 2 ^ 92 + mapFibre * 2 ^ 88 +
  p.mapBits n mapFibre * 2 ^ 70 + maskOf (p.inUse n) * 2 ^ 61 + p.epoch % 16 * 2 ^ 57 + p.peerEpoch % 16 * 2 ^ 53 +
  b2n s.links.strapOk * 2 ^ 52 + s.here.toNat * 2 ^ 34 + b2n (p.state == .retrain) * 2 ^ 33

/-- The training word that a port sends on a transmit fibre and channel; none outside training. MAP_FIBRE steps through the
fibres 0 to 8 in successive words: `turn` numbers them. -/
def State.trainingWord (s : State) (n fibre chan turn : Nat) : Option (BitVec 128) :=
  if (s.port n).state.sendsWords then
    let w := BitVec.ofNat 128 (s.wordBody n fibre chan (turn % 9))
    some (w ||| (wordCrc w).setWidth 128)
  else none

/-! ### Link frames (R258, R259, R261, R262) -/

/-- A link frame: a flit with its trailer, TYPE, SEQ, ACK and the CRC. -/
def linkFrame (flit : List Byte) (ty seq ack : Nat) : List Byte :=
  let b := flit ++ natLe 4 (ack % 4096 * 2 ^ 20 + seq % 4096 * 2 ^ 8 + ty * 2 ^ 6)
  b ++ natLe 4 (crc32 b).toNat

/-- The data frame of an unacknowledged flit of a lane: every frame carries the SEQ that this side expects in ACK. -/
def Lane.dataFrame (l : Lane) (x : Nat × List Byte) : List Byte := linkFrame x.2 0 x.1 l.rxSeq

/-- What a lane sends while it has no data frame to send: a retry request while it asks for one, else an idle frame, with the
SEQ of its next new data frame. -/
def Lane.restFrame (l : Lane) : List Byte :=
  linkFrame ((List.range 256).map Config.idleByte) (if l.requesting then 2 else 1) l.txSeq l.rxSeq

/-- The frames that a lane sends one after another: those of its replay buffer that it sends or sends again, then one at
rest. -/
def Lane.frames (l : Lane) : List (List Byte) := l.replay.map l.dataFrame ++ [l.restFrame]

/-! ### Codewords (R255 to R258) -/

/-- The control symbol of a physical fibre and channel, with FS. -/
def controlSymbol (fibre chan : Nat) (fs : Bool) : Nat := chan * 2 ^ 5 + fibre * 2 + b2n fs

/-- The stream bits of a frame, each byte with its least significant bit first. -/
def frameBits (f : List Byte) : List Bool := f.flatMap fun b => (List.range 8).map b.getLsbD

/-- The 127 payload symbols of 1,270 stream bits, bit 0 first. -/
def payloadSymbols (b : List Bool) : List Nat :=
  (List.range 127).map fun k => (List.range 10).foldl (fun n i => n + b2n (b.getD (10 * k + i) false) * 2 ^ i) 0

/-- The k-th codeword of a stream of frames on a physical fibre and channel: FS is set where a frame begins at its first payload
bit. -/
def codewordAt (fibre chan : Nat) (frames : List (List Byte)) (k : Nat) : List Nat :=
  let b := ((frames.flatMap frameBits).drop (1270 * k)).take 1270
  rsEncode (controlSymbol fibre chan (decide (1270 * k % 2112 = 0)) :: payloadSymbols b)

end Sys2Proof.Machine
end

