-- ==== Sys2Proof/Safety.lean ====
section
/-!
DEFINITION. What counts as a safe state and a safe step, in the terms that claims use: the canonical form of memory, the
counters' reserved bits, the bucket's limit, and what no command but those of the supply and the clock may change.
-/
namespace Sys2Proof.Machine

/-! ### Safe states -/

/-- The reserved bits [62:48] of every SAT counter are zero (R12). -/
def satOk (t : Table Word) : Bool := t.all fun x => decide (bits x.2.toNat 62 48 = 0)

/-- LEVEL holds at most 255 points, in 1/256 points (R363). -/
def Nvm.levelOk (n : Nvm) : Bool := decide (n.level.toNat ≤ 255 * 256)

/-- The states in which the device may be a member of a slice (Table - Device states, R34). -/
def DevState.bindable (m : DevState) : Bool := m == .run || m == .drain || m == .watch

/-- BOUND stands only in a state that may be a member (R34, R39). -/
def Device.memberOk (d : Device) : Bool := !d.bound || d.mode.bindable

/-- A safe state: memory in canonical form (log 4), SAT counters without reserved bits, LEVEL within its limit, and BOUND
only where the device may be a member. -/
structure Safe (s : State) : Prop where
  mem : s.stores.mem.wf = true
  sat : satOk s.sat = true
  level : s.nvm.levelOk = true
  member : s.dev.memberOk = true

/-! ### Kept by every command but those of the supply and of the clock -/

/-- A device state that may follow another without OFF between (R32): FAULT is left only through OFF, BENCHED only to FAULT
or through OFF, and OFF itself only for STANDBY. -/
def DevState.onward : DevState → DevState → Bool
  | .off, m => m == .off
  | .fault, m => m == .fault
  | .benched, m => m == .benched || m == .fault
  | _, m => m != .off

/-- What a command other than those of the supply and of the clock keeps: the queue, PT (R7), the boot count (R8), the
device states of R32, a bench record (R37), a latched ZH_THERMTRIP_N (R405), and the safety of the state. -/
structure Kept (s t : State) : Prop where
  sameQueue : t.pending = s.pending
  samePt : t.pt = s.pt
  sameBoots : t.nvm.bootCount = s.nvm.bootCount
  modeOnward : s.dev.mode.onward t.dev.mode = true
  benchStays : s.nvm.benchRecord = true → t.nvm.benchRecord = true
  tripStays : s.pins.thermtrip = true → t.pins.thermtrip = true
  staysSafe : Safe s → Safe t

/-- An outcome that is a next state which keeps what s has. -/
def Goes (s : State) (o : Host.Outcome State Fault Refusal) : Prop := ∃ t, o = .next t ∧ Kept s t

/-- The commands that start or end a boot or advance PT. -/
def Instr.ofSupplyOrClock : Instr → Bool
  | .resetAssert | .standbyPowerLost | .standbyEntry _ | .poweredTimeTick => true
  | _ => false

/-! ### Frames: what an operation leaves as it was -/

/-- The parts of the state, one for each field of State; `mem` is the memory, and `stores` the rest of the stores. -/
inductive StatePart where
  | pending | dev | pins | clocks | pt | boot | fuses | nvm | card | mgmt
  | img | config | test | power | thermal | cells | cap | bucket | stores | mem
  | glide | links | fabric | windows | restore | relay | job | sat | wrap | freeIdx
  deriving DecidableEq, Repr

/-- Two states agree in a part. -/
def StatePart.same (p : StatePart) (s t : State) : Prop :=
  match p with
  | .pending => t.pending = s.pending
  | .dev => t.dev = s.dev
  | .pins => t.pins = s.pins
  | .clocks => t.clocks = s.clocks
  | .pt => t.pt = s.pt
  | .boot => t.boot = s.boot
  | .fuses => t.fuses = s.fuses
  | .nvm => t.nvm = s.nvm
  | .card => t.card = s.card
  | .mgmt => t.mgmt = s.mgmt
  | .img => t.img = s.img
  | .config => t.config = s.config
  | .test => t.test = s.test
  | .power => t.power = s.power
  | .thermal => t.thermal = s.thermal
  | .cells => t.cells = s.cells
  | .cap => t.cap = s.cap
  | .bucket => t.bucket = s.bucket
  | .stores => ({ t.stores with mem := {} } : Stores) = { s.stores with mem := {} }
  | .mem => t.stores.mem = s.stores.mem
  | .glide => t.glide = s.glide
  | .links => t.links = s.links
  | .fabric => t.fabric = s.fabric
  | .windows => t.windows = s.windows
  | .restore => t.restore = s.restore
  | .relay => t.relay = s.relay
  | .job => t.job = s.job
  | .sat => t.sat = s.sat
  | .wrap => t.wrap = s.wrap
  | .freeIdx => t.freeIdx = s.freeIdx

/-- Two states agree in every part but those listed. -/
def Frame (l : List StatePart) (s t : State) : Prop := ∀ p, p ∉ l → p.same s t

end Sys2Proof.Machine
end

