-- ==== Sys2Proof/Claims.lean ====
section
/-!
DEFINITION. The words that the obligations use: when a command of the Course is ready, what its station is after it, which
signals R65 lets go, and what a write of memory leaves alone.
-/
namespace Sys2Proof.Machine

/-! ### Commands of the Course -/

/-- The command at the head of a station may issue, and the semaphore that its WE names holds 1 (R63, R72). -/
def Ready (s : State) (st : Nat) (cf : Common) (ok : Kind → Bool) : Prop :=
  s.canIssue st ok = true ∧ (cf.we = true → (s.st st).weGranted = true ∨ 1 ≤ (s.st st).sem cf.wSem)

/-- The station once WE has taken 1 from its semaphore (R72). -/
def StationRt.entered (r : StationRt) (cf : Common) : StationRt :=
  if cf.we && !r.weGranted then { r with sems := setGrow r.sems cf.wSem 0 (r.sem cf.wSem - 1), weGranted := true } else r

/-- The state once WE has taken 1 from its semaphore. -/
def State.entered (s : State) (st : Nat) (cf : Common) : State :=
  if cf.we && !(s.st st).weGranted then s.withSt st (·.entered cf) else s

/-- The next command may issue, and what this one keeps until it completes joins the outstanding ones (R49). -/
def StationRt.issued (r : StationRt) (os : List Outst) : StationRt :=
  { r with pc := r.pc + 1, weGranted := false, ticketSince := none, nextId := r.nextId + 1
           outstanding := r.outstanding ++ os.map fun o => { o with id := r.nextId } }

/-- What a command that completes at once adds to the outstanding ones: one entry for each of its signals, all done. -/
def atOnce (sig : List (Option Nat × Nat)) : List Outst :=
  sig.map fun g => { kind := .nothing, signal := g.1, count := g.2, done := true }

/-- The completed commands at the head of the list leave it (R65). -/
def StationRt.settled (r : StationRt) : StationRt := { r with outstanding := (retired r.outstanding).2 }

/-- The station after a command that completes at once: its cursors have advanced and the next command may issue. -/
def StationRt.past (r : StationRt) (adv : List Advance) (sig : List (Option Nat × Nat)) : StationRt :=
  ((adv.foldl StationRt.advance r).issued (atOnce sig)).settled

/-- The signals of commands that leave a station's list, through the station's signal table (R44, R65). -/
def State.sentBy (s : State) (st : Nat) (gone : List Outst) : List SignalMsg :=
  gone.filterMap fun o => match o.signal with
    | some k => match s.desc st with
      | some d => match d.signals.getD k none with
        | some t => some { station := t.station, sem := t.sem, count := o.count }
        | none => none
      | none => none
    | none => none

/-- The signals that go once a station's list is `os`. -/
def State.signalsOf (s : State) (st : Nat) (os : List Outst) : List SignalMsg := s.sentBy st (retired os).1

/-- From s to t the station st became r and the signals sig went on their way; nothing else changed. -/
structure Moves (s t : State) (st : Nat) (r : StationRt) (sig : List SignalMsg) : Prop where
  rest : t = { s with cells := { s.cells with stations := t.cells.stations, signals := s.cells.signals ++ sig } }
  own : t.st st = r
  others : ∀ n, n ≠ st → t.st n = s.st n

/-- From s to t a command of st that completes at once has done its work: the station, which the work made r, is past it,
and the signals that R65 lets go are on their way; nothing else changed. -/
def Done (s t : State) (st : Nat) (r : StationRt) (adv : List Advance) (sig : List (Option Nat × Nat)) : Prop :=
  Moves s t st (r.past adv sig) (s.signalsOf st ((adv.foldl StationRt.advance r).issued (atOnce sig)).outstanding)

/-- Work of a station may end without ending the Course: its stream goes on, or another station has not finished (R73). -/
def Open (s : State) (st : Nat) : Prop :=
  (s.st st).halted = false ∨ ∃ p ∈ s.cells.stations, p.1 ≠ st ∧ p.2.finished = false

/-- The last station to halt with nothing outstanding leaves its STEP for COURSE_DONE. -/
def State.noted (s : State) (r : StationRt) : State :=
  if r.halted && r.outstanding.isEmpty then s.withJob fun j => { j with haltedStep := r.stepNo } else s

/-- The i-th outstanding command o of a station completes (R49): its cursors advance and it is done. -/
def StationRt.completes (r : StationRt) (i : Nat) (o : Outst) : StationRt :=
  { o.adv.foldl StationRt.advance r with outstanding := updAt r.outstanding i fun o => { o with done := true, adv := [], open_ := 0 } }

/-- From s to t the i-th outstanding command o of st, which some work left as r, completed: done commands at the head leave
the list and their signals go, but from a stopped station (R65, R82); nothing else changed. -/
def Completed (s t : State) (st : Nat) (r : StationRt) (i : Nat) (o : Outst) : Prop :=
  Moves (s.noted (r.completes i o).settled) t st (r.completes i o).settled
    (if r.stopped then [] else s.signalsOf st (r.completes i o).outstanding)

/-- From s to t a DMA command of `count` frames, which its work left ready on the station r, has issued (R125, R126): two transactions
for each frame, of which as many have started as the context, the cell and the device have room for. The station waits for a free
operation where the device has none left for the others. -/
def DmaIssued (s t : State) (st : Nat) (r : StationRt) (cf : Common) (adv : List Advance) (count : Nat) : Prop :=
  let o : Outst := { kind := .dma, adv := adv, signal := signalOf cf, open_ := 2 * count, todo := 2 * count }
  let x := s.withSt st fun _ => r.issued [o]
  let n := min (2 * count) (x.opRoom st)
  ∃ w, t = w.markFlight ∧ Moves s w st { x.st st with outstanding := (w.st st).outstanding, opSince := (w.st st).opSince } [] ∧
    (w.st st).outstanding = startTodo (x.opRoom st) (x.st st).outstanding ∧
    ((∀ p ∈ r.outstanding, p.todo = 0) →
      (w.st st).outstanding = (r.issued [{ o with todo := 2 * count - n }]).outstanding ∧
      (w.st st).opSince = if x.inFlight + n < 32768 ∨ n = 2 * count then none
        else some (if 0 < n then s.pt else r.opSince.getD s.pt))

/-! ### Frames of memory (R57, R204) -/

/-- Every byte of a span has a place: it is mapped, and not in the management window (R202). -/
def State.mapped (s : State) (a n : Nat) : Prop := ∀ x, a ≤ x → x < a + n → (s.place x).isSome = true

/-- A station reads a frame at an address, its CRC verifies, and the state becomes u: corrections of its granules are recorded
there, and the traffic of a stack is counted. -/
def Reads (s : State) (st a : Nat) (f : List Byte) (u : State) : Prop := s.readFrame st a .clean = { state := u, frame := some f }

/-- Frames read and written one after another take s to t: the k-th of a list is read at its source address, passes a check, and
is written, as restamped, to its destination address. -/
def Copied (st : Nat) (ok : Nat → List Byte → Bool) (stamp : Nat → List Byte → List Byte) : List (Nat × Nat × Nat) → State → State → Prop
  | [], s, t => t = s
  | (k, a, b) :: r, s, t => ∃ f v, Reads s st a f v ∧ ok k f = true ∧ s.mapped b frameBytes ∧ b % 8 = 0 ∧
      Copied st ok stamp r (v.writeFrame st b (stamp k f)) t

/-- Every line that the Lodge holds of the stacks reads clean (R205, R225). -/
def State.cacheClean (s : State) : Prop := ∀ p ∈ s.stores.cache, ∀ c ∈ p.2, ∀ z ∈ c.read.1, z = .clean

/-- The frame of an input port that the station uses next. -/
def State.inAddr (s : State) (st port : Nat) : Nat := s.slotAddr (s.inStream st port) ((s.st st).inPos port)

/-- The slot of an output port that the station writes next. -/
def State.outAddr (s : State) (st port : Nat) : Nat := s.slotAddr (s.outStream st port) ((s.st st).outPos port)

/-- From s to u the bytes b were written at an address, and nothing else changed but the copies that the Lodge holds of them and
the marks on the fills that it awaits, the corrections that waited for them, and the counts of stack traffic. -/
structure Wrote (s u : State) (a : Nat) (b : List Byte) : Prop where
  bytes : u.stores.mem.raw a b.length = b
  checks : ∀ g, a / 8 ≤ g → g < (a + b.length) / 8 → (u.stores.mem.readGranules g 1).1 = [.clean]
  outside : ∀ x, x < a ∨ a + b.length ≤ x → u.stores.mem.byte x = s.stores.mem.byte x
  stores : ({ u.stores with mem := {}, cache := [], fills := [], stackFix := [], padFix := [] } : Stores) =
    { s.stores with mem := {}, cache := [], fills := [], stackFix := [], padFix := [] }
  rest : Frame [.stores, .mem, .wrap] s u

/-- The semaphore file of a cell (R123, R124). -/
def State.semFile (s : State) (cell : Nat) : SemFile := lookD s.cells.semFiles cell {}

/-! ### Units -/

/-- From s to t engine n became e; the other engines and the rest of what Glide holds, but the lists of engines that leave or
return and of stations that are barred, are as they were. -/
def OnlyEngine (s t : State) (n : Nat) (e : Engine) : Prop :=
  t.engine n = e ∧ (∀ k, k ≠ n → t.engine k = s.engine k) ∧
  ({ t.glide with engines := [], leaving := [], returning := [], barred := [] } : Glide) =
    { s.glide with engines := [], leaving := [], returning := [], barred := [] }

/-- From s to t port n became p; the other ports and the straps are as they were. -/
def OnlyPort (s t : State) (n : Nat) (p : Port) : Prop :=
  t.port n = p ∧ (∀ k, k ≠ n → t.port k = s.port k) ∧ ({ t.links with ports := [] } : Links) = { s.links with ports := [] }

/-- From s to t stack m became k; the other stacks and the rest of the stores are as they were. -/
def OnlyStack (s t : State) (m : Nat) (k : Stack) : Prop :=
  t.stack m = k ∧ (∀ j, j ≠ m → t.stack j = s.stack j) ∧ ({ t.stores with stackSet := [] } : Stores) = { s.stores with stackSet := [] }

/-- From s to t the ticket of a class is neither held nor waited for, and every other is as it was. -/
def Released (s t : State) (c : TicketClass) : Prop :=
  t.power.held = s.power.held.filter (·.cls != c) ∧ t.power.queue = s.power.queue.filter (·.cls != c)

/-- From s to t a ticket of a class is asked for at the tail of its pools' queues, unless one waits or is held (R390). -/
def Asked (s t : State) (c : TicketClass) : Prop :=
  t.power.held = s.power.held ∧
  if s.power.queue.any (·.cls = c) || s.power.held.any (·.cls = c) then t.power = s.power
  else t.power.queue = s.power.queue ++ [{ cls := c, claims := claimsOf c, order := s.power.nextOrder }] ∧
    t.power.nextOrder = s.power.nextOrder + 1

/-- From s to t cluster c became k, and every other is as it was. -/
def OnlyCluster (s t : State) (c : Nat) (k : Cluster) : Prop := t.cluster c = k ∧ ∀ x, x ≠ c → t.cluster x = s.cluster x

/-! ### The scorecard (R457) -/

/-- From s to t one event with this code entered the ledger, at HEAD, with its number and its time. -/
def Recorded (s t : State) (code : Nat) : Prop :=
  t.card.head = s.card.head + 1 ∧
  ∃ r, look t.card.ledger (s.card.head.toNat % 1024) = some r ∧ r.code = code ∧ r.seq = s.card.head ∧ r.pt = s.pt

/-! ### FAULT (R32, R38, R39) -/

/-- From s the device entered FAULT with a cause: membership has ended, every ticket is gone, the torus ports are down, and
the journal is to be flushed; non-volatile storage, powered time, memory and the parts that FAULT does not name are as they
were. -/
structure Faults (s t : State) (code : Nat) : Prop where
  mode : t.dev.mode = .fault
  prev : t.dev.prev = s.dev.mode
  cause : t.dev.faultCode = BitVec.ofNat 8 code
  bound : t.dev.bound = false
  tickets : t.power.held = [] ∧ t.power.queue = []
  stations : t.cells.stations = [] ∧ t.cells.signals = []
  ports : ∀ p ∈ t.links.ports, p.1 < 6 → p.2.state = .down
  flush : t.card.flushDue = true
  rest : Frame [.dev, .pins, .clocks, .boot, .card, .mgmt, .thermal, .power, .cells, .glide, .links, .fabric, .relay, .restore, .job, .sat,
    .wrap] s t

/-- An event with this code stands in the ledger, recorded now. -/
def Logged (s t : State) (code : Nat) : Prop := ∃ k r, look t.card.ledger k = some r ∧ r.code = code ∧ r.pt = s.pt

/-- A placement report went to the job service, with its EVENT and STATUS (R172). -/
def Reported (s t : State) (event status : Nat) : Prop :=
  ∃ c ∈ t.mgmt.sent, c.mtype = 0x43 ∧ c.resp = false ∧ c.sentPt = s.pt ∧ c.chunkOff = 0 ∧ c.body.take 8 =
    natLe 4 0x504C4352 ++ natLe 2 1 ++ natLe 2 status ∧ sub c.body 20 1 = natLe 1 event

/-! ### Drain orders (R23, R36) -/

/-- The device as a drain order with reason r leaves it: in DRAIN, from the state it was in, with that reason alone. -/
def Device.drains (d : Device) (r : Nat) (pt : Word) : Device :=
  { d with mode := .drain, prev := d.mode, reasons := BitVec.ofNat 8 (2 ^ r), drainStart := pt, drained := false }

/-- What entering DRAIN changes beside the device: MGT_EVENT, and the link tickets that it revokes. -/
def drainParts : List StatePart := [.dev, .mgmt, .power, .cells, .links, .card, .wrap]

/-! ### Course errors (R82) -/

/-- From s the Course ends with an error of a station (R82): its stations stop, the job ends, the error is reported, and a device
that may leaves through DRAIN with DR_JOBEND. A job that is done stays so (log 16). -/
structure CourseFails (s t : State) (code st : Nat) : Prop where
  job : t.job = s.job.map fun j => { j with phase := j.phase.afterError, errorCode := code, errorStation := st }
  stations : ∀ p ∈ t.cells.stations, p.2.stopped = true
  drains : s.dev.mode.running = true → t.dev = s.dev.drains drJobend s.pt
  report : ∃ m ∈ t.mgmt.sent, m.mtype = 0x44 ∧ m.resp = false ∧ m.body = natLe 1 code ++ natLe 2 st ∧ m.sentPt = s.pt
  rest : Frame [.dev, .mgmt, .power, .cells, .links, .card, .job, .fabric, .sat, .wrap] s t

/-! ### Requests from the fabric (R287, R304, R313) -/

/-- A request has left the local port's queue and is counted. -/
def served (s : State) (p : Packet) : State :=
  { s with fabric := { s.fabric with localIn := s.fabric.localIn.erase p }, wrap := upd s.wrap (oFab 0x1108) 0 (· + 1) }

/-- One more write of the packet's source has completed here. -/
def counted (s : State) (p : Packet) : State :=
  { s with fabric := { s.fabric with completed := put s.fabric.completed p.src.toNat ((s.doneFrom p.src + 1) % 2 ^ 16) } }

/-- The response to a request: its TAG and CMB, to its source, with a status and a payload; a RESULT has the request's SEQ. -/
def answer (p : Packet) (opc : Byte) (status : Nat) (payload : List Byte) : Packet :=
  { opc := opc, pflags := p.pflags &&& 2, dst := p.src, src := 0, sliceId := 0, seq := if opc = 0x83 then p.seq else 0
    tag := p.tag, aux := BitVec.ofNat 16 status, payload := payload }

/-! ### Messages (R441 to R443) -/

/-- A request within the size of its type, from a source that has sent no part of it and none of another, to a device that
is not in OFF. -/
def Fresh (s : State) (mtype : Nat) (m : Msg) : Prop :=
  s.dev.mode ≠ .off ∧ m.body.length ≤ maxBody mtype ∧
  (∀ x ∈ s.mgmt.stored, x.route = m.route → x.mseq ≠ m.mseq) ∧ ∀ p ∈ s.mgmt.partials, p.route ≠ m.route

/-- The offset of a message's last chunk. -/
def lastOff (m : Msg) : Nat := 4032 * ((m.body.length - 1) / 4032)

/-- The request has been answered: the response to its last chunk, with its STATUS and body, has been sent and is stored. -/
def Answered (t : State) (mtype : Nat) (m : Msg) (status : Nat) (body : List Byte) : Prop :=
  ∃ a : OutMsg, a.dest = m.route ∧ a.mtype = mtype ∧ a.resp = true ∧ a.status = status ∧ a.body = body ∧ a.mseq = m.mseq ∧
    a.chunkOff = lastOff m ∧ a.jobId = m.jobId ∧ a ∈ t.mgmt.sent ∧
    { route := m.route, mseq := m.mseq, chunkOff := lastOff m, answer := a } ∈ t.mgmt.stored

/-- What answering a request leaves alone, beside what the request itself does. -/
def answerParts : List StatePart := [.mgmt, .links, .fabric, .sat, .wrap]

end Sys2Proof.Machine
end

