-- ==== Sys2Proof/Certificates/Slice0/Obligations.lean ====
section
/-!
DEFINITION. The statements for the provers. Each says what a command of the table does to the state: that it goes on, what it
changes, and what it leaves.
-/
section
open Sys2Proof Sys2Proof.Machine

/-! ### The whole block (R2, R6, R7, R12, R32, R37, R363, R405) -/

/-- Reset (R7, R8, R39 and the Reset columns): STANDBY entered from OFF with PT 0 and boot count 1, MGT_STATE, MGT_EVENT, MGT_ALERT_EN,
PWR_CTL, TIM_CLK and the SAT counters at the values of their tables (LIMIT_W and BUDGET, marked I, at the model's choice of log 11),
no fault code, no job, no slice table, nothing waiting; and the state is safe. The model's own readings here: logs 11, 114. -/
def Obligations.ResetValues : Prop :=
  let s := State.reset
  s.pending = [] ∧ s.dev = { mode := .standby, prev := .standby, faultCode := 0, bound := false, reasons := 0 } ∧ s.pt = 0 ∧
  s.nvm.bootCount = 1 ∧ s.regAt 0x10 = some 0x11 ∧ s.regAt 0x20 = some 0 ∧ s.regAt 0x28 = some 0x3D ∧
  s.regAt 0x020000 = some (BitVec.ofNat 64 (4400 * 2 ^ 32)) ∧ s.regAt 0x040010 = some 1 ∧ s.job = none ∧ s.fabric.table = none ∧
  (∀ o ∈ satOffsets, s.regAt o = some 0) ∧ (∀ i, i < 0x28 → budgetOf s.power i = maxBudget i) ∧ s.stores.mem = {} ∧ Safe s

/-- A step takes the command at the front of the queue, and carries it out on the state with the queue's rest. With nothing waiting
the block idles, which is the model's choice (log 1). -/
def Obligations.StepTakesFront : Prop :=
  (∀ (c : Instr) (s : State), step { s with pending := c :: s.pending } = exec c s) ∧
  ∀ s : State, s.pending = [] → step s = .next s

/-- Every command but a reserved atomic or far operation answers a next state, which keeps the queue, and but for the commands of
the supply and of the clock keeps PT, the boot count, the bench record and a latched trip, moves between device states only as
R32 allows, and keeps the state safe. -/
def Obligations.CommandsGoOn : Prop :=
  ∀ (c : Instr) (s : State),
    (∀ p, c = .atom p ∨ c = .atomF p → reservedFn (p.aux.toNat % 16) = false) → (∀ p, c = .far p → reservedEntry p.payload = false) →
    (Instr.ofSupplyOrClock c = false → Goes s (exec c s)) ∧
    (Instr.ofSupplyOrClock c = true → ∃ t, exec c s = .next t ∧ t.pending = s.pending)

/-- A step from a safe state gives a safe state: memory in canonical form, SAT counters without reserved bits (R12), LEVEL within 255
points (R363), and BOUND only where the device may be a member (R34). -/
def Obligations.StepKeepsSafe : Prop := ∀ s t : State, Safe s → step s = .next t → Safe t

/-- A reserved function, operation or size in an atomic or far packet stops the block: R6 leaves the device's behaviour undefined
(log 43). -/
def Obligations.ReservedStops : Prop :=
  ∀ (p : Packet) (s : State),
    (6 < p.aux.toNat % 16 → exec (.atom p) s = .fault .reservedEncoding ∧ exec (.atomF p) s = .fault .reservedEncoding) ∧
    (reservedEntry p.payload = true → exec (.far p) s = .fault .reservedEncoding)

/-! ### Cold start (R270, R418, R421, R422) -/

/-- COLD_START_STEP_END ends the step in progress and begins the next (R418): step 2 with the root PLL's lock, step 7 once R265 lets
it end and not before, step 9 and with it step 10 with valid straps taken (R270, R431), step 10 once no port works on IDENT, and step
11 with a new capacity map, event 0x86, and BENCHED, WATCH or READY as R421 says. The model's own readings here: logs 109, 141.
Completion: exec answers a next state, under conditions on the state and the operands alone, for coldStartStepEnd. -/
def Obligations.ColdStart : Prop :=
  ∀ (s : State) (r : StepReport), s.dev.mode = .boot →
    let ends (k : Nat) : Boot :=
      { s.boot with done := s.boot.done ++ [k], endPt := put s.boot.endPt k s.pt, step := k + 1, stepSince := s.pt, straps := r.straps }
    (s.boot.step = 2 → exec (.coldStartStepEnd r) s = .next { s with
      boot := ends 2, clocks := { s.clocks with pllLock := true, clkSrc := 0, ckCHL := true } }) ∧
    (s.boot.step = 7 → exec (.coldStartStepEnd r) s = .next (if s.portsReady then { s with boot := ends 7 } else s)) ∧
    (s.boot.step = 9 → s.strapsOk r.straps = true → ∃ t, exec (.coldStartStepEnd r) s = .next t ∧ t.boot = ends 9 ∧
      t.links.strapOk = true ∧ t.links.strapCoord = r.straps.pos1 ∧ Frame [.boot, .links, .card, .mgmt, .power, .glide, .sat] s t) ∧
    (s.boot.step = 10 → exec (.coldStartStepEnd r) s = .next (if s.identsDone then { s with boot := ends 10 } else s)) ∧
    (s.boot.step = 11 →
      let u := s.bindClusters
      ∃ t, exec (.coldStartStepEnd r) s = .next t ∧ t.cap.gen = s.cap.gen + 1 ∧
        (∃ k e, look t.card.ledger k = some e ∧ e.code = 0x86 ∧ e.pt = s.pt) ∧
        (s.nvm.benchRecord = true ∨ u.belowFloor = true → t.dev.mode = .benched ∧ t.dev.prev = .boot ∧ t.nvm.benchRecord = true) ∧
        (s.nvm.benchRecord = false → u.belowFloor = false → s.pins.drainReq = false → s.dev.mgtHold = false → s.dev.debugHold = false →
          s.dev.bootDrain = 0 → t.dev.mode = (if s.nvm.watchRecord then .watch else .ready) ∧ t.dev.prev = .boot))

/-! ### Supplies, pins and clocks (R7, R29 to R39, R405, R469 to R477) -/

/-- RESET_ASSERT and STANDBY_POWER_LOST leave every state for OFF: nothing is kept but the flash, the fuses, the board's
levels and the commands that wait (R7, R32).
Completion: exec answers a next state, under conditions on the state and the operands alone, for resetAssert, standbyPowerLost. -/
def Obligations.OffKeepsFlash : Prop :=
  ∀ s : State,
    let t : State :=
      { pending := s.pending, nvm := s.nvm, freeIdx := s.freeIdx
        fuses := { s.fuses with usable := true }
        pins := { refPresent := s.pins.refPresent, drainReq := s.pins.drainReq, pwrLimit := s.pins.pwrLimit, pgood := s.pins.pgood }
        dev := { mode := .off, prev := .off } }
    exec .resetAssert s = .next t ∧ exec .standbyPowerLost s = .next t

/-- STANDBY_ENTRY begins a boot from OFF: PT starts at 0, the boot count rises until it saturates, the signed commands
that waited for a reset take effect, a nonce is drawn, and LEVEL, the watch record and the journal are kept (R7, R8, R31,
R32, R37, R462, R465, R466). The model's own readings here: log 80.
Completion: exec answers a next state, under conditions on the state and the operands alone, for standbyEntry. -/
def Obligations.StandbyBeginsBoot : Prop :=
  ∀ (s : State) (ref : Bool), s.dev.mode = .off →
    ∃ t, exec (.standbyEntry ref) s = .next t ∧ t.dev = { mode := .standby, prev := .standby } ∧ t.pt = 0 ∧
      t.nvm.bootCount.toNat = min (s.nvm.bootCount.toNat + 1) 0xFFFFFFFF ∧
      t.nvm.benchRecord = (s.nvm.benchRecord && !s.nvm.clearBench) ∧
      (∀ e, e ∈ t.nvm.spareMap ↔ e ∈ s.nvm.spareMap ∧ ∀ c ∈ s.nvm.clearSpares, clears c e = false) ∧
      t.nvm.clearBench = false ∧ t.nvm.clearSpares = [] ∧ t.nvm.level = s.nvm.level ∧ t.nvm.watchRecord = s.nvm.watchRecord ∧
      t.nvm.journal = s.nvm.journal ∧ t.nvm.patterns = s.nvm.patterns ∧ t.nvm.imageA = s.nvm.imageA ∧ t.nvm.imageB = s.nvm.imageB ∧
      (∀ e, s.nvm.journal.getLast? = some e → t.card.nextJidx = e.jidx + 1025) ∧
      (s.nvm.journal = [] → t.card.nextJidx = 0) ∧ t.mgmt.nonce = Config.freeNonce s.freeIdx ∧
      t.freeIdx = s.freeIdx + 1 ∧ t.pins = { s.pins with refPresent := ref, pwrEn := false, pwrEnSpent := false, thermtrip := false } ∧
      t.clocks.clkSrc = (if ref then 1 else 2) ∧ t.clocks.pllLock = false ∧ t.job = none ∧ t.stores = {} ∧ t.fabric = {} ∧
      t.pending = s.pending

/-- The supply (R32, R466, R475, R476, R487): PWR_EN_ASSERT, which comes with the reference (log 44), drives ZH_PWR_EN; PGOOD_ASSERT
within 100 ms of it enters BOOT at step 1 with a new nonce; PGOOD_TIMEOUT, or PGOOD_LOST before BOOT, deasserts ZH_PWR_EN for
good, with event 0x82 (the model's choice, log 17). -/
def Sys2Proof.Parts.SupplySequence : Prop :=
  (∀ s : State, s.dev.mode = .standby → s.pins.pwrEn = false → s.pins.pwrEnSpent = false →
    exec .pwrEnAssert s = .next { s with
      pins := { s.pins with refPresent := true, pwrEn := true, pwrEnSince := s.pt }, clocks := { s.clocks with clkSrc := 1 } }) ∧
  (∀ s : State, s.dev.mode = .standby → s.pins.pwrEn = true → s.pt.toNat - s.pins.pwrEnSince.toNat ≤ 10000000 →
    ∃ t, exec .pgoodAssert s = .next t ∧ t.dev = { s.dev with mode := .boot, prev := .standby } ∧
      t.boot = { step := 1, bootSince := s.pt, stepSince := s.pt } ∧ t.pins = { s.pins with pgood := true } ∧
      t.mgmt.nonce = Config.freeNonce s.freeIdx ∧ t.freeIdx = s.freeIdx + 1 ∧ t.mgmt.event.getLsbD 0 = true ∧
      Frame [.dev, .boot, .pins, .mgmt, .freeIdx] s t) ∧
  (∀ s : State, s.dev.mode = .standby → s.pins.pwrEn = true →
    ∃ t, exec .pgoodLost s = .next t ∧ t.pins = { s.pins with pgood := false, pwrEn := false, pwrEnSpent := true } ∧
      Recorded s t 0x82 ∧ Frame [.pins, .card] s t) ∧
  ∀ s : State, s.dev.mode = .standby → s.pins.pwrEn = true → s.pins.pgood = false →
    10000000 ≤ s.pt.toNat - s.pins.pwrEnSince.toNat →
    ∃ t, exec .pgoodTimeout s = .next t ∧ t.pins = { s.pins with pwrEn := false, pwrEnSpent := true } ∧ Recorded s t 0x82 ∧
      Frame [.pins, .card] s t

/-- What enters FAULT, and with which cause (R25, R29, R31, R32, R39, R419, R477): LOCKSTEP_MISMATCH 0x03 or 0x04,
ROOT_PLL_LOSS 0x02, CLOCK_LOSS 0x01 with the die recorded and its ports fenced, PGOOD_LOST 0x09, and COLD_START_STEP_LIMIT 0x07 for
a step that may not be passed over. -/
def Sys2Proof.Parts.FaultEntries : Prop :=
  (∀ (s : State) (cc : Bool), edge s.dev.mode .fault = true →
    ∃ t, exec (.lockstepMismatch cc) s = .next t ∧ Faults s t (if cc then 4 else 3)) ∧
  (∀ (s : State) (ref : Bool), edge s.dev.mode .fault = true → s.clocks.pllLock = true →
    ∃ t, exec (.rootPllLoss ref) s = .next t ∧ Faults s t 2 ∧ t.clocks = { s.clocks with pllLock := false, clkSrc := if ref then 1 else 2 }) ∧
  (∀ (s : State) (die : Nat), edge s.dev.mode .fault = true →
    (0x15 ≤ die → die ≤ 0x1B → s.clocks.suspended.contains (die - 0x15) = false) →
    ∃ t, exec (.clockLoss die) s = .next t ∧ Faults s t 1 ∧ die ∈ t.clocks.lostDies ∧ die ∈ t.clocks.fencedDies ∧
      (0x15 ≤ die → die ≤ 0x1B → die - 0x15 ∈ t.fabric.fenced)) ∧
  (∀ s : State, edge s.dev.mode .fault = true → s.pins.pwrEn = true →
    ∃ t, exec .pgoodLost s = .next t ∧ Faults s t 9 ∧ t.pins = { s.pins with pgood := false }) ∧
  ∀ s : State, s.dev.mode = .boot → stepLimit s.boot.step ≤ s.pt.toNat - s.boot.stepSince.toNat →
    s.boot.step ≠ 7 → s.boot.step ≠ 9 → s.boot.step ≠ 10 →
    ∃ t, exec .coldStartStepLimit s = .next t ∧ Faults s t 7 ∧ t.boot = { s.boot with limitStep := s.boot.step }

/-- The limit of step 7, 9 or 10 does not end the boot (R419): the next step begins with the device state as it was, and the ports
train on as they were; when step 9 is over, an engine that is not calibrated yet is at STATE 0x5, to be tried again, every other
engine is as it was, and step 10 begins with the straps, which if valid are taken (R270, R431; the samples are those of the last report, the
model's own reading, log 141). -/
def Sys2Proof.Parts.LimitsPassed : Prop :=
  ∀ s : State, s.dev.mode = .boot → stepLimit s.boot.step ≤ s.pt.toNat - s.boot.stepSince.toNat →
    s.boot.step = 7 ∨ s.boot.step = 9 ∨ s.boot.step = 10 →
    ∃ t, exec .coldStartStepLimit s = .next t ∧ t.dev = s.dev ∧ (s.boot.step ≠ 9 → t.links = s.links ∧ t.card = s.card) ∧
      (s.boot.step = 9 → s.strapsOk s.boot.straps = true → t.card = s.card ∧ t.links.strapOk = true ∧ t.links.strapCoord = s.boot.straps.pos1) ∧
      (s.boot.step = 9 → s.strapsOk s.boot.straps = false → Logged s t 0x38 ∧ t.links.strapOk = false) ∧
      t.boot = { s.boot with
        limitStep := s.boot.step, background := s.boot.background ++ [s.boot.step], step := s.boot.step + 1, stepSince := s.pt } ∧
      (s.boot.step = 9 → ∀ n, n < 4 → t.engine n =
        if (s.engine n).state = 3 then { s.engine n with state := 5, failSince := s.pt } else s.engine n)

/-- A second comparator of a die trips the device (R405): ZH_THERMTRIP_N is asserted and latched, ZH_PWR_EN deasserted,
FAULT 0x05. One comparator alone is recorded as event 0x76, and nothing else happens. -/
def Sys2Proof.Parts.TripNeedsTwo : Prop :=
  ∀ (s : State) (die comp : Nat), s.armed = true → s.thermal.trip = false → (die, comp) ∉ s.thermal.comparators →
    (∀ other, (die, other) ∈ s.thermal.comparators → edge s.dev.mode .fault = true →
      ∃ t, exec (.tripComparator die comp) s = .next t ∧ Faults s t 5 ∧ t.pins = { s.pins with thermtrip := true, pwrEn := false } ∧
        t.thermal.trip = true) ∧
    ((∀ other, (die, other) ∉ s.thermal.comparators) →
      ∃ t, exec (.tripComparator die comp) s = .next t ∧ t.thermal.comparators = s.thermal.comparators ++ [(die, comp)] ∧
        Recorded s t 0x76 ∧
        Frame [.thermal, .card, .mgmt] s t)

/-- What enters FAULT, and with which cause, and which step limits do not (R419); a trip needs two comparators of one die (R32, R39,
R405).
Completion: exec answers a next state, under conditions on the state and the operands alone, for pgoodLost, rootPllLoss, clockLoss,
lockstepMismatch, tripComparator, coldStartStepLimit. -/
def Obligations.FaultsAndTrips : Prop := Parts.FaultEntries ∧ Parts.LimitsPassed ∧ Parts.TripNeedsTwo

/-- REFERENCE_CLOCK_LOSS moves CK_S to the internal oscillator and takes the root PLL's lock with it: FAULT 0x02 where main power is
on, with ZH_PWR_EN asserted still (R31, R487). POWERED_TIME_TICK raises PT by one in every state but OFF, changing nothing else but
the wrapping counters (R7, R13). -/
def Sys2Proof.Parts.ClockRows : Prop :=
  ∀ s : State,
    (s.dev.mode = .standby → exec .referenceClockLoss s = .next { s with
      pins := { s.pins with refPresent := false }, clocks := { s.clocks with pllLock := false, clkSrc := 2 } }) ∧
    (edge s.dev.mode .fault = true → ∃ t, exec .referenceClockLoss s = .next t ∧ Faults s t 2 ∧
      t.pins = { s.pins with refPresent := false } ∧ t.clocks = { s.clocks with pllLock := false, clkSrc := 2 }) ∧
    (s.dev.mode ≠ .off → ∃ w, exec .poweredTimeTick s = .next { s with pt := s.pt + 1, wrap := w } ∧
      ∀ o, o ∉ [0x021120, 0x033100, oEnergy] → lookD w o 0 = lookD s.wrap o 0)

/-- What the device drives at its pins (R32, R479): ZH_READY in READY, RUN and WATCH, ZH_FAULT_N in FAULT and ZH_BENCHED_N in BENCHED
alone, and ZH_XSPI_RESET_N low in OFF, in STANDBY and in the first millisecond of BOOT, with which it is low as BOOT is entered. -/
def Sys2Proof.Parts.OutputsDriven : Prop :=
  (∀ s : State,
    (s.outputs[0]? = some true ↔ s.dev.mode = .ready ∨ s.dev.mode = .run ∨ s.dev.mode = .watch) ∧
    (s.outputs[1]? = some true ↔ s.dev.mode = .fault) ∧ (s.outputs[2]? = some true ↔ s.dev.mode = .benched) ∧
    (s.outputs[6]? = some true ↔ s.dev.mode = .off ∨ s.dev.mode = .standby ∨
      (s.dev.mode = .boot ∧ s.pt.toNat - s.boot.bootSince.toNat < 100000))) ∧
  ∀ s : State, s.dev.mode = .standby → s.pins.pwrEn = true → s.pt.toNat - s.pins.pwrEnSince.toNat ≤ 10000000 →
    ∃ t, exec .pgoodAssert s = .next t ∧ t.outputs[6]? = some true

/-- The main supply comes and goes as R32 and R476 say, and the reference clock and PT as R7 and R31 say.
Completion: exec answers a next state, under conditions on the state and the operands alone, for pwrEnAssert, pgoodAssert, pgoodTimeout,
pgoodLost, referenceClockLoss, poweredTimeTick. -/
def Obligations.SupplyAndClocks : Prop := Parts.SupplySequence ∧ Parts.ClockRows ∧ Parts.OutputsDriven

/-! ### Drains (R23, R32, R35, R36, R449) -/

/-- A drain order takes a member in READY, RUN or WATCH into DRAIN with its reason alone, still a member: DR_PIN by
DRAIN_REQ_PIN_ASSERT, DR_MGT by DRAIN_GO, DR_POWERDOWN by POWERDOWN, and DR_MGT, DR_REFORM or DR_JOBEND by DRAIN. -/
def Sys2Proof.Parts.DrainOrders : Prop :=
  ∀ s : State, s.dev.mode.running = true → s.dev.bound = true →
    (∃ t, exec .drainReqPinAssert s = .next t ∧ t.dev = s.dev.drains drPin s.pt ∧ t.pins = { s.pins with drainReq := true } ∧
      Frame (.pins :: drainParts) s t) ∧
    (∃ t, exec .drainGo s = .next t ∧ t.dev = { s.dev.drains drMgt s.pt with mgtHold := true } ∧ Frame drainParts s t) ∧
    (∃ t, exec .powerdown s = .next t ∧ t.dev = s.dev.drains drPowerdown s.pt ∧ Frame drainParts s t) ∧
    ∀ (m : Msg) (b : Byte), Fresh s 0x13 m → m.body = [b] → b.toNat < 3 →
      ∃ t, exec (.drain m) s = .next t ∧
        t.dev = (if b = 0 then { s.dev.drains drMgt s.pt with mgtHold := true }
          else if b = 1 then s.dev.drains drReform s.pt else s.dev.drains drJobend s.pt) ∧
        Answered t 0x13 m 0 [] ∧ Frame (drainParts ++ answerParts) s t

/-- In DRAIN, before the device is drained, a further order adds its reason to those recorded (R36). -/
def Sys2Proof.Parts.DrainReasonsAdd : Prop :=
  ∀ s : State, s.dev.mode = .drain → s.dev.drained = false →
    exec .drainReqPinAssert s =
      .next { s with dev := { s.dev with reasons := s.dev.reasons ||| 2 }, pins := { s.pins with drainReq := true } } ∧
    exec .drainGo s = .next { s with dev := { s.dev with reasons := s.dev.reasons ||| 1, mgtHold := true } } ∧
    exec .powerdown s = .next { s with dev := { s.dev with reasons := s.dev.reasons ||| 16 } }

/-- Drain orders take the device into DRAIN, and add their reasons there (R23, R36).
Completion: exec answers a next state, under conditions on the state and the operands alone, for drainReqPinAssert, drain, drainGo,
powerdown. -/
def Obligations.DrainsBegin : Prop := Parts.DrainOrders ∧ Parts.DrainReasonsAdd

/-- A drained device that no order holds any longer leaves DRAIN for READY, with its slice table cleared (R32, R36, R292):
on DRAIN_REQ_PIN_DEASSERT, on DRAIN_RELEASE and on the message of that name. The model's own readings here: log 110.
Completion: exec answers a next state, under conditions on the state and the operands alone, for drainReqPinDeassert, msgDrainRelease,
drainRelease. -/
def Obligations.DrainReleases : Prop :=
  ∀ s : State, s.dev.mode = .drain → s.dev.drained = true → s.dev.bound = false → s.dev.debugHold = false →
    s.dev.reasons &&& 0x54 = 0 → s.nvm.watchRecord = false →
    let gone (t : State) : Prop := t.dev.mode = .ready ∧ t.dev.prev = .drain ∧ t.fabric.table = none ∧ t.windows = []
    (s.dev.mgtHold = false → ∃ t, exec .drainReqPinDeassert s = .next t ∧ gone t ∧ t.pins = { s.pins with drainReq := false } ∧
      Frame [.dev, .pins, .mgmt, .fabric, .windows] s t) ∧
    (s.pins.drainReq = false → ∃ t, exec .drainRelease s = .next t ∧ gone t ∧ t.dev.mgtHold = false ∧
      Frame [.dev, .mgmt, .fabric, .windows] s t) ∧
    ∀ m : Msg, Fresh s 0x14 m → m.body = [] → s.pins.drainReq = false →
      ∃ t, exec (.msgDrainRelease m) s = .next t ∧ t.dev.mode = .ready ∧ t.dev.prev = .drain ∧ t.dev.mgtHold = false ∧
        t.fabric.table = none ∧ t.windows = [] ∧ Answered t 0x14 m 0 [] ∧ Frame ([.dev, .windows] ++ answerParts) s t

/-- DRAINED: once the condition of R35 holds, membership ends, with the Course's stations and everything in flight; a device
that an order holds stays in DRAIN, and one drained with DR_POWERDOWN alone enters STANDBY with ZH_PWR_EN deasserted for
good and main memory lost (R32, R34, R36, R476). -/
def Sys2Proof.Parts.DrainedEndsMembership : Prop :=
  ∀ s : State, s.dev.mode = .drain → s.dev.drained = false → s.isDrained = true → s.dev.reasons &&& 0x44 = 0 →
    (s.orderInForce = true → s.dev.reasons &&& 0x10 = 0 →
      ∃ t, exec .drained s = .next t ∧ t.dev = { s.dev with drained := true, bound := false } ∧ t.cells.stations = [] ∧
        t.fabric.flights = [] ∧ t.relay.cmds = [] ∧ t.stores = s.stores ∧ t.nvm = s.nvm ∧ t.pt = s.pt) ∧
    (s.dev.reasons &&& 0x10 ≠ 0 →
      ∃ t, exec .drained s = .next t ∧ t.dev.mode = .standby ∧ t.dev.prev = .drain ∧ t.dev.bound = false ∧ t.pins.pwrEn = false ∧
        t.pins.pwrEnSpent = true ∧ t.stores.mem = {} ∧ t.job = none ∧ t.nvm = s.nvm ∧ t.pt = s.pt)

/-- DRAIN_LIMIT: 200 ms after the first order a device that is still not drained gives up what is outstanding, with
DR_INCOMPLETE, event 0x55 in the ledger, and the end of its membership (R35, R329). The model's own readings here: log 111. -/
def Sys2Proof.Parts.DrainLimitAborts : Prop :=
  ∀ s : State, s.dev.mode = .drain → s.dev.drained = false → 20000000 ≤ s.pt.toNat - s.dev.drainStart.toNat → s.isDrained = false →
    ∃ t, exec .drainLimit s = .next t ∧ t.dev.reasons = s.dev.reasons ||| 0x80 ∧ t.dev.drained = true ∧ t.dev.bound = false ∧
      t.cells.stations = [] ∧ t.fabric.flights = [] ∧ t.pt = s.pt ∧
      ∃ k r, look t.card.ledger k = some r ∧ r.code = 0x55 ∧ r.pt = s.pt

/-- A drain ends where nothing is outstanding, and 200 ms after its first order in any case (R35, R36, R329).
Completion: exec answers a next state, under conditions on the state and the operands alone, for drained, drainLimit. -/
def Obligations.DrainsEnd : Prop := Parts.DrainedEndsMembership ∧ Parts.DrainLimitAborts

/-! ### Requests to the device (R288, R293, R375, R436, R440, R445 to R449, R456, R465, R466) -/

/-- REG_READ of offsets that registers lie at answers STATUS 0 with their values in order, zero for a block that is not up
(R420, R440, R445); one of an offset that no register lies at answers 0x05, and counts (R10).
The model's own readings here: logs 38, 104. -/
def Sys2Proof.Parts.RegReadAnswers : Prop :=
  ∀ (s : State) (m : Msg) (offs : List (BitVec 64)), Fresh s 0x01 m → m.body = offs.flatMap (fun o => natLe 8 o.toNat) →
    1 ≤ offs.length →
    let u := s.wrapBy oMsgIn 1
    (∀ f : BitVec 64 → Word, (∀ o ∈ offs, o.toNat % 8 = 0 ∧ u.regAt o.toNat = some (f o)) →
      ∃ t, exec (.regRead m) s = .next t ∧
        Answered t 0x01 m 0 (offs.flatMap fun o => natLe 8 (if u.blockUp o.toNat then (f o).toNat else 0)) ∧ Frame answerParts s t) ∧
    (∀ o, offs = [o] → (o.toNat % 8 ≠ 0 ∨ u.regAt o.toNat = none) →
      ∃ t, exec (.regRead m) s = .next t ∧ Answered t 0x01 m 5 (natLe 8 0) ∧ Frame answerParts s t)

/-- REG_WRITE of one register: MGT_ALERT_EN takes the value's low six bits and STATUS is 0; an offset that no register lies
at writes nothing and STATUS is 0x05 (R440, R445, R454). The model's own readings here: log 104. -/
def Sys2Proof.Parts.RegWriteAnswers : Prop :=
  ∀ (s : State) (m : Msg) (o v : BitVec 64), Fresh s 0x02 m → m.body = natLe 8 o.toNat ++ natLe 8 v.toNat →
    (o = 0x28 → ∃ t, exec (.regWrite m) s = .next t ∧ t.mgmt.alertEn = v.setWidth 6 ∧ Answered t 0x02 m 0 [] ∧ Frame answerParts s t) ∧
    (o.toNat % 8 ≠ 0 → ∃ t, exec (.regWrite m) s = .next t ∧ t.mgmt.alertEn = s.mgmt.alertEn ∧ Answered t 0x02 m 5 [] ∧ Frame answerParts s t)

/-- REG_READ and REG_WRITE reach the registers of the window (R440, R445).
Completion: exec answers a next state, under conditions on the state and the operands alone, for regRead, regWrite. -/
def Obligations.RegisterMessages : Prop := Parts.RegReadAnswers ∧ Parts.RegWriteAnswers

/-- SLICE_TABLE (R288, R289, R293): a table that no condition of R289 refuses is loaded, and every torus port that carries no
data is fenced; a SLICE_ID of zero leaves none. A refused one changes no table and tells its cause.
The model's own readings here: log 92. -/
def Sys2Proof.Parts.SliceTableLoads : Prop :=
  ∀ (s : State) (m : Msg), Fresh s 0x10 m → m.route ≠ .i3c → m.body.length = 144 →
    let cause := s.tableCause m.body
    (cause = 0 → ∃ t, exec (.sliceTable m) s = .next t ∧
      t.fabric.table = (if (tableOf m.body).sliceId = 0 then none else some (tableOf m.body)) ∧
      t.fabric.fenced = (List.range 6).filter (fun n => !s.portLive n) ∧ t.fabric.issued = [] ∧ t.fabric.atoms = [] ∧
      Answered t 0x10 m 0 [] ∧ Frame ([.card, .windows] ++ answerParts) s t) ∧
    (cause ≠ 0 → ∃ t, exec (.sliceTable m) s = .next t ∧ t.fabric.table = s.fabric.table ∧ t.fabric.refuseCause = BitVec.ofNat 8 cause ∧
      Recorded s t 0x54 ∧ Answered t 0x10 m 8 [BitVec.ofNat 8 cause] ∧ Frame (.card :: answerParts) s t)

/-- FENCE and FENCE_GO: the ports of the mask, or the one port, join the fenced ones, and no other does; a port that joins keeps only
MGT packets waiting, and none of the ATOMs that its combine entries held (R293).
The model's own readings here: log 92. -/
def Sys2Proof.Parts.FencesPorts : Prop :=
  (∀ (s : State) (m : Msg) (b : Byte), Fresh s 0x15 m → m.route ≠ .i3c → m.body = [b] → b.toNat < 128 →
    ∃ t, exec (.fence m) s = .next t ∧ (∀ n, n ∈ t.fabric.fenced ↔ n ∈ s.fabric.fenced ∨ n < 7 ∧ b.toNat.testBit n = true) ∧
      (∀ n, n < 7 → b.toNat.testBit n = true → n ∉ s.fabric.fenced → ∀ c ∈ lookD t.fabric.combines n [], c.isLoad = true) ∧
      Answered t 0x15 m 0 [] ∧ Frame (.card :: answerParts) s t) ∧
  ∀ (s : State) (n : Nat), n < 7 →
    ∃ t, exec (.fenceGo n) s = .next t ∧ (∀ k, k ∈ t.fabric.fenced ↔ k ∈ s.fabric.fenced ∨ k = n) ∧
      (n ∉ s.fabric.fenced → Recorded s t 0x52 ∧ (∀ p ∈ lookD t.fabric.waiting n [], p.opc = 0xC0) ∧
        ∀ c ∈ lookD t.fabric.combines n [], c.isLoad = true) ∧
      Frame [.fabric, .card, .mgmt, .sat] s t

/-- SLICE_TABLE, FENCE and FENCE_GO act on the slice table and the fences as R288 to R293 say.
Completion: exec answers a next state, under conditions on the state and the operands alone, for sliceTable, fence, fenceGo. -/
def Obligations.SliceAndFences : Prop := Parts.SliceTableLoads ∧ Parts.FencesPorts

/-- SUSPECT raises LEVEL to HIGH at least, with event 0x17; in READY or RUN with LEVEL below HIGH before, the device enters
WATCH with its record and a full field test (R32, R37, R363, R364, R375). The model's own readings here: log 40. -/
def Sys2Proof.Parts.SuspectRaises : Prop :=
  ∀ (s : State) (m : Msg), Fresh s 0x16 m → m.body.length = 7 →
    ∃ t, exec (.suspect m) s = .next t ∧ t.nvm.level.toNat = max s.nvm.level.toNat (s.bucket.high.toNat * 256) ∧
      (∃ r, look t.card.ledger (s.card.head.toNat % 1024) = some r ∧ r.code = 0x17 ∧ r.pt = s.pt) ∧ Answered t 0x16 m 0 [] ∧
      (s.nvm.level.toNat < s.bucket.high.toNat * 256 → s.dev.mode = .ready ∨ s.dev.mode = .run →
        t.dev.mode = .watch ∧ t.dev.prev = s.dev.mode ∧ t.dev.bound = s.dev.bound ∧ t.nvm.watchRecord = true ∧
        t.cells.fullTest = some s.untested) ∧
      Frame ([.dev, .nvm, .card, .bucket, .cells] ++ answerParts) s t

/-- PACK is accepted where no condition of R436 refuses it, and then its entries and PACK_SEQ replace the ones held; refused,
they stay, with the cause in TST_PACK. Either way event 0x85 records it and TRANSFER is set (R436, R437).
The model's own readings here: logs 7, 105. -/
def Sys2Proof.Parts.PackReplaces : Prop :=
  ∀ (s : State) (m : Msg), Fresh s 0x20 m →
    let cause := s.packCause m.body
    ∃ t, exec (.pack m) s = .next t ∧ t.mgmt.event.getLsbD 5 = true ∧ Recorded s t 0x85 ∧
      t.nvm.packSeq = (if cause = 0 then BitVec.ofNat 64 (fld m.body 8 8) else s.nvm.packSeq) ∧
      t.nvm.patterns = (if cause = 0 then (packEntries m.body).map fun e => { kind := fld e 7 1, bytes := e } else s.nvm.patterns) ∧
      t.test = (if cause = 0 then s.test else { s.test with packRefuse := BitVec.ofNat 8 cause }) ∧
      Answered t 0x20 m (if cause = 0 then 0 else 8) (if cause = 0 then [] else [BitVec.ofNat 8 cause]) ∧
      Frame ([.nvm, .card, .test] ++ answerParts) s t

/-- IMAGE writes the copy that did not boot, and no other, and answers with what R414 finds (R416, R456).
The model's own readings here: log 105. -/
def Sys2Proof.Parts.ImageWritesOtherCopy : Prop :=
  ∀ (s : State) (m : Msg), Fresh s 0x21 m → s.dev.mode ≠ .boot → imageHeadOk m.body = true →
    s.img.booted.toNat ≠ fld m.body 0 1 →
    let img := m.body.drop 8
    let cause := imageCause s.fuses img true
    ∃ t, exec (.image m) s = .next t ∧
      t.nvm = (if fld m.body 0 1 = 0 then { s.nvm with imageA := img } else { s.nvm with imageB := img }) ∧
      t.mgmt.event.getLsbD 5 = true ∧
      Answered t 0x21 m (if cause = 0 then 0 else 8) (if cause = 0 then [] else [BitVec.ofNat 8 cause]) ∧
      Frame (.nvm :: answerParts) s t

/-- PACK and IMAGE write what they carry to the flash, as R416, R436 and R456 say.
Completion: exec answers a next state, under conditions on the state and the operands alone, for pack, image. -/
def Obligations.PacksAndImages : Prop := Parts.PackReplaces ∧ Parts.ImageWritesOtherCopy

/-- A signed command uses its nonce up, whatever its outcome, and MGT_SIGNED shows it with its cause (R465, R466). CLEAR_BENCH
and CLEAR_SPAREMAP wait for the next reset, RAISE_MIN_SVN burns MIN_SVN, and DEBUG_UNLOCK opens its scope, drains with DR_MGT
for scope 2 and keeps a device in STANDBY for scope 1; a refused one does none of it and counts.
The model's own readings here: logs 7, 105.
Completion: exec answers a next state, under conditions on the state and the operands alone, for clearBench, clearSparemap, raiseMinSvn,
debugUnlock. -/
def Obligations.SignedCommands : Prop :=
  ∀ (s : State) (m : Msg), Fresh s 0x22 m →
    let cause := s.sgCause m.body
    let cmd := sgCmd m.body
    ∃ t, exec (.clearBench m) s = .next t ∧ exec (.clearSparemap m) s = .next t ∧ exec (.raiseMinSvn m) s = .next t ∧
      exec (.debugUnlock m) s = .next t ∧ t.mgmt.nonce = Config.freeNonce s.freeIdx ∧ t.mgmt.signedCause = BitVec.ofNat 8 cause ∧
      t.mgmt.signedCmd = BitVec.ofNat 16 cmd ∧
      t.nvm.clearBench = (s.nvm.clearBench || cause = 0 && cmd = 1) ∧ t.nvm.benchRecord = s.nvm.benchRecord ∧
      t.nvm.clearSpares = (if cause = 0 ∧ cmd = 2 then
          s.nvm.clearSpares ++ [(fld (sgArg m.body) 0 1, fld (sgArg m.body) 1 1, fld (sgArg m.body) 2 2, fld (sgArg m.body) 4 4)]
        else s.nvm.clearSpares) ∧
      t.fuses = (if cause = 0 ∧ cmd = 3 then { s.fuses with minSvn := BitVec.ofNat 32 (fld (sgArg m.body) 0 4) } else s.fuses) ∧
      t.mgmt.debugScope = (if cause = 0 ∧ cmd = 4 then BitVec.ofNat 4 (fld (sgArg m.body) 0 1) else s.mgmt.debugScope) ∧
      (cause = 0 → cmd = 4 → fld (sgArg m.body) 0 1 = 1 → t.pins.pwrEn = false ∧ t.pins.pwrEnSpent = true ∧ t.dev = s.dev) ∧
      (cause = 0 → cmd = 4 → fld (sgArg m.body) 0 1 = 2 → t.dev.mode = .drain ∧ t.dev.has drMgt = true ∧ t.dev.debugHold = true) ∧
      (cause ≠ 0 → Frame (.freeIdx :: answerParts) s t) ∧ Answered t 0x22 m (sgStatus cause) (if sgStatus cause = 8 then [BitVec.ofNat 8 cause] else [])

/-! ### Messages of the device (R443, R445, R450) -/

/-- MESSAGE_RESPONSE ends the resending of the chunk that it answers, and of no other. MESSAGE_RESEND_TIMEOUT sends a chunk
again 2 ms after it was sent last, at most eight times in all, and then gives its message up. PARTIAL_MESSAGE_TIMEOUT discards a
message that has had no chunk for 1 s (R442, R443). -/
def Sys2Proof.Parts.MessageTimers : Prop :=
  (∀ (s : State) (q : BitVec 32) (off : Nat), s.dev.mode ≠ .off →
    ∃ t, exec (.messageResponse q off) s = .next t ∧
      (∀ x, x ∈ t.mgmt.waiting ↔ x ∈ s.mgmt.waiting ∧ ¬ (x.mseq = q ∧ x.chunkOff = off)) ∧
      t.mgmt.stored = s.mgmt.stored ∧ t.mgmt.sent = s.mgmt.sent ∧ Frame [.mgmt, .wrap] s t) ∧
  (∀ (s : State) (c : OutMsg),
    (s.mgmt.waiting.find? fun x => decide (x.mseq = c.mseq) && decide (x.chunkOff = c.chunkOff)) = some c →
    200000 ≤ s.pt.toNat - c.sentPt.toNat →
    (c.sends < 8 → ∃ t, exec (.messageResendTimeout c.mseq c.chunkOff) s = .next t ∧
      { c with sends := c.sends + 1, sentPt := s.pt } ∈ t.mgmt.waiting ∧
      { c with sends := c.sends + 1, sentPt := s.pt } ∈ t.mgmt.sent ∧ Frame answerParts s t) ∧
    (8 ≤ c.sends → ∃ t, exec (.messageResendTimeout c.mseq c.chunkOff) s = .next t ∧
      (∀ x, x ∈ t.mgmt.waiting ↔ x ∈ s.mgmt.waiting ∧ x.mseq ≠ c.mseq) ∧ t.mgmt.sent = s.mgmt.sent ∧ Frame [.mgmt, .sat] s t)) ∧
  ∀ (s : State) (p : Partial), p ∈ s.mgmt.partials → 100000000 ≤ s.pt.toNat - p.lastPt.toNat →
    exec (.partialMessageTimeout p.route) s =
      .next { s with mgmt := { s.mgmt with partials := s.mgmt.partials.filter fun x => decide (x.route ≠ p.route) } }

/-- TELEMETRY goes to TEL_DST once TEL_MS have passed, MGT_STATE first in its body (R445, R450). -/
def Sys2Proof.Parts.TelemetryGoes : Prop :=
  ∀ s : State, s.mgmt.telMs ≠ 0 → s.dev.mode ≠ .off → s.mgmt.telMs.toNat * 100000 ≤ s.pt.toNat - s.mgmt.telLast.toNat →
    ∃ t, exec .telemetry s = .next t ∧ t.mgmt.telLast = s.pt ∧
      (∃ c ∈ t.mgmt.sent, c.mtype = 0x42 ∧ c.resp = false ∧ c.dest = .fabric s.mgmt.telDst s.mgmt.telSvc ∧ c.sentPt = s.pt ∧
        c.body.take 8 = natLe 8 s.mgtState.toNat) ∧ Frame answerParts s t

/-! ### The I3C target (R451 to R454) -/

/-- The common commands: ENTDAA gives a target without an address its address and sends its ID, BCR and DCR; RSTDAA takes it
away; ENEC and DISEC set the interrupt enable; GETPID, GETBCR, GETDCR and GETSTATUS are answered (R451). The ID is the low 48
bits of DEVICE_ID, most significant byte first, and BCR says that the target raises interrupts with one mandatory byte.
The model's own readings here: logs 9, 106. -/
def Sys2Proof.Parts.I3cCommonCommands : Prop :=
  ∀ s : State, s.dev.mode ≠ .off →
    let c := s.mgmt.i3c
    let dest (d : I3c) : State := { s with mgmt := { s.mgmt with i3c := d } }
    let pid := [5, 4, 3, 2, 1, 0].map fun i => BitVec.ofNat 8 (s.fuses.deviceId.toNat / 256 ^ i)
    bcr &&& 0x06 = 0x06 ∧
    (∀ addr, c.addrValid = false →
      exec (.entdaa addr) s = .next (dest { c with dynAddr := addr, addrValid := true, lastRead := pid ++ [bcr, Config.i3cDcr] })) ∧
    exec .rstdaa s = .next (dest { c with dynAddr := 0, addrValid := false }) ∧
    exec .enec s = .next (dest { c with ibiEn := true }) ∧ exec .disec s = .next (dest { c with ibiEn := false }) ∧
    (c.addrValid = true → exec .getpid s = .next (dest { c with lastRead := pid }) ∧
      exec .getbcr s = .next (dest { c with lastRead := [bcr] }) ∧ exec .getdcr s = .next (dest { c with lastRead := [Config.i3cDcr] }) ∧
      ∃ t, exec .getstatus s = .next t ∧ t.mgmt.i3c.lastRead.length = 2 ∧ t.mgmt.i3c = { c with lastRead := t.mgmt.i3c.lastRead } ∧
        Frame [.mgmt, .freeIdx] s t)

/-- Private writes with a right CRC-8 (R452, R453): CMD 0x01 writes a register and keeps the STATUS, 0x02 sets the read
pointer, 0x03 appends to the inbound mailbox and loses an unread outbound one with the first bytes, 0x04 discards what is partly
written, 0x05 selects the outbound mailbox. A frame with a wrong CRC-8 does nothing but count. The model's own readings here: log 106. -/
def Sys2Proof.Parts.I3cPrivateWrites : Prop :=
  ∀ s : State, s.dev.mode ≠ .off → s.mgmt.i3c.addrValid = true →
    let c := s.mgmt.i3c
    let dest (d : I3c) : State := { s with mgmt := { s.mgmt with i3c := d } }
    let sealed (f : List Byte) : List Byte := f ++ [crc8 f]
    (∀ v : BitVec 64, ∃ t, exec (.i3cRegisterWrite (sealed ([1, 0x28, 0, 0] ++ natLe 8 v.toNat))) s = .next t ∧
      t.mgmt.alertEn = v.setWidth 6 ∧ t.mgmt.i3c = { c with selected := 1, writeStatus := 0 } ∧ Frame [.mgmt] s t) ∧
    (∀ a b d : Byte, exec (.i3cSetReadPointer (sealed [2, a, b, d])) s =
      .next (dest { c with selected := 2, readPtr := a.toNat + 256 * b.toNat + 65536 * d.toNat })) ∧
    (∀ l : List Byte, 1 ≤ l.length → c.inbox.length + l.length < 32 → exec (.i3cMailboxAppend (sealed (3 :: l))) s =
      .next (dest { c with inbox := c.inbox ++ l, outbox := if c.inbox.isEmpty then [] else c.outbox })) ∧
    exec (.i3cMailboxDiscard (sealed [4])) s = .next { s with
      mgmt := { s.mgmt with i3c := { c with inbox := [] }, partials := s.mgmt.partials.filter fun p => decide (p.route ≠ .i3c) } } ∧
    exec (.i3cSelectOutbound (sealed [5])) s = .next (dest { c with selected := 3 }) ∧
    ∀ (f : List Byte) (x : Byte), x ≠ crc8 f →
      (∃ t, exec (.i3cRegisterWrite (f ++ [x])) s = .next t ∧ t.mgmt.i3c.inbox = c.inbox ∧ t.mgmt.alertEn = s.mgmt.alertEn ∧
        t = s.bump oI3cCrc)

/-- A private read gives what the last frame selected, and its CRC-8 (R452): a write's STATUS, the register at the pointer,
which advances by 8, or the outbound mailbox with its length. -/
def Sys2Proof.Parts.I3cPrivateReads : Prop :=
  ∀ s : State, s.dev.mode ≠ .off → s.mgmt.i3c.addrValid = true →
    let c := s.mgmt.i3c
    let dest (d : I3c) : State := { s with mgmt := { s.mgmt with i3c := d } }
    let sealed (f : List Byte) : List Byte := f ++ [crc8 f]
    (c.selected = 1 → exec .i3cPrivateRead s = .next (dest { c with lastRead := sealed [BitVec.ofNat 8 c.writeStatus] })) ∧
    (∀ v, c.selected = 2 → c.readPtr % 8 = 0 → s.regAt c.readPtr = some v → s.blockUp c.readPtr = true →
      exec .i3cPrivateRead s =
        .next (dest { c with lastRead := sealed (natLe 8 v.toNat ++ [0]), readPtr := (c.readPtr + 8) % 2 ^ 24 })) ∧
    (c.selected = 3 → exec .i3cPrivateRead s =
      .next (dest { c with lastRead := sealed (natLe 2 c.outbox.length ++ c.outbox.take 255), outbox := c.outbox.drop 255 }))

/-- The I3C target does what R451 to R453 say on common commands, private writes and private reads.
Completion: exec answers a next state, under conditions on the state and the operands alone, for entdaa, rstdaa, enec, disec, getpid,
getbcr, getdcr, getstatus, i3cRegisterWrite, i3cSetReadPointer, i3cPrivateRead, i3cMailboxAppend, i3cMailboxDiscard, i3cSelectOutbound. -/
def Obligations.I3cTarget : Prop := Parts.I3cCommonCommands ∧ Parts.I3cPrivateWrites ∧ Parts.I3cPrivateReads

/-! ### Register writes (R10 to R12, R385, R394, R395, R397, R416, R434, R440, R454, R462 to R464) -/

/-- REGISTER_WRITE (R10, R11, R440): a write that is not of 64 bits, or not at a register, changes nothing but the count of
access errors. MGT_EVENT bits are cleared by ones, MGT_ALERT_EN takes its six bits, and IMG_CTL takes PREFER.
The model's own readings here: log 113. -/
def Sys2Proof.Parts.RegisterWrites : Prop :=
  ∀ (s : State) (v : Word), s.dev.mode ≠ .off →
    (∀ o n, n ≠ 8 ∨ o % 8 ≠ 0 ∨ s.regAt o = none → exec (.registerWrite o n v) s = .next (s.satBy 0x1000 1)) ∧
    exec (.registerWrite 0x20 8 v) s = .next { s with mgmt := { s.mgmt with event := s.mgmt.event &&& ~~~(v.setWidth 6) } } ∧
    exec (.registerWrite 0x28 8 v) s = .next { s with mgmt := { s.mgmt with alertEn := v.setWidth 6 } } ∧
    exec (.registerWrite 0x140008 8 v) s = .next { s with nvm := { s.nvm with preferB := v.getLsbD 0 } }

/-- A SAT counter counts to 0xFFFFFFFFFFFF and then holds, with bit 63 set, for good; reaching the limit sets MGT_EVENT SAT
(R12). A write with bit 63 set clears it, and no other write changes it.
Completion: exec answers a next state, under conditions on the state and the operands alone, for satCounterClear. -/
def Obligations.SatCounters : Prop :=
  (∀ (w : Word) (n : Nat), bits w.toNat 62 48 = 0 →
    (w.getLsbD 63 = true → satAdd w n = (w, false)) ∧
    (w.getLsbD 63 = false → w.toNat + n < 0xFFFFFFFFFFFF → satAdd w n = (BitVec.ofNat 64 (w.toNat + n), false)) ∧
    (w.getLsbD 63 = false → 0xFFFFFFFFFFFF ≤ w.toNat + n → satAdd w n = (0x8000FFFFFFFFFFFF, true))) ∧
  (∀ (s : State) (o : Nat), lookD (s.bump o).sat o 0 = (satAdd (lookD s.sat o 0) 1).1 ∧
    (∀ k, k ≠ o → lookD (s.bump o).sat k 0 = lookD s.sat k 0) ∧
    ((satAdd (lookD s.sat o 0) 1).2 = true → (s.bump o).mgmt.event.getLsbD 3 = true)) ∧
  ∀ (s : State) (o : Nat) (v : Word), s.dev.mode ≠ .off → satOffsets.contains o = true → s.blockUp o = true →
    exec (.satCounterClear o v) s = .next (if v.getLsbD 63 then { s with sat := put s.sat o 0 } else s)

/-- JRNL_SEL_WRITE (R463): a sound entry is shown whole in the window with FOUND 1; one whose CRC fails is shown as absent with
FOUND 3, one that is held nowhere with FOUND 2. The model's own readings here: log 80. -/
def Sys2Proof.Parts.JournalSelect : Prop :=
  ∀ (s : State) (v : Word), s.dev.mode ≠ .off →
    let j : BitVec 32 := v.setWidth 32
    let hit := (s.card.buffer ++ s.nvm.journal).find? (·.jidx = j)
    ∃ t, exec (.jrnlSelWrite v) s = .next t ∧ t.card.jrnlSel = j ∧
      (hit = none → t.card.found = 2 ∧ t.card.window = []) ∧
      (∀ e, hit = some e → e.crcBad = true → t.card.found = 3 ∧ t.card.window = []) ∧
      (∀ e, hit = some e → e.crcBad = false → t.card.found = 1 ∧ t.card.units = unitsOf e.payload ∧
        t.card.window = padTo 4096 (entryBytes e)) ∧ Frame [.card] s t

/-- BUCKET_CTL_WRITE (R385): the hours are taken from 1 to 720, HIGH and LOW together and only with LOW below HIGH, and a value
out of range leaves its field; LEVEL stays and no crossing is recorded. The model's own readings here: log 103. -/
def Sys2Proof.Parts.BucketControl : Prop :=
  ∀ (s : State) (v : Word), s.dev.mode ≠ .off → s.bucket.low.toNat < s.bucket.high.toNat →
    let rel := (v.toNat / 2 ^ 48) % 2 ^ 16
    let leak := (v.toNat / 2 ^ 32) % 2 ^ 16
    let high := (v.toNat / 2 ^ 24) % 2 ^ 8
    let low := (v.toNat / 2 ^ 16) % 2 ^ 8
    ∃ t, exec (.bucketCtlWrite v) s = .next t ∧ t.nvm = s.nvm ∧ t.bucket.low.toNat < t.bucket.high.toNat ∧
      (1 ≤ rel → rel ≤ 720 → t.bucket.releaseH.toNat = rel) ∧ (rel = 0 ∨ 720 < rel → t.bucket.releaseH = s.bucket.releaseH) ∧
      (1 ≤ leak → leak ≤ 720 → t.bucket.leakH.toNat = leak) ∧ (leak = 0 ∨ 720 < leak → t.bucket.leakH = s.bucket.leakH) ∧
      (2 ≤ high → high ≤ 64 → low < high → t.bucket.high.toNat = high ∧ t.bucket.low.toNat = low) ∧
      (2 ≤ high → high ≤ 64 → low ≤ 63 → high ≤ low → t.bucket.high = s.bucket.high ∧ t.bucket.low = s.bucket.low) ∧
      Frame [.bucket] s t

/-- Writes to the registers of the window do what R10, R11, R385, R440 and R463 say.
Completion: exec answers a next state, under conditions on the state and the operands alone, for jrnlSelWrite, bucketCtlWrite,
registerWrite. -/
def Obligations.ControlRegisters : Prop := Parts.RegisterWrites ∧ Parts.JournalSelect ∧ Parts.BucketControl

/-- POOL_BUDGET_WRITE (R394): a budget that R394 allows is the pool's budget, and every other stays; another changes none, sets
BUDGET_REJECT, counts, and is recorded as event 0x77. -/
def Sys2Proof.Parts.PoolBudgets : Prop :=
  ∀ (s : State) (i : Nat) (v : Word), i < 0x28 → s.blockUp 0x020000 = true →
    let b := (v.toNat / 2 ^ 48) % 2 ^ 12
    (budgetOk s.power i b = true → ∃ t, exec (.poolBudgetWrite i v) s = .next t ∧ budgetOf t.power i = b ∧
      (∀ k, k ≠ i → budgetOf t.power k = budgetOf s.power k) ∧ t.power.limitW = s.power.limitW ∧
      t.power.limitActive = s.power.limitActive ∧ Frame [.power, .card, .mgmt, .cells, .links, .wrap] s t) ∧
    (budgetOk s.power i b = false → ∃ t, exec (.poolBudgetWrite i v) s = .next t ∧
      t.power = { s.power with budgetReject := true } ∧ lookD t.sat 0x021000 0 = (satAdd (lookD s.sat 0x021000 0) 1).1 ∧
      Recorded s t 0x77 ∧ Frame [.power, .card, .mgmt, .sat] s t)

/-- LIMIT_W_WRITE (R395, R397, R409): LIMIT_W from 1,900 to 4,400 is taken, any other leaves it, and BUDGET_REJECT is cleared
by a one; the budgets stay. -/
def Sys2Proof.Parts.LimitW : Prop :=
  ∀ (s : State) (v : Word), s.blockUp 0x020000 = true →
    let w := (v.toNat / 2 ^ 32) % 2 ^ 16
    ∃ t, exec (.limitWWrite v) s = .next t ∧
      (1900 ≤ w → w ≤ 4400 → t.power.limitW.toNat = w) ∧ (w < 1900 ∨ 4400 < w → t.power.limitW = s.power.limitW) ∧
      t.power.budgetReject = (s.power.budgetReject && !v.getLsbD 2) ∧ t.power.budgets = s.power.budgets ∧
      Frame [.power, .card, .mgmt, .cells, .links, .wrap] s t

/-- PWR_LIMIT_ASSERT brings the limit budgets into force (R396): what is held in each pool fits them at once, nothing is granted, and
event 0x71 records it. PWR_LIMIT_RELEASE brings the normal budgets back (R397). -/
def Sys2Proof.Parts.LimitPin : Prop :=
  (∀ s : State, s.dev.mode ≠ .off → s.power.limitActive = false →
    ∃ t, exec .pwrLimitAssert s = .next t ∧ t.power.limitActive = true ∧ t.pins = { s.pins with pwrLimit := true } ∧
      (∀ i, i < 0x28 → heldUnits t.power i ≤ ticketable t.power i) ∧ (∀ x ∈ t.power.held, x ∈ s.power.held) ∧
      t.power.budgets = s.power.budgets ∧ t.power.limitW = s.power.limitW ∧
      (∃ r, look t.card.ledger (s.card.head.toNat % 1024) = some r ∧ r.code = 0x71 ∧ r.pt = s.pt) ∧
      Frame [.pins, .power, .card, .sat, .mgmt, .wrap, .cells, .links] s t) ∧
  ∀ s : State, s.dev.mode ≠ .off → s.power.limitActive = true →
    ∃ t, exec .pwrLimitRelease s = .next t ∧ t.power.limitActive = false ∧ t.pins = { s.pins with pwrLimit := false } ∧
      Recorded s t 0x71 ∧ t.power.budgets = s.power.budgets ∧ Frame [.pins, .power, .card, .mgmt] s t

/-- The budgets of the pools and the reduced level of R395 to R397, by register and by pin (R394 to R397, R409).
Completion: exec answers a next state, under conditions on the state and the operands alone, for pwrLimitAssert, pwrLimitRelease,
poolBudgetWrite, limitWWrite. -/
def Obligations.PowerBudgets : Prop := Parts.PoolBudgets ∧ Parts.LimitW ∧ Parts.LimitPin

/-- TST_GO starts the tests of its target in READY or WATCH without membership, and sets REFUSED in every other state; the
end of the tests is recorded as event 0x87 (R434). -/
def Sys2Proof.Parts.OnDemandTests : Prop :=
  (∀ (s : State) (k : Nat), (1 ≤ k ∧ k ≤ 5 ∨ k = 15) → s.dev.mode ≠ .off →
    let t := { s.test with target := BitVec.ofNat 4 k }
    ((s.dev.mode = .ready ∨ s.dev.mode = .watch) ∧ s.dev.bound = false →
      exec (.tstGo k) s = .next { s with test := { t with running := true } }) ∧
    (¬ ((s.dev.mode = .ready ∨ s.dev.mode = .watch) ∧ s.dev.bound = false) →
      exec (.tstGo k) s = .next { s with test := { t with refused := true } })) ∧
  (∀ (s : State) (l : List SelfTestFail), s.test.running = true → ∃ t, exec (.onDemandTestEnd l) s = .next t ∧
    t.test.running = false ∧ Logged s t 0x87) ∧
  ∀ s : State, s.test.running = true → s.belowFloor = false → ∃ t, exec (.onDemandTestEnd []) s = .next t ∧ t.test = { s.test with running := false } ∧
    Recorded s t 0x87 ∧ lookD t.wrap 0x121100 0 = lookD s.wrap 0x121100 0 + 1 ∧ Frame [.test, .card, .mgmt, .wrap] s t

/-- CAPACITY_MAP_WRITE lists the next generation, with the ranks of every cluster, the stacks, ports and engines in service, and
sets MGT_EVENT CAPACITY (R22, R464). The model's own readings here: logs 81, 82. -/
def Sys2Proof.Parts.CapacityMap : Prop :=
  ∀ s : State, s.dev.mode ≠ .off → s.dev.mode ≠ .standby →
    ∃ t, exec .capacityMapWrite s = .next t ∧ t.cap.gen = s.cap.gen + 1 ∧ t.cap.writing = false ∧ t.cap.belowFloor = s.belowFloor ∧
      (∀ m, m < 12 → t.cap.stackSet.getLsbD m = s.stacksIn.contains m) ∧
      (∀ n, n < 7 → t.cap.ports.getLsbD n = s.portsFull.contains n) ∧
      (∀ n, n < 4 → t.cap.engines.getLsbD n = s.enginesIn.contains n) ∧
      (∀ c, c < 128 → lookD t.cap.ranks c 0 = s.ranks c) ∧ t.mgmt.event.getLsbD 1 = true ∧ Frame [.cap, .card, .mgmt] s t

/-- JOURNAL_FLUSH (R462): the buffer's entries join the ring, which loses its oldest ones where they do not fit, and the buffer is
empty; where the write fails the entries stay and JOURNAL_ERR is set. The model's own readings here: logs 39, 80. -/
def Sys2Proof.Parts.JournalFlush : Prop :=
  ∀ s : State, s.dev.mode ≠ .off → s.card.flushDue = true →
    (∃ t, exec (.journalFlush true) s = .next t ∧ t.card.buffer = [] ∧ t.card.flushDue = false ∧
      t.nvm.journal <:+ s.nvm.journal ++ s.card.buffer ∧ bufUnits t.nvm.journal ≤ 958 * 1023 ∧
      (bufUnits (s.nvm.journal ++ s.card.buffer) ≤ 958 * 1023 → t.nvm.journal = s.nvm.journal ++ s.card.buffer) ∧
      t.card.ledger = s.card.ledger ∧ t.card.head = s.card.head ∧ Frame [.nvm, .card] s t) ∧
    ∃ t, exec (.journalFlush false) s = .next t ∧ t.card.buffer = s.card.buffer ∧ t.nvm = s.nvm ∧ t.mgmt.event.getLsbD 4 = true ∧
      Frame [.card, .mgmt] s t

/-- A new generation of the capacity map, and the journal's flush (R22, R462, R464).
Completion: exec answers a next state, under conditions on the state and the operands alone, for tstGo, onDemandTestEnd,
capacityMapWrite, journalFlush. -/
def Obligations.MapTestsJournal : Prop := Parts.CapacityMap ∧ Parts.JournalFlush ∧ Parts.OnDemandTests

/-! ### The sequencer (R49, R63, R65, R72, R73) -/

/-- NOP, SEM_SIGNAL, LOOP and STEP of a ready station complete at once: each does its work on the station, the next command
may issue, and the signals go that R65 lets go; nothing else changes. -/
def Sys2Proof.Parts.SequencerWork : Prop :=
  ∀ (s : State) (st : Nat) (cf : Common), Ready s st cf anyKind →
    let r := (s.st st).entered cf
    (∃ t, exec (.nop st cf) s = .next t ∧ Done s t st r [] [(signalOf cf, 1)]) ∧
    (∀ slot count, ∃ t, exec (.semSignal st cf slot count) s = .next t ∧
      Done s t st r [] [(some slot, count), (signalOf cf, 1)]) ∧
    (∀ count, ∃ t, exec (.loop st cf count) s = .next t ∧
      Done s t st { r with loops := (r.pc + 1, count) :: r.loops } [] [(signalOf cf, 1)]) ∧
    ∃ t, exec (.step st cf) s = .next t ∧ Done s t st { r with stepNo := r.stepNo + 1 } [] [(signalOf cf, 1)]

/-- ENDLOOP starts the next pass of the innermost loop, at the command after LOOP, or ends it (R73). -/
def Sys2Proof.Parts.EndLoopPasses : Prop :=
  ∀ (s : State) (st : Nat) (cf : Common) (start left : Nat) (outer : List (Nat × Nat)), Ready s st cf anyKind →
    (s.st st).loops = (start, left) :: outer →
    let r := ((s.st st).entered cf).past [] [(signalOf cf, 1)]
    ∃ t, exec (.endLoop st cf) s = .next t ∧
      Moves s t st (if 1 < left then { r with pc := start, loops := (start, left - 1) :: outer } else { r with loops := outer })
        (s.signalsOf st (((s.st st).entered cf).issued (atOnce [(signalOf cf, 1)])).outstanding)

/-- SEM_WAIT takes COUNT from its semaphore and completes where it holds COUNT; else the station waits, and nothing else
changes (R63). -/
def Sys2Proof.Parts.SemWaitTakes : Prop :=
  ∀ (s : State) (st : Nat) (cf : Common) (sem count : Nat), Ready s st cf anyKind →
    let r := (s.st st).entered cf
    (count ≤ r.sem sem → ∃ t, exec (.semWait st cf sem count) s = .next t ∧
      Done s t st { r with sems := setGrow r.sems sem 0 (r.sem sem - count) } [] [(signalOf cf, 1)]) ∧
    (r.sem sem < count → ∃ t, exec (.semWait st cf sem count) s = .next t ∧
      Moves s t st { r with waiting := some { sem := sem, count := count, since := s.pt, whole := true, signal := signalOf cf } } [])

/-- HALT: the station's stream ends, and while another station has not finished nothing else changes but, where it was
the station's last command, the STEP noted for COURSE_DONE (R73). -/
def Sys2Proof.Parts.HaltEndsStream : Prop :=
  ∀ (s : State) (st : Nat) (cf : Common) (p : Nat × StationRt), Ready s st cf anyKind → p ∈ s.cells.stations → p.1 ≠ st →
    p.2.finished = false →
    let r := { (s.st st).entered cf with halted := true }
    let q := r.past [] [(signalOf cf, 1)]
    let u := if q.outstanding.isEmpty then s.withJob fun j => { j with haltedStep := r.stepNo } else s
    ∃ t, exec (.halt st cf) s = .next t ∧ Moves u t st q (s.signalsOf st (r.issued (atOnce [(signalOf cf, 1)])).outstanding)

/-- HALT of the last station ends the Course (R73, R449): with every other station finished and no signal on its way the job
is done, and the device drains itself with DR_JOBEND alone, still a member. The model's own readings here: log 60. -/
def Sys2Proof.Parts.HaltEndsCourse : Prop :=
  ∀ (s : State) (st : Nat) (cf : Common), Ready s st cf anyKind → cf.se = false → (s.st st).outstanding = [] →
    (put s.cells.stations st { halted := true }).all (fun p => p.2.finished) = true →
    s.cells.signals = [] → (∀ p ∈ s.cells.semFiles, p.2.queue = []) →
    ∃ t, exec (.halt st cf) s = .next t ∧ t.job.map (·.phase) = some .done ∧
      t.job.map (·.haltedStep) = some (s.st st).stepNo ∧ t.dev.mode = .drain ∧ t.dev.reasons = 8 ∧ t.dev.bound = true ∧
      t.dev.drained = false ∧ t.dev.drainStart = s.pt

/-- The commands of the sequencer (R49, R63, R65, R72, R73).
Completion: exec answers a next state, under conditions on the state and the operands alone, for nop, semWait, semSignal, loop, endLoop,
halt, step. -/
def Obligations.SequencerCommands : Prop :=
  Parts.SequencerWork ∧ Parts.EndLoopPasses ∧ Parts.SemWaitTakes ∧ Parts.HaltEndsStream ∧ Parts.HaltEndsCourse

/-! ### The arrays and the vector unit (R75 to R77, R98 to R107) -/

/-- MM_CLEAR clears an accumulator that no MM_RUN is about to commit to (R72, R75); MM_RUN, with its arrays running, reads both
frames, writes a working bank and issues, and the committed bank stays as it was (R98, R99); one with checks that fail (R91, R96)
stops its context, and each of them is recorded as event 0x10 (R100). The model's own readings here: log 20. -/
def Sys2Proof.Parts.MatrixIssues : Prop :=
  ∀ (s : State) (st : Nat) (cf : Common) (acc : Nat), Ready s st cf isMatrix →
    let r := (s.st st).entered cf
    let u := s.entered st cf
    (r.accBusy acc = false → ∃ t, exec (.mmClear st cf acc) s = .next t ∧
      Done s t st { r with banks := del r.banks acc } [] [(signalOf cf, 1)]) ∧
    ∀ (a b cell : Nat) (fa fb : List Byte) (bank : Bank) (v w : State), s.cellOf st = some cell → s.arrayPhase cell = .running →
      r.pendingMm.length < 2 → Reads u st (u.inAddr st a) fa v → Reads v st (u.inAddr st b) fb w →
      seqOk fa (r.inPos a) = true → seqOk fb (r.inPos b) = true → mmRunBank fa fb (r.bankOf acc) = some bank →
      let q (checks : List ArrayFail) : StationRt :=
        { r.issued [{ kind := .mm, adv := advances cf [a, b] [] 1, signal := signalOf cf }] with
          pendingMm := r.pendingMm ++ [{ acc := acc, bank := bank, instr := .mmRun st cf a b acc .clean checks, fa := fa, fb := fb }] }
      let y := w.bankRead cell (r.bankOf acc)
      ∀ checks : List ArrayFail,
        (failsOf checks = [] → ∃ t, exec (.mmRun st cf a b acc .clean checks) s = .next t ∧ Moves y t st (q checks) []) ∧
        ∀ f more, failsOf checks = f :: more → ∃ x t, exec (.mmRun st cf a b acc .clean checks) s = .next t ∧
          Moves y x st { q checks with failed := some (.mmRun st cf a b acc .clean checks, f) } [] ∧
          t.card.head = x.card.head + BitVec.ofNat 32 (more.length + 1) ∧ Logged x t 0x10 ∧ Frame [.card, .mgmt] x t

/-- A bank of an accumulator file whose granules are sound is read without a trace; a granule found uncorrectable is event 0x21 and
two points (R205, R363). -/
def Sys2Proof.Parts.BankReads : Prop :=
  ∀ (s : State) (cell : Nat) (b : Bank),
    (b.ue = [] → s.bankRead cell b = s) ∧
    ∀ x, b.ue = [x] → s.nvm.level.toNat + 512 < s.bucket.high.toNat * 256 → s.bucket.high.toNat ≤ 64 →
      Recorded s (s.bankRead cell b) 0x21 ∧ (s.bankRead cell b).nvm.level.toNat = s.nvm.level.toNat + 512 ∧
      Frame [.card, .mgmt, .nvm, .bucket] s (s.bankRead cell b)

/-- The product's bank has the rows of A and of B as its shape and an element for each pair, and takes the flags ANALOG and OOC
of both frames; an accumulator of another shape refuses it (R61, R75). -/
def Sys2Proof.Parts.ProductShape : Prop :=
  ∀ (fa fb : List Byte) (b c : Bank), mmRunBank fa fb b = some c → bit (hdrOf fa).tflags 2 = false →
    c.shape = some ((hdrOf fa).rows, (hdrOf fb).rows) ∧ c.elems.length = (hdrOf fa).rows * (hdrOf fb).rows ∧
    (∀ sh, b.shape = some sh → sh = ((hdrOf fa).rows, (hdrOf fb).rows)) ∧ (hdrOf fa).cols = (hdrOf fb).cols ∧
    (bit (hdrOf fa).tflags 0 = true → c.tflags.getLsbD 0 = true) ∧ (bit (hdrOf fb).tflags 1 = true → c.tflags.getLsbD 1 = true)

/-- MM_RUN without running arrays asks for the burst ticket of its cell and waits: it does not issue (R102).
The model's own readings here: log 51. -/
def Sys2Proof.Parts.ArraysAskFirst : Prop :=
  ∀ (s : State) (st : Nat) (cf : Common) (a b acc cell : Nat) (path : ReadPath) (checks : List ArrayFail),
    Ready s st cf isMatrix → s.cellOf st = some cell → s.arrayPhase cell = .idle → (s.st st).pendingMm.length < 2 →
    let r := (s.st st).entered cf
    ∃ t, exec (.mmRun st cf a b acc path checks) s = .next t ∧ t.arrayPhase cell = .waiting ∧ Asked s t (.arrayBurst cell) ∧
      t.st st = { r with ticketSince := if r.ticketSince.isSome then r.ticketSince else some s.pt } ∧
      (∀ n, n ≠ st → t.st n = s.st n) ∧ Frame [.power, .cells] s t

/-- MM_CLEAR and MM_RUN, with arrays that run and with arrays that do not (R72, R75, R98 to R102).
Completion: exec answers a next state, under conditions on the state and the operands alone, for mmClear, mmRun. -/
def Obligations.MatrixCommands : Prop := Parts.MatrixIssues ∧ Parts.ArraysAskFirst ∧ Parts.ProductShape ∧ Parts.BankReads

/-- MM_RUN_COMMIT answers a next state: the oldest working bank is the committed one and its command has completed (R98).
ARRAY_REPEAT answers a next state: where no check fails the failure was a transient, with one point, and where one does the context
stops, each failed check is event 0x10, and the placer is asked for a confirmation (R100, R101, R363). The model's own readings here:
log 20. -/
def Sys2Proof.Parts.CommitAndRepeat : Prop :=
  (∀ (s : State) (st i : Nat) (o : Outst) (p : PendingMm) (rest : List PendingMm), Open s st → (s.st st).failed = none →
    (s.st st).pendingMm = p :: rest → (s.st st).firstOf .mm = some i → (s.st st).outstanding[i]? = some o →
    ∃ t, exec (.mmRunCommit st) s = .next t ∧
      Completed s t st { s.st st with banks := put (s.st st).banks p.acc p.bank, pendingMm := rest } i o) ∧
  (∀ (s : State) (st cell : Nat) (x : Instr) (f : ArrayFail) (checks : List ArrayFail), failsOf checks = [] → (s.st st).failed = some (x, f) → s.cellOf st = some cell →
    (s.st st).confirming = false → (s.st st).pendingMm = [] → s.nvm.level.toNat + 256 < s.bucket.high.toNat * 256 →
    s.bucket.high.toNat ≤ 64 →
    ∃ t, exec (.arrayRepeat st checks) s = .next t ∧ (t.st st).failed = none ∧ t.nvm.level.toNat = s.nvm.level.toNat + 256 ∧
      lookD t.sat 0x010500 0 = (satAdd (lookD s.sat 0x010500 0) 1).1 ∧ s.pt ∈ (t.pcell (s.physical cell)).transients ∧
      t.dev = s.dev) ∧
  ∀ (s : State) (st cell : Nat) (x : Instr) (f g : ArrayFail) (checks more : List ArrayFail), failsOf checks = g :: more → (s.st st).failed = some (x, f) → s.cellOf st = some cell →
    (s.st st).confirming = false →
    ∃ t, exec (.arrayRepeat st checks) s = .next t ∧ t.st st = { s.st st with failed := some (x, g), confirming := true } ∧
      (∀ n, n ≠ st → t.st n = s.st n) ∧ t.cells.placeQueue = s.cells.placeQueue ++ [st] ∧
      t.card.head = s.card.head + BitVec.ofNat 32 (more.length + 1) ∧ Logged s t 0x10 ∧
      Frame [.cells, .card, .mgmt, .sat] s t

/-- The state once a station's cell has read a bank. -/
def Sys2Proof.Machine.State.bankOut (s : State) (st : Nat) (b : Bank) : State :=
  match s.cellOf st with
  | some cell => s.bankRead cell b
  | none => s

/-- MM_DRAIN rounds the accumulator into one frame at the output slot, clears it with CLR, and completes (R76). -/
def Sys2Proof.Parts.DrainWritesFrame : Prop :=
  ∀ (s : State) (st : Nat) (cf : Common) (o acc fmt : Nat) (rnd : Rnd) (clr : Bool) (f : List Byte), Ready s st cf isMatrix →
    let r := (s.st st).entered cf
    let u := (s.entered st cf).bankOut st (lookD r.banks acc {})
    let a := u.outAddr st o
    r.accBusy acc = false → s.mapped a frameBytes → a % 8 = 0 → s.stores.mem.wf = true →
    drainFrame (lookD r.banks acc {}) fmt rnd st (s.outStream st o) (r.outPos o % 2 ^ 32) r.stepNo.toNat s.seed = some f →
    ∃ w t, exec (.mmDrain st cf o acc fmt rnd clr) s = .next t ∧ Wrote u w a f ∧
      Done w t st (if clr then { r with banks := del r.banks acc } else r) (advances cf [] [o] 1) [(signalOf cf, 1)]

/-- VEC_OP reads its operands, writes its result at the output slot and completes; the operand b of a function that uses one
operand is neither read nor advanced, which is the model's choice (R77, log 22). -/
def Sys2Proof.Parts.VectorWritesFrame : Prop :=
  ∀ (s : State) (st : Nat) (cf : Common) (fn : VecFn) (a b o fmt : Nat) (rnd : Rnd) (imm : BitVec 32) (fa f : List Byte) (v : State),
    Ready s st cf isVector →
    let r := (s.st st).entered cf
    let u := s.entered st cf
    let x := u.outAddr st o
    s.mapped x frameBytes → x % 8 = 0 → s.stores.mem.wf = true → Reads u st (u.inAddr st a) fa v → seqOk fa (r.inPos a) = true →
    let frame (fb : Option (List Byte)) : Option (List Byte) :=
      vecFrame fn fa fb imm fmt rnd st (s.outStream st o) (r.outPos o % 2 ^ 32) r.stepNo.toNat s.seed
    (∀ fb v', vecTwo fn = true → Reads v st (u.inAddr st b) fb v' → seqOk fb (r.inPos b) = true → frame (some fb) = some f →
      ∃ w t, exec (.vecOp st cf fn a b o fmt rnd imm .clean) s = .next t ∧ Wrote v' w x f ∧
        Done w t st r (advances cf [a, b] [o] 1) [(signalOf cf, 1)]) ∧
    (vecTwo fn = false → frame none = some f →
      ∃ w t, exec (.vecOp st cf fn a b o fmt rnd imm .clean) s = .next t ∧ Wrote v w x f ∧
        Done w t st r (advances cf [a] [o] 1) [(signalOf cf, 1)])

/-- MM_DRAIN and VEC_OP write their frame (R76, R77).
Completion: exec answers a next state, under conditions on the state and the operands alone, for mmDrain, vecOp. -/
def Obligations.FramesWritten : Prop := Parts.DrainWritesFrame ∧ Parts.VectorWritesFrame

/-- RAMP_DOWN_START answers a next state in which running arrays ramp down, each failed check of a ballast row recorded as event 0x10
and a transient of its cell (R104, R105). RAMP_DOWN_COMPLETE answers a next state in which their ticket is given back and they are
idle, or wait where their context has asked again (R105, R107, R391). -/
def Sys2Proof.Parts.RampDown : Prop :=
  ∀ (s : State) (cell : Nat),
    (s.arrayPhase cell = .running → ∀ ballast : List ArrayFail,
      (failsOf ballast = [] → ∃ t, exec (.rampDownStart cell ballast) s = .next t ∧ t.arrayPhase cell = .rampDown ∧
        (∀ k, k ≠ cell → t.arrayPhase k = s.arrayPhase k) ∧ t = { s with cells := { s.cells with arrays := t.cells.arrays } }) ∧
      (failsOf ballast ≠ [] → ∃ t, exec (.rampDownStart cell ballast) s = .next t ∧ t.arrayPhase cell = .rampDown ∧
        (∀ k, k ≠ cell → t.arrayPhase k = s.arrayPhase k) ∧ t.power = s.power ∧ Logged s t 0x10 ∧
        s.pt ∈ (t.pcell (s.physical cell)).transients)) ∧
    (s.arrayPhase cell = .rampDown → s.power.queue.any (·.cls = .arrayBurst cell) = true →
      ∃ t, exec (.rampDownComplete cell) s = .next t ∧ t.arrayPhase cell = .waiting ∧
      (∀ k, k ≠ cell → t.arrayPhase k = s.arrayPhase k) ∧ t.power.queue = s.power.queue ∧
      t.power.held = s.power.held.filter (·.cls != .arrayBurst cell) ∧ Frame [.power, .cells] s t) ∧
    (s.arrayPhase cell = .rampDown → s.power.queue.any (·.cls = .arrayBurst cell) = false →
      ∃ t, exec (.rampDownComplete cell) s = .next t ∧ t.arrayPhase cell = .idle ∧
      (∀ k, k ≠ cell → t.arrayPhase k = s.arrayPhase k) ∧ Released s t (.arrayBurst cell) ∧ Frame [.power, .cells] s t)

/-- The checks of an array (R91, R96): the checksum that the check column forms of an issued row is the sum of the exact results of its
data columns, plain and complex; and the residues that a unit predicts of a product or a sum are those of every result that is equal to
the exact one modulo 3 and 255, and of no other. -/
def Sys2Proof.Parts.ChecksHold : Prop :=
  (∀ (a : List Int) (cols : List (Column × List Int)), checksum a cols = columnSum a cols) ∧
  (∀ p g shown : Int, productResidues p g shown = true ↔ (p * g - shown) % 3 = 0 ∧ (p * g - shown) % 255 = 0) ∧
  ∀ x y shown : Int, sumResidues x y shown = true ↔ (x + y - shown) % 3 = 0 ∧ (x + y - shown) % 255 = 0

/-- The work of the arrays beside the commands (R98 to R105).
Completion: exec answers a next state, under conditions on the state and the operands alone, for mmRunCommit, arrayRepeat,
rampDownStart, rampDownComplete. -/
def Obligations.ArrayWork : Prop := Parts.CommitAndRepeat ∧ Parts.RampDown ∧ Parts.ChecksHold

/-! ### Glide stations (R162, R175 to R184) -/

/-- GL_LOAD on cells keeps W as read, decoded, and completes (R162, R175); on an engine that holds its ticket it also takes a
phase map that step 2 of R177 accepts into the station's slot, where it is applied if the slot is the one applied or none is, and then
the command completes only once the map has settled; and it moves the station to its host cell where it refuses the map (R179).
Completion: exec answers a next state, under conditions on the state and the operands alone, for glLoad. -/
def Obligations.GlideLoads : Prop :=
  ∀ (s : State) (st : Nat) (cf : Common) (w map : Nat) (ws : List (List Byte)) (fm : Fmt) (v : State), Ready s st cf isGlide →
    let r := (s.st st).entered cf
    let u := s.entered st cf
    let p := s.paramsOf st
    r.held = [] → u.readFrames st (u.objectAddrs w (tiles64 p.rows * tiles64 p.cols)) .clean = (v, some ws) → ws ≠ [] →
    (∀ f ∈ ws, wFmt f = some fm) →
    (s.engineOf st = none → ∃ t, exec (.glLoad st cf w map .clean) s = .next t ∧
      Done v t st { r with glLoad := some (w, map), glW := some (decodeW fm ws p.rows p.cols 0) } [] [(signalOf cf, 1)]) ∧
    (∀ (n : Nat) (ms : List (List Byte)) (v' : State), s.engineOf st = some n → s.holds (.glideUser n) = true →
      v.readFrames st (u.objectAddrs map 65) .clean = (v', some ms) →
      let rmax := ((mapRmax (mapBytes ms)).finite).getD 0
      let at_ := (s.engine n).applied
      ∃ t, exec (.glLoad st cf w map .clean) s = .next t ∧ (t.st st).pc = r.pc + 1 ∧ t.pt = s.pt ∧
        (mapCause ms ws p.rows p.cols = 0 → (t.st st).glW = some (decodeW fm ws p.rows p.cols rmax) ∧
          (∃ m ∈ (t.engine n).slots, m.station = st ∧ m.map = phaseMap (mapBytes ms)) ∧ t.glide.barred = s.glide.barred ∧
          (∀ k, k ≠ st → t.st k = s.st k) ∧ t.stores = v'.stores ∧
          (at_ = none ∨ at_ = some st → (t.engine n).applied = some st ∧ (t.engine n).appliedPt = s.pt ∧
            (t.st st).outstanding = r.outstanding ++ [{ kind := .load, id := r.nextId, signal := signalOf cf }]) ∧
          (at_ ≠ none → at_ ≠ some st → (t.engine n).applied = at_ ∧ (t.engine n).appliedPt = (s.engine n).appliedPt)) ∧
        (mapCause ms ws p.rows p.cols ≠ 0 → st ∈ t.glide.barred ∧ (t.engine n).lastLeave = 8 ∧
          (t.placeOf st).place = 0 ∧ ∀ m ∈ (t.engine n).slots, m.station ≠ st))

/-- GL_RUN reads its x frame, computes every vector and issues; its result is held until its checks are in. On cells the
results are those of exact products; on an engine they are those of the sampled codes, and the engine counts the samples (R180 to
R183). The model's own readings here: logs 20, 55.
Completion: exec answers a next state, under conditions on the state and the operands alone, for glRun. -/
def Obligations.GlideRuns : Prop :=
  ∀ (s : State) (st : Nat) (cf : Common) (i o fmt cell : Nat) (rnd : Rnd) (adc : List (List (List Int))) (f : List Byte) (g : GlideW)
    (sh : Fmt × Fmt × Nat × Nat × Nat) (v : State), Ready s st cf isGlide →
    let r := (s.st st).entered cf
    let u := s.entered st cf
    let p := s.paramsOf st
    r.glW = some g → (s.st st).discarded = none → s.cellOf st = some cell → r.held.length < 2 → Reads u st (u.inAddr st i) f v → seqOk f (r.inPos i) = true →
    glShape f fmt p.rows p.cols = some sh →
    ∀ checks : List ArrayFail,
    let x := Instr.glRun st cf i o fmt rnd adc .clean checks
    let used := (xRows f p).filter (usesSlots g)
    let q (h : HeldRun) : StationRt :=
      { r.issued [{ kind := .glide, adv := advances cf [i] [o] 1, signal := signalOf cf }] with
        held := r.held ++ [{ h with instr := x, xframe := f, posOut := r.outPos o, step := r.stepNo, pt := s.pt }] }
    let onCell : HeldRun :=
      { instr := x, engine := none, xframe := f, ys := (xRows f p).map (cellVector g p.rows), posOut := 0, step := 0, pt := 0 }
    let onEngine (n : Nat) : HeldRun :=
      { onCell with
        engine := some n, slots := used.length * p.samples, drive := used.map driveCodes
        ys := (List.range (xRows f p).length).map fun v => engineVector g p.rows p.samples ((xRows f p).getD v none) (adc.getD v []) }
    (s.engineOf st = none → s.arrayPhase cell = .running →
      (failsOf checks = [] → ∃ t, exec (.glRun st cf i o fmt rnd adc .clean checks) s = .next t ∧ Moves v t st (q onCell) []) ∧
      ∀ fail more, failsOf checks = fail :: more → ∃ y t, exec (.glRun st cf i o fmt rnd adc .clean checks) s = .next t ∧
        Moves v y st { q onCell with failed := some (x, fail) } [] ∧ Logged y t 0x10 ∧ Frame [.card, .mgmt] y t) ∧
    (∀ n, s.engineOf st = some n → s.engineReady n st = true → s.mapStale n = false → ∃ t, exec (.glRun st cf i o fmt rnd adc .clean checks) s = .next t ∧
      t.st st = q (onEngine n) ∧ (∀ k, k ≠ st → t.st k = s.st k) ∧
      (t.engine n).servedSince = (s.engine n).servedSince + 1 ∧ (t.engine n).servedCount = (s.engine n).servedCount + 1 ∧
      (∀ k, k ≠ n → t.engine k = s.engine k) ∧ Frame [.cells, .glide, .wrap, .sat, .mgmt] v t)

/-- GL_RUN_COMPLETE writes the oldest result that is ready at its output slot and completes the command; on an engine the frame
is counted (R183, R197); a run that has moved to its host cell runs there, and completes where no check fails (R100, R163).
The model's own readings here: log 59.
Completion: exec answers a next state, under conditions on the state and the operands alone, for glRunComplete. -/
def Obligations.GlideCompletes : Prop :=
  ∀ (s : State) (st i o cell : Nat) (h : HeldRun) (rest : List HeldRun) (out : Outst) (f : List Byte) (checks : List ArrayFail),
    Open s st → (s.st st).held = h :: rest → s.cellOf st = some cell → (s.st st).failed = none → s.glFrame st h = some (o, f) →
    (s.st st).firstOf .glide = some i → (s.st st).outstanding[i]? = some out →
    let a := s.slotAddr (s.outStream st o) h.posOut
    s.mapped a frameBytes → a % 8 = 0 → s.stores.mem.wf = true →
    (h.engine = none → h.issued = true ∨ s.arrayPhase cell = .running ∧ failsOf checks = [] →
      ∃ w t, exec (.glRunComplete { unit := st, checks := checks }) s = .next t ∧ Wrote s w a f ∧ Completed w t st { s.st st with held := rest } i out) ∧
    (h.engine = none → h.issued = false → s.arrayPhase cell = .running → ∀ fail more, failsOf checks = fail :: more →
      ∃ t, exec (.glRunComplete { unit := st, checks := checks }) s = .next t ∧
        t.st st = { s.st st with held := { h with issued := true } :: rest, failed := some (h.instr, fail) } ∧
        (∀ k, k ≠ st → t.st k = s.st k) ∧ Logged s t 0x10 ∧ Frame [.cells, .card, .mgmt] s t) ∧
    (∀ n, h.engine = some n → h.ready = true → ∃ w t, exec (.glRunComplete { unit := st, checks := checks }) s = .next t ∧ Wrote s w a f ∧ t.stores = w.stores ∧
      t.st st = (({ s.st st with held := rest }).completes i out).settled ∧ (∀ k, k ≠ st → t.st k = s.st k) ∧
      (t.engine n).runCount = (s.engine n).runCount + 1 ∧ (∀ k, k ≠ n → t.engine k = s.engine k))

/-! ### Glide engines (R178, R185 to R201) -/

/-- FAST_WINDOW takes the codes of at most 256 pilot slots, whose pilots go in turn (R190, R191): a window with fewer than 32 pilots
is kept for the next of its map; one that passes guards the GL_RUN commands held so far, all whose slots are past; one that fails takes
the engine out of service for a retrack, with event 0x40 (R192); and a whole window counts for the map's drift window (R193).
The model's own readings here: logs 29, 128. -/
def Sys2Proof.Parts.FastWindows : Prop :=
  ∀ (s : State) (n st : Nat) (codes : List (List Int)) (m : MapSlot) (g : GlideW),
    let e := s.engine n
    e.slots.find? (·.station = st) = some m → (s.st st).glW = some g → e.state = 1 →
    let taken := codes.take 256
    let l := windowSamples e.pilotNext (s.paramsOf st).rows taken
    let all := m.samples ++ l
    let seen (x : MapSlot) : MapSlot := if taken.length = 256 then x.noteDrift l else x
    let after (pilots : Nat) (samples : List PilotSample) : Engine :=
      { e with
        pilotNext := (e.pilotNext + taken.length) % 64
        slots := e.slots.map fun x => if x.station = st then { (seen x) with pilots := pilots, samples := samples } else x }
    let ok := s.fastFloor n st ≤ enobOf (pilotMean g (s.paramsOf st).rows all)
    (m.pilots + taken.length < 32 → ∃ t, exec (.fastWindow n st codes) s = .next t ∧
      OnlyEngine s t n (after (m.pilots + taken.length) all) ∧ Frame [.glide, .wrap] s t) ∧
    (32 ≤ m.pilots + taken.length → ok → ∃ t, exec (.fastWindow n st codes) s = .next t ∧ OnlyEngine s t n (after 0 []) ∧
      t.st st = { s.st st with
        held := (s.st st).held.map fun h => if h.engine = some n && h.issued && !s.sampling n h then { h with windowPassed := true } else h } ∧
      (∀ k, k ≠ st → t.st k = s.st k) ∧ Frame [.glide, .wrap, .cells] s t) ∧
    (32 ≤ m.pilots + taken.length → ¬ ok → ∃ t, exec (.fastWindow n st codes) s = .next t ∧ (t.engine n).state = 2 ∧
      (t.engine n).lastLeave = 3 ∧ (t.engine n).fullRecal = false ∧ n ∈ t.glide.leaving ∧ Recorded s t 0x40 ∧
      Frame [.glide, .wrap, .card, .mgmt, .sat] s t)

/-- DRIFT_WINDOW, after 4,096 whole fast windows of the map, publishes ENOB_sys and the drift margin of the engine (R193, R194); TUNING_UPDATE applies the bias corrections of
its temperature (R188); GLIDE_MAP_SWITCH applies the map of the ready station served longest ago, with the other polarity (R173, R178); RECAL_RETRY starts a
recalibration an hour after the failures (R196). The model's own readings here: logs 29, 59.
Completion: exec answers a next state, under conditions on the state and the operands alone, for driftWindow, recalRetry,
glideMapSwitch, tuningUpdate. -/
def Obligations.EngineUpkeep : Prop :=
  ∀ (s : State) (n : Nat),
    let e := s.engine n
    (∀ (st : Nat) (m : MapSlot) (g : GlideW), e.slots.find? (·.station = st) = some m →
      (s.st st).glW = some g → e.state = 1 → 4096 ≤ m.driftWindows →
      let sys := enobSys g (s.paramsOf st).rows (m.repeats.map (·.2))
      ∃ t, exec (.driftWindow n st) s = .next t ∧
        OnlyEngine s t n { e with
          measValid := true, measSys := publish sys, delta := sys - modelSys e.resident (s.calAge n) (s.exc n)
          slots := e.slots.map fun x => if x.station = st then { x with driftWindows := 0, repeats := [] } else x } ∧
        Frame [.glide] s t) ∧
    (e.state ≠ 0 → e.state ≠ 6 → ∃ t, exec (.tuningUpdate n) s = .next t ∧ OnlyEngine s t n { e with bias := s.biases n } ∧
      Frame [.glide] s t) ∧
    (∀ st, e.state = 1 → e.mode = 1 → s.switchDue n = true → s.nextStation n = some st →
      ∃ t, exec (.glideMapSwitch n) s = .next t ∧
        OnlyEngine s t n { e with
          applied := some st, appliedPt := s.pt, switchPt := s.pt, servedSince := 0, polarity := !e.polarity } ∧ Frame [.glide] s t) ∧
    (e.state = 5 → 360000000000 ≤ s.pt.toNat - e.failSince.toNat → s.calTicket n = false →
      ∃ t, exec (.recalRetry n) s = .next t ∧ OnlyEngine s t n { e with state := 3 } ∧ Asked s t (.glideCal n) ∧
        Frame [.glide, .power] s t)

/-- SHADOW_RECOMPUTE takes the oldest shadow frame of an engine, counts it, and adds what it shows to the window of its station,
which is judged at 16 frames (R197). Where a check of the host cell fails, the context stops as for any command, and the frame is left
out of the statistics (R100). The model's own readings here: log 29. -/
def Sys2Proof.Parts.ShadowRecompute : Prop :=
  ∀ (s : State) (n cell : Nat) (f : ShadowFrame) (rest : List ShadowFrame) (checks : List ArrayFail),
    (s.engine n).shadows = f :: rest → (s.st f.station).failed = none → s.cellOf f.station = some cell →
    let e := s.engine n
    let x := shadowStat (s.paramsOf f.station) f
    (failsOf checks = [] → e.stations.contains f.station = true → (lookD e.shadowRecs f.station {}).window.length < 15 →
      ∃ t, exec (.shadowRecompute { unit := n, checks := checks }) s = .next t ∧ (t.engine n).shadows = rest ∧
        (t.engine n).lastStats = (e.lastStats ++ [x]).drop (e.lastStats.length - 15) ∧
        lookD (t.engine n).shadowRecs f.station {} =
          { lookD e.shadowRecs f.station {} with window := (lookD e.shadowRecs f.station {}).window ++ [x] } ∧
        (∀ k, k ≠ n → t.engine k = s.engine k) ∧ Frame [.glide, .wrap] s t) ∧
    ∀ fail more, failsOf checks = fail :: more →
      ∃ t, exec (.shadowRecompute { unit := n, checks := checks }) s = .next t ∧ OnlyEngine s t n { e with shadows := rest } ∧
        t.st f.station = { s.st f.station with failed := some (.shadowRecompute { unit := n, checks := checks }, fail) } ∧
        (∀ k, k ≠ f.station → t.st k = s.st k) ∧ Logged s t 0x10 ∧ Frame [.glide, .wrap, .cells, .card, .mgmt] s t

/-- The windows of pilots and of shadow frames (R191, R192, R197).
Completion: exec answers a next state, under conditions on the state and the operands alone, for fastWindow, shadowRecompute. -/
def Obligations.GlideWindows : Prop := Parts.FastWindows ∧ Parts.ShadowRecompute

/-- GLIDE_RECAL_TRIGGER takes an engine in service out of it for a full recalibration, with its code and event 0x40, and tells the
placer (R163, R195). RETRACK_COMPLETE brings the engine back where every station's forecast meets its floor (R196, R201). -/
def Sys2Proof.Parts.EngineLeavesAndReturns : Prop :=
  ∀ (s : State) (n : Nat),
    let e := s.engine n
    (∀ code, s.triggerHolds n code = true → e.state = 1 → ∃ t, exec (.glideRecalTrigger n code) s = .next t ∧
      OnlyEngine s t n { e with state := 2, lastLeave := BitVec.ofNat 8 code, fullRecal := true, retrackFor := 0 } ∧
      t.glide.leaving = s.glide.leaving ++ [n] ∧ Recorded s t 0x40 ∧ Frame [.glide, .card, .mgmt] s t) ∧
    (e.state = 4 → s.calTicket n = true → (∀ st ∈ e.stations ++ e.moved, s.forecastOk n st = true) →
      ∃ t, exec (.retrackComplete n) s = .next t ∧
        OnlyEngine s t n { e with state := 1, retrackFor := 0, retrackDue := false, oocSince := none } ∧
        t.glide.returning = s.glide.returning ++ [n] ∧ Released s t (.glideCal n) ∧ Frame [.glide, .power] s t)

/-- RECALIBRATION_COMPLETE (R186, R195, R196): verification that passes returns the engine to service with a fresh anchor, T_cal at
its temperature, event 0x41 and its ticket given back; a first failure repeats it, a second takes it out of service for an hour, and the sixth for good, with
event 0x42. The model's own readings here: logs 30, 59. -/
def Sys2Proof.Parts.Recalibration : Prop :=
  ∀ (s : State) (c : GlideCal), (s.engine c.engine).state = 3 → s.calTicket c.engine = true → s.thermal.stepActive = false →
    let e := s.engine c.engine
    (verifyOk e c.enob = true → ∃ t, exec (.recalibrationComplete c) s = .next t ∧
      OnlyEngine s t c.engine { e with
        state := 1, streak := 0, calPt := s.pt, tCal := (s.engineSum c.engine).fdiv 8, delta := 0, measValid := false, measSys := 0
        fullRecal := false, retrackFor := 0, retrackDue := false, oocSince := none, applied := none
        shadowRecs := e.shadowRecs.map fun r => (r.1, { passStep := r.2.passStep }) } ∧
      t.glide.returning = s.glide.returning ++ [c.engine] ∧ Released s t (.glideCal c.engine) ∧ Recorded s t 0x41 ∧
      Frame [.glide, .power, .card, .mgmt, .sat] s t) ∧
    (verifyOk e c.enob = false → ∃ t, exec (.recalibrationComplete c) s = .next t ∧ (t.engine c.engine).streak = e.streak + 1 ∧
      (t.engine c.engine).state = (if 6 ≤ e.streak + 1 then 6 else if (e.streak + 1) % 2 = 0 then 5 else 3) ∧ Recorded s t 0x42 ∧
      (∀ k, k ≠ c.engine → t.engine k = s.engine k) ∧ Frame [.glide, .power, .card, .mgmt, .sat] s t)

/-- An engine leaves service for its recalibration and comes back (R195, R196, R201).
Completion: exec answers a next state, under conditions on the state and the operands alone, for glideRecalTrigger,
recalibrationComplete, retrackComplete. -/
def Obligations.EngineRecalibration : Prop := Parts.EngineLeavesAndReturns ∧ Parts.Recalibration

/-! ### Signals, waits and windows (R63 to R66, R70, R71, R79, R123, R124, R315) -/

/-- A CK_C cycle in which one signal arrives and no file has one queued (R63, R64, R123, R124, R169): it raises its semaphore, and a
command that waits on the semaphore completes where the value now satisfies it: a SEM_WAIT goes past, and a WE is granted. One that
would raise the semaphore above 65,535 is a Course error 0x10 (R64, R82). While a rotation copies its cell it stays on its way. A
station without a cell has no file. The model's own readings here: log 61, log 91. -/
def Sys2Proof.Parts.SignalsArrive : Prop :=
  ∀ (s : State) (i : Nat) (m : SignalMsg) (d : StationDesc), s.cells.signals[i]? = some m → m.src = none →
    s.desc m.station = some d → (s.st m.station).stopped = false → (s.st m.station).finished = false →
    (∀ p ∈ s.cells.semFiles, p.2.queue = []) →
    let r := s.st m.station
    let after (u : State) (sigs : List SignalMsg) : Prop :=
      u = { s with cells := { s.cells with signals := sigs, semFiles := u.cells.semFiles } } ∧
      ∀ cell, s.cellOf m.station = some cell → s.copying cell = false → u.semFile cell = { applied := 1, queue := [] }
    let gone := s.cells.signals.eraseIdx i
    let raised := setGrow r.sems m.sem 0 (r.sem m.sem + m.count)
    ((∀ cell, s.cellOf m.station = some cell → s.copying cell = false) →
      (r.sem m.sem + m.count ≤ 65535 →
        (r.waiting = none → ∃ u t, exec (.signalArrival i []) s = .next t ∧ after u gone ∧ Moves u t m.station { r with sems := raised } []) ∧
        (∀ w, r.waiting = some w → raised.getD w.sem 0 < w.count →
          ∃ u t, exec (.signalArrival i []) s = .next t ∧ after u gone ∧ Moves u t m.station { r with sems := raised } []) ∧
        (∀ w, r.waiting = some w → r.halted = false → w.count ≤ raised.getD w.sem 0 →
          let q : StationRt := { r with waiting := none, sems := setGrow raised w.sem 0 (raised.getD w.sem 0 - w.count) }
          ∃ u t, exec (.signalArrival i []) s = .next t ∧ after u gone ∧
            (w.whole = true → Done u t m.station q [] [(w.signal, 1)]) ∧
            (w.whole = false → Moves u t m.station { q with weGranted := true } []))) ∧
      (s.job.isSome = true → s.dev.bound = true → 65535 < r.sem m.sem + m.count →
        ∃ u t, exec (.signalArrival i []) s = .next t ∧ after u gone ∧ CourseFails u t 0x10 m.station)) ∧
    (∀ cell, s.cellOf m.station = some cell → s.copying cell = true →
      ∃ t, exec (.signalArrival i []) s = .next t ∧
        t = { s with cells := { s.cells with signals := m :: gone, semFiles := t.cells.semFiles } })

/-- The cycles of a semaphore file (R123, R124): in a new cycle it applies the first 8 of its queue, and what arrives joins the queue
behind the rest; no file applies more than 8 in a cycle or queues more than 64. Signals of one cycle are all applied before a wait
is tested: two that together raise a semaphore above 65,535 end the Course though the first would have satisfied the wait. -/
def Sys2Proof.Parts.SignalCycles : Prop :=
  (∀ (s : State) (i : Nat) (l : List Nat), (∀ p ∈ s.cells.semFiles, p.2.applied ≤ 8 ∧ p.2.queue.length ≤ 64) →
    ∃ t, exec (.signalArrival i l) s = .next t ∧ ∀ p ∈ t.cells.semFiles, p.2.applied ≤ 8 ∧ p.2.queue.length ≤ 64) ∧
  (∀ (s : State) (cell : Nat) (f : SemFile) (m : SignalMsg), s.cells.semFiles = [(cell, f)] → s.cells.signals = [m] →
    s.copying cell = false → s.cellOf m.station = some cell → f.queue.length ≤ 64 → s.dev.bound = true →
    ∃ t, exec (.signalArrival 0 []) s = .next t ∧ t.semFile cell =
      if f.queue.length < 8 then { applied := f.queue.length + 1, queue := [] }
      else { applied := 8, queue := f.queue.drop 8 ++ [m] }) ∧
  (∀ (s : State) (m n : SignalMsg) (d : StationDesc), s.cells.semFiles = [] → s.cells.signals = [m, n] → m.src = none → n.src = none →
    n.station = m.station → n.sem = m.sem → s.desc m.station = some d → (s.st m.station).stopped = false →
    (∀ cell, s.cellOf m.station = some cell → s.copying cell = false) → s.job.isSome = true → s.dev.bound = true →
    let v := (s.st m.station).sem m.sem
    v + m.count ≤ 65535 → 65535 < v + m.count + n.count →
    ∃ u t, exec (.signalArrival 0 [1]) s = .next t ∧ u = { s with cells := u.cells } ∧ u.cells.signals = [] ∧
      CourseFails u t 0x10 m.station ∧ (t.st m.station).waiting = (s.st m.station).waiting ∧
      (t.st m.station).sem m.sem = v + m.count)

/-- The watchdog: a wait on a semaphore, for a ticket or for a free operation that has lasted WATCHDOG_MS ends the Course with error
0x11 of its station (R66, R82, R102, R126); a shorter one does not, and a stopped station waits for nothing (R82).
Completion: exec answers a next state, under conditions on the state and the operands alone, for watchdog. -/
def Obligations.WatchdogEnds : Prop :=
  ∀ (s : State) (st : Nat), s.dev.bound = true → s.job.isSome = true →
    let late (x : Word) : Prop := s.course.watchdogMs * 100000 ≤ s.pt.toNat - x.toNat
    let waits : Prop := (∃ w, (s.st st).waiting = some w ∧ late w.since) ∨ (∃ x, (s.st st).ticketSince = some x ∧ late x) ∨
      ∃ x, (s.st st).opSince = some x ∧ late x
    ((s.st st).stopped = false → waits → ∃ t, exec (.watchdog st) s = .next t ∧ CourseFails s t 0x11 st) ∧
    ((s.st st).stopped = true ∨ ¬ waits → exec (.watchdog st) s = .next s)

/-- Signals and their cycles (R63 to R65, R123, R124).
Completion: exec answers a next state, under conditions on the state and the operands alone, for signalArrival. -/
def Obligations.SignalsAndWaits : Prop := Parts.SignalsArrive ∧ Parts.SignalCycles

/-- The second read of a frame (R58, R361): where it fails too, the station stops with a tile-integrity fault, event 0x13, two points
and a drain with DR_REFORM. Where it verifies, the transient is recorded as event 0x12 with one point, and the command goes on from
that state as it would with a frame that verified at once; the path may then damage a later frame of the command, never this one.
The model's own readings here: log 52.
Completion: exec answers a next state, under conditions on the state and the operands alone, for vecOp, tileCrcReread. -/
def Obligations.SecondRead : Prop :=
  ∀ (s : State) (st : Nat) (i : Instr), (s.st st).stopped = false → (s.st st).crcWait = some i → s.nvm.levelOk = true →
    (s.dev.bound = true → ∃ t, exec (.tileCrcReread st (.damaged 0)) s = .next t ∧ (t.st st).stopped = true ∧ (t.st st).crcWait = none ∧
      (∃ k e, look t.card.ledger k = some e ∧ e.code = 0x13 ∧ e.pt = s.pt) ∧
      min 65280 (s.nvm.level.toNat + 512) ≤ t.nvm.level.toNat ∧
      (s.dev.mode.running = true → t.dev.mode = .drain ∧ t.dev.has drReform = true)) ∧
    (∀ f v path, path ≠ .damaged 0 → Reads (s.withSt st fun r => { r with crcWait := none }) st (s.st st).crcFrame.1 f v →
      v.nvm.level.toNat + 256 < v.bucket.high.toNat * 256 → v.bucket.high.toNat ≤ 64 →
      ∃ w, exec (.tileCrcReread st path) s = .next (w.proceed i path) ∧ w.st st = { s.st st with crcWait := none } ∧
        w.nvm.level.toNat = v.nvm.level.toNat + 256 ∧ Recorded v w 0x12 ∧
        lookD w.sat 0x010508 0 = (satAdd (lookD v.sat 0x010508 0) 1).1 ∧ Frame [.card, .sat, .nvm, .bucket, .mgmt] v w ∧
        ∀ cf fn a b o fmt rnd imm p, i = .vecOp st cf fn a b o fmt rnd imm p → w.canIssue st isVector = true → cf.we = false →
          exec (.vecOp st cf fn a b o fmt rnd imm path) w = .next (w.proceed i path))

/-! ### DMA and the fabric's commands (R57 to R60, R71, R78 to R80, R125 to R128, R307 to R310, R315) -/

/-- RD_TILES, WR_TILES and CP_TILES (R60, R125, R126): the frames move one after another, each verified at its source, its SEQ checked
where a stream is consumed, and restamped with the STREAM and SEQ of its destination; the command issues with two transactions for
each frame, which start as the context, the cell and the device have room, and no byte but those of the frames written changes. The
model's own readings here: log 54. -/
def Sys2Proof.Parts.DmaMoves : Prop :=
  ∀ (s v : State) (st : Nat) (cf : Common) (i o object first count : Nat), s.stores.mem.wf = true → 0 < count →
    let r := (s.st st).entered cf
    let u := s.entered st cf
    let issue (t : State) (l : List (Nat × Nat × Nat)) (adv : List Advance) : Prop :=
      DmaIssued v t st r cf adv count ∧
      ∀ x, (∀ e ∈ l, x < e.2.2 ∨ e.2.2 + 4256 ≤ x) → t.stores.mem.byte x = s.stores.mem.byte x
    let sid := u.outStream st o
    let ks := List.range count
    let input (k : Nat) := u.slotAddr (u.inStream st i) (r.inPos i + k)
    let output (k : Nat) := u.slotAddr sid (r.outPos o + k)
    let consumed (k : Nat) (f : List Byte) := seqOk f (r.inPos i + k)
    let produced (k : Nat) (f : List Byte) := restamp f sid ((r.outPos o + k) % 2 ^ 32)
    (Ready s st cf isReader →
      let l := ks.map fun k => (k, u.frameAddr object (first + k), output k)
      Copied st (fun _ _ => true) produced l u v →
      ∃ t, exec (.rdTiles st cf object o first count .clean) s = .next t ∧ issue t l (advances cf [] [o] count)) ∧
    (Ready s st cf isWriter →
      let l := ks.map fun k => (k, input k, u.frameAddr object (first + k))
      Copied st consumed (fun k f => restamp f object (first + k)) l u v →
      ∃ t, exec (.wrTiles st cf object i first count .clean) s = .next t ∧ issue t l (advances cf [i] [] count)) ∧
    (Ready s st cf isCopy → i ≠ 7 →
      let l := ks.map fun k => (k, input k, output k)
      Copied st consumed produced l u v →
      ∃ t, exec (.cpTiles st cf i o count .clean) s = .next t ∧ issue t l (advances cf [i] [o] count))

/-- DMA_TRANSACTION_COMPLETE, where nothing waits for an operation: the station's first DMA command with a transaction under way has
one fewer, and completes with its last (R49, R128). Which command it is, is the model's choice: log 135. -/
def Sys2Proof.Parts.DmaEnds : Prop :=
  ∀ (s : State) (st i : Nat) (o : Outst), Open s st → s.waiters = [] → s.inFlight < 32767 →
    (s.st st).outstanding.findIdx? (fun o => o.kind = .dma && o.remoteTo.isNone && decide (o.todo < o.open_)) = some i →
    (s.st st).outstanding[i]? = some o →
    let r := { s.st st with outstanding := updAt (s.st st).outstanding i fun o => { o with open_ := o.open_ - 1 } }
    (1 < o.open_ → ∃ t, exec (.dmaTransactionComplete st) s = .next t ∧ Moves s t st r []) ∧
    (o.open_ = 1 → ∃ t, exec (.dmaTransactionComplete st) s = .next t ∧ Completed s t st r i { o with open_ := 0 })

/-- A transaction that waits for room starts when another ends (R125, R126): the oldest command's first, as many as the context, the
cell and the device then have room for; the wait for a free operation begins anew with each that starts, and ends with the last. -/
def Sys2Proof.Parts.DmaWaits : Prop :=
  ∀ (s : State) (st i : Nat) (o : Outst), (s.st st).stopped = false → (s.st st).sendQ = [] → s.nextList st = none → s.relay.cmds = [] →
    (s.st st).outstanding.findIdx? (fun o => o.kind = .dma && o.remoteTo.isNone && decide (o.todo < o.open_)) = some i →
    (s.st st).outstanding[i]? = some o → 0 < o.todo → o.todo + 1 < o.open_ →
    (∀ j p, j ≠ i → (s.st st).outstanding[j]? = some p → p.todo = 0) →
    let x := s.withSt st fun r => { r with outstanding := updAt r.outstanding i fun o => { o with open_ := o.open_ - 1 } }
    let n := min o.todo (x.opRoom st)
    x.waiters = [st] → 0 < n →
    ∃ w, exec (.dmaTransactionComplete st) s = .next w.markFlight ∧ Moves s w st { s.st st with
      outstanding := updAt (s.st st).outstanding i fun o => { o with open_ := o.open_ - 1, todo := o.todo - n }
      opSince := if x.inFlight + n < 32768 ∨ n = o.todo then none else some s.pt } []

/-- The local DMA commands and their transactions (R57 to R60, R125, R126, R128).
Completion: exec answers a next state, under conditions on the state and the operands alone, for cpTiles, rdTiles, wrTiles,
dmaTransactionComplete. -/
def Obligations.DmaCommands : Prop := Parts.DmaMoves ∧ Parts.DmaEnds ∧ Parts.DmaWaits

/-- SEM_REMOTE (R73, R79, R313, R315): once the station's earlier writes elsewhere are complete, a SIGNAL with ORD, which carries the
count of writes issued to its destination, leaves as an operation in flight with a tag of its own, and the write count rises; the
station issues. With no operation free it waits (R126). A rank outside the slice is a Course error (R78). -/
def Sys2Proof.Parts.SemRemoteSends : Prop :=
  ∀ (s : State) (st : Nat) (cf : Common) (rank : RankOp) (station sem count : Nat), Ready s st cf anyKind →
    let r := (s.st st).entered cf
    let u := s.entered st cf
    (∀ dst, s.resolveRank rank = some dst → r.clearFor dst = true → u.inFlight < 32768 →
      ∃ tag, (∀ f ∈ s.fabric.flights, f.tag ≠ tag) ∧
        let v : State := (u.withSt st fun r => { r with opSince := none }).withSt st
          (·.issued [{ kind := .nothing, signal := signalOf cf, open_ := 1, remoteTo := some dst.toNat }])
        let w : State := { v with fabric := { s.fabric with
          flights := s.fabric.flights ++ [{ tag := tag, dst := dst, station := st, kind := .signal, cmd := r.nextId }]
          nextTag := (tag + 1) % 32768, issued := put s.fabric.issued dst.toNat ((s.issuedTo dst + 1) % 2 ^ 16) } }
        exec (.semRemote st cf rank station sem count) s = .next (w.inject
          { opc := 0x06, pflags := 1, dst := dst, src := 0, sliceId := 0, windowId := BitVec.ofNat 16 station, offset := BitVec.ofNat 48 sem
            aux := BitVec.ofNat 16 count, tag := BitVec.ofNat 16 tag, wcnt := BitVec.ofNat 16 (s.issuedTo dst) }).markFlight) ∧
    (∀ dst, s.resolveRank rank = some dst → r.clearFor dst = true → 32768 ≤ u.inFlight →
      ∃ t, exec (.semRemote st cf rank station sem count) s = .next t ∧ Moves u t st { r with opSince := some (r.opSince.getD s.pt) } []) ∧
    (∀ dst, s.resolveRank rank = some dst → r.clearFor dst = false → exec (.semRemote st cf rank station sem count) s = .next u) ∧
    (s.resolveRank rank = none → ∃ t, exec (.semRemote st cf rank station sem count) s = .next t ∧ CourseFails u t 0x17 st)

/-- WIN_RELEASE re-arms COUNT slots of the station's window from FIRST on, wrapping at SLOTS, and completes; other windows keep their
slots (R71). The wrap is the model's reading of R71. The model's own readings here: log 53. -/
def Sys2Proof.Parts.WindowsRearmed : Prop :=
  ∀ (s : State) (st : Nat) (cf : Common) (first count : Nat), Ready s st cf (· == .window) →
    ∃ w t, exec (.winRelease st cf first count) s = .next t ∧ w = { s with windows := w.windows } ∧
      Done w t st ((s.st st).entered cf) [] [(signalOf cf, 1)] ∧
      ∀ id x, look s.windows id = some x →
        (x.station ≠ st → look w.windows id = some x) ∧
        (x.station = st → ∃ y, look w.windows id = some y ∧ y = { x with slots := y.slots } ∧
          let n := max 1 (s.windowParams x).slots
          ∀ k, look y.slots k = if ∃ i, i < count ∧ k = (first + i) % n then none else look x.slots k)

/-- CP_REMOTE of one frame: it is consumed from its stream, restamped for the window's slot, and leaves as two WRITE packets of its
4,096 and 160 bytes for that slot, each an operation in flight where there is room for both; the command waits for both (R78, R80,
R125, R126, R305).
The model's own readings here: log 25. -/
def Sys2Proof.Parts.RemoteCopyLeaves : Prop :=
  ∀ (s v : State) (st : Nat) (cf : Common) (i : Nat) (rank : RankOp) (window slot : Nat) (dst : Coord) (d : StationDesc) (f : List Byte),
    Ready s st cf isCopy → s.resolveRank rank = some dst → s.windowDesc window = some d → d.params.memMode = false → slot < d.params.slots →
    (s.st st).sendQ = [] →
    let r := (s.st st).entered cf
    let u := s.entered st cf
    Reads u st (u.inAddr st i) f v → seqOk f (r.inPos i) = true →
    let key := slotKey dst window slot
    let g := restamp f (d.outPorts.getD 0 0xFFFF) ((slot + u.usesOf key * d.params.slots) % 2 ^ 32)
    let q := { r.issued [{ kind := .dma, adv := advances cf [i] [] 1, signal := signalOf cf, open_ := 2, remoteTo := some dst.toNat }] with
      slotUses := put r.slotUses key (lookD r.slotUses key 0 + 1) }
    let part (k : Nat) (b : List Byte) : Packet :=
      { opc := 0x01, dst := dst, src := 0, sliceId := 0, windowId := BitVec.ofNat 16 window, offset := BitVec.ofNat 48 (4256 * slot + k)
        payload := b }
    let sends (t : State) (p : Packet) := t.sendOp st .dmaRemote r.nextId p
    let second := part 4096 (g.drop 4096)
    let x := v.withSt st fun _ => { q with sendQ := [(r.nextId, part 0 (g.take 4096)), (r.nextId, second)] }
    let y := sends (x.withSt st fun r => { r with sendQ := [(r.nextId, second)] }) (part 0 (g.take 4096))
    0 < x.opRoom st → 0 < y.opRoom st →
    ∃ (t : State) (tags : List Nat), exec (.cpRemote st cf i rank window slot 1 .clean) s = .next t ∧
      t = (sends (y.withSt st fun r => { r with sendQ := [] }) second).withSt st (fun r => { r with opSince := none }) ∧
      t.st st = { q with sendQ := [], opSince := none } ∧ (∀ n, n ≠ st → t.st n = s.st n) ∧ tags.length = 2 ∧
      t.fabric.flights = s.fabric.flights ++ tags.map (fun x =>
        { tag := x, dst := dst, station := st, kind := .dmaRemote, cmd := r.nextId }) ∧
      t.issuedTo dst = (s.issuedTo dst + 2) % 2 ^ 16 ∧ t.stores = v.stores

/-- What leaves a station for other devices (R71, R73, R78 to R80, R125, R313, R315).
Completion: exec answers a next state, under conditions on the state and the operands alone, for semRemote, cpRemote, winRelease. -/
def Obligations.RemoteCommands : Prop := Parts.SemRemoteSends ∧ Parts.WindowsRearmed ∧ Parts.RemoteCopyLeaves

/-- CP_TILES with I = 7 (R307 to R310), for one frame with one entry: the frame is taken as an operation list that waits for its
reply. An entry that its source turns away has its status in the reply frame, which is written at the output slot, and the command
completes; another is sent as an operation in flight; a rank outside the slice is a Course error.
Completion: exec answers a next state, under conditions on the state and the operands alone, for operationList. -/
def Obligations.OperationLists : Prop :=
  ∀ (s v : State) (st : Nat) (cf : Common) (o : Nat) (f : List Byte), Ready s st cf isCopy → s.fabric.lists = [] →
    s.stores.mem.wf = true →
    let r := (s.st st).entered cf
    let u := s.entered st cf
    let a := u.outAddr st o
    r.outstanding = [] → Reads u st (u.inAddr st 7) f v → seqOk f (r.inPos 7) = true → isOpList f = true → (hdrOf f).rows = 1 →
    let l : OpList := { id := s.fabric.nextList, station := st, outStream := u.outStream st o, slot := r.outPos o, seq := r.outPos o % 2 ^ 32
                        step := r.stepNo, rows := 1, cmd := r.nextId, tflags := (hdrOf f).tflags % 4 }
    let e := sub f 0xA0 64
    let x := v.withSt st (·.issued [{ kind := .opList, adv := advances cf [7] [o] 1, signal := signalOf cf, open_ := 1 }])
    (∀ n, v.checkEntry e = .status n → s.mapped a frameBytes → a % 8 = 0 →
      ∃ w t, exec (.operationList st cf o 1 .clean) s = .next t ∧ Wrote v w a (replyFrame { l with replies := [(0, replyEntry n [])] }) ∧
        t.fabric.lists = [] ∧ t.fabric.nextList = s.fabric.nextList + 1 ∧ t.stores = w.stores ∧ (∀ k, k ≠ st → t.st k = s.st k) ∧
        t.st st = { ((advances cf [7] [o] 1).foldl StationRt.advance
          (r.issued [{ kind := .opList, done := true, signal := signalOf cf }])).settled with opSince := (t.st st).opSince } ∧
        (t.inFlight < 32768 → (t.st st).opSince = none)) ∧
    (∀ dst, v.checkEntry e = .send dst → x.maySend (v.entryPacket e dst) = true →
      ∃ t op, exec (.operationList st cf o 1 .clean) s = .next t ∧ t.fabric.flights = s.fabric.flights ++ [op] ∧ op.dst = dst ∧
        op.station = st ∧ op.cmd = r.nextId ∧ (∀ x ∈ s.fabric.flights, x.tag ≠ op.tag) ∧
        op.kind = (if sameBlock s.here dst then .listEntry l.id 0 else .far l.id 0) ∧
        t.fabric.lists = [{ l with entries := [e], next := 1 }] ∧
        t.st st = { r.issued [{ kind := .opList, adv := advances cf [7] [o] 1, signal := signalOf cf, open_ := 1 }] with opSince := none } ∧
        (∀ k, k ≠ st → t.st k = s.st k) ∧ t.stores = v.stores) ∧
    (v.checkEntry e = .rankRange → ∃ w t, exec (.operationList st cf o 1 .clean) s = .next t ∧
      w = { v with fabric := { v.fabric with lists := [{ l with entries := [e] }], nextList := s.fabric.nextList + 1 }, cells := x.cells } ∧
      CourseFails w t 0x17 st)
/-! ### Parameter updates (R239, R244 to R249) -/

/-- UPD_STEP issues while fewer than two of its station are outstanding, and its frames are those of its set row (R241, R244, R246);
with two it waits. -/
def Sys2Proof.Parts.UpdateIssues : Prop :=
  ∀ (s : State) (st : Nat) (cf : Common) (row set : Nat), Ready s st cf (· == .update) →
    let r := (s.st st).entered cf
    let x := setOf (s.row set)
    (r.upd.length < 2 → ∃ t, exec (.updStep st cf row set) s = .next t ∧
      Moves s t st { r.issued [{ kind := .upd, signal := signalOf cf, open_ := 1 }] with
        upd := r.upd ++ [{ id := r.nextId, row := row, set := set, todo := (List.range x.frames).map (x.first + ·), step := r.stepNo
                           objects := x.objects }] } []) ∧
    (2 ≤ r.upd.length → ∃ t, exec (.updStep st cf row set) s = .next t ∧ Moves s t st r [])

/-- UPD_FRAME (R239, R245, R247, R249): with every source frame verified, the frames of P and of the moments are written at their
destinations, the frame is done, and the engine counts it and its elements. A source frame that does not verify is read once more by
the next UPD_FRAME of that index; the same one failing again stops the station with event 0x13 and a drain with DR_REFORM, and the
UPD_STEP is gone (R58). The model's own readings here: logs 49, 52. -/
def Sys2Proof.Parts.UpdateFrames : Prop :=
  ∀ (s v : State) (engine st f : Nat) (c : UpdCmd) (path : ReadPath), s.updTarget st engine f = some c → s.stores.mem.wf = true →
    let x := setOf (s.row c.set)
    let addr (o : Slot × List Byte) := s.frameAddr o.1.dst f
    (∀ (fs : List (List Byte)) (rows cols : Nat), s.readSlots st f c x.used path [] = (v, some fs) →
      sharedShape ((List.zip x.used fs).map fun p => slotFrame p.1 p.2 f) = some (rows, cols) → fitsSlots x rows cols = true →
      let outs := updFrames (coefOf (s.row c.row)) x fs rows cols f st c.step.toNat s.seed
      (∀ o ∈ outs, s.mapped (addr o) 4256 ∧ addr o % 8 = 0 ∧ o.2.length = 4256) →
      outs.Pairwise (fun o p => addr o + 4256 ≤ addr p ∨ addr p + 4256 ≤ addr o) →
      ∃ t, exec (.updFrame engine st f path) s = .next t ∧ (∀ o ∈ outs, t.stores.mem.raw (addr o) 4256 = o.2) ∧
        (∀ a, (∀ o ∈ outs, a < addr o ∨ addr o + 4256 ≤ a) → t.stores.mem.byte a = s.stores.mem.byte a) ∧
        t.st st = { v.st st with upd := (v.st st).upd.map fun d => if d.id = c.id then { d with todo := d.todo.filter (· != f) } else d } ∧
        (∀ k, k ≠ st → t.st k = v.st k) ∧ lookD t.wrap (oMem engine 0x300) 0 = lookD v.wrap (oMem engine 0x300) 0 + 1 ∧
        lookD t.wrap (oMem engine 0x308) 0 = lookD v.wrap (oMem engine 0x308) 0 + BitVec.ofNat 64 (rows * cols) ∧
        Frame [.stores, .mem, .cells, .wrap] v t) ∧
    (s.readSlots st f c x.used path [] = (v, none) → (f, (v.st st).crcFrame.1) ∉ c.retry →
      exec (.updFrame engine st f path) s = .next (v.withUpd st c.id fun d => { d with retry := d.retry ++ [(f, (v.st st).crcFrame.1)] })) ∧
    (s.readSlots st f c x.used path [] = (v, none) → (f, (v.st st).crcFrame.1) ∈ c.retry → s.dev.bound = true →
      ∃ t, exec (.updFrame engine st f path) s = .next t ∧ (t.st st).stopped = true ∧ (∀ d ∈ (t.st st).upd, d.id ≠ c.id) ∧
        (∃ k e, look t.card.ledger k = some e ∧ e.code = 0x13 ∧ e.pt = s.pt) ∧
        (s.dev.mode.running = true → t.dev.mode = .drain ∧ t.dev.has drReform = true))

/-- The second read of a source frame of an update verifies (R58, R245): the transient is recorded as event 0x12 with one point, and
the command has no read of it to repeat. -/
def Sys2Proof.Parts.UpdateTransients : Prop :=
  ∀ (s v : State) (st f : Nat) (c : UpdCmd) (x : Slot) (b : List Byte) (path : ReadPath), (f, s.frameAddr x.src f) ∈ c.retry →
    s.readSlot st (s.frameAddr x.src f) path = { state := v, frame := some b } →
    v.nvm.level.toNat + 256 < v.bucket.high.toNat * 256 → v.bucket.high.toNat ≤ 64 →
    ∃ w, s.readSlots st f c [x] path [] = (w, some [b]) ∧ Recorded v w 0x12 ∧ w.nvm.level.toNat = v.nvm.level.toNat + 256 ∧
      (∀ d ∈ (w.st st).upd, d.id = c.id → (f, s.frameAddr x.src f) ∉ d.retry) ∧ Frame [.card, .sat, .nvm, .bucket, .mgmt, .cells] v w

/-- UPD_STEP completes once every frame is written, and each stack in service counts it (R246, R249). -/
def Sys2Proof.Parts.UpdateEnds : Prop :=
  ∀ (s : State) (st i : Nat) (c : UpdCmd) (o : Outst), Open s st → (s.st st).upd.find? (fun c => c.todo.isEmpty) = some c →
    (s.st st).indexOf c.id = some i → (s.st st).outstanding[i]? = some o → o.open_ ≤ 1 →
    ∃ t, exec (.updStepComplete st) s = .next t ∧
      Completed { s with wrap := t.wrap } t st { s.st st with upd := (s.st st).upd.filter (·.id != c.id) } i o ∧
      (s.serviceList.Nodup → ∀ m ∈ s.serviceList, lookD t.wrap (oMem m 0x318) 0 = lookD s.wrap (oMem m 0x318) 0 + 1)

/-- UPD_STEP, its frames and its end (R239, R244 to R249).
Completion: exec answers a next state, under conditions on the state and the operands alone, for updStep, updFrame, updStepComplete. -/
def Obligations.Updates : Prop := Parts.UpdateIssues ∧ Parts.UpdateFrames ∧ Parts.UpdateTransients ∧ Parts.UpdateEnds

/-! ### Tickets (R102, R103, R386 to R393) -/

/-- TICKET_GRANT (R386, R390): the request at the head of a pool's queue that heads each of its pools and fits them joins the tickets
held, at their end, and is counted; the arrays of a cell begin to run and its stations wait no more (R103), an engine due for a retrack
begins it (R201), and a port resumes its training (R392). A check that fails on a ballast row of the ramp-up is event 0x10 and a
transient of the cell (R104). A request that does not fit, or that is not at the head of another pool, waits.
The model's own readings here: log 120. -/
def Sys2Proof.Parts.TicketGrants : Prop :=
  ∀ (s : State) (pool : Nat) (k : Ticket), headOf s.grantable pool = some k →
    (atHeads s.grantable k = true → fits s.power k = true → s.thermal.stepActive = false →
      ∀ b, failsOf b = [] → ∃ t, exec (.ticketGrant pool b) s = .next t ∧ t.power.held = s.power.held ++ [k] ∧
        t.power.queue = s.power.queue.filter (· != k) ∧ lookD t.wrap oGrants 0 = lookD s.wrap oGrants 0 + 1 ∧
        (∀ cell, k.cls = .arrayBurst cell → t.arrayPhase cell = .running ∧ (∀ c, c ≠ cell → t.arrayPhase c = s.arrayPhase c) ∧
          (∀ st ∈ s.stationsOn cell, (t.st st).ticketSince = none) ∧ Frame [.power, .wrap, .cells] s t) ∧
        (∀ n, k.cls = .glideUser n → (∀ st ∈ (s.engine n).stations, (t.st st).ticketSince = none) ∧
          (t.engine n).state = (if (s.engine n).retrackDue && (s.engine n).state = 1 then 4 else (s.engine n).state) ∧
          Frame [.power, .wrap, .cells, .glide] s t) ∧
        (∀ n, k.cls = .glideCal n →
          (t.engine n).state = (if (s.engine n).retrackDue && (s.engine n).state = 1 then 4 else (s.engine n).state) ∧
          Frame [.power, .wrap, .glide] s t) ∧
        (∀ m j, k.cls = .stackBurst m j → Frame [.power, .wrap] s t) ∧
        (∀ n, k.cls = .link n → OnlyPort s t n { s.port n with suspendedLimit := false, since := s.pt } ∧
          Frame [.power, .wrap, .links] s t)) ∧
    (∀ cell b, k.cls = .arrayBurst cell → atHeads s.grantable k = true → fits s.power k = true → s.thermal.stepActive = false →
      failsOf b ≠ [] → ∃ t, exec (.ticketGrant pool b) s = .next t ∧ t.power.held = s.power.held ++ [k] ∧ Logged s t 0x10 ∧
        s.pt ∈ (t.pcell (s.physical cell)).transients) ∧
    (atHeads s.grantable k = false ∨ fits s.power k = false ∨ s.thermal.stepActive = true →
      ∀ b, exec (.ticketGrant pool b) s = .next s)

/-- TICKET_RECALL (R391): once the head of a pool's queue has waited 20 µs, the recallable tickets of the pool go, oldest grant first,
until the head would fit: arrays ramp down and keep theirs meanwhile, a memory controller gives its back. The recalls are counted. -/
def Sys2Proof.Parts.TicketRecalls : Prop :=
  ∀ (s : State) (pool : Nat) (h : Ticket), headOf s.grantable pool = some h →
    let waited := s.pt.toNat - (lookD s.power.headSince pool s.pt).toNat
    let p := s.power
    let mine := p.held.filter fun k => k.inPool pool && k.cls.recallable
    let fading := (mine.filter s.fading).foldl (fun n k => n + k.units pool) 0
    let gone := recallList (fun taken => decide (heldUnits p pool + h.units pool ≤ ticketable p pool + taken)) pool
      (mine.filter fun k => !s.fading k) fading
    (2000 ≤ waited → ∃ t, exec (.ticketRecall pool) s = .next t ∧
      lookD t.wrap oRecalls 0 = lookD s.wrap oRecalls 0 + BitVec.ofNat 64 gone.length ∧
      (∀ k ∈ gone, (∀ cell, k.cls = .arrayBurst cell → t.arrayPhase cell = .rampDown) ∧
        ∀ m j, k.cls = .stackBurst m j → ∀ x ∈ t.power.held, x.cls ≠ k.cls) ∧
      (∀ k ∈ p.held, (∀ x ∈ gone, (∃ m j, x.cls = .stackBurst m j) → x.cls ≠ k.cls) → k ∈ t.power.held) ∧
      (∀ cell, (∀ k ∈ gone, k.cls ≠ .arrayBurst cell) → t.arrayPhase cell = s.arrayPhase cell) ∧ Frame [.power, .cells, .wrap] s t) ∧
    (waited < 2000 → exec (.ticketRecall pool) s = .next s)

/-- STACK_BURST_RELEASE (R387): a controller whose pseudo-channels hold fewer than 8 requests each gives its ticket back; one that now
has room for a larger ticket gives its own back and asks for the larger one; without a ticket nothing happens.
The model's own readings here: log 102. -/
def Sys2Proof.Parts.StackBurstReleases : Prop :=
  ∀ (s : State) (m : Nat),
    let mine (k : Ticket) : Bool := match k.cls with
      | .stackBurst n _ => n = m
      | _ => false
    (s.power.held.find? mine = none → exec (.stackBurstRelease m) s = .next s) ∧
    ∀ (k : Ticket) (j : Nat), s.power.held.find? mine = some k → k.cls = .stackBurst m j →
      let idle := (s.stack m).channels.all fun c => decide (c.2.load < 8)
      let left := s.power.queue.filter (·.cls != .stackBurst m j)
      (idle = true → ∃ t, exec (.stackBurstRelease m) s = .next t ∧ Released s t (.stackBurst m j) ∧ Frame [.power] s t) ∧
      (idle = false → burstK s.power m ≤ j → exec (.stackBurstRelease m) s = .next s) ∧
      (idle = false → j < burstK s.power m → (∀ x ∈ s.power.queue ++ s.power.held, mine x = true → x.cls = .stackBurst m j) →
        ∃ t, exec (.stackBurstRelease m) s = .next t ∧ t.power.held = s.power.held.filter (·.cls != .stackBurst m j) ∧
          (∃ o, t.power.queue = left ++ [{ cls := .stackBurst m (burstK s.power m), claims := claimsOf (.stackBurst m (burstK s.power m))
                                           order := o }]) ∧ Frame [.power] s t)

/-- Tickets are granted, recalled and given back (R102, R103, R386 to R393).
Completion: exec answers a next state, under conditions on the state and the operands alone, for ticketGrant, ticketRecall,
stackBurstRelease. -/
def Obligations.TicketsMove : Prop := Parts.TicketGrants ∧ Parts.TicketRecalls ∧ Parts.StackBurstReleases

/-! ### Jobs (R44, R50, R67, R151, R154, R172, R219, R380, R381, R445 to R449) -/

/-- MANIFEST (R445, R447, R448): where the device may take one it is checked, its Course is admitted, and the job waits to be placed;
a malformed one, one with an admission error, one while another waits, and one that the device may not take are answered so, and no job
changes. The model's own readings here: log 71. -/
def Sys2Proof.Parts.ManifestTaken : Prop :=
  ∀ (s : State) (m : Msg), Fresh s 0x11 m →
    let may := m.route ≠ .i3c ∧ (s.dev.mode = .ready ∨ s.dev.mode = .watch) ∧ s.dev.bound = false ∧ s.fabric.table.isSome = true
    let waits := s.job.any (fun j => decide (j.phase = .admitted))
    let b := m.body
    let answered (status : Nat) (body : List Byte) : Prop :=
      ∃ t, exec (.manifest m) s = .next t ∧ t.job = s.job ∧ Answered t 0x11 m status body ∧ Frame answerParts s t
    (¬ may → answered 2 []) ∧ (may → waits = true → answered 1 []) ∧ (may → waits = false → manifestOk m.jobId b = false → answered 3 []) ∧
    (may → waits = false → manifestOk m.jobId b = true →
      (∀ e, admission (sub b 0xC0 (fld b 0x20 8)) (groupsOf b) (fld b 0x1C 1) = .error e → answered 8 (natLe 1 e)) ∧
      ∀ (c : Course) (k : SliceTable), admission (sub b 0xC0 (fld b 0x20 8)) (groupsOf b) (fld b 0x1C 1) = .ok c → s.fabric.table = some k →
        (restoresOf b).all (restoreOk c k) = true →
        ∃ t, exec (.manifest m) s = .next t ∧ Answered t 0x11 m 0 [] ∧ Frame (.job :: answerParts) s t ∧
          t.job = some { jobId := m.jobId, seed := BitVec.ofNat 64 (fld b 0x10 8), startStep := BitVec.ofNat 32 (fld b 0x18 4)
                         lodgeSp := fld b 0x1C 1, reform := bit (fld b 6 2) 0, groups := groupsOf b, restore := restoresOf b, course := c
                         replyTo := m.route, prevPlacement := s.lastPlaced.1, prevService := s.lastPlaced.2 })

/-- START of the bound job lets its stations issue, and changes nothing else of the job; of another job, of none, or by I3C it is
answered 0x02 (R445, R448). -/
def Sys2Proof.Parts.StartLetsIssue : Prop :=
  ∀ (s : State) (m : Msg), Fresh s 0x12 m →
    (∀ j, m.route ≠ .i3c → s.job = some j → s.dev.bound = true → j.jobId = m.jobId → j.phase = .bound → m.body = [] →
      ∃ t, exec (.start m) s = .next t ∧ t.job = some { j with phase := .started } ∧ Answered t 0x12 m 0 [] ∧ Frame (.job :: answerParts) s t) ∧
    ((m.route = .i3c ∨ s.dev.bound = false ∨ ∀ j, s.job = some j → j.jobId ≠ m.jobId) →
      ∃ t, exec (.start m) s = .next t ∧ Answered t 0x12 m 2 [] ∧ Frame answerParts s t)

/-- PLACEMENT_JOB_START (R17, R44, R50, R67, R151, R154, R165, R172, R219, R226, R369, R448), once no event of an earlier row waits: stacks, slices
and clusters are taken as they now are, and rotations and tests stand back; below the floor the job is refused and the device is drained, and so benched, with DR_FLOOR; else the job is placed on the capacity map as it
stands. A refusal is reported with its STATUS. A placed job is bound: its stations start afresh with the manifest's step and their own
semaphores, each engine holds its stations, its windows open, the Lodge has its share and an empty cache, the device is a member and
in RUN, or in WATCH, and the report goes. The model's own readings here: logs 33, 69, 83, 123. -/
def Sys2Proof.Parts.JobStarts : Prop :=
  ∀ (s : State) (j : Job), s.job = some j → j.phase = .admitted → (s.dev.mode = .ready ∨ s.dev.mode = .watch) → s.dev.bound = false →
    s.placerIdle = true →
    let u := s.leaveStacks.leaveSlices.dropTests.bindClusters
    (u.belowFloor = true → ∃ t, exec .placementJobStart s = .next t ∧ t.job = some { j with phase := .refused } ∧ t.dev.mode = .benched ∧
      t.nvm.benchRecord = true ∧ t.dev.bound = false ∧ Reported s t 0 u.floorStatus) ∧
    (u.belowFloor = false → ∃ t, exec .placementJobStart s = .next t ∧ t.cap.ranks = clusterSites.map (fun c => (c, u.ranks c)) ∧
      t.cap.stackSet = BitVec.ofNat 12 (maskOf u.stacksIn) ∧ t.cap.engines = BitVec.ofNat 4 (maskOf u.enginesIn) ∧ t.stores.lodgeSp = j.lodgeSp ∧
      t.stores.cache = [] ∧
      (∀ e, PlaceIn.place { course := j.course, lodgeSp := j.lodgeSp, map := t.cap } = .error e →
        t.job = some { j with phase := .refused } ∧ t.dev = s.dev ∧ Reported s t 0 e) ∧
      (∀ p, PlaceIn.place { course := j.course, lodgeSp := j.lodgeSp, map := t.cap } = .ok p →
        t.job = some { j with placement := p.pl, original := p.pl, serviceList := maskBits 12 t.cap.stackSet.toNat, phase := .bound } ∧
        t.dev.bound = true ∧ t.dev.mode = (if s.dev.mode = .ready then .run else .watch) ∧
        t.cells.stations = j.course.stations.map (fun d => (d.id, stationAt j d)) ∧ t.cells.signals = [] ∧
        (∀ n, n < 4 → (t.engine n).stations = p.pl.onEngine n) ∧
        (∀ w, w ∉ j.course.windowIds.map (·.1) → look t.windows w = none) ∧
        (∀ w, w ∈ j.course.windowIds.map (·.1) → ∃ x, look t.windows w = some x ∧ x = { station := x.station } ∧
          (w, x.station) ∈ j.course.windowIds) ∧
        t.restore = (if j.restore.isEmpty then none else some { todo := j.restore }) ∧ t.mgmt.hbLast = s.pt ∧
        (∀ o, j.course.objects = [o] → o.frames = 1 → j.reform = false → s.stores.mem.wf = true → t.frameAddr o.id 0 % 8 = 0 →
          let b := (objectFrames j.course o).getD 0 []
          t.stores.mem.raw (t.frameAddr o.id 0) b.length = b) ∧ Reported s t 0 0) ∧
      Frame [.dev, .job, .cap, .cells, .stores, .mem, .glide, .windows, .restore, .relay, .test, .card, .mgmt, .links, .fabric, .sat, .wrap]
        s t)

/-- The manifest, job start, and START (R445 to R449).
Completion: exec answers a next state, under conditions on the state and the operands alone, for manifest, placementJobStart, start. -/
def Obligations.JobStart : Prop := Parts.ManifestTaken ∧ Parts.JobStarts ∧ Parts.StartLetsIssue

/-! ### The placer at run (R161 to R166, R172, R195, R360, R363) -/

/-- PLACEMENT_CONFIRMATION (R101, R166, R360): the request that waits first takes the second cell, and a test that runs on that cell
stands aside; with no second cell the verdict is RESULT 3, the station stops, the cell is of concern, LEVEL rises to HIGH at least, and
the device is drained with DR_REFORM. Either way the report goes. The model's own readings here: logs 35, 75. -/
def Sys2Proof.Parts.ConfirmationPlaced : Prop :=
  ∀ (s : State) (st cell : Nat) (rest : List Nat) (i : Instr) (f : ArrayFail), s.cells.placeQueue = st :: rest →
    s.cells.confirmation = none → (s.st st).failed = some (i, f) → s.cellOf st = some cell →
    (∀ q, s.secondCell (cell / 16) = some q → ∃ t, exec .placementConfirmation s = .next t ∧ t.cells.placeQueue = rest ∧
      t.cells.confirmation = some { station := st, firstCell := s.physical cell, secondCell := some q, fail := f } ∧
      (∀ r, (s.cluster (q / 17)).rotation = some r →
        (t.cluster (q / 17)).rotation = some (if r.phase = .testing ∧ r.due = q % 17 then { r with phase := .suspended } else r)) ∧
      (∀ c, c ≠ q / 17 → t.cluster c = s.cluster c) ∧ t.cells.stations = s.cells.stations ∧ Reported s t 4 0 ∧
      Frame (.cells :: answerParts) s t) ∧
    (s.secondCell (cell / 16) = none → s.dev.mode.running = true → s.dev.bound = true →
      ∃ t, exec .placementConfirmation s = .next t ∧ t.cells.placeQueue = rest ∧
        t.st st = { s.st st with stopped := true, confirming := false } ∧ (∀ n, n ≠ st → t.st n = s.st n) ∧ t.cells.verdict = 3 ∧
        t.cells.verdictFirst = s.physical cell ∧ Logged s t 0x11 ∧ t.dev.mode = .drain ∧ t.dev.reasons = BitVec.ofNat 8 (2 ^ drReform) ∧
        t.nvm.level.toNat = max s.nvm.level.toNat (s.bucket.high.toNat * 256) ∧ (t.pcell (s.physical cell)).concern = true ∧
        (t.pcell (s.physical cell)).testDue = true ∧ Reported s t 4 0)

/-- CONFIRMATION_COMPLETE (R360, R363): the verdict is 1, and the drain is with DR_SILENT, where the second cell passes; it is 2, with
event 0x10 on the second cell, LEVEL raised to HIGH at least and a drain with DR_REFORM, where it fails. The station stops, and a test
that stood aside is taken up again. -/
def Sys2Proof.Parts.ConfirmationEnds : Prop :=
  ∀ (s : State) (k : Confirmation) (q : Nat) (run : ConfirmRun) (check : ArrayFail), s.cells.confirmation = some k →
    k.secondCell = some q → s.dev.mode.running = true → s.dev.bound = true →
    ∃ t, exec (.confirmationComplete run check) s = .next t ∧ t.cells.confirmation = none ∧
      t.st k.station = { s.st k.station with stopped := true, confirming := false } ∧ (∀ n, n ≠ k.station → t.st n = s.st n) ∧
      t.cells.verdict = (if run = .passes then 1 else 2) ∧ t.cells.verdictFirst = k.firstCell ∧ t.cells.verdictSecond = q ∧
      Logged s t 0x11 ∧ t.dev.mode = .drain ∧ t.dev.reasons = BitVec.ofNat 8 (2 ^ (if run = .passes then drSilent else drReform)) ∧
      t.nvm.level.toNat = (if run = .passes then s.nvm.level.toNat else max s.nvm.level.toNat (s.bucket.high.toNat * 256)) ∧
      (run ≠ .passes → Logged s t 0x10) ∧
      ∀ r, (s.cluster (q / 17)).rotation = some r →
        (t.cluster (q / 17)).rotation = some (if r.phase = .suspended ∧ r.due = q % 17 then { r with phase := .testing } else r)

/-- A station moves to its host cell (R163): its place is the cell, which reloads W from the object of the last GL_LOAD, as that now
reads, and its GL_RUN commands that no passed window guards run again there with that W, on their inputs; other commands stay as they
are. Without a GL_LOAD nothing is read. A frame that does not verify is a tile-integrity fault: event 0x13 and a drain with DR_REFORM. -/
def Sys2Proof.Parts.ToHostCell : Prop :=
  ∀ (s : State) (st : Nat), s.job.isSome = true →
    let p := s.paramsOf st
    let again (g : GlideW) (h : HeldRun) : HeldRun :=
      if h.engine.isSome && !h.windowPassed then
        { h with engine := none, issued := false, slots := 0, drive := [], ys := (xRows h.xframe p).map (cellVector g p.rows) } else h
    let moved (v : State) : Prop := (v.placeOf st).place = 0 ∧ (v.placeOf st).unit = 0xFF ∧ (v.placeOf st).cell = (s.placeOf st).cell ∧
      (∀ n, n ≠ st → v.placeOf n = s.placeOf n ∧ v.st n = s.st n)
    (∀ g, (s.st st).glLoad = none → (s.st st).glW = some g →
      moved (s.toHost st) ∧ (s.toHost st).st st = { s.st st with held := (s.st st).held.map (again g) } ∧
      Frame [.job, .cells] s (s.toHost st)) ∧
    (∀ (w map : Nat) (ws : List (List Byte)) (fm : Fmt) (u v : State), (s.st st).glLoad = some (w, map) → u = s.replace st hostPlace →
      u.readFrames st (u.objectAddrs w (tiles64 p.rows * tiles64 p.cols)) .clean = (v, some ws) → ws ≠ [] → (∀ f ∈ ws, wFmt f = some fm) →
      let g := decodeW fm ws p.rows p.cols (((s.st st).glW.map (·.rmax)).getD 0)
      moved (s.toHost st) ∧ (s.toHost st).st st = { s.st st with glW := some g, held := (s.st st).held.map (again g) } ∧
      Frame [.cells] v (s.toHost st)) ∧
    (∀ (w map : Nat) (u v : State), (s.st st).glLoad = some (w, map) → u = s.replace st hostPlace →
      u.readFrames st (u.objectAddrs w (tiles64 p.rows * tiles64 p.cols)) .clean = (v, none) → s.dev.bound = true →
      s.dev.mode.running = true → (s.toHost st).dev.mode = .drain ∧ (s.toHost st).dev.has drReform = true ∧ Logged s (s.toHost st) 0x13)

/-- PLACEMENT_GLIDE_LEAVE (R163, R195, R387): the stations of the engine that leaves move to their host cells; the engine begins its
recalibration or retrack, its user ticket becomes that one's, or that one's is asked for, and the report goes. The model's own readings
here: log 57. -/
def Sys2Proof.Parts.EngineLeaves : Prop :=
  ∀ (s : State) (n : Nat) (rest : List Nat), s.glide.leaving = n :: rest → s.placerFree = true → (s.engine n).state = 2 →
    let sts := (s.engine n).stations
    let u := sts.foldl State.toHost { s with glide := { s.glide with leaving := rest } }
    ∃ t, exec (.placementGlideLeave n) s = .next t ∧ t.cells = u.cells ∧ t.job = u.job ∧ t.glide.leaving = u.glide.leaving ∧
      t.glide.returning = u.glide.returning ∧ t.glide.barred = u.glide.barred ∧
      OnlyEngine u t n { u.engine n with stations := [], moved := (u.engine n).moved ++ sts, slots := [], applied := none
                                         state := if (u.engine n).fullRecal then 3 else 4 } ∧
      (u.holds (.glideUser n) = true → t.power.queue = u.power.queue ∧
        t.power.held = u.power.held.map fun k => if k.cls = .glideUser n then { k with cls := .glideCal n } else k) ∧
      (u.holds (.glideUser n) = false → u.calTicket n = false → Asked u t (.glideCal n)) ∧
      (u.job.isSome = true → u.dev.bound = true → Reported u t 2 0) ∧ Frame ([.glide, .power] ++ answerParts) u t

/-- PLACEMENT_GLIDE_RETURN (R161, R164 to R166): once the capacity map lists the engine, stations that were moved and that it accepts
return to it, with the phase map of their last GL_LOAD; one whose map the engine refuses then stays on its host cell until the next job
start (R179); none returns to an engine that is not in service. The model's own readings here: logs 34, 72. -/
def Sys2Proof.Parts.EngineReturns : Prop :=
  ∀ (s : State) (n : Nat) (rest : List Nat), s.glide.returning = n :: rest → s.placerFree = true → s.glide.leaving = [] →
    ((s.engine n).state ≠ 1 ∨ s.dev.bound = false →
      exec (.placementGlideReturn n) s = .next { s with glide := { s.glide with returning := rest } }) ∧
    ((s.engine n).state = 1 → s.dev.bound = true → s.cap.engines.getLsbD n = false → exec (.placementGlideReturn n) s = .next s) ∧
    ((s.engine n).state = 1 → s.dev.bound = true → s.cap.engines.getLsbD n = true → s.movedStations = [] → s.job.isSome = true →
      ∃ t, exec (.placementGlideReturn n) s = .next t ∧ t.glide = { s.glide with returning := rest } ∧ Reported s t 3 0 ∧
        Frame (.glide :: answerParts) s t) ∧
    (∀ st, (s.engine n).state = 1 → s.dev.bound = true → s.cap.engines.getLsbD n = true → s.movedStations = [st] → s.job.isSome = true →
      (s.st st).glLoad = none →
      let x : PlaceIn := { course := s.course, lodgeSp := 0, map := s.cap }
      let k := s.paramsOf st
      let may := x.engineRoom s.enginesTaken n k && decide (k.enobFloor ≤ x.predEnob n k)
      ∃ t, exec (.placementGlideReturn n) s = .next t ∧ t.glide.returning = rest ∧ Reported s t 3 0 ∧
        (may = true → (t.engine n).stations = (s.engine n).stations ++ [st] ∧ (t.placeOf st).place = 1 ∧ (t.placeOf st).unit = n ∧
          ∀ e ∈ t.glide.engines, ∃ d ∈ s.glide.engines, d.1 = e.1 ∧ e.2.moved = d.2.moved.erase st) ∧
        (may = false → t.job = s.job ∧ t.glide = { s.glide with returning := rest }) ∧ Frame ([.glide, .job] ++ answerParts) s t) ∧
    (∀ (st w map : Nat) (ws ms : List (List Byte)) (fm : Fmt) (v v' : State), (s.engine n).state = 1 → s.dev.bound = true →
      s.cap.engines.getLsbD n = true → s.movedStations = [st] → s.job.isSome = true → (s.st st).glLoad = some (w, map) →
      let x : PlaceIn := { course := s.course, lodgeSp := 0, map := s.cap }
      let k := s.paramsOf st
      let u : State := { s with glide := { s.glide with returning := rest } }
      (x.engineRoom s.enginesTaken n k && decide (k.enobFloor ≤ x.predEnob n k)) = true →
      u.readFrames st (s.objectAddrs w (tiles64 k.rows * tiles64 k.cols)) .clean = (v, some ws) →
      v.readFrames st (s.objectAddrs map 65) .clean = (v', some ms) → wFmt (ws.headD []) = some fm →
      ∃ t, exec (.placementGlideReturn n) s = .next t ∧
        (mapCause ms ws k.rows k.cols = 0 → (t.engine n).stations = (s.engine n).stations ++ [st] ∧ (t.placeOf st).place = 1 ∧
          (t.placeOf st).unit = n ∧ (∃ m ∈ (t.engine n).slots, m.station = st ∧ m.map = phaseMap (mapBytes ms)) ∧
          (t.st st).glW = some (decodeW fm ws k.rows k.cols (((mapRmax (mapBytes ms)).finite).getD 0))) ∧
        (mapCause ms ws k.rows k.cols ≠ 0 → st ∈ t.glide.barred ∧ (t.engine n).lastLeave = 8 ∧ (t.placeOf st).place = 0))

/-- The placer's events at run (R161 to R166, R172, R360).
Completion: exec answers a next state, under conditions on the state and the operands alone, for placementConfirmation,
placementGlideLeave, placementGlideReturn, confirmationComplete. -/
def Obligations.PlacerEvents : Prop :=
  Parts.ConfirmationPlaced ∧ Parts.ConfirmationEnds ∧ Parts.ToHostCell ∧ Parts.EngineLeaves ∧ Parts.EngineReturns

/-! ### Rotation and cell tests (R165, R168 to R172, R365 to R367, R372, R425, R428, R433) -/

/-- ROTATION_DUE (R165, R168, R169, R366): for a member in RUN or WATCH, a cluster that has a spare and whose turn has come, or is queued,
rotates its due slot, which waits for its boundary; no slot of the cluster is older by R168. While another event of the placer is before
it, it is queued once. Without a spare, or with no turn and not queued, it is not queued and nothing else happens. A rotation that waits
to be retried is taken up after 1 s. The model's own readings here: log 76. -/
def Sys2Proof.Parts.RotationsBegin : Prop :=
  ∀ (s : State) (c : Nat), s.dev.bound = true → (s.dev.mode = .run ∨ s.dev.mode = .watch) → c < 128 →
    let k := s.cluster c
    let others := s.cells.dueQueue.filter (· != c)
    let first : Prop := s.placerIdle = true ∧ ∀ x, s.cells.dueQueue.head? = some x → x = c
    (k.rotation = none → k.spare.isSome = true → c ∈ s.cells.dueQueue ∨ s.turnOf c = true →
      (∀ d, first → s.dueSlot c k.slots = some d → d ∈ k.slots ∧ (∀ i ∈ k.slots, s.older c i d = false) ∧
        ∃ t, exec (.rotationDue c) s = .next t ∧
          OnlyCluster s t c { k with rotation := some { due := d, phase := .waiting, since := s.pt }, lastDue := some s.pt } ∧
          t = { s with cells := { s.cells with clusters := t.cells.clusters, dueQueue := others } }) ∧
      (¬ first → c ∈ s.cells.dueQueue → exec (.rotationDue c) s = .next s) ∧
      (¬ first → c ∉ s.cells.dueQueue → ∃ t, exec (.rotationDue c) s = .next t ∧ OnlyCluster s t c { k with lastDue := some s.pt } ∧
        t = { s with cells := { s.cells with clusters := t.cells.clusters, dueQueue := s.cells.dueQueue ++ [c] } })) ∧
    (k.rotation = none → k.spare = none ∨ (c ∉ s.cells.dueQueue ∧ s.turnOf c = false) →
      exec (.rotationDue c) s = .next { s with cells := { s.cells with dueQueue := others } }) ∧
    (∀ r, k.rotation = some r → r.phase = .retrying → 100000000 ≤ s.pt.toNat - r.since.toNat →
      ∃ t, exec (.rotationDue c) s = .next t ∧ OnlyCluster s t c { k with rotation := some { r with phase := .waiting, since := s.pt } } ∧
        t = { s with cells := { s.cells with clusters := t.cells.clusters } })

/-- ROTATION_BOUNDARY answers a next state (R169): once every context of the due cell is at a boundary, with no GL_RUN of it outstanding on
an engine and no shadow recomputation waiting for it, its arrays give their ticket up and the copy begins; before, nothing happens. -/
def Sys2Proof.Parts.RotationBoundaries : Prop :=
  ∀ (s : State) (c cell : Nat) (r : Rotation), (s.cluster c).rotation = some r → r.phase = .waiting → s.cellAt c r.due = some cell →
    let quiet := (s.cells.stations.all fun p => s.cellOf p.1 != some cell || p.2.atBoundary) && !s.shadowWaits cell
    (quiet = true → ∃ t, exec (.rotationBoundary c) s = .next t ∧
      OnlyCluster s t c { s.cluster c with rotation := some { r with phase := .copying } } ∧
      Released s t (.arrayBurst cell) ∧ t.arrayPhase cell = .idle ∧ (∀ x, x ≠ cell → t.arrayPhase x = s.arrayPhase x) ∧
      t.cells.stations = s.cells.stations ∧ Frame [.cells, .power] s t) ∧
    (quiet = false → exec (.rotationBoundary c) s = .next s)

/-- ROTATION_TIMEOUT answers a next state (R169, R172): a boundary that has not come for 1 ms is waited for again later, eight times at most;
the rotation is then given up and the report goes. -/
def Sys2Proof.Parts.RotationTimeouts : Prop :=
  ∀ (s : State) (c : Nat) (r : Rotation), (s.cluster c).rotation = some r → r.phase = .waiting →
    let k := s.cluster c
    (100000 ≤ s.pt.toNat - r.since.toNat → r.retries < 8 → ∃ t, exec (.rotationTimeout c) s = .next t ∧
      OnlyCluster s t c { k with rotation := some { r with phase := .retrying, retries := r.retries + 1 } } ∧
      t = { s with cells := { s.cells with clusters := t.cells.clusters } }) ∧
    (100000 ≤ s.pt.toNat - r.since.toNat → 8 ≤ r.retries → ∃ t, exec (.rotationTimeout c) s = .next t ∧
      OnlyCluster s t c { k with rotation := none } ∧ t.cells = { s.cells with clusters := t.cells.clusters } ∧
      (s.dev.bound = true → s.job.isSome = true → Reported s t 1 0) ∧ Frame (.cells :: answerParts) s t) ∧
    (s.pt.toNat - r.since.toNat < 100000 → exec (.rotationTimeout c) s = .next s)

/-- The copy of a scratchpad (R170): each granule of the cell is written as its read with Z72 correction gave it; one that is uncorrectable
is written poisoned; no other byte changes. -/
def Sys2Proof.Parts.CellCopied : Prop :=
  ∀ (s : State) (cell : Nat), s.stores.mem.wf = true →
    let a := scratchBase + cell * 2 ^ 21
    let m := s.stores.mem
    let n := (s.copyCell cell).stores.mem
    (∀ g, a / 8 ≤ g → g < a / 8 + 2 ^ 18 →
      (∀ b, (m.readGranules g 1).1 = [.corrected b] → n.readGranules g 1 = ([.clean], (m.readGranules g 1).2)) ∧
      (∀ z, (m.readGranules g 1).1 = [.uncorrectable z] → (n.readGranules g 1).1.all (·.bad) = true ∧ n.raw (8 * g) 8 = m.raw (8 * g) 8) ∧
      ((m.readGranules g 1).1 = [.clean] → n.readGranules g 1 = m.readGranules g 1)) ∧
    (∀ x, x < a ∨ a + 2 ^ 21 ≤ x → n.byte x = m.byte x)

/-- ROTATION_COPY_COMPLETE answers a next state (R169, R170, R172), with no station on a host cell that could return to an engine: the
scratchpad is copied, the rank is bound to the spare, the freed slot is under test, and the report goes; after a write fault at the spare
the rank stays and the spare is under test. -/
def Sys2Proof.Parts.CopyEnds : Prop :=
  ∀ (s : State) (c sp : Nat) (r : Rotation), (s.cluster c).rotation = some r → r.phase = .copying → (s.cluster c).spare = some sp →
    s.movedStations = [] →
    let k := s.cluster c
    (∀ cell, s.cellAt c r.due = some cell → ∃ t, exec (.rotationCopyComplete c false) s = .next t ∧
      OnlyCluster s t c { k with slots := k.slots.map fun i => if i = r.due then sp else i
                                 spare := none, rotation := some { r with phase := .testing } } ∧
      t.stores = (s.copyCell cell).stores ∧
      (s.dev.bound = true → s.job.isSome = true → Reported s t 1 0) ∧ Frame (.cells :: answerParts) (s.copyCell cell) t) ∧
    (∃ t, exec (.rotationCopyComplete c true) s = .next t ∧
      OnlyCluster s t c { k with rotation := some { r with due := sp, phase := .testing, inPlace := true } } ∧
      (s.dev.bound = true → s.job.isSome = true → Reported s t 1 0) ∧ Frame (.cells :: answerParts) s t)

/-- ROTATION_DUE, ROTATION_BOUNDARY, ROTATION_TIMEOUT and ROTATION_COPY_COMPLETE (R165, R168 to R172): rotations fall due, wait, are retried,
and copy.
Completion: exec answers a next state, under conditions on the state and the operands alone, for rotationDue, rotationBoundary,
rotationTimeout, rotationCopyComplete. -/
def Obligations.Rotations : Prop :=
  Parts.RotationsBegin ∧ Parts.RotationBoundaries ∧ Parts.RotationTimeouts ∧ Parts.CellCopied ∧ Parts.CopyEnds

/-- CELL_TEST_COMPLETE (R170, R171, R365, R367, R428): the cell under test has its result recorded as event 0x15 and its time kept, and
is no cell of concern; where it passes it is the spare again, unless it was tested where it serves, and the full field test has it no
more; where it fails it is marked faulty, with a spare-map entry and event 0x1A, and is no spare. -/
def Sys2Proof.Parts.CellTestEnds : Prop :=
  ∀ (s : State) (p : Nat) (fails : List SelfTestFail) (bad : List Nat) (r : Rotation), (s.cluster (p / 17)).rotation = some r →
    r.phase = .testing → r.due = p % 17 →
    let k := s.cluster (p / 17)
    let ok := fails.all (·.repaired) && bad.isEmpty
    ∃ t, exec (.cellTestComplete p fails bad) s = .next t ∧ Logged s t 0x15 ∧ (t.cluster (p / 17)).rotation = none ∧
      (t.pcell p).tested = some (s.nvm.bootCount.toNat, s.pt.toNat) ∧ (t.pcell p).concern = false ∧ (t.pcell p).testDue = false ∧
      (t.pcell p).faulty = ((s.pcell p).faulty || !ok) ∧ (∀ q, q ≠ p → t.pcell q = s.pcell q) ∧
      (ok = true → t.cluster (p / 17) = { k with rotation := none, spare := if r.inPlace then k.spare else some (p % 17) } ∧
        (∀ l, s.cells.fullTest = some l → let rest := l.filter fun q => decide (q ≠ p) && !(s.pcell q).faulty
          t.cells.fullTest = (if rest.isEmpty then none else some rest) ∧ (rest = [] → t.cells.fullTestPassed = true)) ∧ t.dev = s.dev) ∧
      (ok = false → s.dev.bound = true →
        t.cluster (p / 17) = { k with rotation := none, spare := if k.spare = some (p % 17) then none else k.spare } ∧ Logged s t 0x1A ∧
        ∃ e ∈ t.nvm.spareMap, e.kind = 5 ∧ e.unit = p)

/-- IN_PLACE_TEST_DUE (R168, R171): without a job, in READY or WATCH, the good slot of a cluster that is due is tested where it is.
FULL_TEST (R171): in READY, RUN and WATCH a full field test starts over every cell not marked faulty, and counts. -/
def Sys2Proof.Parts.TestsBegin : Prop :=
  ∀ s : State,
    (∀ c d, s.dev.bound = false → (s.dev.mode = .ready ∨ s.dev.mode = .watch) → c < 128 → (s.cluster c).rotation = none →
      s.inPlaceDue c = true → s.dueSlot c (s.goodSlots c) = some d →
      ∃ t, exec (.inPlaceTestDue c) s = .next t ∧
        OnlyCluster s t c { s.cluster c with
          rotation := some { due := d, phase := .testing, inPlace := true, since := s.pt }, lastDue := some s.pt } ∧
        t = { s with cells := { s.cells with clusters := t.cells.clusters } }) ∧
    (s.dev.mode.running = true → exec .fullTest s = .next { s with
      bucket := { s.bucket with fullTests := BitVec.ofNat 8 (min 255 (s.bucket.fullTests.toNat + 1)), testDue := false }
      cells := { s.cells with fullTest := some s.untested, fullTestPassed := false, fullTestLast := some s.pt } }) ∧
    (s.dev.mode.running = false → exec .fullTest s = .next s)

/-- Cells are tested (R168, R170, R171, R365, R367).
Completion: exec answers a next state, under conditions on the state and the operands alone, for cellTestComplete, inPlaceTestDue,
fullTest. -/
def Obligations.CellTests : Prop := Parts.CellTestEnds ∧ Parts.TestsBegin

/-! ### The bucket and WATCH (R32, R37, R363 to R365, R375) -/

/-- BUCKET_LEAK (R364, R365): LEVEL falls by 1/256 point when that much of LEAK_H has passed, not below zero; the time below LOW runs
from where LEVEL came below it. Before, nothing happens. -/
def Sys2Proof.Parts.BucketLeaks : Prop :=
  ∀ s : State, s.dev.mode ≠ .off →
    let due := s.bucket.leakH.toNat * 360000000000 / 256
    let passed := s.pt.toNat - s.bucket.leakSince.toNat
    (passed < due → exec .bucketLeak s = .next s) ∧
    (due ≤ passed → ∃ t, exec .bucketLeak s = .next t ∧ t.nvm = { s.nvm with level := BitVec.ofNat 16 (s.nvm.level.toNat - 1) } ∧
      t.bucket.leakSince = s.bucket.leakSince + BitVec.ofNat 64 due ∧
      (s.nvm.level ≠ 0 → t.bucket.belowLowSince = (if s.nvm.level.toNat - 1 < s.bucket.low.toNat * 256 then
        (if s.bucket.belowLowSince.isSome then s.bucket.belowLowSince else some s.pt) else none)) ∧
      (∀ b : Bucket, b = t.bucket → { b with leakSince := s.bucket.leakSince, belowLowSince := s.bucket.belowLowSince } = s.bucket) ∧
      Frame [.nvm, .bucket] s t)

/-- WATCH_RELEASE (R37, R365): with the full field test passed and LEVEL below LOW for RELEASE_H, WATCH is left for RUN by a member and
for READY by another, and its record is erased; without either, it stays. -/
def Sys2Proof.Parts.WatchReleases : Prop :=
  ∀ s : State, s.dev.mode = .watch →
    let ok := s.cells.fullTestPassed = true ∧ ∃ x, s.bucket.belowLowSince = some x ∧
      s.bucket.releaseH.toNat * 360000000000 ≤ s.pt.toNat - x.toNat
    (ok → ∃ t, exec .watchRelease s = .next t ∧ t.dev = { s.dev with mode := if s.dev.bound then .run else .ready, prev := .watch } ∧
      t.nvm = { s.nvm with watchRecord := false } ∧ Frame [.dev, .nvm, .mgmt] s t) ∧
    (¬ ok → exec .watchRelease s = .next s)

/-- LEVEL leaks, WATCH is left, and SUSPECT raises LEVEL (R32, R37, R363 to R365, R375).
Completion: exec answers a next state, under conditions on the state and the operands alone, for bucketLeak, watchRelease, suspect. -/
def Obligations.BucketAndWatch : Prop := Parts.BucketLeaks ∧ Parts.WatchReleases ∧ Parts.SuspectRaises

/-- HEARTBEAT (R376, R450): a member sends one, MGT_STATE first in its body, when HB_MS have passed since the last; before, and without
membership, nothing happens. -/
def Sys2Proof.Parts.HeartbeatGoes : Prop :=
  ∀ s : State, let passed := s.pt.toNat - s.mgmt.hbLast.toNat
    (s.dev.bound = true → s.job.isSome = true → s.mgmt.hbMs.toNat * 100000 ≤ passed →
      ∃ t, exec .heartbeat s = .next t ∧ t.mgmt.hbLast = s.pt ∧
        (∃ c ∈ t.mgmt.sent, c.mtype = 0x40 ∧ c.resp = false ∧ c.sentPt = s.pt ∧ c.body.take 8 = natLe 8 s.mgtState.toNat) ∧
        Frame answerParts s t) ∧
    (s.dev.bound = false ∨ passed < s.mgmt.hbMs.toNat * 100000 → exec .heartbeat s = .next s)

/-- The messages that the device sends and waits for by the clock (R442, R443, R445, R450).
Completion: exec answers a next state, under conditions on the state and the operands alone, for heartbeat, telemetry, messageResponse,
messageResendTimeout, partialMessageTimeout. -/
def Obligations.MessagesInTime : Prop := Parts.MessageTimers ∧ Parts.TelemetryGoes ∧ Parts.HeartbeatGoes

/-! ### The stacks' controllers and the Lodge (R120, R121, R205, R211 to R236, R387, R389) -/

/-- STACK_REQUEST (R203, R211, R213, R387): a request of one part joins its queue at the tail, with the next number of acceptance and with
its lines as every request accepted before it leaves them, and a controller with a pseudo-channel that holds 8 bulk and update requests
asks for its ticket. A write's bytes and an atomic's result are in place for whatever is accepted after it. Where a queue has no room for
a request's parts, nothing happens; else every part in the stacks is accepted. A part that is in no stack is an address error, or an
access error in the management window, and a read of it returns zeros. The model's own readings here: logs 26, 84. -/
def Sys2Proof.Parts.RequestsQueue : Prop :=
  ∀ (s : State) (r : MemReq), r.len ≠ 0 →
    (s.roomFor (partsOf r) = false → exec (.stackRequest r) s = .next s) ∧
    (s.roomFor (partsOf r) = true → ∃ t, exec (.stackRequest r) s = .next t ∧ ∀ m, (t.stack m).accepted =
      (s.stack m).accepted + ((partsOf r).filter fun p => (s.stackLoc p.addr).any fun l => l.stack = m).length) ∧
    (∀ (q : MemReq) (l : StackLoc), partsOf r = [q] → s.stackLoc q.addr = some l → s.roomFor [q] = true → s.stores.mem.wf = true →
      let k := s.stack l.stack
      let c := s.channel l.stack l.pc
      let e := s.queued q k.accepted
      let ask := TicketClass.stackBurst l.stack (burstK s.power l.stack)
      e.order = k.accepted ∧ e.req = q ∧
      ∃ w t, exec (.stackRequest r) s = .next t ∧
        OnlyStack s w l.stack { k with
          accepted := k.accepted + 1
          channels := put k.channels l.pc (c.withQueue (queueOf q) (· ++ [e])) } ∧ Frame [.stores, .power, .wrap] s w ∧
        w.power.held = s.power.held ∧ (w.power.queue = s.power.queue ∨ ∃ o, w.power.queue = s.power.queue ++
          [{ cls := ask, claims := claimsOf ask, order := o }]) ∧
        ((∃ x ∈ (w.stack l.stack).channels, 8 ≤ x.2.load) → 0 < burstK s.power l.stack →
          ∃ x ∈ w.power.queue ++ w.power.held, ∃ j, x.cls = .stackBurst l.stack j) ∧
        (q.kind = .read → t = w) ∧
        (q.kind = .write → q.addr % 8 = 0 → q.data.length % 8 = 0 → Wrote w t q.addr q.data) ∧
        (∀ fn wide, q.kind = .atomic fn wide →
          let n := if wide then 8 else 4
          ((∀ x ∈ e.reads, x.2.1.bad = false) → t.stores.mem.raw q.addr n =
            natLe n (atomicFn fn wide (leNat (e.got n)) (fld q.data 0 n) (fld q.data n n))) ∧
          ((∃ x ∈ e.reads, x.2.1.bad = true) → t = w))) ∧
    (∀ q, partsOf r = [q] → s.stackLoc q.addr = none → ∃ t, exec (.stackRequest r) s = .next t ∧
      t.stores = (if q.kind = .read then
        { s.stores with replies := s.stores.replies ++ [(q.id, List.replicate q.len 0, !inWindow q.addr)] } else s.stores) ∧
      (inWindow q.addr = false → Recorded s t 0x22) ∧
      (inWindow q.addr = true → lookD t.sat oAccessErr 0 = (satAdd (lookD s.sat oAccessErr 0) 1).1) ∧
      Frame [.stores, .card, .sat, .mgmt] s t)

/-- PSEUDO_CHANNEL_COMMAND (R207, R212, R213, R215, R217, R233, R389): what waits has waited one CK_M more, and the maintenance queue
takes up what it has room for. A refresh closes its bank's open row; at the command rate nothing is served; else what the scheduler
chooses leaves its queue: a request opens its row and a read or an atomic returns what it found, poisoned where a granule is
uncorrectable; a write-back, a scrub read or a row test is begun. A partial write counts as two commands. -/
def Sys2Proof.Parts.ChannelServes : Prop :=
  ∀ (s : State) (m pc : Nat),
    let c := s.aged m pc
    let c0 := s.channel m pc
    let age (l : List QReq) : List QReq := l.map fun e => { e with waited := e.waited + 1 }
    let noted (k : PseudoChannel) (n : Nat) : PseudoChannel := { k with recent := (n :: k.recent).take 15 }
    let only (t : State) (k : PseudoChannel) : Prop := OnlyStack s t m { s.stack m with channels := put (s.stack m).channels pc k }
    let pick := c.choose (fun b => c.heldBank = some b) s.stackLoc
    (c.bulkRd = age c0.bulkRd ∧ c.bulkWr = age c0.bulkWr ∧ c.narrow = age c0.narrow ∧ c.update = age c0.update ∧
      c.writeDrain = c0.drainNext ∧ c.openRows = c0.openRows ∧ c.heldBank = c0.heldBank ∧ c.recent = c0.recent ∧
      (c0.maint.length ≤ 4 → c.maint.length ≤ 4) ∧
      (∀ w ∈ c0.maint, { w with waited := w.waited + 1 } ∈ c.maint) ∧
      ∀ w ∈ c.maint, (∃ x ∈ c0.maint, x.work = w.work) ∨ w.work ∈ s.maintWork m pc) ∧
    (∀ b, ∃ t, exec (.pseudoChannelCommand m pc (some b)) s = .next t ∧
      only t (noted { c with openRows := del c.openRows b } 0) ∧ Frame [.stores] s t) ∧
    (s.commandRate m ≤ c.recent.sum ∨ pick = none → ∃ t, exec (.pseudoChannelCommand m pc none) s = .next t ∧
      only t (noted c 0) ∧ Frame [.stores] s t) ∧
    (∀ (q : QueueId) (e : QReq) (l : StackLoc), c.recent.sum < s.commandRate m → pick = some (.request q e) →
      s.stackLoc e.req.addr = some l →
      let left := noted { c.withQueue q (·.filter fun x => x.order != e.order) with openRows := put c.openRows l.bank l.row }
        (if e.req.kind = .write ∧ readsOf e.req ≠ [] then 2 else 1)
      let bad : Bool := e.reads.any fun x => s.dead (.stack l) || x.2.1.bad
      ∃ t, exec (.pseudoChannelCommand m pc none) s = .next t ∧ t.channel m pc = left ∧ t.stores.mem = s.stores.mem ∧
        t.stores.cache = s.stores.cache ∧ (e.req.kind = .write → t.stores.replies = s.stores.replies) ∧
        ((∀ f ∈ s.stores.fills, f.req = e.req.id → f.returned = true) →
          (e.req.kind = .read → t.stores.replies = s.stores.replies ++ [(e.req.id, e.got e.req.len, bad)]) ∧
          ∀ fn wide, e.req.kind = .atomic fn wide →
            let n := if wide then 8 else 4
            t.stores.replies = s.stores.replies ++ [(e.req.id, if bad then List.replicate n 0 else e.got n, bad)])) ∧
    (∀ w : MaintReq, c.recent.sum < s.commandRate m → pick = some (.maint w) →
      let left := noted { c with maint := c.maint.erase w } 1
      ∃ t, exec (.pseudoChannelCommand m pc none) s = .next t ∧
        (∀ line, w.work = .writeBack line → t.channel m pc = left.openRow (s.maintRow w.work) ∧ line ∉ t.stores.stackFix) ∧
        (∀ u, w.work = .scrub u → t.channel m pc = left.openRow (s.maintRow w.work) ∧ t.stores.mem = s.stores.mem) ∧
        ∀ bank row, w.work = .rowTest bank row → only t { left with heldBank := some bank, openRows := del c.openRows bank } ∧
          Frame [.stores] s t)

/-- The queues of the stacks' controllers and their schedulers (R211, R212, R387, R389).
Completion: exec answers a next state, under conditions on the state and the operands alone, for stackRequest, pseudoChannelCommand. -/
def Obligations.StackQueues : Prop := Parts.RequestsQueue ∧ Parts.ChannelServes

/-- LODGE_REQUEST (R203, R217, R219 to R222, R225): an access to a scratchpad portion is served at once; a write or an atomic of a stack,
and every stack access with the Lodge all scratchpad, goes to the controllers as STACK_REQUEST takes it; a read of one unit that its home
slice holds sound is answered from it and the line is the most recently used; one that it does not hold waits for a fill, which is asked
of the controllers; a line found uncorrectable leaves the slice, with event 0x26, and is fetched again. A read of an address with no place
returns zeros. The model's own readings here: logs 26, 84. -/
def Sys2Proof.Parts.LodgeRequests : Prop :=
  ∀ (s : State) (r : MemReq), r.len ≠ 0 →
    (∀ i o, s.place r.addr = some (.lodge i o) →
      (r.kind = .read → (∀ f ∈ s.stores.fills, f.req = r.id → f.returned = true) → ∃ t, exec (.lodgeRequest r) s = .next t ∧
        t.stores.mem = s.stores.mem ∧ t.stores.replies = s.stores.replies ++ [(r.id, (s.readStore 0 0 r.addr r.len).2.bytes,
          !(s.readStore 0 0 r.addr r.len).2.bad.isEmpty)]) ∧
      (r.kind = .write → s.mapped r.addr r.data.length → r.addr % 8 = 0 → r.data.length % 8 = 0 → s.stores.mem.wf = true →
        ∃ t, exec (.lodgeRequest r) s = .next t ∧ Wrote s t r.addr r.data)) ∧
    (∀ l, s.place r.addr = some (.stack l) → s.stores.lodgeSp = 16 ∨ r.kind ≠ .read → exec (.lodgeRequest r) s = exec (.stackRequest r) s) ∧
    (∀ l, s.place r.addr = some (.stack l) → s.stores.lodgeSp ≠ 16 → r.kind = .read → unitParts r = [r] →
      let u := r.addr / 256
      let held := (s.cacheOf (s.homeSlice r.addr)).find? (·.unit = u)
      (∀ c, held = some c → c.read.1.all (· == .clean) = true → (∀ f ∈ s.stores.fills, f.req = r.id → f.returned = true) →
        ∃ t, exec (.lodgeRequest r) s = .next t ∧
          t.stores.replies = s.stores.replies ++ [(r.id, sub c.read.2 (r.addr % 256) r.len, false)] ∧
          ((t.cacheOf (s.homeSlice (256 * u))).head? = some c) ∧ t.stores.mem = s.stores.mem ∧ t.stores.fills = s.stores.fills ∧
          lookD t.wrap 0x08F200 0 = lookD s.wrap 0x08F200 0 + 1 ∧ Frame [.stores, .wrap] s t) ∧
      (∀ c, held = some c → ((c.read.1.drop (granSpan (r.addr % 256) r.len).1).take (granSpan (r.addr % 256) r.len).2).any (·.bad) = true →
        ∃ t, exec (.lodgeRequest r) s = .next t ∧ Recorded s t 0x26 ∧ (∀ x ∈ t.cacheOf (s.homeSlice r.addr), x.unit ≠ u) ∧
          t.stores.replies = s.stores.replies) ∧
      (held = none → s.roomFor [{ id := r.id, kind := .read, addr := 256 * u, len := 256 }] = true →
        ∃ t, exec (.lodgeRequest r) s = .next t ∧
          t.stores.fills = s.stores.fills ++ [{ unit := u, bytes := [], checks := [], req := r.id, addr := r.addr, len := r.len }] ∧
          t.stores.replies = s.stores.replies ∧ (t.stack l.stack).accepted = (s.stack l.stack).accepted + 1 ∧
          Frame [.stores, .power, .wrap] s t)) ∧
    (s.place r.addr = none → r.kind = .read → ∃ t, exec (.lodgeRequest r) s = .next t ∧
      t.stores.replies = s.stores.replies ++ [(r.id, List.replicate r.len 0, !inWindow r.addr)] ∧
      (inWindow r.addr = false → Recorded s t 0x22) ∧ Frame [.stores, .card, .sat, .mgmt] s t)

/-- LODGE_FILL_RETURN (R222, R224): the fill leaves those outstanding, its requester has its bytes, and its line is the most recently
used of its home slice unless an invalidation has marked it. With no such fill nothing happens. -/
def Sys2Proof.Parts.FillsReturn : Prop :=
  ∀ (s : State) (u : Nat),
    let found := s.stores.fills.find? fun f => f.unit = u && f.returned
    (found = none → exec (.lodgeFillReturn u) s = .next s) ∧
    ∀ f, found = some f →
      let line : CacheLine := { unit := u, bytes := f.bytes, checks := f.checks }
      ∃ t, exec (.lodgeFillReturn u) s = .next t ∧ t.stores.fills = s.stores.fills.erase f ∧
        t.stores.replies = s.stores.replies ++ [(f.req, sub line.read.2 (f.addr % 256) f.len, line.read.1.any (·.bad))] ∧
        (f.marked = true → t.stores.cache = s.stores.cache) ∧
        (f.marked = false → (t.cacheOf (s.homeSlice (256 * u))).head? = some line ∧
          ∀ i, i ≠ s.homeSlice (256 * u) → t.cacheOf i = s.cacheOf i) ∧ t.stores.stackSet = s.stores.stackSet ∧ Frame [.stores] s t

/-- The Lodge serves its requests and takes its fills (R217, R219 to R224).
Completion: exec answers a next state, under conditions on the state and the operands alone, for stackRequest, lodgeRequest,
lodgeFillReturn. -/
def Obligations.LodgeServes : Prop := Parts.LodgeRequests ∧ Parts.FillsReturn

/-- CORRECTION_WRITEBACK and SCRATCHPAD_WRITEBACK (R120, R216): each granule of a line that waits and that reads with a correction is
written as corrected, so that it then reads clean; the line reads as before, no other byte changes, and the line waits no more. A line
that does not wait is left alone. -/
def Sys2Proof.Parts.LinesWrittenBack : Prop :=
  ∀ (s : State) (m line : Nat), s.stores.mem.wf = true →
    let fixed (t : State) : Prop :=
      (t.stores.mem.readGranules (8 * line) 8).2 = (s.stores.mem.readGranules (8 * line) 8).2 ∧
      (∀ g b, 8 * line ≤ g → g < 8 * line + 8 → (s.stores.mem.readGranules g 1).1 = [.corrected b] →
        (t.stores.mem.readGranules g 1).1 = [.clean]) ∧
      (∀ a, a < 64 * line ∨ 64 * line + 64 ≤ a → t.stores.mem.byte a = s.stores.mem.byte a) ∧ Frame [.stores, .mem] s t
    (s.stores.stackFix.contains line = true → (s.stackLoc (64 * line)).any (fun l => l.stack = m) = true →
      ∃ t, exec (.correctionWriteback m line) s = .next t ∧ fixed t ∧ t.stores.stackFix = s.stores.stackFix.filter (· != line) ∧
        t.stores.padFix = s.stores.padFix) ∧
    (s.stores.stackFix.contains line = false → exec (.correctionWriteback m line) s = .next s) ∧
    (s.stores.padFix.contains line = true → ∃ t, exec (.scratchpadWriteback line) s = .next t ∧ fixed t ∧
      t.stores.padFix = s.stores.padFix.filter (· != line) ∧ t.stores.stackFix = s.stores.stackFix) ∧
    (s.stores.padFix.contains line = false → exec (.scratchpadWriteback line) s = .next s)

/-- SCRATCHPAD_SCRUB and STACK_SCRUB (R121, R225, R227): the scrubber reads; memory stays as it is, a line that reads clean leaves nothing
behind, a line of a scratchpad, a cluster buffer or a Lodge slice that reads with a correction waits to be written back, and a line of a
slice's cache portion that is uncorrectable is recorded with event 0x26 and fetched again. The model's own readings here: log 121. -/
def Sys2Proof.Parts.Scrubs : Prop :=
  ∀ (s : State) (unit line : Nat),
    let clean (a len : Nat) : Prop := ∀ z ∈ (s.stores.mem.read a len).1, z = .clean
    let fixes (store : ScrubStore) (a : Nat) : Prop := ∀ g b, s.serviceList.length ≤ 12 → a ≤ 8 * g → 8 * g < a + 64 →
      (s.stores.mem.readGranules g 1).1 = [.corrected b] →
      ∃ t, exec (.scratchpadScrub store unit line) s = .next t ∧ a / 64 ∈ t.stores.padFix
    let a := 0x022000000000 + 2 ^ 21 * unit + 64 * line
    (clean a 64 → exec (.scratchpadScrub .scratchpad unit line) s = .next s) ∧
    (∀ store, ∃ t, exec (.scratchpadScrub store unit line) s = .next t ∧ t.stores.mem = s.stores.mem) ∧
    (unit < 2048 → line < 32768 → fixes .scratchpad a) ∧
    (unit < 128 → line < 131072 → fixes .clusterBuffer (0x021000000000 + 2 ^ 23 * unit + 64 * line)) ∧
    (unit < 64 → s.stores.lodgeSp ≤ 16 → 64 * line < s.stores.lodgeSp * 2 ^ 20 → s.stores.lodgeOos.getLsbD unit = false →
      fixes .lodge (0x020000000000 + 2 ^ 24 * unit + 64 * line)) ∧
    (∀ c, s.stores.lodgeSp * 2 ^ 20 ≤ 64 * line → (s.cacheOf unit)[(64 * line - s.stores.lodgeSp * 2 ^ 20) / 256]? = some c →
      (c.read.1.all (· == .clean) = true → exec (.scratchpadScrub .lodge unit line) s = .next s) ∧
      (c.read.1.any (·.bad) = true → ∃ t, exec (.scratchpadScrub .lodge unit line) s = .next t ∧ Logged s t 0x26)) ∧
    (∀ l m, s.stackLoc (256 * unit) = some l → l.stack = m → ((s.stack m).state = 2 ∨ (s.stack m).state = 3) → clean (256 * unit) 256 →
      exec (.stackScrub m unit) s = .next s) ∧
    (∀ m, ∃ t, exec (.stackScrub m unit) s = .next t ∧ t.stores.mem = s.stores.mem)

/-- The banks of a scratchpad (R116): byte a lies in bank a[9:6] xor a[13:10]; the 16 lines of each aligned KiB lie in the 16 banks, one in
each. -/
def Sys2Proof.Parts.ScratchpadBanks : Prop :=
  (∀ a, scratchBank a < 16 ∧ scratchBank a = (a / 64 % 16) ^^^ (a / 1024 % 16)) ∧
  (∀ a b, a / 1024 = b / 1024 → scratchBank a = scratchBank b → a / 64 = b / 64) ∧
  ∀ k j, j < 16 → ∃ a, a / 1024 = k ∧ scratchBank a = j

/-- Write-backs and scrubbing, and the banks of a scratchpad (R116, R120, R121, R216, R227).
Completion: exec answers a next state, under conditions on the state and the operands alone, for correctionWriteback,
scratchpadWriteback, scratchpadScrub, stackScrub. -/
def Obligations.MemoryUpkeep : Prop := Parts.LinesWrittenBack ∧ Parts.Scrubs ∧ Parts.ScratchpadBanks

/-- ROW_TEST (R206, R232 to R235): a row under test leaves the test queue and the suspects with event 0x23; its bank's open row has been
closed, the bank is let go, and the row has been rewritten, corrected granules as corrected and uncorrectable ones poisoned. A failing bit
with a spare left is repaired, with events 0x24 and 0x1A, the spares counted down and an entry of the spare map; with none left the stack
is exhausted and leaves service, with event 0x25. A row that waits for no test is left alone. The model's own readings here: log 42. -/
def Sys2Proof.Parts.RowsTested : Prop :=
  ∀ (s : State) (m pc bank row spares : Nat), ((s.stack m).state = 2 ∨ (s.stack m).state = 3) →
    let k := s.stack m
    let c := s.channel m pc
    let freed (t : State) : Prop :=
      t.channel m pc = { c with openRows := del c.openRows bank, maint := c.maint.filter fun x => x.work != .rowTest bank row
                                heldBank := if c.heldBank = some bank then none else c.heldBank } ∧
      (∀ j, j ≠ pc → t.channel m j = s.channel m j) ∧
      (s.stores.mem.wf = true → ∀ col a g, col < 4 → s.rowUnit m pc bank row col = some a → a / 8 ≤ g → g < a / 8 + 32 →
        (∀ b, (s.stores.mem.readGranules g 1).1 = [.corrected b] → (t.stores.mem.readGranules g 1).1 = [.clean]) ∧
        (∀ e, (s.stores.mem.readGranules g 1).1 = [.uncorrectable e] → (t.stores.mem.readGranules g 1).1 = [.poisoned]) ∧
        (t.stores.mem.readGranules g 1).2 = (s.stores.mem.readGranules g 1).2)
    let left (t : State) : Stack :=
      { k with channels := (t.stack m).channels, testQueue := k.testQueue.filter (· != (pc, bank, row))
               suspects := k.suspects.filter fun e => !(e.pc = pc && e.bank = bank && e.row = row) }
    (k.testQueue.contains (pc, bank, row) = false → ∀ b, exec (.rowTest m pc bank row b spares) s = .next s) ∧
    (k.testQueue.contains (pc, bank, row) = true →
      (∃ t, exec (.rowTest m pc bank row none spares) s = .next t ∧ t.stack m = left t ∧ freed t ∧ Recorded s t 0x23 ∧
        Frame [.stores, .mem, .card, .sat, .mgmt] s t) ∧
      (∀ b, 0 < spares → ∃ t, exec (.rowTest m pc bank row (some b) spares) s = .next t ∧
        t.stack m = { (left t) with pprLeft := min k.pprLeft (spares - 1) } ∧ freed t ∧
        Logged s t 0x23 ∧ Logged s t 0x24 ∧ Logged s t 0x1A ∧
        (∃ e ∈ t.nvm.spareMap, e.kind = 6 ∧ e.die = dieStack m ∧ e.unit = m) ∧ Frame [.stores, .mem, .card, .sat, .mgmt, .nvm] s t) ∧
      (∀ b, spares = 0 → ∃ t, exec (.rowTest m pc bank row (some b) spares) s = .next t ∧
        t.stack m = { (left t) with exhausted := true, state := 3 } ∧ freed t ∧ Logged s t 0x23 ∧ Logged s t 0x25 ∧
        Frame [.stores, .mem, .card, .sat, .mgmt] s t))

/-- STROBE_TRACKING moves a lane's strobe by one step at most, once in 32 ms, and records a margin event at the range limit instead (R230).
MARGIN_GO keeps the margins of every stack in service as found, sets each lane to the centres of its ranges, and takes a stack that fails,
or does not respond, from the next job start, with event 0x27; a stack passes where every width is 24 steps or more and every height 10 or
more (R228, R229); where it may not run it sets MARGIN_REFUSED (R231). STACK_FAILED takes the stack out of service, with event 0x28 and a
drain with DR_REFORM (R236). -/
def Sys2Proof.Parts.StacksJudged : Prop :=
  ∀ (s : State) (m : Nat),
    let k := s.stack m
    let good := k.state = 2 ∨ k.state = 3
    (∀ pc lane d x, good → ticksMs 32 ≤ s.since (lookD k.strobePt (36 * pc + lane) 0) →
      let timed : Stack := { k with strobePt := put k.strobePt (36 * pc + lane) s.pt }
      (∃ t, exec (.strobeTracking m pc lane d none) s = .next t ∧ OnlyStack s t m { timed with
        strobes := put k.strobes (36 * pc + lane) (lookD k.strobes (36 * pc + lane) 0 + max (-1) (min 1 d)) } ∧ Frame [.stores] s t) ∧
      ∃ t, exec (.strobeTracking m pc lane d (some x)) s = .next t ∧ OnlyStack s t m timed ∧ Recorded s t 0x27 ∧
        Frame [.stores, .card, .mgmt] s t) ∧
    (∀ pc lane d x, s.since (lookD k.strobePt (36 * pc + lane) 0) < ticksMs 32 → exec (.strobeTracking m pc lane d x) s = .next s) ∧
    (∀ x : MarginResult, failCause x = 0 ↔ x.cause = 0 ∧ 24 ≤ x.rdWidth ∧ 24 ≤ x.wrWidth ∧ 10 ≤ x.height ∧
      ∀ l ∈ x.lanes, 24 ≤ l.read.2 - l.read.1 ∧ 24 ≤ l.write.2 - l.write.1 ∧ 10 ≤ l.reference.2 - l.reference.1) ∧
    (∀ l : List MarginResult, ((s.dev.mode = .ready ∨ s.dev.mode = .watch) ∧ s.dev.bound = false) ∨ s.stores.marginDue = true →
      let x := resultFor l m
      ∃ t, exec (.marginGo l) s = .next t ∧ t.stores.marginDue = false ∧ Frame [.stores, .card, .mgmt] s t ∧
        (¬(m < 12 ∧ good) → t.stack m = k) ∧
        (m < 12 → good →
          t.stack m = { k with
            margin := some x, marginPt := s.pt, marginCause := BitVec.ofNat 8 (failCause x), pprLeft := x.pprLeft
            lanesRepaired := x.repaired.length, strobes := (t.stack m).strobes, writeDelays := (t.stack m).writeDelays
            references := (t.stack m).references, state := if failCause x = 0 then k.state else 3 } ∧
          (∀ n ∈ x.lanes, (∀ y ∈ x.lanes, 36 * y.pc + y.lane = 36 * n.pc + n.lane → y = n) →
            lookD (t.stack m).strobes (36 * n.pc + n.lane) 0 = (n.read.1 + n.read.2) / 2 ∧
            lookD (t.stack m).writeDelays (36 * n.pc + n.lane) 0 = (n.write.1 + n.write.2) / 2 ∧
            lookD (t.stack m).references (36 * n.pc + n.lane) 0 = (n.reference.1 + n.reference.2) / 2) ∧
          (failCause x ≠ 0 → Logged s t 0x27))) ∧
    (∀ l, s.dev.mode ≠ .off → (s.dev.mode ≠ .ready ∧ s.dev.mode ≠ .watch ∨ s.dev.bound = true) → s.stores.marginDue = false →
      exec (.marginGo l) s = .next { s with stores := { s.stores with marginRefused := true } }) ∧
    (∀ cause, good → s.dev.mode.running = true → s.dev.bound = true → ∃ t, exec (.stackFailed m cause) s = .next t ∧
      OnlyStack s t m { k with state := 5 } ∧ Logged s t 0x28 ∧ t.dev = s.dev.drains drReform s.pt)

/-- What becomes of stacks and their rows (R229 to R236).
Completion: exec answers a next state, under conditions on the state and the operands alone, for rowTest, strobeTracking, marginGo,
stackFailed. -/
def Obligations.StackHealth : Prop := Parts.RowsTested ∧ Parts.StacksJudged

/-! ### Training (R252, R264 to R271, R277, R278, R388, R392) -/

/-- LIGHT_DETECTED (R265, R267): a port in LIGHT keeps the fibres that have light, and goes to LOCK where they are enough, it holds its link
ticket and the peer has come as far: each drop ring is then set from the channel table. The model's own readings here: logs 95, 139. -/
def Sys2Proof.Parts.LightSeen : Prop :=
  ∀ (s : State) (n : Nat) (fibres : List Nat),
    let p := s.port n
    let lit := (List.range (fibresOf n)).filter fibres.contains
    let goes := fibresNeeded n ≤ lit.length ∧ s.trains n = true ∧ peerAt p.peerSeen .light = true
    (p.state = .light → ∃ t, exec (.lightDetected n fibres) s = .next t ∧ Frame [.links] s t ∧
      (¬ goes → OnlyPort s t n { p with fibresLit := lit }) ∧
      (goes → OnlyPort s t n { p with state := .lock, since := s.pt, workDone := false, fibresLit := lit, channels := (t.port n).channels } ∧
        ∀ f w, f < fibresOf n → w < 18 → (t.port n).chan f w = { p.chan f w with heater := s.heaterAt n f w })) ∧
    (p.state ≠ .light → exec (.lightDetected n fibres) s = .next s)

/-- TRAINING_WORD (R253, R264 to R274): a word with a wrong sync or CRC does nothing. In LIGHT the port goes on once the peer has come as
far. In LOCK a word that names the ring's own channel counts to its 16; one that names another starts the ring again, moved by the
difference of the table's heater codes, with event 0x33, and the fourth fails the channel. In ALIGN the channel is aligned; in ALIGN and
MARGIN the port goes on once its work is done and the peer has come as far. In MAP the word's map is taken, and the port goes on once both
sides have applied all maps. In IDENT a peer as R271 expects it takes the port UP, if it fields its full set, with its units as standing
draw and event 0x36; another holds it with its cause and event 0x37. In UP a word with RT starts a fast retrain, in which words bring maps
and, from 9 µs on, the first computes this side's anew. The model's own readings here: logs 95, 139. -/
def Sys2Proof.Parts.WordsRead : Prop :=
  ∀ (s : State) (n f w : Nat) (word : BitVec 128) (rtt : Nat),
    let p := s.port n
    let x := word.toNat
    let seen := bits x 95 92
    let go := exec (.trainingWord n f w word rtt) s
    let m := ((s.withPort n fun p => { p with peerSeen := seen }).mapWord n x).port n
    (wordOk word = false → go = .next s) ∧
    (wordOk word = true → p.state = .light → ∃ t, go = .next t ∧ Frame [.links] s t ∧ (t.port n).peerSeen = seen ∧
      (t.port n).state = (if fibresNeeded n ≤ p.fibresLit.length ∧ s.trains n = true ∧ peerAt seen .light = true then .lock else .light) ∧
      ∀ k, k ≠ n → t.port k = s.port k) ∧
    (wordOk word = true → s.trains n = true →
      (p.state = .lock → bits x 108 105 ≠ f → ∃ t, go = .next t ∧ (t.port n).miswired = true) ∧
      (p.state = .lock → bits x 108 105 = f → (p.chan f w).verified < 16 → (p.chan f w).failed = false →
        let c := p.chan f w
        (bits x 104 100 = w → ∃ t, go = .next t ∧ (t.port n).chan f w = { c with verified := c.verified + 1 } ∧
          (∀ k, k ≠ n → t.port k = s.port k) ∧ Frame [.links] s t) ∧
        (bits x 104 100 ≠ w → c.relocks < 3 → ∃ t, go = .next t ∧
          (t.port n).chan f w = { c with
            verified := 0, relocks := c.relocks + 1, heater := c.heater + s.heaterAt n f w - s.heaterAt n f (bits x 104 100) } ∧
          Recorded s t 0x33 ∧ lookD t.sat (oLnk n 0x128) 0 = (satAdd (lookD s.sat (oLnk n 0x128) 0) 1).1 ∧
          Frame [.links, .card, .sat, .mgmt] s t) ∧
        (bits x 104 100 ≠ w → 3 ≤ c.relocks → ∃ t, go = .next t ∧ (t.port n).chan f w = { c with good := false, failed := true } ∧
          Logged s t 0x33 ∧ Logged s t 0x30 ∧ Frame [.links, .card, .sat, .mgmt] s t)) ∧
      (p.state = .align → w < 18 →
        let rest := ∀ g ∈ p.fibresLit, ∀ v, v < 18 → (g = f ∧ v = w) ∨ (p.chan g v).aligned = true ∨ (p.chan g v).failed = true
        ∃ t, go = .next t ∧ Frame [.links] s t ∧ (t.port n).chan f w = { p.chan f w with aligned := true } ∧ (t.port n).peerSeen = seen ∧
          (rest → peerAt seen .align = true → (t.port n).state = .margin ∧ (t.port n).since = s.pt ∧ (t.port n).workDone = false) ∧
          (rest → peerAt seen .align = false → (t.port n).state = .align ∧ (t.port n).workDone = true) ∧
          (¬ rest → (t.port n).state = .align ∧ (t.port n).workDone = p.workDone) ∧ ∀ k, k ≠ n → t.port k = s.port k) ∧
      (p.state = .margin → ∃ t, go = .next t ∧ Frame [.links] s t ∧ OnlyPort s t n (if p.workDone = true ∧ peerAt seen .margin = true then
          { p with peerSeen := seen, state := .map, since := s.pt, workDone := false, epoch := (p.epoch + 1) % 16 }
        else { p with peerSeen := seen })) ∧
      (p.state = .map →
        look m.peerMaps (bits x 91 88) = some (BitVec.ofNat 18 (bits x 87 70)) ∧ m.peerFibres = BitVec.ofNat 9 (bits x 69 61) ∧
        m.incoming = bits x 60 57 ∧ m.ackEpoch = bits x 56 53 ∧
        ∃ t, go = .next t ∧ Frame [.links] s t ∧ OnlyPort s t n (if m.mapped n = false then m
          else if m.txFull n = false then { m with loopDue := true }
          else if s.identOpen = true ∧ peerAt seen .map = true then { m with state := .ident, since := s.pt, workDone := false }
          else { m with workDone := true })) ∧
      (p.state = .ident → peerAt seen .ident = true →
        (n < 6 → s.links.strapOk = false → ∃ t, go = .next t ∧ (t.port n).state = .held ∧ (t.port n).holdCause = 6 ∧
          Released s t (.link n)) ∧
        ((6 ≤ n ∨ s.links.strapOk = true) →
          (s.identCause n x rtt = 0 → p.rxFull n = true → p.txFull n = true → ∃ t, go = .next t ∧ (t.port n).state = .up ∧
            (t.port n).since = s.pt ∧ (t.port n).lanes = [] ∧
            n ∈ t.power.portUnits ∧ Released s t (.link n) ∧ Recorded s t 0x36 ∧ (∀ k, k ≠ n → t.port k = s.port k) ∧
            Frame [.links, .power, .card, .mgmt] s t) ∧
          (s.identCause n x rtt = 0 → p.rxFull n = false ∨ p.txFull n = false → ∃ t, go = .next t ∧ (t.port n).state = .ident ∧
            (t.port n).loopDue = true ∧ Frame [.links] s t) ∧
          (s.identCause n x rtt ≠ 0 → ∃ t, go = .next t ∧ (t.port n).state = .held ∧ (t.port n).holdCause = s.identCause n x rtt ∧
            Released s t (.link n) ∧ Recorded s t 0x37 ∧ (∀ k, k ≠ n → t.port k = s.port k) ∧
            Frame [.links, .power, .clocks, .card, .mgmt] s t)))) ∧
    (wordOk word = true → p.state = .retrain → ∃ t, go = .next t ∧ Frame [.links] s t ∧ (t.port n).state = .retrain ∧
      (t.port n).peerSeen = seen ∧ (t.port n).peerMaps = m.peerMaps ∧
      (t.port n).epoch = (if p.workDone = false ∧ ticksUs 9 ≤ s.since p.retrainSince then (p.epoch + 1) % 16 else p.epoch)) ∧
    (wordOk word = true → p.state = .up → bit x 33 = true → ∃ t, go = .next t ∧ (t.port n).state = .retrain ∧ (t.port n).retrainSince = s.pt ∧
        (t.port n).retrainCauses = 32 ∧ n ∈ t.clocks.suspended ∧ (t.port n).lanes = p.lanes)

/-- MARGIN_TEST (R252, R268, R278): each channel tested has as its margin, in 0.5 dB, the last reduction from 3.0 dB on with at most 1,000
errors before the first that fails, and is good where it passed 3.0 dB, a dark fibre is dead, and the port
goes on where it fields its full set and the peer has come as far; where it does not field it, it awaits the loopback test.
The model's own readings here: log 95. -/
def Sys2Proof.Parts.MarginsTaken : Prop :=
  ∀ (s : State) (n : Nat) (results : List ChannelMargin) (dark : List Nat), (s.port n).state = .margin → s.trains n = true →
    (∀ r ∈ results, r.chan < 18) → results.Pairwise (fun a b => a.fibre ≠ b.fibre ∨ a.chan ≠ b.chan) →
    let p := s.port n
    ∃ t, exec (.marginTest n results dark) s = .next t ∧
      (∀ r ∈ results, ((t.port n).chan r.fibre r.chan).margin = (marginOf r.errors).getD 0 ∧ ((t.port n).chan r.fibre r.chan).good =
        ((marginOf r.errors).isSome && !(p.chan r.fibre r.chan).failed && !(p.chan r.fibre r.chan).retired) ∧
        (marginOf r.errors = none → r.errors = [] ∨ 1000 < r.errors.headD 0) ∧
        ∀ k, marginOf r.errors = some (6 + k) → k < 11 ∧ k < r.errors.length ∧ (∀ i, i ≤ k → r.errors.getD i 0 ≤ 1000) ∧
          (k < 10 → k + 1 < r.errors.length → 1000 < r.errors.getD (k + 1) 0)) ∧
      (∀ f ∈ dark, f < fibresOf n → f ∈ (t.port n).deadFibres) ∧ (∀ k, k ≠ n → t.port k = s.port k) ∧
      ((t.port n).rxFull n = false → (t.port n).loopDue = true ∧ (t.port n).state = .margin) ∧
      ((t.port n).rxFull n = true → if peerAt p.peerSeen .margin then
          (t.port n).state = .map ∧ (t.port n).epoch = (p.epoch + 1) % 16 ∧ (t.port n).since = s.pt
        else (t.port n).state = .margin ∧ (t.port n).workDone = true) ∧ Frame [.links, .card, .mgmt] s t

/-- TRAINING_LIMIT (R265, R274, R277): a state of training whose limit has run out, with the limit not suspended, sends the port DOWN with
event 0x35, from where it goes to LIGHT at once if it may; a fast retrain ends so with event 0x32 as well. Before, nothing happens. -/
def Sys2Proof.Parts.LimitsEnd : Prop :=
  ∀ (s : State) (n lim : Nat), trainLimit (s.port n).state = some lim →
    let p := s.port n
    let passed := s.pt.toNat - p.since.toNat
    let light := s.cabled n && s.linksOpen n && p.holdCause = 0 && !p.combs.isEmpty
    (lim ≤ passed → p.suspendedLimit = false → ¬ (p.workDone = true ∧ p.state = .map) →
      ∃ t, exec (.trainingLimit n) s = .next t ∧ (t.port n).state = (if light then .light else .down) ∧ (t.port n).lanes = [] ∧
        Logged s t 0x35 ∧ (p.state = .retrain → Logged s t 0x32 ∧ n ∈ t.fabric.fenced ∧ (t.port n).loopDue = true) ∧ (∀ k, k ≠ n → t.port k = s.port k) ∧
        (light = false → Released s t (.link n)) ∧ Frame [.links, .power, .clocks, .fabric, .card, .sat, .mgmt] s t) ∧
    (passed < lim ∨ p.suspendedLimit = true ∨ p.workDone = true ∧ p.state = .map → exec (.trainingLimit n) s = .next s)

/-- What a port sends in training (R265, R266, R269, R270, R274): a sound word with the sync and the CRC of R266, which names the port, the
fibre and the channel, the port's state, one fibre's map in turn with the fibres in use, the epochs, and the card's coordinate with its
validity; RT is set in a fast retrain. Outside training it sends none. -/
def Sys2Proof.Parts.WordsSent : Prop :=
  ∀ (s : State) (n f w turn : Nat), n < 7 → f < 9 → w < 18 →
    let p := s.port n
    ((p.state = .down ∨ p.state = .up ∨ p.state = .held) → s.trainingWord n f w turn = none) ∧
    (p.state ≠ .down → p.state ≠ .up → p.state ≠ .held → ∃ word : BitVec 128, s.trainingWord n f w turn = some word ∧ wordOk word = true ∧
      let x := word.toNat
      bits x 111 109 = n ∧ bits x 108 105 = f ∧ bits x 104 100 = w ∧ bits x 95 92 = p.state.code ∧ bits x 91 88 = turn % 9 ∧
      bits x 87 70 = p.mapBits n (turn % 9) ∧ bits x 69 61 = maskOf (p.inUse n) ∧ bits x 60 57 = p.epoch % 16 ∧
      bits x 56 53 = p.peerEpoch % 16 ∧ bit x 52 = s.links.strapOk ∧ bits x 51 34 = s.here.toNat ∧ bit x 33 = decide (p.state = .retrain))

/-- A port trains (R264 to R271, R277, R278, R388).
Completion: exec answers a next state, under conditions on the state and the operands alone, for lightDetected, trainingWord,
marginTest, trainingLimit. -/
def Obligations.Training : Prop := Parts.LightSeen ∧ Parts.WordsRead ∧ Parts.MarginsTaken ∧ Parts.LimitsEnd ∧ Parts.WordsSent

/-! ### Link frames and triggers (R255 to R262, R273 to R280, R371) -/

/-- LINK_FRAME (R258 to R262): a data frame of 264 bytes with its CRC right and the SEQ that its lane expects is accepted: the lane expects
the next, asks for no retry, and the flit waits for its turn or is delivered. One whose CRC fails is counted and makes the lane ask for a
retry; one of another SEQ makes it ask. A frame on a port that is not UP does nothing. -/
def Sys2Proof.Parts.FramesArrive : Prop :=
  ∀ (s : State) (n lane : Nat) (frame : List Byte),
    let p := s.port n
    let l := lookD p.lanes lane {}
    let x := fld frame 256 8
    let ok := (crc32 (sub frame 0 260)).toNat = bits x 63 32 ∧ bits x 7 6 ≠ 3
    (p.state ≠ .up ∨ lanesOf n ≤ lane ∨ frame.length ≠ 264 → exec (.linkFrame n lane frame) s = .next s) ∧
    (p.state = .up → lane < lanesOf n → frame.length = 264 →
      (ok → bits x 7 6 = 0 → bits x 19 8 = l.rxSeq → ∃ t, exec (.linkFrame n lane frame) s = .next t ∧
        (lookD (t.port n).lanes lane {}).rxSeq = (l.rxSeq + 1) % 4096 ∧ (lookD (t.port n).lanes lane {}).requesting = false ∧
        (sub frame 0 256 ∈ (t.port n).rxDelivered ∨ ∃ k, look (t.port n).rxWaiting k = some (sub frame 0 256)) ∧
        (∀ k, k ≠ n → t.port k = s.port k) ∧ Frame [.links, .wrap] s t) ∧
      (ok → bits x 7 6 = 0 → bits x 19 8 ≠ l.rxSeq → ∃ t, exec (.linkFrame n lane frame) s = .next t ∧
        (lookD (t.port n).lanes lane {}).rxSeq = l.rxSeq ∧ (lookD (t.port n).lanes lane {}).requesting = true ∧
        (t.port n).rxDelivered = p.rxDelivered ∧ (t.port n).rxWaiting = p.rxWaiting ∧ Frame [.links, .wrap] s t) ∧
      (¬ ok → ∃ t, exec (.linkFrame n lane frame) s = .next t ∧ OnlyPort s t n { p with lanes := (t.port n).lanes } ∧
        lookD (t.port n).lanes lane {} = { l with rxFrames := l.rxFrames.erase frame, requesting := true } ∧
        (∀ j, j ≠ lane → lookD (t.port n).lanes j {} = lookD p.lanes j {}) ∧
        lookD t.sat (oLnk n 0x110) 0 = (satAdd (lookD s.sat (oLnk n 0x110) 0) 1).1 ∧ Frame [.links, .sat, .mgmt] s t))

/-- LINK_RETRY_REQUEST for a lane's oldest frame without an ACK, and REPLAY_TIMEOUT once it has seen no progress for 2 × RTT + 1 µs: the
lane resends from it; the eighth time the port starts a fast retrain (R262, R273). Before, a timeout does nothing. -/
def Sys2Proof.Parts.LanesResend : Prop :=
  ∀ (s : State) (n lane a : Nat) (b : List Byte) (rest : List (Nat × List Byte)), (s.port n).state = .up → a < 4096 →
    (lookD (s.port n).lanes lane {}).replay = (a, b) :: rest → rest.length < 248 →
    let p := s.port n
    let l := lookD p.lanes lane {}
    let again : Port := { p with lanes := put p.lanes lane { l with resends := l.resends + 1, progress := s.pt, lastRetry := some (a, s.pt) } }
    let resent (o : Out) : Prop := ∃ t, o = .next t ∧ lookD t.sat (oLnk n 0x118) 0 = (satAdd (lookD s.sat (oLnk n 0x118) 0) 1).1 ∧
      lookD t.wrap (oLnk n 0x218) 0 = lookD s.wrap (oLnk n 0x218) 0 + BitVec.ofNat 64 (rest.length + 1) ∧
      (l.resends + 1 < 8 → OnlyPort s t n again) ∧
      (8 ≤ l.resends + 1 → (t.port n).state = .retrain ∧ (t.port n).lanes = again.lanes ∧ (t.port n).retrainCauses = 1) ∧
      (∀ k, k ≠ n → t.port k = s.port k) ∧ Frame [.links, .clocks, .sat, .wrap, .mgmt] s t
    (p.txWaiting = [] → l.lastRetry = none → resent (exec (.linkRetryRequest n lane a) s)) ∧
    (2 * p.rtt + 100 ≤ s.pt.toNat - l.progress.toNat → resent (exec (.replayTimeout n lane) s)) ∧
    (s.pt.toNat - l.progress.toNat < 2 * p.rtt + 100 → exec (.replayTimeout n lane) s = .next s)

/-- What a lane sends (R258, R259, R261, R262): the frames of its replay buffer, each with its own SEQ, then, while it asks for a retry, a
retry request, else an idle frame, with the SEQ of its next data frame. Every frame has 264 bytes and its CRC, and carries in ACK the SEQ
that the lane expects. -/
def Sys2Proof.Parts.FramesSent : Prop :=
  (∀ (flit : List Byte) (ty seq ack : Nat), flit.length = 256 → ty < 4 →
    let f := linkFrame flit ty seq ack
    let x := fld f 256 8
    f.length = 264 ∧ sub f 0 256 = flit ∧ bits x 7 6 = ty ∧ bits x 19 8 = seq % 4096 ∧ bits x 31 20 = ack % 4096 ∧
    bits x 5 0 = 0 ∧ bits x 63 32 = (crc32 (sub f 0 260)).toNat) ∧
  ∀ (l : Lane), (∀ x ∈ l.replay, x.2.length = 256) →
    l.frames.length = l.replay.length + 1 ∧
    (∀ (i : Nat) (x : Nat × List Byte), l.replay[i]? = some x → l.frames[i]? = some (linkFrame x.2 0 x.1 l.rxSeq)) ∧
    (∃ flit, flit.length = 256 ∧ l.frames.getLast? = some (linkFrame flit (if l.requesting then 2 else 1) l.txSeq l.rxSeq)) ∧
    ∀ f ∈ l.frames, f.length = 264 ∧ bits (fld f 256 8) 31 20 = l.rxSeq % 4096

/-- Link frames, their retries and their timeouts (R258 to R262).
Completion: exec answers a next state, under conditions on the state and the operands alone, for linkFrame, linkRetryRequest,
replayTimeout. -/
def Obligations.LinkFrames : Prop := Parts.FramesArrive ∧ Parts.LanesResend ∧ Parts.FramesSent

/-- CODEWORD (R255, R256, R258, R273): one that cannot be decoded is counted; one whose control symbol names its own channel and fibre ends
a run of mismatches, and its 1,270 payload bits join the stream of its lane, where FS begins a frame; the fourth mismatch in a row retires the channel, with event 0x30, and starts a fast retrain with cause 2. -/
def Sys2Proof.Parts.CodewordsRead : Prop :=
  ∀ (s : State) (n f w : Nat) (symbols : List Nat), (s.port n).state = .up → symbols.length = 136 →
    let p := s.port n
    let c := p.chan f w
    let chans (d : Channel) : Port := { p with channels := put p.channels (18 * f + w) d }
    (rsDecode (symbols.map (· % 1024)) = none → ∃ t, exec (.codeword n f w symbols) s = .next t ∧
      OnlyPort s t n (chans { c with mismatch := 0 }) ∧ lookD t.sat (oLnk n 0x108) 0 = (satAdd (lookD s.sat (oLnk n 0x108) 0) 1).1 ∧
      Frame [.links, .sat, .wrap, .mgmt] s t) ∧
    (∀ l k, rsDecode (symbols.map (· % 1024)) = some (l, k) →
      let own := bits (l.headD 0) 9 5 = w ∧ bits (l.headD 0) 4 1 = f
      let q := chans { c with window := c.window + k, mismatch := 0 }
      let payload := symbolBits ((l.take 128).drop 1)
      (own → ∃ t, exec (.codeword n f w symbols) s = .next t ∧ Frame [.links, .sat, .wrap, .mgmt] s t ∧
        (q.laneAt n f w = none → OnlyPort s t n q) ∧
        ∀ lane, q.laneAt n f w = some lane →
          OnlyPort s t n { q with lanes := put q.lanes lane ((lookD q.lanes lane {}).takeBits (bit (l.headD 0) 0) payload) } ∧
          (bit (l.headD 0) 0 = true → (lookD (t.port n).lanes lane {}).rxBits = payload ∧ payload.length = 1270 ∧
            (lookD (t.port n).lanes lane {}).inStep = true)) ∧
      (¬ own → c.mismatch + 1 < 4 → ∃ t, exec (.codeword n f w symbols) s = .next t ∧
        OnlyPort s t n (chans { c with window := c.window + k, mismatch := c.mismatch + 1 }) ∧ Frame [.links, .sat, .wrap, .mgmt] s t) ∧
      (¬ own → 4 ≤ c.mismatch + 1 → c.retired = false → ∃ t, exec (.codeword n f w symbols) s = .next t ∧
        ((t.port n).chan f w).retired = true ∧ (t.port n).state = .retrain ∧ (t.port n).retrainCauses = 2 ∧ Logged s t 0x30 ∧
        Frame [.links, .clocks, .card, .sat, .wrap, .mgmt] s t))

/-- CORRECTED_SYMBOL_WINDOW: more than 64 corrected symbols in a window retire the channel and start a fast retrain (R273). LIGHT_LOST: so
does a channel's light; light lost on every fibre sends the port DOWN with event 0x35 (R273, R491). BRIDGE_LINE_CHECK_FAIL: a spare lane
of the bundle takes over, with a spare-map entry, or the bundle is short (R273, R428). COMB_FAILURE: the spare comb takes over within a
fast retrain, with event 0x34 (R276). The model's own readings here: logs 96, 98. -/
def Sys2Proof.Parts.ChannelsLost : Prop :=
  ∀ (s : State) (n : Nat), (s.port n).state = .up →
    let p := s.port n
    let retrains (t : State) (causes : Byte) : Prop := (t.port n).state = .retrain ∧ (t.port n).retrainSince = s.pt ∧
      (t.port n).retrainCauses = causes ∧ n ∈ t.clocks.suspended ∧ ∀ k, k ≠ n → t.port k = s.port k
    (∀ f w, let c := p.chan f w
      (c.window ≤ 64 → ∃ t, exec (.correctedSymbolWindow n f w) s = .next t ∧
        OnlyPort s t n { p with channels := put p.channels (18 * f + w) { c with lastWindow := c.window, window := 0 } } ∧ Frame [.links] s t) ∧
      (64 < c.window → c.retired = false → ∃ t, exec (.correctedSymbolWindow n f w) s = .next t ∧ retrains t 4 ∧
        ((t.port n).chan f w).retired = true ∧ Logged s t 0x30) ∧
      (c.retired = false → ∃ t, exec (.lightLost n (.channel f w)) s = .next t ∧ retrains t 4 ∧ ((t.port n).chan f w).retired = true ∧
        Logged s t 0x30)) ∧
    (∃ t, exec (.lightLost n .allFibres) s = .next t ∧ Logged s t 0x35 ∧ n ∈ t.fabric.fenced ∧ (∀ k, k ≠ n → t.port k = s.port k) ∧
      (t.port n).state = (if s.cabled n && s.linksOpen n && p.holdCause = 0 && !p.combs.isEmpty then .light else .down)) ∧
    (∀ bundle lane, bundleLane n bundle lane = false → exec (.bridgeLineCheckFail n bundle lane) s = .next s) ∧
    (∀ bundle lane, bundleLane n bundle lane = true → s.dev.mode ≠ .off → s.dev.mode ≠ .standby → let used := lookD p.bridgeSpares bundle 0
      ∃ t, exec (.bridgeLineCheckFail n bundle lane) s = .next t ∧ retrains t 16 ∧
        (used < 4 → lookD (t.port n).bridgeSpares bundle 0 = used + 1 ∧
          ∃ e ∈ t.nvm.spareMap, e.kind = 1 ∧ e.die = dieEdge n ∧ e.unit = bundle ∧ e.element = lane) ∧
        (4 ≤ used → (t.port n).bridgeShort = true ∧ t.nvm = s.nvm)) ∧
    (∀ x c rest, p.combs.filter (· != p.active) = c :: rest → ∃ t, exec (.combFailure n x) s = .next t ∧ retrains t 8 ∧
      (t.port n).combs = c :: rest ∧ (t.port n).active = c ∧ Logged s t 0x34) ∧
    (∀ x, p.combs.filter (· != p.active) = [] → ∃ t, exec (.combFailure n x) s = .next t ∧ (t.port n).state = .down ∧
      (t.port n).combs = [] ∧ (t.port n).holdCause = 8 ∧ Logged s t 0x35)

/-- FAST_RETRAIN_COMPLETE (R269, R274, R275, R278, R371): a port that fields its full set, with rings that relocked and widths that agree, is
UP again with event 0x32 once the maps of the next EPOCH have been exchanged, and waits for them before; the fifth within 1 s leaves it
DOWN, with event 0x35, and so does a set that is not full, which awaits the loopback test; a width that still disagrees after the further
retrain is FAULT with 0x08. LOOPBACK_TEST (R278): the port that awaits it is held with cause PLANT or DEVICE and event 0x3A. HOLD and
RETRAIN_GO (R280): HOLD holds the port for the operator, and RETRAIN_GO trains it afresh; both are ignored while BOUND.
The model's own readings here: log 99. -/
def Sys2Proof.Parts.PortsSettle : Prop :=
  ∀ (s : State) (n : Nat),
    let p := s.port n
    let recent := (p.retrains.filter fun x => decide (s.pt.toNat - x.toNat ≤ 100000000)).length
    let light (q : Port) : LinkState := if s.cabled n && s.linksOpen n && !q.combs.isEmpty then .light else .down
    let q := (s.remap n).port n
    (q = if p.workDone = false ∧ ticksUs 9 ≤ s.since p.retrainSince then { p with workDone := true, epoch := (p.epoch + 1) % 16 } else p) ∧
    (∀ ns, p.state = .retrain → p.rxFull n = true → p.txFull n = true →
      (q.mapped n = false → exec (.fastRetrainComplete n { durationNs := ns }) s = .next (s.remap n)) ∧
      (q.mapped n = true → recent ≤ 4 → p.laterTrigger = 0 → ∃ t, exec (.fastRetrainComplete n { durationNs := ns }) s = .next t ∧
        (t.port n).state = .up ∧ (t.port n).since = s.pt ∧ (t.port n).epoch = q.epoch ∧ n ∉ t.clocks.suspended ∧ Logged s t 0x32) ∧
      (q.mapped n = true → 4 < recent → ∃ t, exec (.fastRetrainComplete n { durationNs := ns }) s = .next t ∧ (t.port n).state ≠ .up ∧
        Logged s t 0x32 ∧ Logged s t 0x35 ∧ n ∈ t.fabric.fenced)) ∧
    (∀ ns, p.state = .retrain → p.rxFull n = false ∨ p.txFull n = false →
      ∃ t, exec (.fastRetrainComplete n { durationNs := ns }) s = .next t ∧ (t.port n).state ≠ .up ∧ (t.port n).loopDue = true ∧
        Logged s t 0x32 ∧ Logged s t 0x35 ∧ n ∈ t.fabric.fenced) ∧
    (∀ r : RetrainReport, p.state = .retrain → r.badRings = [] → p.rxFull n = false ∨ p.txFull n = false ∨ q.mapped n = true → r.widthAgreesFirst = false → r.widthAgreesAgain = false → edge s.dev.mode .fault = true →
      ∃ t, exec (.fastRetrainComplete n r) s = .next t ∧ t.dev.mode = .fault ∧ t.dev.faultCode = 8) ∧
    (∀ ok, p.loopDue = true → ∃ t, exec (.loopbackTest n ok) s = .next t ∧ (t.port n).holdCause = (if ok then 7 else 8) ∧
      (t.port n).loopDue = false ∧ Logged s t 0x3A ∧ (t.port n).state = .held) ∧
    (∀ ok, p.loopDue = false → exec (.loopbackTest n ok) s = .next s) ∧
    (s.dev.bound = true → ∀ v, exec (.hold n v) s = .next s ∧ exec (.retrainGo n) s = .next s) ∧
    (s.dev.bound = false → n < 7 → p.holdReg = false →
      (∃ t, exec (.hold n true) s = .next t ∧ (t.port n).state = .held ∧ (t.port n).holdCause = 9 ∧ (t.port n).holdReg = true ∧
        Released s t (.link n) ∧ ∀ k, k ≠ n → t.port k = s.port k) ∧
      (∃ t, exec (.retrainGo n) s = .next t ∧ (t.port n).state = light p ∧ (t.port n).holdCause = (if p.combs.isEmpty then 8 else 0) ∧ (t.port n).lanes = [] ∧
        ∀ k, k ≠ n → t.port k = s.port k)) ∧
    (s.dev.bound = false → n < 7 → p.holdReg = true → p.state = .held → p.holdCause = 9 →
      ∃ t, exec (.hold n false) s = .next t ∧ (t.port n).state = light p ∧ (t.port n).holdReg = false ∧
        (t.port n).holdCause = (if p.combs.isEmpty then 8 else 0) ∧
        ∀ k, k ≠ n → t.port k = s.port k)

/-- What a channel sends (R255, R256, R258): a codeword of 136 symbols, the control symbol with FS, channel and fibre first, then 1,270 bits
of its lane's stream of frames, bit 0 first; FS is set where a frame begins at the first of them. -/
def Sys2Proof.Parts.CodewordsSent : Prop :=
  ∀ (f w k : Nat) (frames : List (List Byte)), f < 16 → w < 32 → (∀ x ∈ frames, x.length = 264) →
    let c := codewordAt f w frames k
    let stream := (frames.flatMap fun x => x.flatMap fun b => (List.range 8).map b.getLsbD).drop (1270 * k)
    c.length = 136 ∧ bits (c.headD 0) 9 5 = w ∧ bits (c.headD 0) 4 1 = f ∧ bit (c.headD 0) 0 = decide (1270 * k % 2112 = 0) ∧
    ∀ i, i < 1270 → i < stream.length → (symbolBits ((c.take 128).drop 1)).getD i false = stream.getD i false

/-- What a port in running meets, and how it settles (R255, R256, R273 to R280, R371, R491).
Completion: exec answers a next state, under conditions on the state and the operands alone, for correctedSymbolWindow, lightLost,
bridgeLineCheckFail, combFailure, fastRetrainComplete, loopbackTest, hold, retrainGo, codeword. -/
def Obligations.LinkTriggers : Prop := Parts.CodewordsRead ∧ Parts.ChannelsLost ∧ Parts.PortsSettle ∧ Parts.CodewordsSent

/-! ### Requests at their destination (R58, R64, R67 to R71, R304 to R306, R309, R313, R315 to R320, R326) -/

/-- STORE, and WRITE into a MEM window, that may be performed now (R305, R306, R309, R312, R313): within the window, the bytes are written, whole granules or into granules
that read clean, no other byte changes, the write counts as completed for its source, and an ACK of status 0 leaves. One that R309 turns
away writes nothing and is acknowledged with its status. A window that is not open here is a Course error (R67). -/
def Sys2Proof.Parts.StoresServed : Prop :=
  ∀ (s : State) (p : Packet), s.fabric.table.isSome = true → s.mayPerform s.fabric.ordHeld p = true →
    let u := served s p
    let len := p.payload.length
    let writes (o : Out) (a : Nat) : Prop :=
      s.mapped a len → p.badGranules = [] → s.stores.mem.wf = true → len ≠ 0 →
      (a % 8 = 0 ∧ len % 8 = 0 ∨ (∀ z ∈ (s.stores.mem.read a len).1, z = .clean) ∧ s.cacheClean) →
      ∃ v, o = .next ((counted v p).inject (answer p 0x81 0 [])) ∧ v.stores.mem.raw a len = p.payload ∧
        (∀ x, x < a ∨ a + len ≤ x → v.stores.mem.byte x = s.stores.mem.byte x) ∧ Frame [.stores, .mem, .wrap] u v
    (∀ w, p.opc = 0x02 → look s.windows p.windowId.toNat = some w →
      (∀ obj, s.memTarget w p.offset.toNat len = .ok obj → writes (exec (.store p) s) (s.memAddr obj p.offset.toNat)) ∧
      (∀ c, s.memTarget w p.offset.toNat len = .error c →
        exec (.store p) s = .next ((counted u p).inject (answer p 0x81 c [])))) ∧
    (∀ w, p.opc = 0x01 → look s.windows p.windowId.toNat = some w → p.windowId ≠ 0xFFFF → (s.windowParams w).memMode = true →
      (p.offset.toNat + len ≤ s.memSize w → p.offset.toNat % 4256 + len ≤ 4256 →
        writes (exec (.write p) s) (s.memAddr (s.windowParams w).object p.offset.toNat)) ∧
      (s.memSize w < p.offset.toNat + len → exec (.write p) s = .next ((counted u p).inject (answer p 0x81 1 [])))) ∧
    (look s.windows p.windowId.toNat = none → s.dev.bound = true → s.job.any (fun j => decide (j.phase = .started)) = true →
      (p.opc = 0x02 → ∃ t, exec (.store p) s = .next t ∧ CourseFails u t 0x14 0xFFFF) ∧
      (p.opc = 0x01 → s.restore = none → ∃ t, exec (.write p) s = .next t ∧ CourseFails u t 0x14 0xFFFF))

/-- WRITE into a slot of a TILE window (R68 to R70): bytes that the slot has not yet, from the source it is bound to, are stored; the slot
is bound to that source and has them. Where they fill the slot that is next in cursor order, the window signals its targets. Bytes from
another source, or of a slot that has them, are Course errors 0x15 and 0x16. The model's own readings here: log 132. -/
def Sys2Proof.Parts.TilesReceived : Prop :=
  ∀ (s : State) (p : Packet) (w : Window) (d : StationDesc), s.fabric.table.isSome = true →
    s.mayPerform s.fabric.ordHeld p = true → p.opc = 0x01 →
    p.windowId ≠ 0xFFFF → look s.windows p.windowId.toNat = some w → s.desc w.station = some d → d.params.memMode = false →
    let u := served s p
    let k := p.offset.toNat / 4256
    let o := p.offset.toNat % 4256
    let len := p.payload.length
    let x := lookD w.slots k {}
    let a := s.slotAddr (s.outStream w.station 0) k + o
    let y : SlotState := { x with src := some p.src, got := x.got ++ [(o, len)] }
    let slots (z : SlotState) : Window := { w with slots := put w.slots k z }
    k < d.params.slots → o + len ≤ 4256 → x.full = false →
    ((∀ c, x.src = some c → c = p.src) → (∀ g ∈ x.got, o + len ≤ g.1 ∨ g.1 + g.2 ≤ o) → s.mapped a len → a % 8 = 0 → len % 8 = 0 →
      p.badGranules = [] → s.stores.mem.wf = true → ∃ v, Wrote u v a p.payload ∧
        (y.full = false ∧ (w.signalled % d.params.slots = k ∨
            ((lookD w.slots (w.signalled % d.params.slots) {}).full && !(lookD w.slots (w.signalled % d.params.slots) {}).signalled) = false) →
          exec (.write p) s = .next ((counted { v with windows := put s.windows p.windowId.toNat (slots y) } p).inject (answer p 0x81 0 []))) ∧
        (y.full = true → x.signalled = false → w.signalled % d.params.slots = k →
          (lookD w.slots ((w.signalled + 1) % d.params.slots) {}).full = false →
          let sig := (List.range 12).filterMap fun j => (d.signals.getD j none).map fun g =>
            ({ station := g.station, sem := g.sem, count := 1 } : SignalMsg)
          exec (.write p) s = .next ((counted { v with
            windows := put (put s.windows p.windowId.toNat (slots y)) p.windowId.toNat
              { slots y with slots := put (slots y).slots k { y with signalled := true }, signalled := w.signalled + 1 }
            cells := { s.cells with signals := s.cells.signals ++ sig } } p).inject (answer p 0x81 0 [])))) ∧
    (s.dev.bound = true → s.job.any (fun j => decide (j.phase = .started)) = true →
      (∀ c, x.src = some c → c ≠ p.src → ∃ t, exec (.write p) s = .next t ∧ CourseFails u t 0x15 w.station) ∧
      ((∀ c, x.src = some c → c = p.src) → (∃ g ∈ x.got, g.1 < o + len ∧ o < g.1 + g.2) →
        ∃ t, exec (.write p) s = .next t ∧ CourseFails u t 0x16 w.station))

/-- LOAD (R304, R306, R309): DATA with the bytes that memory holds, or zeros with status POISON where a granule is uncorrectable, or with
the status that turns it away. SIGNAL (R64, R124, R304, R315) reaches its semaphore's file, raises the semaphore and is acknowledged; above
65,535 it is a Course error, and none is sent. The model's own readings here: log 91. -/
def Sys2Proof.Parts.LoadsAndSignals : Prop :=
  ∀ (s : State) (p : Packet), s.fabric.table.isSome = true →
    let u := served s p
    (∀ w, p.opc = 0x03 → s.mayPerform s.fabric.ordHeld p = true → look s.windows p.windowId.toNat = some w →
      (∀ obj, s.memTarget w p.offset.toNat p.aux.toNat = .ok obj →
        let rd := u.readMem 0 0 (s.memAddr obj p.offset.toNat) p.aux.toNat
        (rd.2.bad = [] → exec (.load p) s = .next (rd.1.inject (answer p 0x82 0 (padTo 32 rd.2.bytes)))) ∧
        (rd.2.bad ≠ [] → exec (.load p) s =
          .next ((rd.1.bump (oFab 0x1038)).inject (answer p 0x82 4 (List.replicate 32 0))))) ∧
      (∀ c, c ≠ 4 → s.memTarget w p.offset.toNat p.aux.toNat = .error c →
        exec (.load p) s = .next (u.inject (answer p 0x82 c (List.replicate 32 0))))) ∧
    (∀ d, p.opc = 0x06 → p.ord = true → s.mayPerform s.fabric.ordHeld p = true → s.desc p.windowId.toNat = some d →
      (∀ f ∈ s.cells.semFiles, f.2.queue = []) →
      let st := p.windowId.toNat
      let r := s.st st
      let sem := p.offset.toNat % 64
      let filed (x : State) : Prop := x = { u with cells := { s.cells with semFiles := x.cells.semFiles } }
      r.stopped = false → r.finished = false →
      (r.waiting = none → r.sem sem + p.aux.toNat ≤ 65535 → ∃ x v, filed x ∧
        Moves x v st { r with sems := setGrow r.sems sem 0 (r.sem sem + p.aux.toNat) } [] ∧
        exec (.signal p) s = .next ((counted v p).inject (answer p 0x81 0 []))) ∧
      (65535 < r.sem sem + p.aux.toNat → s.dev.bound = true → s.job.any (fun j => decide (j.phase = .started)) = true →
        ∃ x t, filed x ∧ exec (.signal p) s = .next t ∧ CourseFails x t 0x10 st))

/-- Requests served: stores, tiles, loads and signals (R64, R67 to R70, R304 to R306, R309, R315).
Completion: exec answers a next state, under conditions on the state and the operands alone, for write, store, load, signal. -/
def Obligations.RequestsServed : Prop := Parts.StoresServed ∧ Parts.TilesReceived ∧ Parts.LoadsAndSignals

/-- ATOM and ATOM_F (R304, R309, R316, R318): one that is new to its source's sequence, over bytes that read clean, writes what its
function gives, leaves every other byte, is marked with its old value in the replay cache, counts as a write, and is answered by ACK or
by RESULT with the old value. One applied already changes no memory and is answered from the cache. One outside the sequence's reach
is counted, recorded as event 0x51, and drains the device with DR_REFORM. -/
def Sys2Proof.Parts.AtomicsApplied : Prop :=
  ∀ (s : State) (p : Packet),
    s.fabric.table.isSome = true → s.mayPerform s.fabric.ordHeld p = true → p.cmb = false → p.aux.toNat % 16 ≤ 6 →
    let u := served s p
    let src := s.atomState p.src
    let wide := p.aux.getLsbD 4
    let n := if wide then 8 else 4
    let reply (status old : Nat) : Packet := if p.opc = 0x04 then answer p 0x81 status [] else answer p 0x83 status (natLe 8 old)
    let does (row : Out) : Prop :=
      (∀ w obj, src.stand p.seq = 1 → look s.windows p.windowId.toNat = some w → s.memTarget w p.offset.toNat n = .ok obj →
        let a := s.memAddr obj p.offset.toNat
        (∀ z ∈ s.granReads a n, z.2 = .clean) → (s.readStore 0 0 a n).2.bad = [] → (s.place a).isSome = true → s.cacheClean →
        s.stores.mem.wf = true → a / 8 = (a + n - 1) / 8 →
        let old := leNat (s.stores.mem.read a n).2
        ∃ v, v.stores.mem.raw a n = natLe n (atomicFn (p.aux.toNat % 16) wide old (fld p.payload 0 n) (fld p.payload n n)) ∧
          (∀ x, x < a ∨ a + n ≤ x → v.stores.mem.byte x = s.stores.mem.byte x) ∧ Frame [.stores, .mem, .wrap] u v ∧
          row = .next ((counted { v with fabric := { u.fabric with atoms := put u.fabric.atoms p.src.toNat (AtomSource.settle
            { src with marked := src.marked ++ [p.seq], cache := put src.cache (p.seq.toNat % 64) (BitVec.ofNat 64 old)
                       stats := put src.stats (p.seq.toNat % 64) 0 } 65) } } p).inject (reply 0 old))) ∧
      (src.stand p.seq = 2 → lookD src.stats (p.seq.toNat % 64) 0 ≠ 4 → row = .next ((u.bump (oFab 0x1010)).inject
        (reply (lookD src.stats (p.seq.toNat % 64) 0) (lookD src.cache (p.seq.toNat % 64) 0).toNat))) ∧
      (src.stand p.seq = 3 → s.dev.mode.running = true → s.dev.bound = true → ∃ t, row = .next t ∧ Logged s t 0x51 ∧
        t.dev = s.dev.drains drReform s.pt ∧ t.stores = s.stores ∧ t.fabric.atoms = s.fabric.atoms)
    (p.opc = 0x04 → does (exec (.atom p) s)) ∧ (p.opc = 0x05 → does (exec (.atomF p) s))

/-- REFETCH (R319) is answered from the replay cache, and nothing is applied; of a value that was not applied it is a sequence fault. FAR
(R309, R326) does its entry's access at once, as a request of its source, and returns the reply entry: the bytes of a LOAD, the status of a
STORE that is written, the old value of an atomic that returns it. The model's own readings here: log 86. -/
def Sys2Proof.Parts.FarServed : Prop :=
  ∀ (s : State) (p : Packet), s.fabric.table.isSome = true → s.mayPerform s.fabric.ordHeld p = true →
    let u := served s p
    let src := s.atomState p.src
    let i := p.seq.toNat % 64
    (p.opc = 0x07 → src.stand p.seq = 2 → lookD src.stats i 0 ≠ 4 → exec (.refetch p) s =
      .next ((u.bump (oFab 0x1010)).inject (answer p 0x83 (lookD src.stats i 0) (natLe 8 (lookD src.cache i 0).toNat)))) ∧
    (p.opc = 0x07 → src.stand p.seq ≠ 2 → s.dev.mode.running = true → s.dev.bound = true → ∃ t, exec (.refetch p) s = .next t ∧
      Logged s t 0x51 ∧ t.dev = s.dev.drains drReform s.pt ∧ t.fabric.atoms = s.fabric.atoms) ∧
    (∀ w, p.opc = 0x08 → reservedEntry p.payload = false → look s.windows (fld p.payload 8 2) = some w →
      let e := p.payload
      let op := fld e 0 1
      let off := fld e 0x10 6
      let wide := bit (fld e 3 1) 4
      let len := if op ≤ 2 then 2 ^ (fld e 2 1 % 8) else if wide then 8 else 4
      (∀ c, s.memTarget w off len = .error c → exec (.far p) s =
        .next ((if op = 1 then u else counted u p).inject (answer p 0x84 0 (replyEntry c [])))) ∧
      ∀ obj, s.memTarget w off len = .ok obj →
        let a := s.memAddr obj off
        let rd := u.readMem 0 0 a len
        (op = 1 → rd.2.bad = [] → exec (.far p) s = .next (rd.1.inject (answer p 0x84 0 (replyEntry 0 rd.2.bytes)))) ∧
        ((∀ z ∈ s.granReads a len, z.2 = .clean) → s.cacheClean → s.stores.mem.wf = true → s.mapped a len →
          let put (b out : List Byte) : Prop := ∃ v, exec (.far p) s = .next (v.inject (answer p 0x84 0 (replyEntry 0 out))) ∧
            v.stores.mem.raw a len = b ∧ (∀ x, x < a ∨ a + len ≤ x → v.stores.mem.byte x = s.stores.mem.byte x) ∧
            Frame [.stores, .mem, .wrap] (counted u p) v
          (op = 2 → 0x20 + len ≤ e.length → put (sub e 0x20 len) []) ∧
          (3 ≤ op → (s.readStore 0 0 a len).2.bad = [] → a / 8 = (a + len - 1) / 8 → let x := leNat (s.stores.mem.read a len).2
            put (natLe len (atomicFn (fld e 3 1 % 16) wide x (fld e 0x20 len) (fld e (0x20 + len) len)))
              (if op = 4 then natLe len x else []))))

/-- ORD and the order of a pair (R312, R313): a request whose source's writes have not all completed is held and counted, and so is, in a
COMBINE slice, one that touches an atom of an earlier request of its pair that is held; ORD_PACKET_RELEASE carries out, as its own row
does, the first of a source that may now be performed, and nothing where there is none. -/
def Sys2Proof.Parts.OrderKept : Prop :=
  ∀ (s : State), s.fabric.table.isSome = true →
    (∀ p : Packet, p.ord = true ∧ s.ordReady p = false ∨ (s.fabric.table.any (fun t => !t.spread) = true ∧
        ∃ q ∈ s.fabric.ordHeld, q.src = p.src ∧ sameAtom q p = true) →
      let held (o : Out) : Prop := o = .next { s with
        fabric := { s.fabric with localIn := s.fabric.localIn.erase p, ordHeld := s.fabric.ordHeld ++ [p] }
        wrap := upd s.wrap (oFab 0x1128) 0 (· + 1) }
      (p.opc = 0x01 → held (exec (.write p) s)) ∧ (p.opc = 0x02 → held (exec (.store p) s)) ∧ (p.opc = 0x03 → held (exec (.load p) s))) ∧
    (∀ src, (∀ i p, s.fabric.ordHeld[i]? = some p → p.src = src → s.mayPerform (s.fabric.ordHeld.take i) p = false) →
      exec (.ordPacketRelease src) s = .next s) ∧
    ∀ (src : Coord) (i : Nat) (p : Packet), s.fabric.ordHeld[i]? = some p → p.src = src → p ∉ s.fabric.localIn →
      s.mayPerform (s.fabric.ordHeld.eraseIdx i) p = true →
      (∀ j q, j < i → s.fabric.ordHeld[j]? = some q → q.src = src → s.mayPerform (s.fabric.ordHeld.take j) q = false) →
      let u : State := { s with fabric := { s.fabric with ordHeld := s.fabric.ordHeld.eraseIdx i } }
      let as (c : Instr) : Prop := exec (.ordPacketRelease src) s = exec c u
      (p.opc = 0x01 → as (.write p)) ∧ (p.opc = 0x02 → as (.store p)) ∧ (p.opc = 0x03 → as (.load p)) ∧
      (p.opc = 0x04 → p.aux.toNat % 16 ≤ 6 → as (.atom p)) ∧ (p.opc = 0x05 → p.aux.toNat % 16 ≤ 6 → as (.atomF p)) ∧
      (p.opc = 0x06 → p.ord = true → as (.signal p)) ∧ (p.opc = 0x07 → as (.refetch p)) ∧ (p.opc = 0x08 → reservedEntry p.payload = false → as (.far p))

/-- Atomics, their replay, far operations and ordered requests (R309, R313, R316 to R320, R326).
Completion: exec answers a next state, under conditions on the state and the operands alone, for write, store, load, atom, atomF,
refetch, far, ordPacketRelease. -/
def Obligations.AtomicsServed : Prop := Parts.AtomicsApplied ∧ Parts.FarServed ∧ Parts.OrderKept

/-! ### The router and the responses (R281 to R304, R310, R319, R321 to R323, R331) -/

/-- PACKET_ARRIVAL (R291, R294, R295, R331): the first check that fails decides. A header failure drops the packet with event 0x50 and a
drain with DR_REFORM; a packet at a fenced port, and one outside the slice, is dropped and counted. One for this device joins the local
port's queue; one that goes on by a port without credits for it waits there, with its VC for that link. The flits of each are counted for
the credits that go back to its sender (R286, R297). An uncorrectable granule of the payload sets POISON, with event 0x21 (R15, R285).
The model's own readings here: logs 90, 143. -/
def Sys2Proof.Parts.PacketsArrive : Prop :=
  ∀ (s : State) (n : Nat) (p : Packet), ((s.port n).state = .up ∨ (s.port n).state = .retrain) →
    let v := s.withPort n fun x => { x with rxDelivered := x.rxDelivered.drop p.flits }
    let u : State := { v with
      wrap := upd s.wrap (oFab (0x2008 + 0x100 * n)) 0 (· + BitVec.ofNat 64 p.flits)
      fabric := { s.fabric with arriving := n, returned := upd s.fabric.returned (32 * n + p.channel) 0 (· + p.flits) } }
    let sound := p.badHeader = false ∧ p.hchk = p.check ∧ p.cls ≠ 2 ∧ p.fixedBits = []
    let go := exec (.packetArrival n p) s
    let fails : Prop := s.dev.mode.running = true → s.dev.bound = true → ∃ t, go = .next t ∧ Logged s t 0x50 ∧
      t.dev = s.dev.drains drReform s.pt ∧ t.fabric.localIn = s.fabric.localIn ∧ t.fabric.waiting = s.fabric.waiting
    (p.badHeader = true ∨ p.hchk ≠ p.check → fails) ∧
    (sound → s.fabric.fenced.contains n = true → go = .next (u.bump (oFab 0x1028))) ∧
    (sound → s.fabric.fenced.contains n = false → (s.fabric.table = none ∨ s.inSlice n = false ∨
        ∃ k, s.fabric.table = some k ∧ p.sliceId ≠ k.sliceId) → go = .next (u.bump (oFab 0x1020))) ∧
    ∀ k, sound → s.fabric.fenced.contains n = false → s.fabric.table = some k → s.inSlice n = true → p.sliceId = k.sliceId →
      (classOf p.opc ≠ some p.cls ∨ s.inBox k p.dst = false → fails) ∧
      (classOf p.opc = some p.cls → s.inBox k p.dst = true → p.badGranules = [] →
        (s.route (some k) p.dst p.order = none →
          go = .next { u with fabric := { u.fabric with localIn := s.fabric.localIn ++ [p] } }) ∧
        ∀ out, s.route (some k) p.dst p.order = some out →
          let q := { p with vc := vcByte p.cls (s.dlAfter p (some n) out) p.order p.gnd }
          (s.fabric.fenced.contains out = true → go = .next (u.bump (oFab 0x1028))) ∧
          (s.fabric.fenced.contains out = false → k.spread = true → look s.fabric.waiting out = none →
            (s.hasCredit out q = false ∨ (s.port out).state = .retrain → go = .next { u with fabric := { u.fabric with
              waiting := put s.fabric.waiting out [q]
              waitingFrom := put s.fabric.waitingFrom out (lookD s.fabric.waitingFrom out [] ++ [n]) } }) ∧
            (s.hasCredit out q = true → (s.port out).state ≠ .retrain → ∃ t, go = .next t ∧ lookD t.fabric.waiting out [] = [] ∧
              t.used out q.channel = s.used out q.channel + q.flits ∧ lookD t.fabric.sent out [] = lookD s.fabric.sent out [] ++ [q] ∧
              (t.port out).txFlits + (t.port out).txWaiting.length =
                (s.port out).txFlits + (s.port out).txWaiting.length + (flitsOf q).length))) ∧
      (classOf p.opc = some p.cls → s.inBox k p.dst = true → s.route (some k) p.dst p.order = none → p.badGranules ≠ [] →
        p.pflags.getLsbD 2 = false → ∃ t, go = .next t ∧ Logged s t 0x21 ∧ ∃ q, t.fabric.localIn = s.fabric.localIn ++ [q] ∧
          q.pflags = p.pflags ||| 4 ∧ q.hchk = q.check ∧ q.payload = p.payload ∧ q.tag = p.tag)

/-- Departures (R282, R297, R298, R300, R311): the packet that leaves a port next has credits and is the first of its input port and virtual
channel. In a slot of a gondola it is that gondola's, if one is ready; else MGT goes where its slot in 64 has come, then RSP, then REQ.
One goes as long as any is ready. Once credits have come, a packet that waits alone leaves. The model's own readings here: log 138. -/
def Sys2Proof.Parts.DeparturesOrdered : Prop :=
  ∀ (s : State) (n : Nat),
    let w := lookD s.fabric.waiting n []
    let came (i : Nat) : Nat := (lookD s.fabric.waitingFrom n []).getD i 7
    let slot := lookD s.fabric.slots n 0
    let owned (x : Waiting) : Prop := x.2.2.gnd = true ∧ s.slotOwner n slot = some x.2.2.gid.toNat
    (∀ x, s.nextOut n = some x → w[x.1]? = some x.2.2 ∧ came x.1 = x.2.1 ∧ s.hasCredit n x.2.2 = true ∧
      (∀ i p, i < x.1 → w[i]? = some p → came i = x.2.1 → p.channel ≠ x.2.2.channel) ∧
      ∀ y ∈ s.ready n,
        (owned y → owned x) ∧
        (¬ owned x → y.2.2.cls = 2 → lookD s.fabric.mgtFree n 0 ≤ slot → x.2.2.cls = 2) ∧
        (¬ owned x → y.2.2.cls = 1 → x.2.2.cls ≠ 0) ∧
        (¬ owned x → y.2.2.cls < 2 → x.2.2.cls = 2 → lookD s.fabric.mgtFree n 0 ≤ slot)) ∧
    ((∀ p ∈ w, p.cls < 3) → (s.nextOut n = none ↔ ∀ x, x ∉ s.ready n)) ∧
    ∀ (p : Packet) (ch flits : Nat), w = [p] → p.cls < 3 → (s.port n).state ≠ .retrain →
      let u : State := { s with fabric := { s.fabric with
        credits := put s.fabric.credits (32 * n + ch) (lookD s.fabric.credits (32 * n + ch) 0 - flits) } }
      (u.hasCredit n p = true → ∃ t, exec (.creditReturn n ch flits) s = .next t ∧ lookD t.fabric.waiting n [] = [] ∧
        lookD t.fabric.sent n [] = lookD s.fabric.sent n [] ++ [p] ∧ t.used n p.channel = u.used n p.channel + p.flits) ∧
      (u.hasCredit n p = false → exec (.creditReturn n ch flits) s = .next u)

/-- A granule corrected in an input port's buffer (R15, R205) is event 0x20 of store 0x6, with the granule's byte and the bit that was
corrected: a packet whose payload had such granules is one event for each, and goes on as the corrected packet, by PACKET_ARRIVAL and by
MGT_PACKET. The model's own readings here: log 143. -/
def Sys2Proof.Parts.GranulesCorrected : Prop :=
  ∀ (s : State) (n : Nat) (p : Packet),
    let w := s.noteFixed n p
    let q := { p with fixedBits := [] }
    Frame [.card, .mgmt] s w ∧ w.card.head = s.card.head + BitVec.ofNat 32 p.fixedBits.length ∧
    (p.fixedBits ≠ [] → Logged s w 0x20) ∧
    (∀ g b, p.fixedBits = [(g, b)] → w = s.record 0x20 0 (item 1 6 ++ item 1 0 ++ item 2 n ++ item 4 (8 * g) ++ item 1 b)) ∧
    ((s.port n).state = .up ∨ (s.port n).state = .retrain → exec (.packetArrival n p) s = exec (.packetArrival n q) w) ∧
    (s.portLive n = true → s.fabric.localIn.contains p = false → s.fabric.localIn.contains q = false →
      exec (.mgtPacket n p) s = exec (.mgtPacket n q) w)

/-- MGT_PACKET (R299, R439, R444): a management packet at a live port that is not for this device goes on by its route where that port is
UP; with two detours behind it, and the port not UP, it is dropped and counted. CREDIT_RETURN (R286, R297) gives the credits of a channel
back. COMBINE_ENTRY_CLOSE (R321 to R323): an entry closes once 25 ticks of PT have passed, in the last of which its 256 ns end: a load entry takes no more requesters, an atomic entry
is gone; before, nothing happens. The model's own readings here: log 88. -/
def Sys2Proof.Parts.RouterUpkeep : Prop :=
  (∀ (s : State) (n out : Nat) (p : Packet), s.fabric.localIn.contains p = false → s.portLive n = true → p.badHeader = false →
    p.hchk = p.check → p.opc = 0xC0 → p.fixedBits = [] → s.route none p.dst false = some out →
    let u := (s.wrapBy (oFab (0x2008 + 0x100 * n)) p.flits).cameBy (some n)
    ((s.port out).state = .up → ∃ t, exec (.mgtPacket n p) s = .next t ∧
      t = u.enqueue out { p with vc := vcByte 2 (s.dlAfter p (some n) out) false false } ∧ t.mgmt.sent = s.mgmt.sent ∧
      t.fabric.localIn = s.fabric.localIn) ∧
    ((s.port out).state ≠ .up → 2 ≤ p.wcnt.toNat → exec (.mgtPacket n p) s = .next (u.bump (oFab 0x1030)))) ∧
  (∀ (s : State) (n ch flits : Nat), lookD s.fabric.waiting n [] = [] →
    exec (.creditReturn n ch flits) s = .next { s with fabric := { s.fabric with
      credits := put s.fabric.credits (32 * n + ch) (lookD s.fabric.credits (32 * n + ch) 0 - flits) } }) ∧
  ∀ (s : State) (n i : Nat) (c : Combine), (s.combinesOf n)[i]? = some c →
    let age := s.pt.toNat - c.opened.toNat
    (age < 25 → exec (.combineEntryClose n i) s = .next s) ∧
    (25 ≤ age → c.isLoad = true → ∃ t, exec (.combineEntryClose n i) s = .next t ∧ (t.combinesOf n)[i]? = some { c with open_ := false } ∧
      (∀ j, j ≠ i → (t.combinesOf n)[j]? = (s.combinesOf n)[j]?) ∧
      t = { s with fabric := { s.fabric with combines := t.fabric.combines, arriving := 7 } }) ∧
    (25 ≤ age → c.isLoad = false → ∃ v t : State, exec (.combineEntryClose n i) s = .next t ∧ v.combinesOf n = (s.combinesOf n).eraseIdx i ∧
      v = { s with fabric := { s.fabric with combines := v.fabric.combines, arriving := 7 } } ∧
      t = v.enqueue n (if c.waiters.length = 1 then c.first else c.combined s.here))

/-- Packets arrive, wait, are combined and go on (R281 to R299, R321 to R323, R331).
Completion: exec answers a next state, under conditions on the state and the operands alone, for packetArrival, mgtPacket,
combineEntryClose, creditReturn. -/
def Obligations.RouterArrivals : Prop := Parts.PacketsArrive ∧ Parts.GranulesCorrected ∧ Parts.DeparturesOrdered ∧ Parts.RouterUpkeep

/-- ACK, DATA, RESULT and FAR_RSP (R126, R128, R303, R304, R307, R310), where nothing waits for an operation: the operation in flight that the response answers ends. A write of
CP_REMOTE or a SEM_REMOTE has one fewer open, and completes with its last. An entry of an operation list has its reply, and the list whose
last reply it is writes its reply frame and completes. A response that answers nothing does nothing. -/
def Sys2Proof.Parts.OperationsEnd : Prop :=
  ∀ (s : State) (p : Packet),
    let gone : State := { s with fabric := { s.fabric with localIn := s.fabric.localIn.erase p } }
    (s.flightFor p = none → p.cmb = false → exec (.ack p) s = .next gone ∧ exec (.data p) s = .next gone ∧
      exec (.result p) s = .next gone ∧ exec (.farRsp p) s = .next gone) ∧
    ∀ f, s.flightFor p = some f → s.waiters = [] → s.inFlight < 32767 →
      let u : State := { gone with fabric := { gone.fabric with flights := s.fabric.flights.erase f } }
      (∀ i o, (f.kind = .dmaRemote ∨ f.kind = .signal) → (s.st f.station).sendQ = [] → Open s f.station →
        (s.st f.station).indexOf f.cmd = some i → (s.st f.station).outstanding[i]? = some o →
        let r := { s.st f.station with outstanding := updAt (s.st f.station).outstanding i fun o => { o with open_ := o.open_ - 1 } }
        (1 < o.open_ → ∃ t, exec (.ack p) s = .next t ∧ Moves u t f.station r []) ∧
        (o.open_ = 1 → ∃ t, exec (.ack p) s = .next t ∧ Completed u t f.station r i { o with open_ := 0 })) ∧
      (∀ (id row : Nat) (l : OpList), s.fabric.lists = [l] → l.id = id → l.station = f.station → l.next = l.rows → p.cmb = false →
        (f.kind = .listEntry id row ∨ f.kind = .far id row) →
        let n := entryBytes4 (l.entries.getD row [])
        let poisoned := !p.badGranules.isEmpty
        let status := p.aux.toNat % 256
        let kept (reply : List Byte) : OpList := { l with replies := put l.replies row reply }
        let ends (out : Out) (reply : List Byte) : Prop :=
          ((kept reply).replies.length ≠ l.rows →
            out = .next { u with fabric := { u.fabric with lists := [kept reply] } }) ∧
          (∀ i o, (kept reply).replies.length = l.rows → (s.st l.station).indexOf l.cmd = some i →
            (s.st l.station).outstanding[i]? = some o → o.open_ = 1 → Open s l.station →
            let a := s.slotAddr l.outStream l.slot
            s.mapped a frameBytes → a % 8 = 0 → s.stores.mem.wf = true →
            ∃ w t, out = .next t ∧ Wrote u w a (replyFrame (kept reply)) ∧ t.stores = w.stores ∧ t.fabric.lists = [] ∧
              t.st l.station = (({ s.st l.station with outstanding := updAt (s.st l.station).outstanding i fun o =>
                { o with open_ := o.open_ - 1 } }).completes i { o with open_ := 0 }).settled ∧ ∀ k, k ≠ l.station → t.st k = s.st k)
        (f.kind = .listEntry id row → ends (exec (.ack p) s) (replyEntry status []) ∧
          ends (exec (.data p) s) (replyEntry (if poisoned then 4 else status) (if poisoned = false ∧ status = 0 then p.payload.take n else [])) ∧
          (poisoned = false → ends (exec (.result p) s) (replyEntry status (p.payload.take n)))) ∧
        (f.kind = .far id row → ends (exec (.farRsp p) s) (padTo 64 p.payload)))

/-- RESULT (R319): one that cannot be read is asked for again with a REFETCH, twice at most, and counted; its operation stays in flight.
DATA of a combined LOAD (R285, R321): the entry that it answers is gone, and each requester's DATA goes on with that requester's TAG.
The model's own readings here: log 87. -/
def Sys2Proof.Parts.ResultsAskedAgain : Prop :=
  (∀ (s : State) (p : Packet) (f : FlightOp) (id row : Nat), s.flightFor p = some f → f.kind = .listEntry id row → p.badGranules ≠ [] →
    let gone : State := { s with fabric := { s.fabric with localIn := s.fabric.localIn.erase p } }
    (f.refetches < 2 → exec (.result p) s = .next ((({ gone with fabric := { gone.fabric with
        flights := s.fabric.flights.map fun x => if x = f then { f with refetches := f.refetches + 1 } else x } } : State).bump
          (oFab 0x1018)).inject { opc := 0x07, dst := f.dst, src := 0, sliceId := 0, seq := p.seq, tag := p.tag })) ∧
    (2 ≤ f.refetches → s.dev.mode.running = true → s.dev.bound = true → ∃ t, exec (.result p) s = .next t ∧ Logged s t 0x50 ∧
      t.dev = s.dev.drains drReform s.pt)) ∧
  ∀ (s : State) (p w : Packet) (n i : Nat) (c : Combine), p.cmb = true → s.loadEntry p = some (n, i) → (s.combinesOf n)[i]? = some c →
    c.waiters = [w] → ∃ v : State, exec (.data p) s = .next (v.forward none { p with
        pflags := (p.pflags &&& 0xFD) ||| (w.pflags &&& 2), dst := w.src, tag := w.tag, vc := vcByte 1 false false false }.restamp) ∧
      v.combinesOf n = (s.combinesOf n).eraseIdx i ∧ v = { s with fabric := { s.fabric with
        localIn := s.fabric.localIn.erase p, combines := v.fabric.combines } }

/-- Responses end what is in flight (R128, R303, R304, R307, R310, R319, R321).
Completion: exec answers a next state, under conditions on the state and the operands alone, for ack, data, result, farRsp. -/
def Obligations.ResponsesEnd : Prop := Parts.OperationsEnd ∧ Parts.ResultsAskedAgain

/-! ### Collectives (R336 to R353) -/

/-- COL_RS and COL_AG (R336 to R339, R345): with no command of the group in progress and every input frame verified in order, the command
issues, exec answering a next state, with the station's next serial number and becomes the group's; it advances its input by M × COUNT, or COUNT, frames and its output
by COUNT, or M × COUNT. In an instance of this member alone, a command of one frame writes it at once at its output slot. With a command
of the group in progress it waits. The model's own readings here: log 31. -/
def Sys2Proof.Parts.CollectivesBegin : Prop :=
  ∀ (s v : State) (st : Nat) (cf : Common) (i o count : Nat) (fs : List (List Byte)) (kind : CollKind), kind ≠ .digest →
    Ready s st cf isCollective →
    let r := (s.st st).entered cf
    let u := s.entered st cf
    let k := s.paramsOf st
    let ring := s.ringOf k.group
    let row := if kind = .rs then Instr.colRs st cf i o count .clean else .colAg st cf i o count .clean
    let acc := (fmtOf k.accFmt).getD .fp32
    let nin := if kind = .rs then ring.size * count else count
    let nout := if kind = .rs then count else ring.size * count
    let does (out : Out) : Prop :=
      (lookD s.thermal.pause 0 0 = 8 ∨ s.coll k.group ≠ none → ∃ t, out = .next t ∧ Moves s t st r []) ∧
      (lookD s.thermal.pause 0 0 ≠ 8 → s.coll k.group = none → ring.size * count < 2 ^ 32 →
        (∀ x ∈ s.relay.staged, x.group ≠ k.group) →
        u.collInputs st i nin .clean row (fun f => kind != .rs || reducible acc f) = (v, some fs) →
        ∃ t c, out = .next t ∧ (t.coll k.group) = some c ∧ c.kind = kind ∧ c.station = st ∧ c.serial = r.serial.toNat ∧
          c.step = r.stepNo ∧ c.count = count ∧ c.outPort = o ∧ c.outBase = r.outPos o ∧ c.failed = false ∧ (t.st st).pc = r.pc + 1 ∧
          (t.st st).serial = r.serial + 1 ∧ (t.st st).outstanding = (r.issued [{
            kind := .coll, signal := signalOf cf
            adv := if cf.adv then [{ out := false, port := i, count := nin }, { out := true, port := o, count := nout }] else [] }]).outstanding ∧
          (∀ n, n ≠ st → t.st n = s.st n) ∧ (∀ g, g ≠ k.group → t.coll g = s.coll g) ∧
          (ring.axes ≠ [] → 0 < count → (∀ b, b < 3 → ring.m b < ring.g b) → c.finished = false ∧ t.stores = v.stores) ∧
          (ring.axes = [] → (∀ b, b < 3 → ring.m b < ring.g b) → c.finished = true ∧
            let a := u.outAddr st o
            let seq := r.outPos o % 2 ^ 32
            let res := if kind = .rs then restamp (firstPartial acc st r.stepNo.toNat 0 (fs.headD [])) (s.outStream st o) seq
              else ownerFrame (fs.headD []) st (s.outStream st o) seq r.stepNo.toNat
            (count = 1 → v.mapped a frameBytes → a % 8 = 0 → s.stores.mem.wf = true → ∃ w, Wrote v w a res ∧ t.stores = w.stores)))
    (kind = .rs → does (exec (.colRs st cf i o count .clean) s)) ∧ (kind = .ag → does (exec (.colAg st cf i o count .clean) s))

/-- COL_DIGEST (R349, R350): the command issues with the digest of its object's frames as its tally; with other members it sends it on as
an operation in flight, and alone it is final. With other members and no operation free it waits (R126, R303).
The model's own readings here: log 31. -/
def Sys2Proof.Parts.DigestsBegin : Prop :=
  ∀ (s v : State) (st object : Nat) (cf : Common) (d : Word), Ready s st cf isCollective →
    let r := (s.st st).entered cf
    let u := s.entered st cf
    let g := (s.paramsOf st).group
    let ring := s.ringOf g
    lookD s.thermal.pause 0 0 ≠ 8 → s.coll g = none → (∀ x ∈ s.relay.staged, x.group ≠ g) → (∀ m ∈ s.relay.tallies, m.group ≠ g) →
    (ring.axes ≠ [] → 32768 ≤ u.inFlight → ∃ t, exec (.colDigest st cf object) s = .next t ∧
      Moves u t st { r with opSince := some (r.opSince.getD s.pt) } []) ∧
    (ring.axes = [] ∨ u.inFlight < 32768 → u.digestOf st object = (v, d) → ∃ t c, exec (.colDigest st cf object) s = .next t ∧ t.coll g = some c ∧ c.kind = .digest ∧ c.station = st ∧ c.serial = r.serial.toNat ∧
      c.object = object ∧ c.own = d ∧ c.tally = [{ digest := d, count := 1, rank := ring.rank }] ∧ c.finished = ring.axes.isEmpty ∧
      (t.st st).pc = r.pc + 1 ∧ (t.st st).serial = r.serial + 1 ∧ (∀ n, n ≠ st → t.st n = s.st n) ∧
      t.fabric.flights.length = s.fabric.flights.length + (if ring.axes.isEmpty then 0 else 1) ∧ t.stores = v.stores)

/-- COLLECTIVE_COMPLETE (R339, R351, R352): a finished command with no packet unacknowledged is the group's no more; the laggard registers
take its LAG, the worst pair and its serial number, a digest that every member agrees on its own registers, and the station's command
completes. One that is not finished, or not acknowledged, goes on. -/
def Sys2Proof.Parts.CollectivesEnd : Prop :=
  ∀ (s : State) (st i : Nat) (c : Coll) (o : Outst),
    let g := (s.paramsOf st).group
    s.coll g = some c → c.station = st →
    (c.finished = false ∨ s.collAcked c = false → exec (.collectiveComplete st) s = .next s) ∧
    (c.finished = true → s.collAcked c = true → (s.worstOf c).1 < 1000 * s.relay.lagAlertUs.toNat → c.lag < 1000 * s.relay.lagAlertUs.toNat →
      (c.kind = .digest → c.tally.length ≤ 1) → Open s st → (s.st st).firstOf .coll = some i → (s.st st).outstanding[i]? = some o →
      ∃ t, exec (.collectiveComplete st) s = .next t ∧ t.coll g = none ∧ (∀ h, h ≠ g → t.coll h = s.coll h) ∧
        (let x := lookD t.relay.regs g {}
         x.ownLag = BitVec.ofNat 32 c.lag ∧ x.worstLag = BitVec.ofNat 32 (s.worstOf c).1 ∧ x.worstRank = BitVec.ofNat 18 (s.worstOf c).2 ∧
         x.serial = BitVec.ofNat 32 c.serial ∧ (c.kind = .digest → x.digest = c.own)) ∧
        (∀ h, h ≠ g → lookD t.relay.regs h {} = lookD s.relay.regs h {}) ∧
        t.relay.agreed = (if c.kind = .digest then put s.relay.agreed g c.step else s.relay.agreed) ∧
        lookD t.wrap (oRly 0x1100) 0 = lookD s.wrap (oRly 0x1100) 0 + 1 ∧
        Completed { s with relay := t.relay, wrap := t.wrap } t st (s.st st) i o)

/-- Collective commands begin and end (R336 to R339, R349 to R352).
Completion: exec answers a next state, under conditions on the state and the operands alone, for colRs, colAg, colDigest,
collectiveComplete. -/
def Obligations.CollectiveCommands : Prop := Parts.CollectivesBegin ∧ Parts.DigestsBegin ∧ Parts.CollectivesEnd

/-- RELAY (R344 to R347, R354, R361): without a command of its group a packet stays in its staging slot, beside the other half. A frame
that its command expects next is verified as it leaves staging: one whose CRC fails, also where it is read again, or that is not the one
expected, is a tile-integrity fault, with event 0x13, and its command does not complete; one whose second read verifies is a transient,
counted, with one point (R58); one whose combination fails its residue checks twice is event 0x62 and a drain with DR_SILENT. One that passes is combined or forwarded: it
leaves staging, and its ring counts it. The model's own readings here: logs 31, 94. -/
def Sys2Proof.Parts.RelayReceives : Prop :=
  ∀ (s : State) (p : Packet), s.job.isSome = true → s.dev.bound = true →
    let g := p.windowId.toNat % 16
    let slot := p.offset.toNat % 65536
    let old := (s.relay.staged.find? fun x => x.src = p.src && x.group = g && x.slot = slot).getD { src := p.src, group := g, slot := slot }
    let half : Staged := if p.offset.toNat / 65536 % 2 = 1 then { old with part1 := some p } else { old with part0 := some p }
    (s.coll g = none → ∀ n, ∃ t x, exec (.relay p n) s = .next t ∧ t.relay.staged = s.relay.staged.filter (· != old) ++ [x] ∧
      x.src = half.src ∧ x.group = g ∧ x.slot = slot ∧ x.part0 = half.part0 ∧ x.part1 = half.part1 ∧
      (half.part0.isSome = true → half.part1.isSome = true → x.arrived = s.pt) ∧
      t = { s with relay := { s.relay with staged := t.relay.staged }
                   fabric := { s.fabric with localIn := s.fabric.localIn.erase p } }) ∧
    ∀ (c : Coll) (a : Nat) (p0 p1 : Packet), s.coll g = some c → s.relayPaused = false → c.kind ≠ .digest → c.failed = false →
      (s.st c.station).stopped = false → s.dev.mode.running = true →
      (s.ringOf g).axes[c.stage]? = some a → s.relay.staged.filter (· != old) = [] → half.part0 = some p0 → half.part1 = some p1 →
      slot = s.slotAt g false (lookD s.relay.recv (ringKey g false) 0) → slot < s.slotBase g + s.slotsOf g →
      s.slotAt g true (lookD s.relay.recv (ringKey g true) 0) ≠ slot →
      let reduce := decide (c.kind = .rs)
      let keys := (s.ringOf g).recvKeys reduce a c.count false
      let m := c.plus.recv
      let f := p0.payload ++ p1.payload.take 160
      let tr := p1.payload.drop 160
      let step := m / max 1 (keys.length / max 1 ((s.ringOf g).g a - 1)) + 1
      let fits := fld tr 0 4 = c.serial ∧ fld tr 4 1 = c.kind.opk ∧ fld tr 5 1 = stageByte a false ∧ fld tr 6 2 = step
      let sound := p0.badGranules = [] ∧ p1.badGranules = [] ∧ crcOk f = true
      m < keys.length →
      let passed (t : State) : Prop := t.relay.staged = [] ∧
        lookD t.relay.recv (ringKey g false) 0 = lookD s.relay.recv (ringKey g false) 0 + 1
      (∀ n : RelayChecks, ¬ sound ∨ 1 < n.reads ∨ n.reads = 0 ∧ ¬ fits → ∃ t, exec (.relay p n) s = .next t ∧
        (t.st c.station).stopped = true ∧ Logged s t 0x13 ∧ t.dev.mode = .drain ∧ t.dev.has drReform = true ∧
        lookD t.sat (oRly 0x1008) 0 = (if sound ∧ n.reads = 0 then lookD s.sat (oRly 0x1008) 0 else (satAdd (lookD s.sat (oRly 0x1008) 0) 1).1) ∧
        ∃ d, t.coll g = some d ∧ d.failed = true) ∧
      (∀ n : RelayChecks, sound → fits → n.reads = 0 → reduce = true → 2 ≤ n.combiner → s.ringFree g false = false →
        s.ringFree g true = false → ∃ t, exec (.relay p n) s = .next t ∧ Logged s t 0x62 ∧
        t.dev = s.dev.drains drSilent s.pt ∧ ∃ d, t.coll g = some d ∧ d.failed = true) ∧
      (sound → fits → reduce = false → ∃ t, exec (.relay p {}) s = .next t ∧ passed t) ∧
      (sound → fits → reduce = false → s.nvm.levelOk = true → s.nvm.level.toNat + 256 < s.bucket.high.toNat * 256 →
        s.bucket.high.toNat ≤ 64 → ∃ t, exec (.relay p { reads := 1 }) s = .next t ∧ passed t ∧
          t.nvm.level.toNat = s.nvm.level.toNat + 256 ∧ lookD t.sat (oRly 0x1008) 0 = (satAdd (lookD s.sat (oRly 0x1008) 0) 1).1) ∧
      (sound → fits → reduce = true → (combineFrames (s.accOf c) (s.paramsOf c.station).reduce c.station c.step.toNat
          (keys.getD m 0 % max 1 c.count) f (lookD c.held (keys.getD m 0) [])).isSome = true →
        ∃ t, exec (.relay p {}) s = .next t ∧ passed t)

/-- RELAY_TALLY (R350): a tally of a group without a command waits for one, and is acknowledged. Tallies merge by digest: counts add, the
lower rank stays, and the entries stand in order of falling count. RELAY_ACK (R346, R347), where nothing waits for an operation, ends the
operation of its packet.
The model's own readings here: log 94. -/
def Sys2Proof.Parts.TalliesAndAcks : Prop :=
  (∀ (s : State) (p : Packet), s.job.isSome = true → s.dev.bound = true → s.coll (p.windowId.toNat % 16) = none →
    let m : TallyMsg := { group := p.windowId.toNat % 16, serial := fld (p.payload.drop 64) 0 4, stage := fld (p.payload.drop 64) 5 1
                          step := fld (p.payload.drop 64) 6 2, bytes := p.payload.take 64 }
    let gone : State := { s with fabric := { s.fabric with localIn := s.fabric.localIn.erase p } }
    let sent := gone.inject { opc := 0x85, dst := p.src, src := 0, sliceId := 0, windowId := p.windowId, offset := p.offset, tag := p.tag }
    exec (.relayTally p) s = .next { sent with relay := { s.relay with tallies := s.relay.tallies ++ [m] } }) ∧
  (∀ (d e : Word) (a b x y : Nat), mergeTally [{ digest := d, count := a, rank := x }, { digest := e, count := b, rank := y }] =
    (if d = e then [{ digest := d, count := a + b, rank := min x y }]
      else if b < a ∨ a = b ∧ x ≤ y then [{ digest := d, count := a, rank := x }, { digest := e, count := b, rank := y }]
      else [{ digest := e, count := b, rank := y }, { digest := d, count := a, rank := x }], false)) ∧
  ∀ (s : State) (p : Packet),
    let gone : State := { s with fabric := { s.fabric with localIn := s.fabric.localIn.erase p } }
    (s.flightFor p = none → exec (.relayAck p) s = .next gone) ∧
    ∀ f k, s.flightFor p = some f → f.kind = .relay k → s.coll (k / 2) = none → s.waiters = [] → s.inFlight < 32767 →
      ∃ t, exec (.relayAck p) s = .next t ∧ t.fabric = { gone.fabric with flights := s.fabric.flights.erase f } ∧
        t = { s with fabric := t.fabric, relay := { s.relay with noSlot := t.relay.noSlot } }

/-- The packets of the Relay engine (R344 to R350, R354, R361).
Completion: exec answers a next state, under conditions on the state and the operands alone, for relay, relayTally, relayAck. -/
def Obligations.RelayPackets : Prop := Parts.RelayReceives ∧ Parts.TalliesAndAcks

/-! ### Sensors and steps (R398 to R405) -/

/-- SENSOR_READING (R398 to R402): below 115 °C a reading is kept with its time, no other sensor changes, and the die's pause count becomes
what R401 gives from its temperature, unless a step holds it. The third reading in a row beyond 8 °C of the estimate makes a sensor
suspect, with event 0x72. A stack's temperature is kept so too. In OFF, and in STANDBY outside the island, nothing reads.
The model's own readings here: logs 36, 37, 100. -/
def Sys2Proof.Parts.SensorsRead : Prop :=
  ∀ (s : State) (i : Nat) (t : Int),
    let die := dieOfSensor i
    let x := s.sensor i
    let ploughed (u : State) : Prop := (∀ d, d ≠ die → lookD u.thermal.pause d 0 = lookD s.thermal.pause d 0) ∧
      lookD u.thermal.pause die 0 = (if s.thermal.stepActive && stepHolds die then lookD s.thermal.pause die 0
        else nextPause die (lookD s.thermal.pause die 0) (u.dieTemp die).1)
    ((s.dev.mode = .off ∨ s.dev.mode = .standby ∧ (i < 384 ∨ 388 ≤ i) ∨ 488 ≤ i) → exec (.sensorReading i t) s = .next s) ∧
    (s.dev.mode ≠ .off → s.dev.mode ≠ .standby → i < 476 → t < 7360 → ∃ u, exec (.sensorReading i t) s = .next u ∧
      (u.sensor i).t = t ∧ (u.sensor i).valid = true ∧ (u.sensor i).lastPt = s.pt ∧ (∀ j, j ≠ i → u.sensor j = s.sensor j) ∧ ploughed u ∧
      (s.checked = true → s.checkable i = true → x.faulty = false → x.suspect = false → x.badRun = 2 → 512 < (t - (u.sensor i).est).natAbs →
        (u.sensor i).suspect = true ∧ Logged s u 0x72) ∧
      (s.checked = true → x.suspect = false → (t - (u.sensor i).est).natAbs ≤ 512 → (u.sensor i).suspect = false) ∧
      Frame [.thermal, .card, .mgmt, .sat, .cells, .glide] s u) ∧
    (∀ m, i = 476 + m → m < 12 → s.dev.mode ≠ .off → s.dev.mode ≠ .standby → ∃ u, exec (.sensorReading i t) s = .next u ∧
      u.thermal.stackTemp = put s.thermal.stackTemp m t ∧ ploughed u ∧ Frame [.thermal, .card, .mgmt] s u)

/-- STEP_CONFIRMATION (R201, R403, R404): two neighbours that change as a step asks confirm it: every ticket is withdrawn, grants stop, the
compute dies and Glide engines pause at p = 8, an engine in service is due for a retrack, and event 0x73 records it. Else the sensor is
suspect, with event 0x74. STEP_END (R404): 1 ms after the last step shown, grants resume and the pause counts are those of R401.
The model's own readings here: log 100. -/
def Sys2Proof.Parts.StepsJudged : Prop :=
  (∀ (s : State) (i : Nat) (first : Word) (change : Int) (l : List Int), s.thermal.stepShown.find? (·.1 = i) = some (i, first, change) →
    (stepConfirmed change l = true → ∃ t, exec (.stepConfirmation i l) s = .next t ∧ t.thermal.stepActive = true ∧
      t.thermal.stepLast = s.pt ∧ t.power.held = [] ∧ (∀ d, 1 ≤ d → d ≤ 0x14 → lookD t.thermal.pause d 0 = 8) ∧ Logged s t 0x73 ∧
      (∀ n, n < 4 → (s.engine n).state = 1 → (t.engine n).retrackDue = true ∧ (t.engine n).oocSince.isSome = true)) ∧
    (stepConfirmed change l = false → ∃ t, exec (.stepConfirmation i l) s = .next t ∧ (t.sensor i).suspect = true ∧
      t.thermal.stepActive = s.thermal.stepActive ∧ Recorded s t 0x74 ∧ Frame [.thermal, .card, .mgmt, .sat, .cells] s t)) ∧
  (∀ (change a b : Int), stepConfirmed change [a, b] = true ↔
    (0 < a * change ∧ change.natAbs ≤ 2 * a.natAbs) ∧ (0 < b * change ∧ change.natAbs ≤ 2 * b.natAbs)) ∧
  ∀ s : State,
    let isOver := s.thermal.stepActive = true ∧ 100000 ≤ s.pt.toNat - s.thermal.stepLast.toNat
    (isOver → ∃ t, exec .stepEnd s = .next t ∧ t.thermal.stepActive = false ∧
      (∀ d, 1 ≤ d → d ≤ 0x14 → lookD t.thermal.pause d 0 = pauseOf d (s.dieTemp d).1) ∧ t.power = s.power ∧ Frame [.thermal, .card, .mgmt] s t) ∧
    (¬ isOver → exec .stepEnd s = .next s)

/-- Temperatures and their steps (R398 to R404).
Completion: exec answers a next state, under conditions on the state and the operands alone, for sensorReading, stepConfirmation,
stepEnd. -/
def Obligations.SensorsAndSteps : Prop := Parts.SensorsRead ∧ Parts.StepsJudged

end
end

