-- ==== Sys2Proof/Laws/Frame.lean ====
section
/-!
SUPPORT. Which parts of the state each shared operation may change (Frame of Safety.lean), each said once: an operation on
a state that agrees with s but for the parts of l agrees with s but for them too, where l covers its own parts.
-/
namespace Sys2Proof.Machine

-- Proofs are checked one after another: many at once take more threads than the check allows.
set_option Elab.async false

/-- Every part of one list is in another. -/
def covers (k l : List StatePart) : Bool := k.all l.contains

theorem covers_mem {k l : List StatePart} (h : covers k l = true) {p : StatePart} (hp : p ∈ k) : p ∈ l := by
  simpa using List.all_eq_true.mp h p hp

theorem covers_trans {j k l : List StatePart} (h : covers k l = true) (hj : covers j k = true) : covers j l = true := by
  refine List.all_eq_true.mpr fun p hp => ?_
  simpa using covers_mem h (covers_mem hj hp)

theorem StatePart.same_refl (p : StatePart) (s : State) : p.same s s := by cases p <;> rfl

theorem StatePart.same_trans {p : StatePart} {s t u : State} (h : p.same s t) (k : p.same t u) : p.same s u := by
  cases p <;> exact Eq.trans k h

variable {l : List StatePart} {s t u : State}

theorem Frame.refl (l : List StatePart) (s : State) : Frame l s s := fun p _ => p.same_refl s

theorem Frame.trans (h : Frame l s t) (k : Frame l t u) : Frame l s u := fun p hp => StatePart.same_trans (h p hp) (k p hp)

/-- A step that changes some parts only, among those of l. -/
theorem Frame.step {k : List StatePart} (h : Frame l s t) (hk : covers k l = true) (hu : Frame k t u) : Frame l s u :=
  h.trans fun p hp => hu p fun q => hp (covers_mem hk q)

theorem Frame.withDev (h : Frame l s t) (f : Device → Device) (hl : covers [.dev] l = true) : Frame l s (t.withDev f) :=
  h.step hl fun p hp => by cases p <;> first | rfl | exact absurd (.head _) hp

theorem Frame.withPins (h : Frame l s t) (f : Pins → Pins) (hl : covers [.pins] l = true) : Frame l s (t.withPins f) :=
  h.step hl fun p hp => by cases p <;> first | rfl | exact absurd (.head _) hp

theorem Frame.withClocks (h : Frame l s t) (f : Clocks → Clocks) (hl : covers [.clocks] l = true) : Frame l s (t.withClocks f) :=
  h.step hl fun p hp => by cases p <;> first | rfl | exact absurd (.head _) hp

theorem Frame.withBoot (h : Frame l s t) (f : Boot → Boot) (hl : covers [.boot] l = true) : Frame l s (t.withBoot f) :=
  h.step hl fun p hp => by cases p <;> first | rfl | exact absurd (.head _) hp

theorem Frame.withNvm (h : Frame l s t) (f : Nvm → Nvm) (hl : covers [.nvm] l = true) : Frame l s (t.withNvm f) :=
  h.step hl fun p hp => by cases p <;> first | rfl | exact absurd (.head _) hp

theorem Frame.withCard (h : Frame l s t) (f : Scorecard → Scorecard) (hl : covers [.card] l = true) : Frame l s (t.withCard f) :=
  h.step hl fun p hp => by cases p <;> first | rfl | exact absurd (.head _) hp

theorem Frame.withMgmt (h : Frame l s t) (f : Mgmt → Mgmt) (hl : covers [.mgmt] l = true) : Frame l s (t.withMgmt f) :=
  h.step hl fun p hp => by cases p <;> first | rfl | exact absurd (.head _) hp

theorem Frame.withI3c (h : Frame l s t) (f : I3c → I3c) (hl : covers [.mgmt] l = true) : Frame l s (t.withI3c f) :=
  h.step hl fun p hp => by cases p <;> first | rfl | exact absurd (.head _) hp

theorem Frame.withConfig (h : Frame l s t) (f : ImageConfig → ImageConfig) (hl : covers [.config] l = true) : Frame l s (t.withConfig f) :=
  h.step hl fun p hp => by cases p <;> first | rfl | exact absurd (.head _) hp

theorem Frame.withTest (h : Frame l s t) (f : TestStatus → TestStatus) (hl : covers [.test] l = true) : Frame l s (t.withTest f) :=
  h.step hl fun p hp => by cases p <;> first | rfl | exact absurd (.head _) hp

theorem Frame.withPower (h : Frame l s t) (f : Power → Power) (hl : covers [.power] l = true) : Frame l s (t.withPower f) :=
  h.step hl fun p hp => by cases p <;> first | rfl | exact absurd (.head _) hp

theorem Frame.withThermal (h : Frame l s t) (f : Thermal → Thermal) (hl : covers [.thermal] l = true) : Frame l s (t.withThermal f) :=
  h.step hl fun p hp => by cases p <;> first | rfl | exact absurd (.head _) hp

theorem Frame.withCells (h : Frame l s t) (f : Cells → Cells) (hl : covers [.cells] l = true) : Frame l s (t.withCells f) :=
  h.step hl fun p hp => by cases p <;> first | rfl | exact absurd (.head _) hp

theorem Frame.withCap (h : Frame l s t) (f : CapMap → CapMap) (hl : covers [.cap] l = true) : Frame l s (t.withCap f) :=
  h.step hl fun p hp => by cases p <;> first | rfl | exact absurd (.head _) hp

theorem Frame.withBucket (h : Frame l s t) (f : Bucket → Bucket) (hl : covers [.bucket] l = true) : Frame l s (t.withBucket f) :=
  h.step hl fun p hp => by cases p <;> first | rfl | exact absurd (.head _) hp

theorem Frame.withGlide (h : Frame l s t) (f : Glide → Glide) (hl : covers [.glide] l = true) : Frame l s (t.withGlide f) :=
  h.step hl fun p hp => by cases p <;> first | rfl | exact absurd (.head _) hp

theorem Frame.withLinks (h : Frame l s t) (f : Links → Links) (hl : covers [.links] l = true) : Frame l s (t.withLinks f) :=
  h.step hl fun p hp => by cases p <;> first | rfl | exact absurd (.head _) hp

theorem Frame.withFabric (h : Frame l s t) (f : Fabric → Fabric) (hl : covers [.fabric] l = true) : Frame l s (t.withFabric f) :=
  h.step hl fun p hp => by cases p <;> first | rfl | exact absurd (.head _) hp

theorem Frame.withRelay (h : Frame l s t) (f : Relay → Relay) (hl : covers [.relay] l = true) : Frame l s (t.withRelay f) :=
  h.step hl fun p hp => by cases p <;> first | rfl | exact absurd (.head _) hp

theorem Frame.withJob (h : Frame l s t) (f : Job → Job) (hl : covers [.job] l = true) : Frame l s (t.withJob f) :=
  h.step hl fun p hp => by cases p <;> first | rfl | exact absurd (.head _) hp

theorem Frame.withSt (h : Frame l s t) (n : Nat) (f : StationRt → StationRt) (hl : covers [.cells] l = true) :
    Frame l s (t.withSt n f) :=
  h.step hl fun p hp => by cases p <;> first | rfl | exact absurd (.head _) hp

theorem Frame.withPCell (h : Frame l s t) (n : Nat) (f : PCell → PCell) (hl : covers [.cells] l = true) :
    Frame l s (t.withPCell n f) :=
  h.step hl fun p hp => by cases p <;> first | rfl | exact absurd (.head _) hp

theorem Frame.withCluster (h : Frame l s t) (n : Nat) (f : Cluster → Cluster) (hl : covers [.cells] l = true) :
    Frame l s (t.withCluster n f) :=
  h.step hl fun p hp => by cases p <;> first | rfl | exact absurd (.head _) hp

theorem Frame.withStack (h : Frame l s t) (n : Nat) (f : Stack → Stack) (hl : covers [.stores] l = true) :
    Frame l s (t.withStack n f) :=
  h.step hl fun p hp => by cases p <;> first | rfl | exact absurd (.head _) hp

theorem Frame.withEngine (h : Frame l s t) (n : Nat) (f : Engine → Engine) (hl : covers [.glide] l = true) :
    Frame l s (t.withEngine n f) :=
  h.step hl fun p hp => by cases p <;> first | rfl | exact absurd (.head _) hp

theorem Frame.withPort (h : Frame l s t) (n : Nat) (f : Port → Port) (hl : covers [.links] l = true) :
    Frame l s (t.withPort n f) :=
  h.step hl fun p hp => by cases p <;> first | rfl | exact absurd (.head _) hp

/-- An update of the stores that leaves the memory. -/
theorem Frame.withStores (h : Frame l s t) (f : Stores → Stores) (hl : covers [.stores] l = true)
    (hm : (f t.stores).mem = t.stores.mem) : Frame l s (t.withStores f) :=
  h.step hl fun p hp => by cases p <;> first | rfl | exact hm | exact absurd (.head _) hp

/-- Any update of the stores. -/
theorem Frame.withStoresMem (h : Frame l s t) (f : Stores → Stores) (hl : covers [.stores, .mem] l = true) :
    Frame l s (t.withStores f) :=
  h.step hl fun p hp => by cases p <;> first | rfl | exact absurd (.head _) hp | exact absurd (.tail _ (.head _)) hp

theorem Frame.wrapBy (h : Frame l s t) (o n : Nat) (hl : covers [.wrap] l = true) : Frame l s (t.wrapBy o n) :=
  h.step hl fun p hp => by cases p <;> first | rfl | exact absurd (.head _) hp

/-- A state written out from t: each part is that of t, or one of l. -/
theorem Frame.parts (h : Frame l s t) {dev pins clocks pt boot fuses nvm card mgmt img config test power thermal cells cap bucket stores glide links fabric windows restore relay job sat wrap freeIdx}
    (hdev : .dev ∈ l ∨ dev = t.dev)
    (hpins : .pins ∈ l ∨ pins = t.pins)
    (hclocks : .clocks ∈ l ∨ clocks = t.clocks)
    (hpt : .pt ∈ l ∨ pt = t.pt)
    (hboot : .boot ∈ l ∨ boot = t.boot)
    (hfuses : .fuses ∈ l ∨ fuses = t.fuses)
    (hnvm : .nvm ∈ l ∨ nvm = t.nvm)
    (hcard : .card ∈ l ∨ card = t.card)
    (hmgmt : .mgmt ∈ l ∨ mgmt = t.mgmt)
    (himg : .img ∈ l ∨ img = t.img)
    (hconfig : .config ∈ l ∨ config = t.config)
    (htest : .test ∈ l ∨ test = t.test)
    (hpower : .power ∈ l ∨ power = t.power)
    (hthermal : .thermal ∈ l ∨ thermal = t.thermal)
    (hcells : .cells ∈ l ∨ cells = t.cells)
    (hcap : .cap ∈ l ∨ cap = t.cap)
    (hbucket : .bucket ∈ l ∨ bucket = t.bucket)
    (hstores : .stores ∈ l ∨ ({ stores with mem := {} } : Stores) = { t.stores with mem := {} })
    (hmem : .mem ∈ l ∨ stores.mem = t.stores.mem)
    (hglide : .glide ∈ l ∨ glide = t.glide)
    (hlinks : .links ∈ l ∨ links = t.links)
    (hfabric : .fabric ∈ l ∨ fabric = t.fabric)
    (hwindows : .windows ∈ l ∨ windows = t.windows)
    (hrestore : .restore ∈ l ∨ restore = t.restore)
    (hrelay : .relay ∈ l ∨ relay = t.relay)
    (hjob : .job ∈ l ∨ job = t.job)
    (hsat : .sat ∈ l ∨ sat = t.sat)
    (hwrap : .wrap ∈ l ∨ wrap = t.wrap)
    (hfreeIdx : .freeIdx ∈ l ∨ freeIdx = t.freeIdx) :
    Frame l s { pending := t.pending, dev := dev, pins := pins, clocks := clocks, pt := pt, boot := boot, fuses := fuses, nvm := nvm, card := card, mgmt := mgmt, img := img, config := config, test := test, power := power, thermal := thermal, cells := cells, cap := cap, bucket := bucket, stores := stores, glide := glide, links := links, fabric := fabric, windows := windows, restore := restore, relay := relay, job := job, sat := sat, wrap := wrap, freeIdx := freeIdx } :=
  h.trans fun p hp => by
    cases p
    · rfl
    · exact hdev.resolve_left hp
    · exact hpins.resolve_left hp
    · exact hclocks.resolve_left hp
    · exact hpt.resolve_left hp
    · exact hboot.resolve_left hp
    · exact hfuses.resolve_left hp
    · exact hnvm.resolve_left hp
    · exact hcard.resolve_left hp
    · exact hmgmt.resolve_left hp
    · exact himg.resolve_left hp
    · exact hconfig.resolve_left hp
    · exact htest.resolve_left hp
    · exact hpower.resolve_left hp
    · exact hthermal.resolve_left hp
    · exact hcells.resolve_left hp
    · exact hcap.resolve_left hp
    · exact hbucket.resolve_left hp
    · exact hstores.resolve_left hp
    · exact hmem.resolve_left hp
    · exact hglide.resolve_left hp
    · exact hlinks.resolve_left hp
    · exact hfabric.resolve_left hp
    · exact hwindows.resolve_left hp
    · exact hrestore.resolve_left hp
    · exact hrelay.resolve_left hp
    · exact hjob.resolve_left hp
    · exact hsat.resolve_left hp
    · exact hwrap.resolve_left hp
    · exact hfreeIdx.resolve_left hp

/-! ### Branches, pairs and folds -/

theorem Frame.ite {c : Prop} [Decidable c] (h : Frame l s t) (k : Frame l s u) : Frame l s (if c then t else u) := by
  split
  · exact h
  · exact k

theorem Frame.iteFst {α : Type} {c : Prop} [Decidable c] {a b : State × α} (h : Frame l s a.1) (k : Frame l s b.1) :
    Frame l s (if c then a else b).1 := by
  split
  · exact h
  · exact k

theorem Frame.ofFst {α : Type} {e : State × α} {x : α} (he : e = (u, x)) (h : Frame l s e.1) : Frame l s u := by
  rw [he] at h
  exact h

theorem Frame.foldl {α : Type} {f : State → α → State} {as : List α} (h : Frame l s t)
    (hf : ∀ u a, Frame l s u → Frame l s (f u a)) : Frame l s (as.foldl f t) := by
  induction as generalizing t with
  | nil => exact h
  | cons a r ih => exact ih (hf t a h)

theorem Frame.foldlFst {α β : Type} {f : State × β → α → State × β} {as : List α} {b : β} (h : Frame l s t)
    (hf : ∀ u b a, Frame l s u → Frame l s (f (u, b) a).1) : Frame l s (as.foldl f (t, b)).1 := by
  induction as generalizing t b with
  | nil => exact h
  | cons a r ih => exact ih (t := (f (t, b) a).1) (b := (f (t, b) a).2) (hf t b a h)

/-! ### Flags, counters and the scorecard -/

theorem Frame.setEvent (h : Frame l s t) (i c : Nat) (hl : covers [.mgmt] l = true) : Frame l s (t.setEvent i c) := by
  unfold State.setEvent
  exact Frame.ite ((h.withMgmt _ hl).withI3c _ hl) (h.withMgmt _ hl)

theorem Frame.satBy (h : Frame l s t) (o n : Nat) (hl : covers [.sat, .mgmt] l = true) : Frame l s (t.satBy o n) := by
  have k : Frame l s { t with sat := put t.sat o (satAdd (lookD t.sat o 0) n).1 } :=
    h.step (covers_trans hl (rfl : covers [.sat] _ = true)) fun p hp => by
      cases p <;> first | rfl | exact absurd (.head _) hp
  unfold State.satBy
  exact Frame.ite (k.setEvent _ _ (covers_trans hl rfl)) k

theorem Frame.bump (h : Frame l s t) (o : Nat) (hl : covers [.sat, .mgmt] l = true) : Frame l s (t.bump o) := h.satBy o 1 hl

theorem Frame.record (h : Frame l s t) (c d : Nat) (b : List Byte) (hl : covers [.card, .mgmt] l = true) :
    Frame l s (t.record c d b) := by
  have k : ∀ x, Frame l s { t with card := x } := fun x =>
    h.step (covers_trans hl (rfl : covers [.card] _ = true)) fun p hp => by
      cases p <;> first | rfl | exact absurd (.head _) hp
  unfold State.record
  exact Frame.ite ((k _).setEvent _ _ (covers_trans hl rfl)) (k _)

theorem Frame.addSpare (h : Frame l s t) (a b c d e f : Nat) (hl : covers [.nvm] l = true) :
    Frame l s (t.addSpare a b c d e f) := by
  unfold State.addSpare
  exact h.withNvm _ hl

theorem Frame.flush (h : Frame l s t) (hl : covers [.nvm, .card] l = true) : Frame l s t.flush := by
  unfold State.flush
  exact (h.withNvm _ (covers_trans hl rfl)).withCard _ (covers_trans hl rfl)

end Sys2Proof.Machine
end

