-- ==== Sys2Proof/Laws/FrameRoutes.lean ====
section
/-!
SUPPORT. Which parts of the state the operations of Machine/Routes.lean may change.
-/
namespace Sys2Proof.Machine

-- Proofs are checked one after another: many at once take more threads than the check allows.
set_option Elab.async false

variable {l : List StatePart} {s t : State}

theorem Frame.fillLanes (h : Frame l s t) (n : Nat) (fuel : Nat)
    (hl : covers [.links, .wrap] l = true) : Frame l s (State.fillLanes t n fuel) := by
  induction fuel generalizing t n with
  | zero => exact h
  | succ fuel ih =>
    unfold State.fillLanes
    repeat' first
      | with_reducible apply ih
      | with_reducible assumption
      | exact covers_trans hl rfl
      | with_reducible apply Frame.ite
      | with_reducible apply Frame.withPort
      | with_reducible apply Frame.wrapBy
      | dsimp only
      | split

theorem Frame.handFlits (h : Frame l s t) (n : Nat) (fs : List (List Byte))
    (hl : covers [.links, .wrap] l = true) : Frame l s (State.handFlits t n fs) := by
  unfold State.handFlits
  repeat' first
    | with_reducible assumption
    | exact covers_trans hl rfl
    | with_reducible apply Frame.ite
    | with_reducible apply Frame.withPort
    | with_reducible apply Frame.fillLanes
    | dsimp only
    | split

theorem Frame.depart (h : Frame l s t) (port : Nat) (p : Packet)
    (hl : covers [.links, .fabric, .wrap] l = true) : Frame l s (State.depart t port p) := by
  unfold State.depart
  repeat' first
    | with_reducible assumption
    | exact covers_trans hl rfl
    | with_reducible apply Frame.ite
    | with_reducible apply Frame.withFabric
    | with_reducible apply Frame.handFlits
    | with_reducible apply Frame.wrapBy
    | dsimp only
    | split

theorem Frame.take (h : Frame l s t) (port : Nat) (x : Waiting)
    (hl : covers [.fabric] l = true) : Frame l s (State.take t port x) := by
  unfold State.take
  repeat' first
    | with_reducible assumption
    | exact covers_trans hl rfl
    | with_reducible apply Frame.ite
    | with_reducible apply Frame.withFabric
    | dsimp only
    | split

theorem Frame.pump (h : Frame l s t) (port : Nat) (fuel : Nat)
    (hl : covers [.links, .fabric, .wrap] l = true) : Frame l s (State.pump t port fuel) := by
  induction fuel generalizing t port with
  | zero => exact h
  | succ fuel ih =>
    unfold State.pump
    repeat' first
      | with_reducible apply ih
      | with_reducible assumption
      | exact covers_trans hl rfl
      | with_reducible apply Frame.ite
      | with_reducible apply Frame.take
      | with_reducible apply Frame.depart
      | dsimp only
      | split

theorem Frame.enqueue (h : Frame l s t) (port : Nat) (p : Packet)
    (hl : covers [.mgmt, .links, .fabric, .sat, .wrap] l = true) : Frame l s (State.enqueue t port p) := by
  unfold State.enqueue
  repeat' first
    | with_reducible assumption
    | exact covers_trans hl rfl
    | with_reducible apply Frame.ite
    | with_reducible apply Frame.bump
    | with_reducible apply Frame.withFabric
    | with_reducible apply Frame.pump
    | dsimp only
    | split

theorem Frame.toLocal (h : Frame l s t) (p : Packet)
    (hl : covers [.fabric] l = true) : Frame l s (State.toLocal t p) := by
  unfold State.toLocal
  repeat' first
    | with_reducible assumption
    | exact covers_trans hl rfl
    | with_reducible apply Frame.ite
    | with_reducible apply Frame.withFabric
    | dsimp only
    | split

theorem Frame.cameBy (h : Frame l s t) (inPort : Option Nat)
    (hl : covers [.fabric] l = true) : Frame l s (State.cameBy t inPort) := by
  unfold State.cameBy
  repeat' first
    | with_reducible assumption
    | exact covers_trans hl rfl
    | with_reducible apply Frame.ite
    | with_reducible apply Frame.withFabric
    | dsimp only
    | split

theorem Frame.routeMgt (h : Frame l s t) (inPort : Option Nat) (p : Packet)
    (hl : covers [.mgmt, .links, .fabric, .sat, .wrap] l = true) : Frame l s (State.routeMgt t inPort p) := by
  unfold State.routeMgt
  repeat' first
    | with_reducible assumption
    | exact covers_trans hl rfl
    | with_reducible apply Frame.ite
    | with_reducible apply Frame.bump
    | with_reducible apply Frame.cameBy
    | with_reducible apply Frame.toLocal
    | with_reducible apply Frame.enqueue
    | dsimp only
    | split

theorem Frame.sendChunkOf (h : Frame l s t) (total : Nat) (c : OutMsg)
    (hl : covers [.mgmt, .links, .fabric, .sat, .wrap] l = true) : Frame l s (State.sendChunkOf t total c) := by
  unfold State.sendChunkOf
  repeat' first
    | with_reducible assumption
    | exact covers_trans hl rfl
    | with_reducible apply Frame.ite
    | with_reducible apply Frame.withMgmt
    | with_reducible apply Frame.wrapBy
    | with_reducible apply Frame.withI3c
    | with_reducible apply Frame.routeMgt
    | dsimp only
    | split

theorem Frame.send (h : Frame l s t) (dest : Route) (mtype : Nat) (jobId : BitVec 64) (body : List Byte) (acked : Bool)
    (hl : covers [.mgmt, .links, .fabric, .sat, .wrap] l = true) : Frame l s (State.send t dest mtype jobId body acked) := by
  unfold State.send
  repeat' first
    | with_reducible assumption
    | exact covers_trans hl rfl
    | with_reducible apply Frame.ite
    | with_reducible apply Frame.withMgmt
    | with_reducible apply Frame.sendChunkOf
    | refine Frame.foldl ?_ (fun u a hu => ?_)
    | dsimp only
    | split

theorem Frame.report (h : Frame l s t) (mtype : Nat) (body : List Byte) (acked : Bool)
    (hl : covers [.mgmt, .links, .fabric, .sat, .wrap] l = true) : Frame l s (State.report t mtype body acked) := by
  unfold State.report
  repeat' first
    | with_reducible assumption
    | exact covers_trans hl rfl
    | with_reducible apply Frame.ite
    | with_reducible apply Frame.send
    | dsimp only
    | split

end Sys2Proof.Machine
end

