-- ==== Sys2Proof/Laws/FramePools.lean ====
section
/-!
SUPPORT. Which parts of the state the operations of Machine/Pools.lean may change.
-/
namespace Sys2Proof.Machine

-- Proofs are checked one after another: many at once take more threads than the check allows.
set_option Elab.async false

variable {l : List StatePart} {s t : State}

theorem Frame.request (h : Frame l s t) (c : TicketClass)
    (hl : covers [.power] l = true) : Frame l s (State.request t c) := by
  unfold State.request
  repeat' first
    | with_reducible assumption
    | exact covers_trans hl rfl
    | with_reducible apply Frame.ite
    | with_reducible apply Frame.withPower
    | dsimp only
    | split

theorem Frame.release (h : Frame l s t) (c : TicketClass)
    (hl : covers [.power] l = true) : Frame l s (State.release t c) := by
  unfold State.release
  repeat' first
    | with_reducible assumption
    | exact covers_trans hl rfl
    | with_reducible apply Frame.ite
    | with_reducible apply Frame.withPower
    | dsimp only
    | split

theorem Frame.discardRuns (h : Frame l s t) (n : Nat)
    (hl : covers [.cells] l = true) : Frame l s (State.discardRuns t n) := by
  unfold State.discardRuns
  repeat' first
    | with_reducible assumption
    | exact covers_trans hl rfl
    | with_reducible apply Frame.ite
    | with_reducible apply Frame.withCells
    | dsimp only
    | split

theorem Frame.withdrawn (h : Frame l s t) (t' : Ticket)
    (hl : covers [.cells, .links] l = true) : Frame l s (State.withdrawn t t') := by
  unfold State.withdrawn
  repeat' first
    | with_reducible assumption
    | exact covers_trans hl rfl
    | with_reducible apply Frame.ite
    | with_reducible apply Frame.withCells
    | with_reducible apply Frame.discardRuns
    | with_reducible apply Frame.withPort
    | dsimp only
    | split

theorem Frame.burstRequest (h : Frame l s t) (m : Nat)
    (hl : covers [.power] l = true) : Frame l s (State.burstRequest t m) := by
  unfold State.burstRequest
  repeat' first
    | with_reducible assumption
    | exact covers_trans hl rfl
    | with_reducible apply Frame.ite
    | with_reducible apply Frame.request
    | dsimp only
    | split

theorem Frame.wantAgain (h : Frame l s t) (t' : Ticket)
    (hl : covers [.power] l = true) : Frame l s (State.wantAgain t t') := by
  unfold State.wantAgain
  repeat' first
    | with_reducible assumption
    | exact covers_trans hl rfl
    | with_reducible apply Frame.ite
    | with_reducible apply Frame.request
    | with_reducible apply Frame.burstRequest
    | dsimp only
    | split

theorem Frame.revoke (h : Frame l s t) (cause : Nat) (which : List Ticket)
    (hl : covers [.card, .mgmt, .power, .cells, .links, .wrap] l = true) : Frame l s (State.revoke t cause which) := by
  unfold State.revoke
  repeat' first
    | with_reducible assumption
    | exact covers_trans hl rfl
    | with_reducible apply Frame.ite
    | with_reducible apply Frame.withPower
    | with_reducible apply Frame.withdrawn
    | with_reducible apply Frame.wrapBy
    | with_reducible apply Frame.record
    | refine Frame.foldl ?_ (fun u a hu => ?_)
    | dsimp only
    | split

theorem Frame.requestAgain (h : Frame l s t) (which : List Ticket)
    (hl : covers [.power] l = true) : Frame l s (State.requestAgain t which) := by
  unfold State.requestAgain
  repeat' first
    | with_reducible assumption
    | exact covers_trans hl rfl
    | with_reducible apply Frame.ite
    | with_reducible apply Frame.wantAgain
    | refine Frame.foldl ?_ (fun u a hu => ?_)
    | dsimp only
    | split

theorem Frame.enforceLimit (h : Frame l s t) 
    (hl : covers [.card, .mgmt, .power, .cells, .links, .wrap] l = true) : Frame l s (State.enforceLimit t) := by
  unfold State.enforceLimit
  repeat' first
    | with_reducible assumption
    | exact covers_trans hl rfl
    | with_reducible apply Frame.ite
    | with_reducible apply Frame.revoke
    | with_reducible apply Frame.requestAgain
    | refine Frame.foldl ?_ (fun u a hu => ?_)
    | dsimp only
    | split

theorem Frame.growBurst (h : Frame l s t) (m : Nat)
    (hl : covers [.power] l = true) : Frame l s (State.growBurst t m) := by
  unfold State.growBurst
  repeat' first
    | with_reducible assumption
    | exact covers_trans hl rfl
    | with_reducible apply Frame.ite
    | with_reducible apply Frame.release
    | with_reducible apply Frame.request
    | dsimp only
    | split

theorem Frame.growBursts (h : Frame l s t) 
    (hl : covers [.power] l = true) : Frame l s (State.growBursts t) := by
  unfold State.growBursts
  repeat' first
    | with_reducible assumption
    | exact covers_trans hl rfl
    | with_reducible apply Frame.ite
    | with_reducible apply Frame.growBurst
    | refine Frame.foldl ?_ (fun u a hu => ?_)
    | dsimp only
    | split

end Sys2Proof.Machine
end

