-- ==== Sys2Proof/Laws/FrameCapacity.lean ====
section
/-!
SUPPORT. Which parts of the state the operations of Machine/Capacity.lean may change.
-/
namespace Sys2Proof.Machine

-- Proofs are checked one after another: many at once take more threads than the check allows.
set_option Elab.async false

variable {l : List StatePart} {s t : State}

theorem Frame.bindCluster (h : Frame l s t) (c : Nat)
    (hl : covers [.cells, .fabric] l = true) : Frame l s (State.bindCluster t c) := by
  unfold State.bindCluster
  repeat' first
    | with_reducible assumption
    | exact covers_trans hl rfl
    | with_reducible apply Frame.ite
    | with_reducible apply Frame.withCluster
    | with_reducible apply Frame.take
    | dsimp only
    | split

theorem Frame.bindClusters (h : Frame l s t) 
    (hl : covers [.cells, .fabric] l = true) : Frame l s (State.bindClusters t) := by
  unfold State.bindClusters
  repeat' first
    | with_reducible assumption
    | exact covers_trans hl rfl
    | with_reducible apply Frame.ite
    | with_reducible apply Frame.bindCluster
    | refine Frame.foldl ?_ (fun u a hu => ?_)
    | dsimp only
    | split

theorem Frame.writeMap (h : Frame l s t) (engineReg : Nat → Word) (predN : Nat → Word)
    (hl : covers [.card, .mgmt, .cap] l = true) : Frame l s (State.writeMap t engineReg predN) := by
  unfold State.writeMap
  repeat' first
    | with_reducible assumption
    | exact covers_trans hl rfl
    | with_reducible apply Frame.ite
    | with_reducible apply Frame.setEvent
    | with_reducible apply Frame.record
    | dsimp only
    | split
    | (with_reducible apply Frame.parts <;> first | exact Or.inr rfl | exact Or.inl (covers_mem hl (by decide)) | skip)

end Sys2Proof.Machine
end

