-- ==== Sys2Proof/Laws/FrameTransitions.lean ====
section
/-!
SUPPORT. Which parts of the state the operations of Machine/Transitions.lean may change.
-/
namespace Sys2Proof.Machine

-- Proofs are checked one after another: many at once take more threads than the check allows.
set_option Elab.async false

variable {l : List StatePart} {s t : State}

theorem Frame.goto (h : Frame l s t) (m : DevState)
    (hl : covers [.dev, .mgmt] l = true) : Frame l s (State.goto t m) := by
  unfold State.goto
  repeat' first
    | with_reducible assumption
    | exact covers_trans hl rfl
    | with_reducible apply Frame.ite
    | with_reducible apply Frame.withDev
    | with_reducible apply Frame.setEvent
    | dsimp only
    | split

theorem Frame.endMembership (h : Frame l s t) 
    (hl : covers [.dev, .power, .cells, .glide, .fabric, .restore, .relay, .job] l = true) : Frame l s (State.endMembership t) := by
  unfold State.endMembership
  repeat' first
    | with_reducible assumption
    | exact covers_trans hl rfl
    | with_reducible apply Frame.ite
    | with_reducible apply Frame.withDev
    | with_reducible apply Frame.withJob
    | with_reducible apply Frame.withCells
    | with_reducible apply Frame.withGlide
    | with_reducible apply Frame.withPower
    | with_reducible apply Frame.withFabric
    | with_reducible apply Frame.withRelay
    | dsimp only
    | split
    | (with_reducible apply Frame.parts <;> first | exact Or.inr rfl | exact Or.inl (covers_mem hl (by decide)) | skip)

theorem Frame.clearTable (h : Frame l s t) 
    (hl : covers [.fabric, .windows] l = true) : Frame l s (State.clearTable t) := by
  unfold State.clearTable
  repeat' first
    | with_reducible assumption
    | exact covers_trans hl rfl
    | with_reducible apply Frame.ite
    | with_reducible apply Frame.withFabric
    | dsimp only
    | split
    | (with_reducible apply Frame.parts <;> first | exact Or.inr rfl | exact Or.inl (covers_mem hl (by decide)) | skip)

theorem Frame.fence (h : Frame l s t) (n : Nat) (cause : Nat)
    (hl : covers [.card, .mgmt, .fabric, .sat] l = true) : Frame l s (State.fence t n cause) := by
  unfold State.fence
  repeat' first
    | with_reducible assumption
    | exact covers_trans hl rfl
    | with_reducible apply Frame.ite
    | with_reducible apply Frame.withFabric
    | with_reducible apply Frame.satBy
    | with_reducible apply Frame.record
    | refine Frame.foldl ?_ (fun u a hu => ?_)
    | dsimp only
    | split

theorem Frame.closeTorus (h : Frame l s t) 
    (hl : covers [.card, .mgmt, .power, .links, .fabric, .sat] l = true) : Frame l s (State.closeTorus t) := by
  unfold State.closeTorus
  repeat' first
    | with_reducible assumption
    | exact covers_trans hl rfl
    | with_reducible apply Frame.ite
    | with_reducible apply Frame.fence
    | with_reducible apply Frame.withPower
    | with_reducible apply Frame.withLinks
    | refine Frame.foldl ?_ (fun u a hu => ?_)
    | dsimp only
    | split

theorem Frame.enterFault (h : Frame l s t) (code : Nat)
    (hl : covers [.dev, .card, .mgmt, .power, .cells, .glide, .links, .fabric, .restore, .relay, .job, .sat, .wrap] l = true) : Frame l s (State.enterFault t code) := by
  unfold State.enterFault
  repeat' first
    | with_reducible assumption
    | exact covers_trans hl rfl
    | with_reducible apply Frame.ite
    | with_reducible apply Frame.withDev
    | with_reducible apply Frame.goto
    | with_reducible apply Frame.report
    | with_reducible apply Frame.endMembership
    | with_reducible apply Frame.withPower
    | with_reducible apply Frame.closeTorus
    | with_reducible apply Frame.withCard
    | dsimp only
    | split

theorem Frame.enterBenched (h : Frame l s t) 
    (hl : covers [.dev, .nvm, .card, .mgmt] l = true) : Frame l s (State.enterBenched t) := by
  unfold State.enterBenched
  repeat' first
    | with_reducible assumption
    | exact covers_trans hl rfl
    | with_reducible apply Frame.ite
    | with_reducible apply Frame.goto
    | with_reducible apply Frame.withNvm
    | with_reducible apply Frame.withDev
    | with_reducible apply Frame.withCard
    | dsimp only
    | split

theorem Frame.startFullTest (h : Frame l s t) 
    (hl : covers [.cells, .bucket] l = true) : Frame l s (State.startFullTest t) := by
  unfold State.startFullTest
  repeat' first
    | with_reducible assumption
    | exact covers_trans hl rfl
    | with_reducible apply Frame.ite
    | with_reducible apply Frame.withBucket
    | with_reducible apply Frame.withCells
    | dsimp only
    | split

theorem Frame.enterWatch (h : Frame l s t) (test : Bool)
    (hl : covers [.dev, .nvm, .mgmt, .cells, .bucket] l = true) : Frame l s (State.enterWatch t test) := by
  unfold State.enterWatch
  repeat' first
    | with_reducible assumption
    | exact covers_trans hl rfl
    | with_reducible apply Frame.ite
    | with_reducible apply Frame.goto
    | with_reducible apply Frame.withNvm
    | with_reducible apply Frame.startFullTest
    | dsimp only
    | split

theorem Frame.newNonce (h : Frame l s t) 
    (hl : covers [.mgmt, .freeIdx] l = true) : Frame l s (State.newNonce t) := by
  unfold State.newNonce
  repeat' first
    | with_reducible assumption
    | exact covers_trans hl rfl
    | with_reducible apply Frame.ite
    | with_reducible apply Frame.withMgmt
    | dsimp only
    | split
    | (with_reducible apply Frame.parts <;> first | exact Or.inr rfl | exact Or.inl (covers_mem hl (by decide)) | skip)

theorem Frame.mainPowerOff (h : Frame l s t) 
    (hl : covers [.clocks, .power, .cells, .stores, .glide, .links, .fabric, .windows, .restore, .relay, .job, .mem] l = true) : Frame l s (State.mainPowerOff t) := by
  unfold State.mainPowerOff
  repeat' first
    | with_reducible assumption
    | exact covers_trans hl rfl
    | with_reducible apply Frame.ite
    | dsimp only
    | split
    | (with_reducible apply Frame.parts <;> first | exact Or.inr rfl | exact Or.inl (covers_mem hl (by decide)) | skip)

theorem Frame.enterStandbyDown (h : Frame l s t) 
    (hl : covers [.dev, .pins, .clocks, .mgmt, .power, .cells, .stores, .glide, .links, .fabric, .windows, .restore, .relay, .job, .freeIdx, .mem] l = true) : Frame l s (State.enterStandbyDown t) := by
  unfold State.enterStandbyDown
  repeat' first
    | with_reducible assumption
    | exact covers_trans hl rfl
    | with_reducible apply Frame.ite
    | with_reducible apply Frame.goto
    | with_reducible apply Frame.withPins
    | with_reducible apply Frame.withDev
    | with_reducible apply Frame.newNonce
    | with_reducible apply Frame.mainPowerOff
    | dsimp only
    | split

theorem Frame.leaveDrain (h : Frame l s t) 
    (hl : covers [.dev, .pins, .clocks, .nvm, .card, .mgmt, .power, .cells, .bucket, .stores, .glide, .links, .fabric, .windows, .restore, .relay, .job, .freeIdx, .mem] l = true) : Frame l s (State.leaveDrain t) := by
  unfold State.leaveDrain
  repeat' first
    | with_reducible assumption
    | exact covers_trans hl rfl
    | with_reducible apply Frame.ite
    | with_reducible apply Frame.clearTable
    | with_reducible apply Frame.enterBenched
    | with_reducible apply Frame.enterStandbyDown
    | with_reducible apply Frame.enterWatch
    | with_reducible apply Frame.goto
    | dsimp only
    | split

theorem Frame.completeDrain (h : Frame l s t) (outstanding : List Byte)
    (hl : covers [.dev, .pins, .clocks, .nvm, .card, .mgmt, .power, .cells, .bucket, .stores, .glide, .links, .fabric, .windows, .restore, .relay, .job, .sat, .wrap, .freeIdx, .mem] l = true) : Frame l s (State.completeDrain t outstanding) := by
  unfold State.completeDrain
  repeat' first
    | with_reducible assumption
    | exact covers_trans hl rfl
    | with_reducible apply Frame.ite
    | with_reducible apply Frame.withDev
    | with_reducible apply Frame.report
    | with_reducible apply Frame.endMembership
    | with_reducible apply Frame.leaveDrain
    | dsimp only
    | split

theorem Frame.orderDrain (h : Frame l s t) (reason : Nat)
    (hl : covers [.dev, .pins, .clocks, .nvm, .card, .mgmt, .power, .cells, .bucket, .stores, .glide, .links, .fabric, .windows, .restore, .relay, .job, .sat, .wrap, .freeIdx, .mem] l = true) : Frame l s (State.orderDrain t reason) := by
  unfold State.orderDrain
  repeat' first
    | with_reducible assumption
    | exact covers_trans hl rfl
    | with_reducible apply Frame.ite
    | with_reducible apply Frame.goto
    | with_reducible apply Frame.withDev
    | with_reducible apply Frame.revoke
    | with_reducible apply Frame.requestAgain
    | with_reducible apply Frame.completeDrain
    | with_reducible apply Frame.leaveDrain
    | dsimp only
    | split

theorem Frame.checkFloor (h : Frame l s t) 
    (hl : covers [.dev, .pins, .clocks, .nvm, .card, .mgmt, .power, .cells, .bucket, .stores, .glide, .links, .fabric, .windows, .restore, .relay, .job, .sat, .wrap, .freeIdx, .mem] l = true) : Frame l s (State.checkFloor t) := by
  unfold State.checkFloor
  repeat' first
    | with_reducible assumption
    | exact covers_trans hl rfl
    | with_reducible apply Frame.ite
    | with_reducible apply Frame.orderDrain
    | dsimp only
    | split

theorem Frame.testAgain (h : Frame l s t) 
    (hl : covers [.cells, .bucket] l = true) : Frame l s (State.testAgain t) := by
  unfold State.testAgain
  repeat' first
    | with_reducible assumption
    | exact covers_trans hl rfl
    | with_reducible apply Frame.ite
    | with_reducible apply Frame.startFullTest
    | dsimp only
    | split

theorem Frame.noteCrossing (h : Frame l s t) (cause : Nat)
    (hl : covers [.card, .mgmt, .sat] l = true) : Frame l s (State.noteCrossing t cause) := by
  unfold State.noteCrossing
  repeat' first
    | with_reducible assumption
    | exact covers_trans hl rfl
    | with_reducible apply Frame.ite
    | with_reducible apply Frame.bump
    | with_reducible apply Frame.record
    | dsimp only
    | split

theorem Frame.crossed (h : Frame l s t) (cause : Nat)
    (hl : covers [.dev, .nvm, .card, .mgmt, .cells, .bucket, .sat] l = true) : Frame l s (State.crossed t cause) := by
  unfold State.crossed
  repeat' first
    | with_reducible assumption
    | exact covers_trans hl rfl
    | with_reducible apply Frame.ite
    | with_reducible apply Frame.noteCrossing
    | with_reducible apply Frame.withNvm
    | with_reducible apply Frame.withBucket
    | with_reducible apply Frame.enterWatch
    | with_reducible apply Frame.testAgain
    | dsimp only
    | split

theorem Frame.levelTo (h : Frame l s t) (lv : Nat)
    (hl : covers [.nvm, .bucket] l = true) : Frame l s (State.levelTo t lv) := by
  unfold State.levelTo
  repeat' first
    | with_reducible assumption
    | exact covers_trans hl rfl
    | with_reducible apply Frame.ite
    | with_reducible apply Frame.withNvm
    | with_reducible apply Frame.withBucket
    | dsimp only
    | split

theorem Frame.setLevel (h : Frame l s t) (lv : Nat) (cause : Nat)
    (hl : covers [.dev, .nvm, .card, .mgmt, .cells, .bucket, .sat] l = true) : Frame l s (State.setLevel t lv cause) := by
  unfold State.setLevel
  repeat' first
    | with_reducible assumption
    | exact covers_trans hl rfl
    | with_reducible apply Frame.ite
    | with_reducible apply Frame.levelTo
    | with_reducible apply Frame.crossed
    | dsimp only
    | split

theorem Frame.drainLevel (h : Frame l s t) (reason : Nat) (lv : Nat) (cause : Nat)
    (hl : covers [.dev, .pins, .clocks, .nvm, .card, .mgmt, .power, .cells, .bucket, .stores, .glide, .links, .fabric, .windows, .restore, .relay, .job, .sat, .wrap, .freeIdx, .mem] l = true) : Frame l s (State.drainLevel t reason lv cause) := by
  unfold State.drainLevel
  repeat' first
    | with_reducible assumption
    | exact covers_trans hl rfl
    | with_reducible apply Frame.ite
    | with_reducible apply Frame.orderDrain
    | with_reducible apply Frame.levelTo
    | with_reducible apply Frame.noteCrossing
    | with_reducible apply Frame.setLevel
    | dsimp only
    | split

theorem Frame.addPoints (h : Frame l s t) (pts : Nat) (cause : Nat)
    (hl : covers [.dev, .nvm, .card, .mgmt, .cells, .bucket, .sat] l = true) : Frame l s (State.addPoints t pts cause) := by
  unfold State.addPoints
  repeat' first
    | with_reducible assumption
    | exact covers_trans hl rfl
    | with_reducible apply Frame.ite
    | with_reducible apply Frame.setLevel
    | dsimp only
    | split

theorem Frame.raiseHigh (h : Frame l s t) (cause : Nat)
    (hl : covers [.dev, .nvm, .card, .mgmt, .cells, .bucket, .sat] l = true) : Frame l s (State.raiseHigh t cause) := by
  unfold State.raiseHigh
  repeat' first
    | with_reducible assumption
    | exact covers_trans hl rfl
    | with_reducible apply Frame.ite
    | with_reducible apply Frame.setLevel
    | dsimp only
    | split

theorem Frame.raiseAndDrain (h : Frame l s t) (cause : Nat)
    (hl : covers [.dev, .pins, .clocks, .nvm, .card, .mgmt, .power, .cells, .bucket, .stores, .glide, .links, .fabric, .windows, .restore, .relay, .job, .sat, .wrap, .freeIdx, .mem] l = true) : Frame l s (State.raiseAndDrain t cause) := by
  unfold State.raiseAndDrain
  repeat' first
    | with_reducible assumption
    | exact covers_trans hl rfl
    | with_reducible apply Frame.ite
    | with_reducible apply Frame.drainLevel
    | dsimp only
    | split

theorem Frame.courseError (h : Frame l s t) (code : Nat) (station : Nat)
    (hl : covers [.dev, .pins, .clocks, .nvm, .card, .mgmt, .power, .cells, .bucket, .stores, .glide, .links, .fabric, .windows, .restore, .relay, .job, .sat, .wrap, .freeIdx, .mem] l = true) : Frame l s (State.courseError t code station) := by
  unfold State.courseError
  repeat' first
    | with_reducible assumption
    | exact covers_trans hl rfl
    | with_reducible apply Frame.ite
    | with_reducible apply Frame.withCells
    | with_reducible apply Frame.withJob
    | with_reducible apply Frame.report
    | with_reducible apply Frame.orderDrain
    | dsimp only
    | split

end Sys2Proof.Machine
end

