-- ==== Sys2Proof/Laws/State.lean ====
section
/-!
SUPPORT. What each update of a part of the state leaves in each field: one lemma per field per update, so that no proof
unfolds a record update.
-/
namespace Sys2Proof.Machine.State

-- Proofs are checked one after another: many at once take more threads than the check allows.
set_option Elab.async false

variable (s : State)

section
variable (f : Device → Device)
@[simp] theorem withDev_pending : (s.withDev f).pending = s.pending := rfl
@[simp] theorem withDev_dev : (s.withDev f).dev = f s.dev := rfl
@[simp] theorem withDev_pins : (s.withDev f).pins = s.pins := rfl
@[simp] theorem withDev_clocks : (s.withDev f).clocks = s.clocks := rfl
@[simp] theorem withDev_pt : (s.withDev f).pt = s.pt := rfl
@[simp] theorem withDev_boot : (s.withDev f).boot = s.boot := rfl
@[simp] theorem withDev_fuses : (s.withDev f).fuses = s.fuses := rfl
@[simp] theorem withDev_nvm : (s.withDev f).nvm = s.nvm := rfl
@[simp] theorem withDev_card : (s.withDev f).card = s.card := rfl
@[simp] theorem withDev_mgmt : (s.withDev f).mgmt = s.mgmt := rfl
@[simp] theorem withDev_img : (s.withDev f).img = s.img := rfl
@[simp] theorem withDev_config : (s.withDev f).config = s.config := rfl
@[simp] theorem withDev_test : (s.withDev f).test = s.test := rfl
@[simp] theorem withDev_power : (s.withDev f).power = s.power := rfl
@[simp] theorem withDev_thermal : (s.withDev f).thermal = s.thermal := rfl
@[simp] theorem withDev_cells : (s.withDev f).cells = s.cells := rfl
@[simp] theorem withDev_cap : (s.withDev f).cap = s.cap := rfl
@[simp] theorem withDev_bucket : (s.withDev f).bucket = s.bucket := rfl
@[simp] theorem withDev_stores : (s.withDev f).stores = s.stores := rfl
@[simp] theorem withDev_glide : (s.withDev f).glide = s.glide := rfl
@[simp] theorem withDev_links : (s.withDev f).links = s.links := rfl
@[simp] theorem withDev_fabric : (s.withDev f).fabric = s.fabric := rfl
@[simp] theorem withDev_windows : (s.withDev f).windows = s.windows := rfl
@[simp] theorem withDev_restore : (s.withDev f).restore = s.restore := rfl
@[simp] theorem withDev_relay : (s.withDev f).relay = s.relay := rfl
@[simp] theorem withDev_job : (s.withDev f).job = s.job := rfl
@[simp] theorem withDev_sat : (s.withDev f).sat = s.sat := rfl
@[simp] theorem withDev_wrap : (s.withDev f).wrap = s.wrap := rfl
@[simp] theorem withDev_freeIdx : (s.withDev f).freeIdx = s.freeIdx := rfl
end

section
variable (f : Pins → Pins)
@[simp] theorem withPins_pending : (s.withPins f).pending = s.pending := rfl
@[simp] theorem withPins_dev : (s.withPins f).dev = s.dev := rfl
@[simp] theorem withPins_pins : (s.withPins f).pins = f s.pins := rfl
@[simp] theorem withPins_clocks : (s.withPins f).clocks = s.clocks := rfl
@[simp] theorem withPins_pt : (s.withPins f).pt = s.pt := rfl
@[simp] theorem withPins_boot : (s.withPins f).boot = s.boot := rfl
@[simp] theorem withPins_fuses : (s.withPins f).fuses = s.fuses := rfl
@[simp] theorem withPins_nvm : (s.withPins f).nvm = s.nvm := rfl
@[simp] theorem withPins_card : (s.withPins f).card = s.card := rfl
@[simp] theorem withPins_mgmt : (s.withPins f).mgmt = s.mgmt := rfl
@[simp] theorem withPins_img : (s.withPins f).img = s.img := rfl
@[simp] theorem withPins_config : (s.withPins f).config = s.config := rfl
@[simp] theorem withPins_test : (s.withPins f).test = s.test := rfl
@[simp] theorem withPins_power : (s.withPins f).power = s.power := rfl
@[simp] theorem withPins_thermal : (s.withPins f).thermal = s.thermal := rfl
@[simp] theorem withPins_cells : (s.withPins f).cells = s.cells := rfl
@[simp] theorem withPins_cap : (s.withPins f).cap = s.cap := rfl
@[simp] theorem withPins_bucket : (s.withPins f).bucket = s.bucket := rfl
@[simp] theorem withPins_stores : (s.withPins f).stores = s.stores := rfl
@[simp] theorem withPins_glide : (s.withPins f).glide = s.glide := rfl
@[simp] theorem withPins_links : (s.withPins f).links = s.links := rfl
@[simp] theorem withPins_fabric : (s.withPins f).fabric = s.fabric := rfl
@[simp] theorem withPins_windows : (s.withPins f).windows = s.windows := rfl
@[simp] theorem withPins_restore : (s.withPins f).restore = s.restore := rfl
@[simp] theorem withPins_relay : (s.withPins f).relay = s.relay := rfl
@[simp] theorem withPins_job : (s.withPins f).job = s.job := rfl
@[simp] theorem withPins_sat : (s.withPins f).sat = s.sat := rfl
@[simp] theorem withPins_wrap : (s.withPins f).wrap = s.wrap := rfl
@[simp] theorem withPins_freeIdx : (s.withPins f).freeIdx = s.freeIdx := rfl
end

section
variable (f : Clocks → Clocks)
@[simp] theorem withClocks_pending : (s.withClocks f).pending = s.pending := rfl
@[simp] theorem withClocks_dev : (s.withClocks f).dev = s.dev := rfl
@[simp] theorem withClocks_pins : (s.withClocks f).pins = s.pins := rfl
@[simp] theorem withClocks_clocks : (s.withClocks f).clocks = f s.clocks := rfl
@[simp] theorem withClocks_pt : (s.withClocks f).pt = s.pt := rfl
@[simp] theorem withClocks_boot : (s.withClocks f).boot = s.boot := rfl
@[simp] theorem withClocks_fuses : (s.withClocks f).fuses = s.fuses := rfl
@[simp] theorem withClocks_nvm : (s.withClocks f).nvm = s.nvm := rfl
@[simp] theorem withClocks_card : (s.withClocks f).card = s.card := rfl
@[simp] theorem withClocks_mgmt : (s.withClocks f).mgmt = s.mgmt := rfl
@[simp] theorem withClocks_img : (s.withClocks f).img = s.img := rfl
@[simp] theorem withClocks_config : (s.withClocks f).config = s.config := rfl
@[simp] theorem withClocks_test : (s.withClocks f).test = s.test := rfl
@[simp] theorem withClocks_power : (s.withClocks f).power = s.power := rfl
@[simp] theorem withClocks_thermal : (s.withClocks f).thermal = s.thermal := rfl
@[simp] theorem withClocks_cells : (s.withClocks f).cells = s.cells := rfl
@[simp] theorem withClocks_cap : (s.withClocks f).cap = s.cap := rfl
@[simp] theorem withClocks_bucket : (s.withClocks f).bucket = s.bucket := rfl
@[simp] theorem withClocks_stores : (s.withClocks f).stores = s.stores := rfl
@[simp] theorem withClocks_glide : (s.withClocks f).glide = s.glide := rfl
@[simp] theorem withClocks_links : (s.withClocks f).links = s.links := rfl
@[simp] theorem withClocks_fabric : (s.withClocks f).fabric = s.fabric := rfl
@[simp] theorem withClocks_windows : (s.withClocks f).windows = s.windows := rfl
@[simp] theorem withClocks_restore : (s.withClocks f).restore = s.restore := rfl
@[simp] theorem withClocks_relay : (s.withClocks f).relay = s.relay := rfl
@[simp] theorem withClocks_job : (s.withClocks f).job = s.job := rfl
@[simp] theorem withClocks_sat : (s.withClocks f).sat = s.sat := rfl
@[simp] theorem withClocks_wrap : (s.withClocks f).wrap = s.wrap := rfl
@[simp] theorem withClocks_freeIdx : (s.withClocks f).freeIdx = s.freeIdx := rfl
end

section
variable (f : Boot → Boot)
@[simp] theorem withBoot_pending : (s.withBoot f).pending = s.pending := rfl
@[simp] theorem withBoot_dev : (s.withBoot f).dev = s.dev := rfl
@[simp] theorem withBoot_pins : (s.withBoot f).pins = s.pins := rfl
@[simp] theorem withBoot_clocks : (s.withBoot f).clocks = s.clocks := rfl
@[simp] theorem withBoot_pt : (s.withBoot f).pt = s.pt := rfl
@[simp] theorem withBoot_boot : (s.withBoot f).boot = f s.boot := rfl
@[simp] theorem withBoot_fuses : (s.withBoot f).fuses = s.fuses := rfl
@[simp] theorem withBoot_nvm : (s.withBoot f).nvm = s.nvm := rfl
@[simp] theorem withBoot_card : (s.withBoot f).card = s.card := rfl
@[simp] theorem withBoot_mgmt : (s.withBoot f).mgmt = s.mgmt := rfl
@[simp] theorem withBoot_img : (s.withBoot f).img = s.img := rfl
@[simp] theorem withBoot_config : (s.withBoot f).config = s.config := rfl
@[simp] theorem withBoot_test : (s.withBoot f).test = s.test := rfl
@[simp] theorem withBoot_power : (s.withBoot f).power = s.power := rfl
@[simp] theorem withBoot_thermal : (s.withBoot f).thermal = s.thermal := rfl
@[simp] theorem withBoot_cells : (s.withBoot f).cells = s.cells := rfl
@[simp] theorem withBoot_cap : (s.withBoot f).cap = s.cap := rfl
@[simp] theorem withBoot_bucket : (s.withBoot f).bucket = s.bucket := rfl
@[simp] theorem withBoot_stores : (s.withBoot f).stores = s.stores := rfl
@[simp] theorem withBoot_glide : (s.withBoot f).glide = s.glide := rfl
@[simp] theorem withBoot_links : (s.withBoot f).links = s.links := rfl
@[simp] theorem withBoot_fabric : (s.withBoot f).fabric = s.fabric := rfl
@[simp] theorem withBoot_windows : (s.withBoot f).windows = s.windows := rfl
@[simp] theorem withBoot_restore : (s.withBoot f).restore = s.restore := rfl
@[simp] theorem withBoot_relay : (s.withBoot f).relay = s.relay := rfl
@[simp] theorem withBoot_job : (s.withBoot f).job = s.job := rfl
@[simp] theorem withBoot_sat : (s.withBoot f).sat = s.sat := rfl
@[simp] theorem withBoot_wrap : (s.withBoot f).wrap = s.wrap := rfl
@[simp] theorem withBoot_freeIdx : (s.withBoot f).freeIdx = s.freeIdx := rfl
end

section
variable (f : Nvm → Nvm)
@[simp] theorem withNvm_pending : (s.withNvm f).pending = s.pending := rfl
@[simp] theorem withNvm_dev : (s.withNvm f).dev = s.dev := rfl
@[simp] theorem withNvm_pins : (s.withNvm f).pins = s.pins := rfl
@[simp] theorem withNvm_clocks : (s.withNvm f).clocks = s.clocks := rfl
@[simp] theorem withNvm_pt : (s.withNvm f).pt = s.pt := rfl
@[simp] theorem withNvm_boot : (s.withNvm f).boot = s.boot := rfl
@[simp] theorem withNvm_fuses : (s.withNvm f).fuses = s.fuses := rfl
@[simp] theorem withNvm_nvm : (s.withNvm f).nvm = f s.nvm := rfl
@[simp] theorem withNvm_card : (s.withNvm f).card = s.card := rfl
@[simp] theorem withNvm_mgmt : (s.withNvm f).mgmt = s.mgmt := rfl
@[simp] theorem withNvm_img : (s.withNvm f).img = s.img := rfl
@[simp] theorem withNvm_config : (s.withNvm f).config = s.config := rfl
@[simp] theorem withNvm_test : (s.withNvm f).test = s.test := rfl
@[simp] theorem withNvm_power : (s.withNvm f).power = s.power := rfl
@[simp] theorem withNvm_thermal : (s.withNvm f).thermal = s.thermal := rfl
@[simp] theorem withNvm_cells : (s.withNvm f).cells = s.cells := rfl
@[simp] theorem withNvm_cap : (s.withNvm f).cap = s.cap := rfl
@[simp] theorem withNvm_bucket : (s.withNvm f).bucket = s.bucket := rfl
@[simp] theorem withNvm_stores : (s.withNvm f).stores = s.stores := rfl
@[simp] theorem withNvm_glide : (s.withNvm f).glide = s.glide := rfl
@[simp] theorem withNvm_links : (s.withNvm f).links = s.links := rfl
@[simp] theorem withNvm_fabric : (s.withNvm f).fabric = s.fabric := rfl
@[simp] theorem withNvm_windows : (s.withNvm f).windows = s.windows := rfl
@[simp] theorem withNvm_restore : (s.withNvm f).restore = s.restore := rfl
@[simp] theorem withNvm_relay : (s.withNvm f).relay = s.relay := rfl
@[simp] theorem withNvm_job : (s.withNvm f).job = s.job := rfl
@[simp] theorem withNvm_sat : (s.withNvm f).sat = s.sat := rfl
@[simp] theorem withNvm_wrap : (s.withNvm f).wrap = s.wrap := rfl
@[simp] theorem withNvm_freeIdx : (s.withNvm f).freeIdx = s.freeIdx := rfl
end

section
variable (f : Scorecard → Scorecard)
@[simp] theorem withCard_pending : (s.withCard f).pending = s.pending := rfl
@[simp] theorem withCard_dev : (s.withCard f).dev = s.dev := rfl
@[simp] theorem withCard_pins : (s.withCard f).pins = s.pins := rfl
@[simp] theorem withCard_clocks : (s.withCard f).clocks = s.clocks := rfl
@[simp] theorem withCard_pt : (s.withCard f).pt = s.pt := rfl
@[simp] theorem withCard_boot : (s.withCard f).boot = s.boot := rfl
@[simp] theorem withCard_fuses : (s.withCard f).fuses = s.fuses := rfl
@[simp] theorem withCard_nvm : (s.withCard f).nvm = s.nvm := rfl
@[simp] theorem withCard_card : (s.withCard f).card = f s.card := rfl
@[simp] theorem withCard_mgmt : (s.withCard f).mgmt = s.mgmt := rfl
@[simp] theorem withCard_img : (s.withCard f).img = s.img := rfl
@[simp] theorem withCard_config : (s.withCard f).config = s.config := rfl
@[simp] theorem withCard_test : (s.withCard f).test = s.test := rfl
@[simp] theorem withCard_power : (s.withCard f).power = s.power := rfl
@[simp] theorem withCard_thermal : (s.withCard f).thermal = s.thermal := rfl
@[simp] theorem withCard_cells : (s.withCard f).cells = s.cells := rfl
@[simp] theorem withCard_cap : (s.withCard f).cap = s.cap := rfl
@[simp] theorem withCard_bucket : (s.withCard f).bucket = s.bucket := rfl
@[simp] theorem withCard_stores : (s.withCard f).stores = s.stores := rfl
@[simp] theorem withCard_glide : (s.withCard f).glide = s.glide := rfl
@[simp] theorem withCard_links : (s.withCard f).links = s.links := rfl
@[simp] theorem withCard_fabric : (s.withCard f).fabric = s.fabric := rfl
@[simp] theorem withCard_windows : (s.withCard f).windows = s.windows := rfl
@[simp] theorem withCard_restore : (s.withCard f).restore = s.restore := rfl
@[simp] theorem withCard_relay : (s.withCard f).relay = s.relay := rfl
@[simp] theorem withCard_job : (s.withCard f).job = s.job := rfl
@[simp] theorem withCard_sat : (s.withCard f).sat = s.sat := rfl
@[simp] theorem withCard_wrap : (s.withCard f).wrap = s.wrap := rfl
@[simp] theorem withCard_freeIdx : (s.withCard f).freeIdx = s.freeIdx := rfl
end

section
variable (f : Mgmt → Mgmt)
@[simp] theorem withMgmt_pending : (s.withMgmt f).pending = s.pending := rfl
@[simp] theorem withMgmt_dev : (s.withMgmt f).dev = s.dev := rfl
@[simp] theorem withMgmt_pins : (s.withMgmt f).pins = s.pins := rfl
@[simp] theorem withMgmt_clocks : (s.withMgmt f).clocks = s.clocks := rfl
@[simp] theorem withMgmt_pt : (s.withMgmt f).pt = s.pt := rfl
@[simp] theorem withMgmt_boot : (s.withMgmt f).boot = s.boot := rfl
@[simp] theorem withMgmt_fuses : (s.withMgmt f).fuses = s.fuses := rfl
@[simp] theorem withMgmt_nvm : (s.withMgmt f).nvm = s.nvm := rfl
@[simp] theorem withMgmt_card : (s.withMgmt f).card = s.card := rfl
@[simp] theorem withMgmt_mgmt : (s.withMgmt f).mgmt = f s.mgmt := rfl
@[simp] theorem withMgmt_img : (s.withMgmt f).img = s.img := rfl
@[simp] theorem withMgmt_config : (s.withMgmt f).config = s.config := rfl
@[simp] theorem withMgmt_test : (s.withMgmt f).test = s.test := rfl
@[simp] theorem withMgmt_power : (s.withMgmt f).power = s.power := rfl
@[simp] theorem withMgmt_thermal : (s.withMgmt f).thermal = s.thermal := rfl
@[simp] theorem withMgmt_cells : (s.withMgmt f).cells = s.cells := rfl
@[simp] theorem withMgmt_cap : (s.withMgmt f).cap = s.cap := rfl
@[simp] theorem withMgmt_bucket : (s.withMgmt f).bucket = s.bucket := rfl
@[simp] theorem withMgmt_stores : (s.withMgmt f).stores = s.stores := rfl
@[simp] theorem withMgmt_glide : (s.withMgmt f).glide = s.glide := rfl
@[simp] theorem withMgmt_links : (s.withMgmt f).links = s.links := rfl
@[simp] theorem withMgmt_fabric : (s.withMgmt f).fabric = s.fabric := rfl
@[simp] theorem withMgmt_windows : (s.withMgmt f).windows = s.windows := rfl
@[simp] theorem withMgmt_restore : (s.withMgmt f).restore = s.restore := rfl
@[simp] theorem withMgmt_relay : (s.withMgmt f).relay = s.relay := rfl
@[simp] theorem withMgmt_job : (s.withMgmt f).job = s.job := rfl
@[simp] theorem withMgmt_sat : (s.withMgmt f).sat = s.sat := rfl
@[simp] theorem withMgmt_wrap : (s.withMgmt f).wrap = s.wrap := rfl
@[simp] theorem withMgmt_freeIdx : (s.withMgmt f).freeIdx = s.freeIdx := rfl
end

section
variable (f : ImageConfig → ImageConfig)
@[simp] theorem withConfig_pending : (s.withConfig f).pending = s.pending := rfl
@[simp] theorem withConfig_dev : (s.withConfig f).dev = s.dev := rfl
@[simp] theorem withConfig_pins : (s.withConfig f).pins = s.pins := rfl
@[simp] theorem withConfig_clocks : (s.withConfig f).clocks = s.clocks := rfl
@[simp] theorem withConfig_pt : (s.withConfig f).pt = s.pt := rfl
@[simp] theorem withConfig_boot : (s.withConfig f).boot = s.boot := rfl
@[simp] theorem withConfig_fuses : (s.withConfig f).fuses = s.fuses := rfl
@[simp] theorem withConfig_nvm : (s.withConfig f).nvm = s.nvm := rfl
@[simp] theorem withConfig_card : (s.withConfig f).card = s.card := rfl
@[simp] theorem withConfig_mgmt : (s.withConfig f).mgmt = s.mgmt := rfl
@[simp] theorem withConfig_img : (s.withConfig f).img = s.img := rfl
@[simp] theorem withConfig_config : (s.withConfig f).config = f s.config := rfl
@[simp] theorem withConfig_test : (s.withConfig f).test = s.test := rfl
@[simp] theorem withConfig_power : (s.withConfig f).power = s.power := rfl
@[simp] theorem withConfig_thermal : (s.withConfig f).thermal = s.thermal := rfl
@[simp] theorem withConfig_cells : (s.withConfig f).cells = s.cells := rfl
@[simp] theorem withConfig_cap : (s.withConfig f).cap = s.cap := rfl
@[simp] theorem withConfig_bucket : (s.withConfig f).bucket = s.bucket := rfl
@[simp] theorem withConfig_stores : (s.withConfig f).stores = s.stores := rfl
@[simp] theorem withConfig_glide : (s.withConfig f).glide = s.glide := rfl
@[simp] theorem withConfig_links : (s.withConfig f).links = s.links := rfl
@[simp] theorem withConfig_fabric : (s.withConfig f).fabric = s.fabric := rfl
@[simp] theorem withConfig_windows : (s.withConfig f).windows = s.windows := rfl
@[simp] theorem withConfig_restore : (s.withConfig f).restore = s.restore := rfl
@[simp] theorem withConfig_relay : (s.withConfig f).relay = s.relay := rfl
@[simp] theorem withConfig_job : (s.withConfig f).job = s.job := rfl
@[simp] theorem withConfig_sat : (s.withConfig f).sat = s.sat := rfl
@[simp] theorem withConfig_wrap : (s.withConfig f).wrap = s.wrap := rfl
@[simp] theorem withConfig_freeIdx : (s.withConfig f).freeIdx = s.freeIdx := rfl
end

section
variable (f : TestStatus → TestStatus)
@[simp] theorem withTest_pending : (s.withTest f).pending = s.pending := rfl
@[simp] theorem withTest_dev : (s.withTest f).dev = s.dev := rfl
@[simp] theorem withTest_pins : (s.withTest f).pins = s.pins := rfl
@[simp] theorem withTest_clocks : (s.withTest f).clocks = s.clocks := rfl
@[simp] theorem withTest_pt : (s.withTest f).pt = s.pt := rfl
@[simp] theorem withTest_boot : (s.withTest f).boot = s.boot := rfl
@[simp] theorem withTest_fuses : (s.withTest f).fuses = s.fuses := rfl
@[simp] theorem withTest_nvm : (s.withTest f).nvm = s.nvm := rfl
@[simp] theorem withTest_card : (s.withTest f).card = s.card := rfl
@[simp] theorem withTest_mgmt : (s.withTest f).mgmt = s.mgmt := rfl
@[simp] theorem withTest_img : (s.withTest f).img = s.img := rfl
@[simp] theorem withTest_config : (s.withTest f).config = s.config := rfl
@[simp] theorem withTest_test : (s.withTest f).test = f s.test := rfl
@[simp] theorem withTest_power : (s.withTest f).power = s.power := rfl
@[simp] theorem withTest_thermal : (s.withTest f).thermal = s.thermal := rfl
@[simp] theorem withTest_cells : (s.withTest f).cells = s.cells := rfl
@[simp] theorem withTest_cap : (s.withTest f).cap = s.cap := rfl
@[simp] theorem withTest_bucket : (s.withTest f).bucket = s.bucket := rfl
@[simp] theorem withTest_stores : (s.withTest f).stores = s.stores := rfl
@[simp] theorem withTest_glide : (s.withTest f).glide = s.glide := rfl
@[simp] theorem withTest_links : (s.withTest f).links = s.links := rfl
@[simp] theorem withTest_fabric : (s.withTest f).fabric = s.fabric := rfl
@[simp] theorem withTest_windows : (s.withTest f).windows = s.windows := rfl
@[simp] theorem withTest_restore : (s.withTest f).restore = s.restore := rfl
@[simp] theorem withTest_relay : (s.withTest f).relay = s.relay := rfl
@[simp] theorem withTest_job : (s.withTest f).job = s.job := rfl
@[simp] theorem withTest_sat : (s.withTest f).sat = s.sat := rfl
@[simp] theorem withTest_wrap : (s.withTest f).wrap = s.wrap := rfl
@[simp] theorem withTest_freeIdx : (s.withTest f).freeIdx = s.freeIdx := rfl
end

section
variable (f : Power → Power)
@[simp] theorem withPower_pending : (s.withPower f).pending = s.pending := rfl
@[simp] theorem withPower_dev : (s.withPower f).dev = s.dev := rfl
@[simp] theorem withPower_pins : (s.withPower f).pins = s.pins := rfl
@[simp] theorem withPower_clocks : (s.withPower f).clocks = s.clocks := rfl
@[simp] theorem withPower_pt : (s.withPower f).pt = s.pt := rfl
@[simp] theorem withPower_boot : (s.withPower f).boot = s.boot := rfl
@[simp] theorem withPower_fuses : (s.withPower f).fuses = s.fuses := rfl
@[simp] theorem withPower_nvm : (s.withPower f).nvm = s.nvm := rfl
@[simp] theorem withPower_card : (s.withPower f).card = s.card := rfl
@[simp] theorem withPower_mgmt : (s.withPower f).mgmt = s.mgmt := rfl
@[simp] theorem withPower_img : (s.withPower f).img = s.img := rfl
@[simp] theorem withPower_config : (s.withPower f).config = s.config := rfl
@[simp] theorem withPower_test : (s.withPower f).test = s.test := rfl
@[simp] theorem withPower_power : (s.withPower f).power = f s.power := rfl
@[simp] theorem withPower_thermal : (s.withPower f).thermal = s.thermal := rfl
@[simp] theorem withPower_cells : (s.withPower f).cells = s.cells := rfl
@[simp] theorem withPower_cap : (s.withPower f).cap = s.cap := rfl
@[simp] theorem withPower_bucket : (s.withPower f).bucket = s.bucket := rfl
@[simp] theorem withPower_stores : (s.withPower f).stores = s.stores := rfl
@[simp] theorem withPower_glide : (s.withPower f).glide = s.glide := rfl
@[simp] theorem withPower_links : (s.withPower f).links = s.links := rfl
@[simp] theorem withPower_fabric : (s.withPower f).fabric = s.fabric := rfl
@[simp] theorem withPower_windows : (s.withPower f).windows = s.windows := rfl
@[simp] theorem withPower_restore : (s.withPower f).restore = s.restore := rfl
@[simp] theorem withPower_relay : (s.withPower f).relay = s.relay := rfl
@[simp] theorem withPower_job : (s.withPower f).job = s.job := rfl
@[simp] theorem withPower_sat : (s.withPower f).sat = s.sat := rfl
@[simp] theorem withPower_wrap : (s.withPower f).wrap = s.wrap := rfl
@[simp] theorem withPower_freeIdx : (s.withPower f).freeIdx = s.freeIdx := rfl
end

section
variable (f : Thermal → Thermal)
@[simp] theorem withThermal_pending : (s.withThermal f).pending = s.pending := rfl
@[simp] theorem withThermal_dev : (s.withThermal f).dev = s.dev := rfl
@[simp] theorem withThermal_pins : (s.withThermal f).pins = s.pins := rfl
@[simp] theorem withThermal_clocks : (s.withThermal f).clocks = s.clocks := rfl
@[simp] theorem withThermal_pt : (s.withThermal f).pt = s.pt := rfl
@[simp] theorem withThermal_boot : (s.withThermal f).boot = s.boot := rfl
@[simp] theorem withThermal_fuses : (s.withThermal f).fuses = s.fuses := rfl
@[simp] theorem withThermal_nvm : (s.withThermal f).nvm = s.nvm := rfl
@[simp] theorem withThermal_card : (s.withThermal f).card = s.card := rfl
@[simp] theorem withThermal_mgmt : (s.withThermal f).mgmt = s.mgmt := rfl
@[simp] theorem withThermal_img : (s.withThermal f).img = s.img := rfl
@[simp] theorem withThermal_config : (s.withThermal f).config = s.config := rfl
@[simp] theorem withThermal_test : (s.withThermal f).test = s.test := rfl
@[simp] theorem withThermal_power : (s.withThermal f).power = s.power := rfl
@[simp] theorem withThermal_thermal : (s.withThermal f).thermal = f s.thermal := rfl
@[simp] theorem withThermal_cells : (s.withThermal f).cells = s.cells := rfl
@[simp] theorem withThermal_cap : (s.withThermal f).cap = s.cap := rfl
@[simp] theorem withThermal_bucket : (s.withThermal f).bucket = s.bucket := rfl
@[simp] theorem withThermal_stores : (s.withThermal f).stores = s.stores := rfl
@[simp] theorem withThermal_glide : (s.withThermal f).glide = s.glide := rfl
@[simp] theorem withThermal_links : (s.withThermal f).links = s.links := rfl
@[simp] theorem withThermal_fabric : (s.withThermal f).fabric = s.fabric := rfl
@[simp] theorem withThermal_windows : (s.withThermal f).windows = s.windows := rfl
@[simp] theorem withThermal_restore : (s.withThermal f).restore = s.restore := rfl
@[simp] theorem withThermal_relay : (s.withThermal f).relay = s.relay := rfl
@[simp] theorem withThermal_job : (s.withThermal f).job = s.job := rfl
@[simp] theorem withThermal_sat : (s.withThermal f).sat = s.sat := rfl
@[simp] theorem withThermal_wrap : (s.withThermal f).wrap = s.wrap := rfl
@[simp] theorem withThermal_freeIdx : (s.withThermal f).freeIdx = s.freeIdx := rfl
end

section
variable (f : Cells → Cells)
@[simp] theorem withCells_pending : (s.withCells f).pending = s.pending := rfl
@[simp] theorem withCells_dev : (s.withCells f).dev = s.dev := rfl
@[simp] theorem withCells_pins : (s.withCells f).pins = s.pins := rfl
@[simp] theorem withCells_clocks : (s.withCells f).clocks = s.clocks := rfl
@[simp] theorem withCells_pt : (s.withCells f).pt = s.pt := rfl
@[simp] theorem withCells_boot : (s.withCells f).boot = s.boot := rfl
@[simp] theorem withCells_fuses : (s.withCells f).fuses = s.fuses := rfl
@[simp] theorem withCells_nvm : (s.withCells f).nvm = s.nvm := rfl
@[simp] theorem withCells_card : (s.withCells f).card = s.card := rfl
@[simp] theorem withCells_mgmt : (s.withCells f).mgmt = s.mgmt := rfl
@[simp] theorem withCells_img : (s.withCells f).img = s.img := rfl
@[simp] theorem withCells_config : (s.withCells f).config = s.config := rfl
@[simp] theorem withCells_test : (s.withCells f).test = s.test := rfl
@[simp] theorem withCells_power : (s.withCells f).power = s.power := rfl
@[simp] theorem withCells_thermal : (s.withCells f).thermal = s.thermal := rfl
@[simp] theorem withCells_cells : (s.withCells f).cells = f s.cells := rfl
@[simp] theorem withCells_cap : (s.withCells f).cap = s.cap := rfl
@[simp] theorem withCells_bucket : (s.withCells f).bucket = s.bucket := rfl
@[simp] theorem withCells_stores : (s.withCells f).stores = s.stores := rfl
@[simp] theorem withCells_glide : (s.withCells f).glide = s.glide := rfl
@[simp] theorem withCells_links : (s.withCells f).links = s.links := rfl
@[simp] theorem withCells_fabric : (s.withCells f).fabric = s.fabric := rfl
@[simp] theorem withCells_windows : (s.withCells f).windows = s.windows := rfl
@[simp] theorem withCells_restore : (s.withCells f).restore = s.restore := rfl
@[simp] theorem withCells_relay : (s.withCells f).relay = s.relay := rfl
@[simp] theorem withCells_job : (s.withCells f).job = s.job := rfl
@[simp] theorem withCells_sat : (s.withCells f).sat = s.sat := rfl
@[simp] theorem withCells_wrap : (s.withCells f).wrap = s.wrap := rfl
@[simp] theorem withCells_freeIdx : (s.withCells f).freeIdx = s.freeIdx := rfl
end

section
variable (f : CapMap → CapMap)
@[simp] theorem withCap_pending : (s.withCap f).pending = s.pending := rfl
@[simp] theorem withCap_dev : (s.withCap f).dev = s.dev := rfl
@[simp] theorem withCap_pins : (s.withCap f).pins = s.pins := rfl
@[simp] theorem withCap_clocks : (s.withCap f).clocks = s.clocks := rfl
@[simp] theorem withCap_pt : (s.withCap f).pt = s.pt := rfl
@[simp] theorem withCap_boot : (s.withCap f).boot = s.boot := rfl
@[simp] theorem withCap_fuses : (s.withCap f).fuses = s.fuses := rfl
@[simp] theorem withCap_nvm : (s.withCap f).nvm = s.nvm := rfl
@[simp] theorem withCap_card : (s.withCap f).card = s.card := rfl
@[simp] theorem withCap_mgmt : (s.withCap f).mgmt = s.mgmt := rfl
@[simp] theorem withCap_img : (s.withCap f).img = s.img := rfl
@[simp] theorem withCap_config : (s.withCap f).config = s.config := rfl
@[simp] theorem withCap_test : (s.withCap f).test = s.test := rfl
@[simp] theorem withCap_power : (s.withCap f).power = s.power := rfl
@[simp] theorem withCap_thermal : (s.withCap f).thermal = s.thermal := rfl
@[simp] theorem withCap_cells : (s.withCap f).cells = s.cells := rfl
@[simp] theorem withCap_cap : (s.withCap f).cap = f s.cap := rfl
@[simp] theorem withCap_bucket : (s.withCap f).bucket = s.bucket := rfl
@[simp] theorem withCap_stores : (s.withCap f).stores = s.stores := rfl
@[simp] theorem withCap_glide : (s.withCap f).glide = s.glide := rfl
@[simp] theorem withCap_links : (s.withCap f).links = s.links := rfl
@[simp] theorem withCap_fabric : (s.withCap f).fabric = s.fabric := rfl
@[simp] theorem withCap_windows : (s.withCap f).windows = s.windows := rfl
@[simp] theorem withCap_restore : (s.withCap f).restore = s.restore := rfl
@[simp] theorem withCap_relay : (s.withCap f).relay = s.relay := rfl
@[simp] theorem withCap_job : (s.withCap f).job = s.job := rfl
@[simp] theorem withCap_sat : (s.withCap f).sat = s.sat := rfl
@[simp] theorem withCap_wrap : (s.withCap f).wrap = s.wrap := rfl
@[simp] theorem withCap_freeIdx : (s.withCap f).freeIdx = s.freeIdx := rfl
end

section
variable (f : Bucket → Bucket)
@[simp] theorem withBucket_pending : (s.withBucket f).pending = s.pending := rfl
@[simp] theorem withBucket_dev : (s.withBucket f).dev = s.dev := rfl
@[simp] theorem withBucket_pins : (s.withBucket f).pins = s.pins := rfl
@[simp] theorem withBucket_clocks : (s.withBucket f).clocks = s.clocks := rfl
@[simp] theorem withBucket_pt : (s.withBucket f).pt = s.pt := rfl
@[simp] theorem withBucket_boot : (s.withBucket f).boot = s.boot := rfl
@[simp] theorem withBucket_fuses : (s.withBucket f).fuses = s.fuses := rfl
@[simp] theorem withBucket_nvm : (s.withBucket f).nvm = s.nvm := rfl
@[simp] theorem withBucket_card : (s.withBucket f).card = s.card := rfl
@[simp] theorem withBucket_mgmt : (s.withBucket f).mgmt = s.mgmt := rfl
@[simp] theorem withBucket_img : (s.withBucket f).img = s.img := rfl
@[simp] theorem withBucket_config : (s.withBucket f).config = s.config := rfl
@[simp] theorem withBucket_test : (s.withBucket f).test = s.test := rfl
@[simp] theorem withBucket_power : (s.withBucket f).power = s.power := rfl
@[simp] theorem withBucket_thermal : (s.withBucket f).thermal = s.thermal := rfl
@[simp] theorem withBucket_cells : (s.withBucket f).cells = s.cells := rfl
@[simp] theorem withBucket_cap : (s.withBucket f).cap = s.cap := rfl
@[simp] theorem withBucket_bucket : (s.withBucket f).bucket = f s.bucket := rfl
@[simp] theorem withBucket_stores : (s.withBucket f).stores = s.stores := rfl
@[simp] theorem withBucket_glide : (s.withBucket f).glide = s.glide := rfl
@[simp] theorem withBucket_links : (s.withBucket f).links = s.links := rfl
@[simp] theorem withBucket_fabric : (s.withBucket f).fabric = s.fabric := rfl
@[simp] theorem withBucket_windows : (s.withBucket f).windows = s.windows := rfl
@[simp] theorem withBucket_restore : (s.withBucket f).restore = s.restore := rfl
@[simp] theorem withBucket_relay : (s.withBucket f).relay = s.relay := rfl
@[simp] theorem withBucket_job : (s.withBucket f).job = s.job := rfl
@[simp] theorem withBucket_sat : (s.withBucket f).sat = s.sat := rfl
@[simp] theorem withBucket_wrap : (s.withBucket f).wrap = s.wrap := rfl
@[simp] theorem withBucket_freeIdx : (s.withBucket f).freeIdx = s.freeIdx := rfl
end

section
variable (f : Stores → Stores)
@[simp] theorem withStores_pending : (s.withStores f).pending = s.pending := rfl
@[simp] theorem withStores_dev : (s.withStores f).dev = s.dev := rfl
@[simp] theorem withStores_pins : (s.withStores f).pins = s.pins := rfl
@[simp] theorem withStores_clocks : (s.withStores f).clocks = s.clocks := rfl
@[simp] theorem withStores_pt : (s.withStores f).pt = s.pt := rfl
@[simp] theorem withStores_boot : (s.withStores f).boot = s.boot := rfl
@[simp] theorem withStores_fuses : (s.withStores f).fuses = s.fuses := rfl
@[simp] theorem withStores_nvm : (s.withStores f).nvm = s.nvm := rfl
@[simp] theorem withStores_card : (s.withStores f).card = s.card := rfl
@[simp] theorem withStores_mgmt : (s.withStores f).mgmt = s.mgmt := rfl
@[simp] theorem withStores_img : (s.withStores f).img = s.img := rfl
@[simp] theorem withStores_config : (s.withStores f).config = s.config := rfl
@[simp] theorem withStores_test : (s.withStores f).test = s.test := rfl
@[simp] theorem withStores_power : (s.withStores f).power = s.power := rfl
@[simp] theorem withStores_thermal : (s.withStores f).thermal = s.thermal := rfl
@[simp] theorem withStores_cells : (s.withStores f).cells = s.cells := rfl
@[simp] theorem withStores_cap : (s.withStores f).cap = s.cap := rfl
@[simp] theorem withStores_bucket : (s.withStores f).bucket = s.bucket := rfl
@[simp] theorem withStores_stores : (s.withStores f).stores = f s.stores := rfl
@[simp] theorem withStores_glide : (s.withStores f).glide = s.glide := rfl
@[simp] theorem withStores_links : (s.withStores f).links = s.links := rfl
@[simp] theorem withStores_fabric : (s.withStores f).fabric = s.fabric := rfl
@[simp] theorem withStores_windows : (s.withStores f).windows = s.windows := rfl
@[simp] theorem withStores_restore : (s.withStores f).restore = s.restore := rfl
@[simp] theorem withStores_relay : (s.withStores f).relay = s.relay := rfl
@[simp] theorem withStores_job : (s.withStores f).job = s.job := rfl
@[simp] theorem withStores_sat : (s.withStores f).sat = s.sat := rfl
@[simp] theorem withStores_wrap : (s.withStores f).wrap = s.wrap := rfl
@[simp] theorem withStores_freeIdx : (s.withStores f).freeIdx = s.freeIdx := rfl
end

section
variable (f : Glide → Glide)
@[simp] theorem withGlide_pending : (s.withGlide f).pending = s.pending := rfl
@[simp] theorem withGlide_dev : (s.withGlide f).dev = s.dev := rfl
@[simp] theorem withGlide_pins : (s.withGlide f).pins = s.pins := rfl
@[simp] theorem withGlide_clocks : (s.withGlide f).clocks = s.clocks := rfl
@[simp] theorem withGlide_pt : (s.withGlide f).pt = s.pt := rfl
@[simp] theorem withGlide_boot : (s.withGlide f).boot = s.boot := rfl
@[simp] theorem withGlide_fuses : (s.withGlide f).fuses = s.fuses := rfl
@[simp] theorem withGlide_nvm : (s.withGlide f).nvm = s.nvm := rfl
@[simp] theorem withGlide_card : (s.withGlide f).card = s.card := rfl
@[simp] theorem withGlide_mgmt : (s.withGlide f).mgmt = s.mgmt := rfl
@[simp] theorem withGlide_img : (s.withGlide f).img = s.img := rfl
@[simp] theorem withGlide_config : (s.withGlide f).config = s.config := rfl
@[simp] theorem withGlide_test : (s.withGlide f).test = s.test := rfl
@[simp] theorem withGlide_power : (s.withGlide f).power = s.power := rfl
@[simp] theorem withGlide_thermal : (s.withGlide f).thermal = s.thermal := rfl
@[simp] theorem withGlide_cells : (s.withGlide f).cells = s.cells := rfl
@[simp] theorem withGlide_cap : (s.withGlide f).cap = s.cap := rfl
@[simp] theorem withGlide_bucket : (s.withGlide f).bucket = s.bucket := rfl
@[simp] theorem withGlide_stores : (s.withGlide f).stores = s.stores := rfl
@[simp] theorem withGlide_glide : (s.withGlide f).glide = f s.glide := rfl
@[simp] theorem withGlide_links : (s.withGlide f).links = s.links := rfl
@[simp] theorem withGlide_fabric : (s.withGlide f).fabric = s.fabric := rfl
@[simp] theorem withGlide_windows : (s.withGlide f).windows = s.windows := rfl
@[simp] theorem withGlide_restore : (s.withGlide f).restore = s.restore := rfl
@[simp] theorem withGlide_relay : (s.withGlide f).relay = s.relay := rfl
@[simp] theorem withGlide_job : (s.withGlide f).job = s.job := rfl
@[simp] theorem withGlide_sat : (s.withGlide f).sat = s.sat := rfl
@[simp] theorem withGlide_wrap : (s.withGlide f).wrap = s.wrap := rfl
@[simp] theorem withGlide_freeIdx : (s.withGlide f).freeIdx = s.freeIdx := rfl
end

section
variable (f : Links → Links)
@[simp] theorem withLinks_pending : (s.withLinks f).pending = s.pending := rfl
@[simp] theorem withLinks_dev : (s.withLinks f).dev = s.dev := rfl
@[simp] theorem withLinks_pins : (s.withLinks f).pins = s.pins := rfl
@[simp] theorem withLinks_clocks : (s.withLinks f).clocks = s.clocks := rfl
@[simp] theorem withLinks_pt : (s.withLinks f).pt = s.pt := rfl
@[simp] theorem withLinks_boot : (s.withLinks f).boot = s.boot := rfl
@[simp] theorem withLinks_fuses : (s.withLinks f).fuses = s.fuses := rfl
@[simp] theorem withLinks_nvm : (s.withLinks f).nvm = s.nvm := rfl
@[simp] theorem withLinks_card : (s.withLinks f).card = s.card := rfl
@[simp] theorem withLinks_mgmt : (s.withLinks f).mgmt = s.mgmt := rfl
@[simp] theorem withLinks_img : (s.withLinks f).img = s.img := rfl
@[simp] theorem withLinks_config : (s.withLinks f).config = s.config := rfl
@[simp] theorem withLinks_test : (s.withLinks f).test = s.test := rfl
@[simp] theorem withLinks_power : (s.withLinks f).power = s.power := rfl
@[simp] theorem withLinks_thermal : (s.withLinks f).thermal = s.thermal := rfl
@[simp] theorem withLinks_cells : (s.withLinks f).cells = s.cells := rfl
@[simp] theorem withLinks_cap : (s.withLinks f).cap = s.cap := rfl
@[simp] theorem withLinks_bucket : (s.withLinks f).bucket = s.bucket := rfl
@[simp] theorem withLinks_stores : (s.withLinks f).stores = s.stores := rfl
@[simp] theorem withLinks_glide : (s.withLinks f).glide = s.glide := rfl
@[simp] theorem withLinks_links : (s.withLinks f).links = f s.links := rfl
@[simp] theorem withLinks_fabric : (s.withLinks f).fabric = s.fabric := rfl
@[simp] theorem withLinks_windows : (s.withLinks f).windows = s.windows := rfl
@[simp] theorem withLinks_restore : (s.withLinks f).restore = s.restore := rfl
@[simp] theorem withLinks_relay : (s.withLinks f).relay = s.relay := rfl
@[simp] theorem withLinks_job : (s.withLinks f).job = s.job := rfl
@[simp] theorem withLinks_sat : (s.withLinks f).sat = s.sat := rfl
@[simp] theorem withLinks_wrap : (s.withLinks f).wrap = s.wrap := rfl
@[simp] theorem withLinks_freeIdx : (s.withLinks f).freeIdx = s.freeIdx := rfl
end

section
variable (f : Fabric → Fabric)
@[simp] theorem withFabric_pending : (s.withFabric f).pending = s.pending := rfl
@[simp] theorem withFabric_dev : (s.withFabric f).dev = s.dev := rfl
@[simp] theorem withFabric_pins : (s.withFabric f).pins = s.pins := rfl
@[simp] theorem withFabric_clocks : (s.withFabric f).clocks = s.clocks := rfl
@[simp] theorem withFabric_pt : (s.withFabric f).pt = s.pt := rfl
@[simp] theorem withFabric_boot : (s.withFabric f).boot = s.boot := rfl
@[simp] theorem withFabric_fuses : (s.withFabric f).fuses = s.fuses := rfl
@[simp] theorem withFabric_nvm : (s.withFabric f).nvm = s.nvm := rfl
@[simp] theorem withFabric_card : (s.withFabric f).card = s.card := rfl
@[simp] theorem withFabric_mgmt : (s.withFabric f).mgmt = s.mgmt := rfl
@[simp] theorem withFabric_img : (s.withFabric f).img = s.img := rfl
@[simp] theorem withFabric_config : (s.withFabric f).config = s.config := rfl
@[simp] theorem withFabric_test : (s.withFabric f).test = s.test := rfl
@[simp] theorem withFabric_power : (s.withFabric f).power = s.power := rfl
@[simp] theorem withFabric_thermal : (s.withFabric f).thermal = s.thermal := rfl
@[simp] theorem withFabric_cells : (s.withFabric f).cells = s.cells := rfl
@[simp] theorem withFabric_cap : (s.withFabric f).cap = s.cap := rfl
@[simp] theorem withFabric_bucket : (s.withFabric f).bucket = s.bucket := rfl
@[simp] theorem withFabric_stores : (s.withFabric f).stores = s.stores := rfl
@[simp] theorem withFabric_glide : (s.withFabric f).glide = s.glide := rfl
@[simp] theorem withFabric_links : (s.withFabric f).links = s.links := rfl
@[simp] theorem withFabric_fabric : (s.withFabric f).fabric = f s.fabric := rfl
@[simp] theorem withFabric_windows : (s.withFabric f).windows = s.windows := rfl
@[simp] theorem withFabric_restore : (s.withFabric f).restore = s.restore := rfl
@[simp] theorem withFabric_relay : (s.withFabric f).relay = s.relay := rfl
@[simp] theorem withFabric_job : (s.withFabric f).job = s.job := rfl
@[simp] theorem withFabric_sat : (s.withFabric f).sat = s.sat := rfl
@[simp] theorem withFabric_wrap : (s.withFabric f).wrap = s.wrap := rfl
@[simp] theorem withFabric_freeIdx : (s.withFabric f).freeIdx = s.freeIdx := rfl
end

section
variable (f : Relay → Relay)
@[simp] theorem withRelay_pending : (s.withRelay f).pending = s.pending := rfl
@[simp] theorem withRelay_dev : (s.withRelay f).dev = s.dev := rfl
@[simp] theorem withRelay_pins : (s.withRelay f).pins = s.pins := rfl
@[simp] theorem withRelay_clocks : (s.withRelay f).clocks = s.clocks := rfl
@[simp] theorem withRelay_pt : (s.withRelay f).pt = s.pt := rfl
@[simp] theorem withRelay_boot : (s.withRelay f).boot = s.boot := rfl
@[simp] theorem withRelay_fuses : (s.withRelay f).fuses = s.fuses := rfl
@[simp] theorem withRelay_nvm : (s.withRelay f).nvm = s.nvm := rfl
@[simp] theorem withRelay_card : (s.withRelay f).card = s.card := rfl
@[simp] theorem withRelay_mgmt : (s.withRelay f).mgmt = s.mgmt := rfl
@[simp] theorem withRelay_img : (s.withRelay f).img = s.img := rfl
@[simp] theorem withRelay_config : (s.withRelay f).config = s.config := rfl
@[simp] theorem withRelay_test : (s.withRelay f).test = s.test := rfl
@[simp] theorem withRelay_power : (s.withRelay f).power = s.power := rfl
@[simp] theorem withRelay_thermal : (s.withRelay f).thermal = s.thermal := rfl
@[simp] theorem withRelay_cells : (s.withRelay f).cells = s.cells := rfl
@[simp] theorem withRelay_cap : (s.withRelay f).cap = s.cap := rfl
@[simp] theorem withRelay_bucket : (s.withRelay f).bucket = s.bucket := rfl
@[simp] theorem withRelay_stores : (s.withRelay f).stores = s.stores := rfl
@[simp] theorem withRelay_glide : (s.withRelay f).glide = s.glide := rfl
@[simp] theorem withRelay_links : (s.withRelay f).links = s.links := rfl
@[simp] theorem withRelay_fabric : (s.withRelay f).fabric = s.fabric := rfl
@[simp] theorem withRelay_windows : (s.withRelay f).windows = s.windows := rfl
@[simp] theorem withRelay_restore : (s.withRelay f).restore = s.restore := rfl
@[simp] theorem withRelay_relay : (s.withRelay f).relay = f s.relay := rfl
@[simp] theorem withRelay_job : (s.withRelay f).job = s.job := rfl
@[simp] theorem withRelay_sat : (s.withRelay f).sat = s.sat := rfl
@[simp] theorem withRelay_wrap : (s.withRelay f).wrap = s.wrap := rfl
@[simp] theorem withRelay_freeIdx : (s.withRelay f).freeIdx = s.freeIdx := rfl
end

section
variable (f : I3c → I3c)
@[simp] theorem withI3c_pending : (s.withI3c f).pending = s.pending := rfl
@[simp] theorem withI3c_dev : (s.withI3c f).dev = s.dev := rfl
@[simp] theorem withI3c_pins : (s.withI3c f).pins = s.pins := rfl
@[simp] theorem withI3c_clocks : (s.withI3c f).clocks = s.clocks := rfl
@[simp] theorem withI3c_pt : (s.withI3c f).pt = s.pt := rfl
@[simp] theorem withI3c_boot : (s.withI3c f).boot = s.boot := rfl
@[simp] theorem withI3c_fuses : (s.withI3c f).fuses = s.fuses := rfl
@[simp] theorem withI3c_nvm : (s.withI3c f).nvm = s.nvm := rfl
@[simp] theorem withI3c_card : (s.withI3c f).card = s.card := rfl
@[simp] theorem withI3c_mgmt : (s.withI3c f).mgmt = { s.mgmt with i3c := f s.mgmt.i3c } := rfl
@[simp] theorem withI3c_img : (s.withI3c f).img = s.img := rfl
@[simp] theorem withI3c_config : (s.withI3c f).config = s.config := rfl
@[simp] theorem withI3c_test : (s.withI3c f).test = s.test := rfl
@[simp] theorem withI3c_power : (s.withI3c f).power = s.power := rfl
@[simp] theorem withI3c_thermal : (s.withI3c f).thermal = s.thermal := rfl
@[simp] theorem withI3c_cells : (s.withI3c f).cells = s.cells := rfl
@[simp] theorem withI3c_cap : (s.withI3c f).cap = s.cap := rfl
@[simp] theorem withI3c_bucket : (s.withI3c f).bucket = s.bucket := rfl
@[simp] theorem withI3c_stores : (s.withI3c f).stores = s.stores := rfl
@[simp] theorem withI3c_glide : (s.withI3c f).glide = s.glide := rfl
@[simp] theorem withI3c_links : (s.withI3c f).links = s.links := rfl
@[simp] theorem withI3c_fabric : (s.withI3c f).fabric = s.fabric := rfl
@[simp] theorem withI3c_windows : (s.withI3c f).windows = s.windows := rfl
@[simp] theorem withI3c_restore : (s.withI3c f).restore = s.restore := rfl
@[simp] theorem withI3c_relay : (s.withI3c f).relay = s.relay := rfl
@[simp] theorem withI3c_job : (s.withI3c f).job = s.job := rfl
@[simp] theorem withI3c_sat : (s.withI3c f).sat = s.sat := rfl
@[simp] theorem withI3c_wrap : (s.withI3c f).wrap = s.wrap := rfl
@[simp] theorem withI3c_freeIdx : (s.withI3c f).freeIdx = s.freeIdx := rfl
end

section
variable (f : Job → Job)
@[simp] theorem withJob_pending : (s.withJob f).pending = s.pending := rfl
@[simp] theorem withJob_dev : (s.withJob f).dev = s.dev := rfl
@[simp] theorem withJob_pins : (s.withJob f).pins = s.pins := rfl
@[simp] theorem withJob_clocks : (s.withJob f).clocks = s.clocks := rfl
@[simp] theorem withJob_pt : (s.withJob f).pt = s.pt := rfl
@[simp] theorem withJob_boot : (s.withJob f).boot = s.boot := rfl
@[simp] theorem withJob_fuses : (s.withJob f).fuses = s.fuses := rfl
@[simp] theorem withJob_nvm : (s.withJob f).nvm = s.nvm := rfl
@[simp] theorem withJob_card : (s.withJob f).card = s.card := rfl
@[simp] theorem withJob_mgmt : (s.withJob f).mgmt = s.mgmt := rfl
@[simp] theorem withJob_img : (s.withJob f).img = s.img := rfl
@[simp] theorem withJob_config : (s.withJob f).config = s.config := rfl
@[simp] theorem withJob_test : (s.withJob f).test = s.test := rfl
@[simp] theorem withJob_power : (s.withJob f).power = s.power := rfl
@[simp] theorem withJob_thermal : (s.withJob f).thermal = s.thermal := rfl
@[simp] theorem withJob_cells : (s.withJob f).cells = s.cells := rfl
@[simp] theorem withJob_cap : (s.withJob f).cap = s.cap := rfl
@[simp] theorem withJob_bucket : (s.withJob f).bucket = s.bucket := rfl
@[simp] theorem withJob_stores : (s.withJob f).stores = s.stores := rfl
@[simp] theorem withJob_glide : (s.withJob f).glide = s.glide := rfl
@[simp] theorem withJob_links : (s.withJob f).links = s.links := rfl
@[simp] theorem withJob_fabric : (s.withJob f).fabric = s.fabric := rfl
@[simp] theorem withJob_windows : (s.withJob f).windows = s.windows := rfl
@[simp] theorem withJob_restore : (s.withJob f).restore = s.restore := rfl
@[simp] theorem withJob_relay : (s.withJob f).relay = s.relay := rfl
@[simp] theorem withJob_job : (s.withJob f).job = s.job.map f := rfl
@[simp] theorem withJob_sat : (s.withJob f).sat = s.sat := rfl
@[simp] theorem withJob_wrap : (s.withJob f).wrap = s.wrap := rfl
@[simp] theorem withJob_freeIdx : (s.withJob f).freeIdx = s.freeIdx := rfl
end

section
variable (n : Nat) (f : StationRt → StationRt)
@[simp] theorem withSt_pending : (s.withSt n f).pending = s.pending := rfl
@[simp] theorem withSt_dev : (s.withSt n f).dev = s.dev := rfl
@[simp] theorem withSt_pins : (s.withSt n f).pins = s.pins := rfl
@[simp] theorem withSt_clocks : (s.withSt n f).clocks = s.clocks := rfl
@[simp] theorem withSt_pt : (s.withSt n f).pt = s.pt := rfl
@[simp] theorem withSt_boot : (s.withSt n f).boot = s.boot := rfl
@[simp] theorem withSt_fuses : (s.withSt n f).fuses = s.fuses := rfl
@[simp] theorem withSt_nvm : (s.withSt n f).nvm = s.nvm := rfl
@[simp] theorem withSt_card : (s.withSt n f).card = s.card := rfl
@[simp] theorem withSt_mgmt : (s.withSt n f).mgmt = s.mgmt := rfl
@[simp] theorem withSt_img : (s.withSt n f).img = s.img := rfl
@[simp] theorem withSt_config : (s.withSt n f).config = s.config := rfl
@[simp] theorem withSt_test : (s.withSt n f).test = s.test := rfl
@[simp] theorem withSt_power : (s.withSt n f).power = s.power := rfl
@[simp] theorem withSt_thermal : (s.withSt n f).thermal = s.thermal := rfl
@[simp] theorem withSt_cells : (s.withSt n f).cells = { s.cells with stations := upd s.cells.stations n {} f } := rfl
@[simp] theorem withSt_cap : (s.withSt n f).cap = s.cap := rfl
@[simp] theorem withSt_bucket : (s.withSt n f).bucket = s.bucket := rfl
@[simp] theorem withSt_stores : (s.withSt n f).stores = s.stores := rfl
@[simp] theorem withSt_glide : (s.withSt n f).glide = s.glide := rfl
@[simp] theorem withSt_links : (s.withSt n f).links = s.links := rfl
@[simp] theorem withSt_fabric : (s.withSt n f).fabric = s.fabric := rfl
@[simp] theorem withSt_windows : (s.withSt n f).windows = s.windows := rfl
@[simp] theorem withSt_restore : (s.withSt n f).restore = s.restore := rfl
@[simp] theorem withSt_relay : (s.withSt n f).relay = s.relay := rfl
@[simp] theorem withSt_job : (s.withSt n f).job = s.job := rfl
@[simp] theorem withSt_sat : (s.withSt n f).sat = s.sat := rfl
@[simp] theorem withSt_wrap : (s.withSt n f).wrap = s.wrap := rfl
@[simp] theorem withSt_freeIdx : (s.withSt n f).freeIdx = s.freeIdx := rfl
end

section
variable (n : Nat) (f : Stack → Stack)
@[simp] theorem withStack_pending : (s.withStack n f).pending = s.pending := rfl
@[simp] theorem withStack_dev : (s.withStack n f).dev = s.dev := rfl
@[simp] theorem withStack_pins : (s.withStack n f).pins = s.pins := rfl
@[simp] theorem withStack_clocks : (s.withStack n f).clocks = s.clocks := rfl
@[simp] theorem withStack_pt : (s.withStack n f).pt = s.pt := rfl
@[simp] theorem withStack_boot : (s.withStack n f).boot = s.boot := rfl
@[simp] theorem withStack_fuses : (s.withStack n f).fuses = s.fuses := rfl
@[simp] theorem withStack_nvm : (s.withStack n f).nvm = s.nvm := rfl
@[simp] theorem withStack_card : (s.withStack n f).card = s.card := rfl
@[simp] theorem withStack_mgmt : (s.withStack n f).mgmt = s.mgmt := rfl
@[simp] theorem withStack_img : (s.withStack n f).img = s.img := rfl
@[simp] theorem withStack_config : (s.withStack n f).config = s.config := rfl
@[simp] theorem withStack_test : (s.withStack n f).test = s.test := rfl
@[simp] theorem withStack_power : (s.withStack n f).power = s.power := rfl
@[simp] theorem withStack_thermal : (s.withStack n f).thermal = s.thermal := rfl
@[simp] theorem withStack_cells : (s.withStack n f).cells = s.cells := rfl
@[simp] theorem withStack_cap : (s.withStack n f).cap = s.cap := rfl
@[simp] theorem withStack_bucket : (s.withStack n f).bucket = s.bucket := rfl
@[simp] theorem withStack_stores : (s.withStack n f).stores = { s.stores with stackSet := upd s.stores.stackSet n {} f } := rfl
@[simp] theorem withStack_glide : (s.withStack n f).glide = s.glide := rfl
@[simp] theorem withStack_links : (s.withStack n f).links = s.links := rfl
@[simp] theorem withStack_fabric : (s.withStack n f).fabric = s.fabric := rfl
@[simp] theorem withStack_windows : (s.withStack n f).windows = s.windows := rfl
@[simp] theorem withStack_restore : (s.withStack n f).restore = s.restore := rfl
@[simp] theorem withStack_relay : (s.withStack n f).relay = s.relay := rfl
@[simp] theorem withStack_job : (s.withStack n f).job = s.job := rfl
@[simp] theorem withStack_sat : (s.withStack n f).sat = s.sat := rfl
@[simp] theorem withStack_wrap : (s.withStack n f).wrap = s.wrap := rfl
@[simp] theorem withStack_freeIdx : (s.withStack n f).freeIdx = s.freeIdx := rfl
end

section
variable (n : Nat) (f : Engine → Engine)
@[simp] theorem withEngine_pending : (s.withEngine n f).pending = s.pending := rfl
@[simp] theorem withEngine_dev : (s.withEngine n f).dev = s.dev := rfl
@[simp] theorem withEngine_pins : (s.withEngine n f).pins = s.pins := rfl
@[simp] theorem withEngine_clocks : (s.withEngine n f).clocks = s.clocks := rfl
@[simp] theorem withEngine_pt : (s.withEngine n f).pt = s.pt := rfl
@[simp] theorem withEngine_boot : (s.withEngine n f).boot = s.boot := rfl
@[simp] theorem withEngine_fuses : (s.withEngine n f).fuses = s.fuses := rfl
@[simp] theorem withEngine_nvm : (s.withEngine n f).nvm = s.nvm := rfl
@[simp] theorem withEngine_card : (s.withEngine n f).card = s.card := rfl
@[simp] theorem withEngine_mgmt : (s.withEngine n f).mgmt = s.mgmt := rfl
@[simp] theorem withEngine_img : (s.withEngine n f).img = s.img := rfl
@[simp] theorem withEngine_config : (s.withEngine n f).config = s.config := rfl
@[simp] theorem withEngine_test : (s.withEngine n f).test = s.test := rfl
@[simp] theorem withEngine_power : (s.withEngine n f).power = s.power := rfl
@[simp] theorem withEngine_thermal : (s.withEngine n f).thermal = s.thermal := rfl
@[simp] theorem withEngine_cells : (s.withEngine n f).cells = s.cells := rfl
@[simp] theorem withEngine_cap : (s.withEngine n f).cap = s.cap := rfl
@[simp] theorem withEngine_bucket : (s.withEngine n f).bucket = s.bucket := rfl
@[simp] theorem withEngine_stores : (s.withEngine n f).stores = s.stores := rfl
@[simp] theorem withEngine_glide : (s.withEngine n f).glide = { s.glide with engines := upd s.glide.engines n {} f } := rfl
@[simp] theorem withEngine_links : (s.withEngine n f).links = s.links := rfl
@[simp] theorem withEngine_fabric : (s.withEngine n f).fabric = s.fabric := rfl
@[simp] theorem withEngine_windows : (s.withEngine n f).windows = s.windows := rfl
@[simp] theorem withEngine_restore : (s.withEngine n f).restore = s.restore := rfl
@[simp] theorem withEngine_relay : (s.withEngine n f).relay = s.relay := rfl
@[simp] theorem withEngine_job : (s.withEngine n f).job = s.job := rfl
@[simp] theorem withEngine_sat : (s.withEngine n f).sat = s.sat := rfl
@[simp] theorem withEngine_wrap : (s.withEngine n f).wrap = s.wrap := rfl
@[simp] theorem withEngine_freeIdx : (s.withEngine n f).freeIdx = s.freeIdx := rfl
end

section
variable (n : Nat) (f : Port → Port)
@[simp] theorem withPort_pending : (s.withPort n f).pending = s.pending := rfl
@[simp] theorem withPort_dev : (s.withPort n f).dev = s.dev := rfl
@[simp] theorem withPort_pins : (s.withPort n f).pins = s.pins := rfl
@[simp] theorem withPort_clocks : (s.withPort n f).clocks = s.clocks := rfl
@[simp] theorem withPort_pt : (s.withPort n f).pt = s.pt := rfl
@[simp] theorem withPort_boot : (s.withPort n f).boot = s.boot := rfl
@[simp] theorem withPort_fuses : (s.withPort n f).fuses = s.fuses := rfl
@[simp] theorem withPort_nvm : (s.withPort n f).nvm = s.nvm := rfl
@[simp] theorem withPort_card : (s.withPort n f).card = s.card := rfl
@[simp] theorem withPort_mgmt : (s.withPort n f).mgmt = s.mgmt := rfl
@[simp] theorem withPort_img : (s.withPort n f).img = s.img := rfl
@[simp] theorem withPort_config : (s.withPort n f).config = s.config := rfl
@[simp] theorem withPort_test : (s.withPort n f).test = s.test := rfl
@[simp] theorem withPort_power : (s.withPort n f).power = s.power := rfl
@[simp] theorem withPort_thermal : (s.withPort n f).thermal = s.thermal := rfl
@[simp] theorem withPort_cells : (s.withPort n f).cells = s.cells := rfl
@[simp] theorem withPort_cap : (s.withPort n f).cap = s.cap := rfl
@[simp] theorem withPort_bucket : (s.withPort n f).bucket = s.bucket := rfl
@[simp] theorem withPort_stores : (s.withPort n f).stores = s.stores := rfl
@[simp] theorem withPort_glide : (s.withPort n f).glide = s.glide := rfl
@[simp] theorem withPort_links : (s.withPort n f).links = { s.links with ports := upd s.links.ports n {} f } := rfl
@[simp] theorem withPort_fabric : (s.withPort n f).fabric = s.fabric := rfl
@[simp] theorem withPort_windows : (s.withPort n f).windows = s.windows := rfl
@[simp] theorem withPort_restore : (s.withPort n f).restore = s.restore := rfl
@[simp] theorem withPort_relay : (s.withPort n f).relay = s.relay := rfl
@[simp] theorem withPort_job : (s.withPort n f).job = s.job := rfl
@[simp] theorem withPort_sat : (s.withPort n f).sat = s.sat := rfl
@[simp] theorem withPort_wrap : (s.withPort n f).wrap = s.wrap := rfl
@[simp] theorem withPort_freeIdx : (s.withPort n f).freeIdx = s.freeIdx := rfl
end

section
variable (n : Nat) (f : PCell → PCell)
@[simp] theorem withPCell_pending : (s.withPCell n f).pending = s.pending := rfl
@[simp] theorem withPCell_dev : (s.withPCell n f).dev = s.dev := rfl
@[simp] theorem withPCell_pins : (s.withPCell n f).pins = s.pins := rfl
@[simp] theorem withPCell_clocks : (s.withPCell n f).clocks = s.clocks := rfl
@[simp] theorem withPCell_pt : (s.withPCell n f).pt = s.pt := rfl
@[simp] theorem withPCell_boot : (s.withPCell n f).boot = s.boot := rfl
@[simp] theorem withPCell_fuses : (s.withPCell n f).fuses = s.fuses := rfl
@[simp] theorem withPCell_nvm : (s.withPCell n f).nvm = s.nvm := rfl
@[simp] theorem withPCell_card : (s.withPCell n f).card = s.card := rfl
@[simp] theorem withPCell_mgmt : (s.withPCell n f).mgmt = s.mgmt := rfl
@[simp] theorem withPCell_img : (s.withPCell n f).img = s.img := rfl
@[simp] theorem withPCell_config : (s.withPCell n f).config = s.config := rfl
@[simp] theorem withPCell_test : (s.withPCell n f).test = s.test := rfl
@[simp] theorem withPCell_power : (s.withPCell n f).power = s.power := rfl
@[simp] theorem withPCell_thermal : (s.withPCell n f).thermal = s.thermal := rfl
@[simp] theorem withPCell_cells : (s.withPCell n f).cells = { s.cells with pcells := upd s.cells.pcells n {} f } := rfl
@[simp] theorem withPCell_cap : (s.withPCell n f).cap = s.cap := rfl
@[simp] theorem withPCell_bucket : (s.withPCell n f).bucket = s.bucket := rfl
@[simp] theorem withPCell_stores : (s.withPCell n f).stores = s.stores := rfl
@[simp] theorem withPCell_glide : (s.withPCell n f).glide = s.glide := rfl
@[simp] theorem withPCell_links : (s.withPCell n f).links = s.links := rfl
@[simp] theorem withPCell_fabric : (s.withPCell n f).fabric = s.fabric := rfl
@[simp] theorem withPCell_windows : (s.withPCell n f).windows = s.windows := rfl
@[simp] theorem withPCell_restore : (s.withPCell n f).restore = s.restore := rfl
@[simp] theorem withPCell_relay : (s.withPCell n f).relay = s.relay := rfl
@[simp] theorem withPCell_job : (s.withPCell n f).job = s.job := rfl
@[simp] theorem withPCell_sat : (s.withPCell n f).sat = s.sat := rfl
@[simp] theorem withPCell_wrap : (s.withPCell n f).wrap = s.wrap := rfl
@[simp] theorem withPCell_freeIdx : (s.withPCell n f).freeIdx = s.freeIdx := rfl
end

section
variable (n : Nat) (f : Cluster → Cluster)
@[simp] theorem withCluster_pending : (s.withCluster n f).pending = s.pending := rfl
@[simp] theorem withCluster_dev : (s.withCluster n f).dev = s.dev := rfl
@[simp] theorem withCluster_pins : (s.withCluster n f).pins = s.pins := rfl
@[simp] theorem withCluster_clocks : (s.withCluster n f).clocks = s.clocks := rfl
@[simp] theorem withCluster_pt : (s.withCluster n f).pt = s.pt := rfl
@[simp] theorem withCluster_boot : (s.withCluster n f).boot = s.boot := rfl
@[simp] theorem withCluster_fuses : (s.withCluster n f).fuses = s.fuses := rfl
@[simp] theorem withCluster_nvm : (s.withCluster n f).nvm = s.nvm := rfl
@[simp] theorem withCluster_card : (s.withCluster n f).card = s.card := rfl
@[simp] theorem withCluster_mgmt : (s.withCluster n f).mgmt = s.mgmt := rfl
@[simp] theorem withCluster_img : (s.withCluster n f).img = s.img := rfl
@[simp] theorem withCluster_config : (s.withCluster n f).config = s.config := rfl
@[simp] theorem withCluster_test : (s.withCluster n f).test = s.test := rfl
@[simp] theorem withCluster_power : (s.withCluster n f).power = s.power := rfl
@[simp] theorem withCluster_thermal : (s.withCluster n f).thermal = s.thermal := rfl
@[simp] theorem withCluster_cells : (s.withCluster n f).cells = { s.cells with clusters := upd s.cells.clusters n {} f } := rfl
@[simp] theorem withCluster_cap : (s.withCluster n f).cap = s.cap := rfl
@[simp] theorem withCluster_bucket : (s.withCluster n f).bucket = s.bucket := rfl
@[simp] theorem withCluster_stores : (s.withCluster n f).stores = s.stores := rfl
@[simp] theorem withCluster_glide : (s.withCluster n f).glide = s.glide := rfl
@[simp] theorem withCluster_links : (s.withCluster n f).links = s.links := rfl
@[simp] theorem withCluster_fabric : (s.withCluster n f).fabric = s.fabric := rfl
@[simp] theorem withCluster_windows : (s.withCluster n f).windows = s.windows := rfl
@[simp] theorem withCluster_restore : (s.withCluster n f).restore = s.restore := rfl
@[simp] theorem withCluster_relay : (s.withCluster n f).relay = s.relay := rfl
@[simp] theorem withCluster_job : (s.withCluster n f).job = s.job := rfl
@[simp] theorem withCluster_sat : (s.withCluster n f).sat = s.sat := rfl
@[simp] theorem withCluster_wrap : (s.withCluster n f).wrap = s.wrap := rfl
@[simp] theorem withCluster_freeIdx : (s.withCluster n f).freeIdx = s.freeIdx := rfl
end

section
variable (o n : Nat)
@[simp] theorem wrapBy_pending : (s.wrapBy o n).pending = s.pending := rfl
@[simp] theorem wrapBy_dev : (s.wrapBy o n).dev = s.dev := rfl
@[simp] theorem wrapBy_pins : (s.wrapBy o n).pins = s.pins := rfl
@[simp] theorem wrapBy_clocks : (s.wrapBy o n).clocks = s.clocks := rfl
@[simp] theorem wrapBy_pt : (s.wrapBy o n).pt = s.pt := rfl
@[simp] theorem wrapBy_boot : (s.wrapBy o n).boot = s.boot := rfl
@[simp] theorem wrapBy_fuses : (s.wrapBy o n).fuses = s.fuses := rfl
@[simp] theorem wrapBy_nvm : (s.wrapBy o n).nvm = s.nvm := rfl
@[simp] theorem wrapBy_card : (s.wrapBy o n).card = s.card := rfl
@[simp] theorem wrapBy_mgmt : (s.wrapBy o n).mgmt = s.mgmt := rfl
@[simp] theorem wrapBy_img : (s.wrapBy o n).img = s.img := rfl
@[simp] theorem wrapBy_config : (s.wrapBy o n).config = s.config := rfl
@[simp] theorem wrapBy_test : (s.wrapBy o n).test = s.test := rfl
@[simp] theorem wrapBy_power : (s.wrapBy o n).power = s.power := rfl
@[simp] theorem wrapBy_thermal : (s.wrapBy o n).thermal = s.thermal := rfl
@[simp] theorem wrapBy_cells : (s.wrapBy o n).cells = s.cells := rfl
@[simp] theorem wrapBy_cap : (s.wrapBy o n).cap = s.cap := rfl
@[simp] theorem wrapBy_bucket : (s.wrapBy o n).bucket = s.bucket := rfl
@[simp] theorem wrapBy_stores : (s.wrapBy o n).stores = s.stores := rfl
@[simp] theorem wrapBy_glide : (s.wrapBy o n).glide = s.glide := rfl
@[simp] theorem wrapBy_links : (s.wrapBy o n).links = s.links := rfl
@[simp] theorem wrapBy_fabric : (s.wrapBy o n).fabric = s.fabric := rfl
@[simp] theorem wrapBy_windows : (s.wrapBy o n).windows = s.windows := rfl
@[simp] theorem wrapBy_restore : (s.wrapBy o n).restore = s.restore := rfl
@[simp] theorem wrapBy_relay : (s.wrapBy o n).relay = s.relay := rfl
@[simp] theorem wrapBy_job : (s.wrapBy o n).job = s.job := rfl
@[simp] theorem wrapBy_sat : (s.wrapBy o n).sat = s.sat := rfl
@[simp] theorem wrapBy_wrap : (s.wrapBy o n).wrap = upd s.wrap o 0 (· + BitVec.ofNat 64 n) := rfl
@[simp] theorem wrapBy_freeIdx : (s.wrapBy o n).freeIdx = s.freeIdx := rfl
end

end Sys2Proof.Machine.State
end

