-- ==== Sys2Proof/Laws/Stations.lean ====
section
/-!
SUPPORT. What the shared operations of the stations do: tables, a ready command, a command that issues, one that completes
at once.
-/
namespace Sys2Proof.Machine

-- Proofs are checked one after another: many at once take more threads than the check allows.
set_option Elab.async false

/-! ### Tables -/

theorem look_put {α : Type} (l : Table α) (k j : Nat) (v : α) : look (put l k v) j = if k = j then some v else look l j := by
  induction l with
  | nil => simp [put, look]
  | cons x r ih =>
    obtain ⟨a, b⟩ := x
    unfold put
    split
    · simp only [look]
    · split
      · rename_i h; subst h; simp only [look]; split <;> rfl
      · rename_i h
        simp only [look, ih]
        by_cases ha : a = j
        · subst ha; simp [h]
        · simp [ha]

@[simp] theorem lookD_put {α : Type} (l : Table α) (k : Nat) (v d : α) : lookD (put l k v) k d = v := by
  simp [lookD, look_put]

theorem lookD_put_ne {α : Type} (l : Table α) {k j : Nat} (v d : α) (h : j ≠ k) : lookD (put l k v) j d = lookD l j d := by
  simp [lookD, look_put, Ne.symm h]

theorem mem_put {α : Type} (l : Table α) (k : Nat) (v : α) : (k, v) ∈ put l k v := by
  induction l with
  | nil => simp [put]
  | cons x r ih =>
    obtain ⟨a, b⟩ := x
    unfold put
    split
    · simp
    · split
      · simp
      · simp [ih]

theorem mem_put_ne {α : Type} {l : Table α} {p : Nat × α} {k : Nat} (v : α) (h : p ∈ l) (hk : p.1 ≠ k) : p ∈ put l k v := by
  induction l with
  | nil => cases h
  | cons x r ih =>
    obtain ⟨a, b⟩ := x
    unfold put
    split
    · exact List.mem_cons_of_mem _ h
    · split
      · rcases List.mem_cons.mp h with h | h
        · rename_i e; subst h; exact absurd e.symm hk
        · exact List.mem_cons_of_mem _ h
      · rcases List.mem_cons.mp h with h | h
        · subst h; exact List.mem_cons_self ..
        · exact List.mem_cons_of_mem _ (ih h)

theorem put_put {α : Type} (l : Table α) (k : Nat) (v w : α) : put (put l k v) k w = put l k w := by
  induction l with
  | nil => simp [put]
  | cons x r ih =>
    obtain ⟨a, b⟩ := x
    by_cases h1 : k < a
    · simp [put, h1]
    · by_cases h2 : k = a
      · subst h2; simp [put]
      · simp [put, h1, h2, ih]

/-! ### One station as changed -/

@[simp] theorem State.st_withSt (s : State) (st : Nat) (f : StationRt → StationRt) : (s.withSt st f).st st = f (s.st st) := by
  simp [State.st, State.withSt, State.withCells, Machine.upd]

theorem State.st_withSt_ne (s : State) {st n : Nat} (f : StationRt → StationRt) (h : n ≠ st) : (s.withSt st f).st n = s.st n := by
  simp [State.st, State.withSt, State.withCells, Machine.upd, lookD_put_ne _ _ _ h]

theorem State.withSt_withSt (s : State) (st : Nat) (f g : StationRt → StationRt) :
    (s.withSt st f).withSt st g = s.withSt st fun r => g (f r) := by
  simp [State.withSt, State.withCells, Machine.upd, put_put]

theorem State.withSt_congr {s : State} {st : Nat} {f g : StationRt → StationRt} (h : f (s.st st) = g (s.st st)) :
    s.withSt st f = s.withSt st g := by
  simp only [State.st] at h
  simp only [State.withSt, State.withCells, Machine.upd]
  rw [h]

theorem Moves.withSt (s : State) (st : Nat) (f : StationRt → StationRt) : Moves s (s.withSt st f) st (f (s.st st)) [] :=
  ⟨by simp [State.withSt, State.withCells], s.st_withSt st f, fun _ h => s.st_withSt_ne f h⟩

theorem Moves.trans {s t u : State} {st : Nat} {r q : StationRt} {a b : List SignalMsg} (h : Moves s t st r a)
    (k : Moves t u st q b) : Moves s u st q (a ++ b) := by
  refine ⟨?_, k.own, fun n hn => (k.others n hn).trans (h.others n hn)⟩
  rw [k.rest, h.rest]
  simp

theorem Moves.desc {s t : State} {st : Nat} {r : StationRt} {a : List SignalMsg} (h : Moves s t st r a) (n : Nat) :
    t.desc n = s.desc n := by
  rw [h.rest]; rfl

theorem Moves.signalsOf {s t : State} {st : Nat} {r : StationRt} {a : List SignalMsg} (h : Moves s t st r a) (n : Nat)
    (os : List Outst) : t.signalsOf n os = s.signalsOf n os := by
  simp only [State.signalsOf, State.sentBy, h.desc]

/-! ### A command that is ready (R72) -/

theorem State.entered_st (s : State) (st : Nat) (cf : Common) : (s.entered st cf).st st = (s.st st).entered cf := by
  unfold State.entered StationRt.entered
  split <;> rename_i h
  · rw [State.st_withSt]; simp only [if_pos h]
  · rfl

theorem State.entered_moves (s : State) (st : Nat) (cf : Common) : Moves s (s.entered st cf) st ((s.st st).entered cf) [] := by
  refine ⟨?_, s.entered_st st cf, fun n hn => ?_⟩
  · unfold State.entered; split <;> simp [State.withSt, State.withCells]
  · unfold State.entered; split
    · exact s.st_withSt_ne _ hn
    · rfl

/-- A ready command does its work on the state in which its WE is settled. -/
theorem State.gate_ready {s : State} {st : Nat} {cf : Common} {ok : Kind → Bool} (h : Ready s st cf ok) (work : State → State) :
    s.gate st cf ok work = work (s.entered st cf) := by
  obtain ⟨h1, h2⟩ := h
  unfold State.gate State.entered
  rw [if_pos h1]
  by_cases hw : (cf.we && !(s.st st).weGranted) = true
  · rw [if_pos hw, if_pos hw]
    have hw2 := hw
    simp only [Bool.and_eq_true, Bool.not_eq_true'] at hw2
    have hle : 1 ≤ (s.st st).sem cf.wSem := by
      rcases h2 hw2.1 with h | h
      · rw [hw2.2] at h; cases h
      · exact h
    have e : s.tryWait st cf.wSem 1 false none =
        (s.withSt st fun r => { r with sems := setGrow r.sems cf.wSem 0 ((s.st st).sem cf.wSem - 1) }, true) := by
      simp [State.tryWait, hle]
    rw [e]
    simp only [if_true, State.withSt_withSt]
    congr 1
    refine State.withSt_congr ?_
    simp [StationRt.entered, hw2]
  · rw [if_neg hw, if_neg hw]

theorem State.canIssue_spec {s : State} {st : Nat} {ok : Kind → Bool} (h : s.canIssue st ok = true) :
    (s.st st).halted = false ∧ (s.st st).stopped = false ∧ (s.st st).waiting = none ∧ (s.st st).crcWait = none ∧
    (s.st st).failed = none := by
  simp only [State.canIssue, Bool.and_eq_true, Bool.not_eq_true'] at h
  obtain ⟨⟨⟨⟨⟨⟨⟨⟨-, -⟩, h5⟩, h4⟩, h3⟩, h2⟩, h1⟩, -⟩, -⟩ := h
  exact ⟨h5, h4, by simpa using h3, by simpa using h2, by simpa using h1⟩

@[simp] theorem StationRt.entered_halted (r : StationRt) (cf : Common) : (r.entered cf).halted = r.halted := by
  unfold StationRt.entered; split <;> rfl
@[simp] theorem StationRt.entered_stopped (r : StationRt) (cf : Common) : (r.entered cf).stopped = r.stopped := by
  unfold StationRt.entered; split <;> rfl
@[simp] theorem StationRt.entered_outstanding (r : StationRt) (cf : Common) : (r.entered cf).outstanding = r.outstanding := by
  unfold StationRt.entered; split <;> rfl
@[simp] theorem StationRt.entered_stepNo (r : StationRt) (cf : Common) : (r.entered cf).stepNo = r.stepNo := by
  unfold StationRt.entered; split <;> rfl

/-! ### Completion (R49, R65) -/

theorem StationRt.advance_fields (r : StationRt) (a : Advance) :
    r.advance a = { r with inCur := (r.advance a).inCur, outCur := (r.advance a).outCur } := by
  unfold StationRt.advance; split <;> rfl

theorem StationRt.advances_fields (l : List Advance) (r : StationRt) :
    l.foldl StationRt.advance r =
      { r with inCur := (l.foldl StationRt.advance r).inCur, outCur := (l.foldl StationRt.advance r).outCur } := by
  induction l generalizing r with
  | nil => rfl
  | cons a l ih =>
    simp only [List.foldl_cons]
    rw [ih (r.advance a)]
    generalize List.foldl StationRt.advance (r.advance a) l = q
    unfold StationRt.advance
    split <;> rfl

/-- The fields that advancing cursors leaves. -/
theorem StationRt.advances_same (l : List Advance) (r : StationRt) :
    (l.foldl StationRt.advance r).halted = r.halted ∧ (l.foldl StationRt.advance r).stopped = r.stopped ∧
    (l.foldl StationRt.advance r).outstanding = r.outstanding ∧ (l.foldl StationRt.advance r).stepNo = r.stepNo := by
  rw [StationRt.advances_fields]
  exact ⟨rfl, rfl, rfl, rfl⟩

/-- The Course does not end while a station has not finished. -/
theorem State.checkDone_of {s : State} {p : Nat × StationRt} (hm : p ∈ s.cells.stations) (h : p.2.finished = false) :
    s.checkDone = s := by
  have hf : ¬ (s.cells.stations.all fun p => p.2.finished) = true := fun hall => by
    have := List.all_eq_true.mp hall p hm
    simp [h] at this
  unfold State.checkDone
  split
  · rw [if_neg (fun hc => hf hc.2.2.1)]
  · rfl

theorem State.emit_eq (s : State) (st : Nat) (o : Outst) :
    (match o.signal with
      | some k => s.emit st k o.count
      | none => s) = { s with cells := { s.cells with signals := s.cells.signals ++ s.sentBy st [o] } } := by
  unfold State.emit State.sentBy
  cases hs : o.signal with
  | none => simp [hs]
  | some k =>
    cases hd : s.desc st with
    | none => simp [hs]
    | some d =>
      cases hk : d.signals.getD k none with
      | none => simp only [List.filterMap_cons, hs, hk, List.filterMap_nil, List.append_nil]
      | some t => simp only [List.filterMap_cons, hs, hk, List.filterMap_nil, State.withCells]

/-- The signals of the commands that leave a list go on their way. -/
theorem State.emits_eq (s : State) (st : Nat) (l : List Outst) :
    (l.foldl (fun s o => match o.signal with
      | some k => s.emit st k o.count
      | none => s) s) = { s with cells := { s.cells with signals := s.cells.signals ++ s.sentBy st l } } := by
  induction l generalizing s with
  | nil => simp [State.sentBy]
  | cons o l ih =>
    simp only [List.foldl_cons]
    rw [State.emit_eq, ih]
    have e : ({ s with cells := { s.cells with signals := s.cells.signals ++ s.sentBy st [o] } } : State).sentBy st l =
      s.sentBy st l := rfl
    rw [e]
    have e2 : s.sentBy st (o :: l) = s.sentBy st [o] ++ s.sentBy st l := by
      simp only [State.sentBy]
      rw [← List.filterMap_append]
      rfl
    simp [e2]

theorem Moves.withJob {s t : State} {st : Nat} {r : StationRt} {a : List SignalMsg} (h : Moves s t st r a) (f : Job → Job) :
    Moves (s.withJob f) (t.withJob f) st r a :=
  ⟨congrArg (State.withJob · f) h.rest, h.own, h.others⟩

/-- A station's list settles (R65) and the Course does not end with it. -/
theorem State.settle_open {s : State} {st : Nat} (ho : Open s st) :
    Moves (s.noted (s.st st).settled) (s.settle st) st (s.st st).settled
      (if (s.st st).stopped then [] else s.signalsOf st (s.st st).outstanding) := by
  have k := Moves.withSt s st fun r => { r with outstanding := (retired (s.st st).outstanding).2 }
  have nd : ∀ u : State, u.cells.stations = put s.cells.stations st (s.st st).settled → u.checkDone = u := by
    intro u hu
    rcases ho with h1 | ⟨p, hp, hn, hf⟩
    · exact State.checkDone_of (p := (st, (s.st st).settled)) (hu ▸ mem_put _ _ _) (by simp [StationRt.finished, StationRt.settled, h1])
    · exact State.checkDone_of (hu ▸ mem_put_ne _ hp hn) hf
  unfold State.settle State.noted
  dsimp only
  have hs : (s.st st).settled.halted = (s.st st).halted := rfl
  have hs2 : (s.st st).settled.outstanding = (retired (s.st st).outstanding).2 := rfl
  have hs3 : (s.st st).settled.stepNo = (s.st st).stepNo := rfl
  rw [hs, hs2, hs3]
  cases h2 : (s.st st).stopped with
  | true =>
    simp only [if_true]
    split
    · rw [nd _ rfl]
      exact Moves.withJob k _
    · rw [nd _ rfl]
      exact k
  | false =>
    simp only [Bool.false_eq_true, if_false]
    erw [State.emits_eq]
    have k2 : Moves s { (s.withSt st fun r => { r with outstanding := (retired (s.st st).outstanding).2 }) with
        cells := { (s.withSt st fun r => { r with outstanding := (retired (s.st st).outstanding).2 }).cells with
          signals := (s.withSt st fun r => { r with outstanding := (retired (s.st st).outstanding).2 }).cells.signals ++
            (s.withSt st fun r => { r with outstanding := (retired (s.st st).outstanding).2 }).sentBy st (retired (s.st st).outstanding).1 } }
        st (s.st st).settled (s.signalsOf st (s.st st).outstanding) :=
      ⟨rfl, k.own, k.others⟩
    split
    · rw [nd _ rfl]
      exact Moves.withJob k2 _
    · rw [nd _ rfl]
      exact k2

/-- A station's list settles (R65), where the station's stream has not ended. -/
theorem State.settle_moves {s : State} {st : Nat} (h1 : (s.st st).halted = false) (h2 : (s.st st).stopped = false) :
    Moves s (s.settle st) st (s.st st).settled (s.signalsOf st (s.st st).outstanding) := by
  have k := State.settle_open (s := s) (st := st) (.inl h1)
  have hs : (s.st st).settled.halted = false := h1
  rw [State.noted, hs, h2] at k
  exact k

/-- An outstanding command completes, and the Course does not end with it. -/
theorem State.complete_completed {s : State} {st i : Nat} {o : Outst} (ho : Open s st) (hi : (s.st st).outstanding[i]? = some o) :
    Completed s (s.complete st i) st (s.st st) i o := by
  have hr : ∀ t : State, t = (s.withSt st fun _ => (s.st st).completes i o) → Completed s (t.settle st) st (s.st st) i o := by
    intro t ht
    have k : Moves s t st ((s.st st).completes i o) [] := ht ▸ Moves.withSt s st fun _ => (s.st st).completes i o
    obtain ⟨a1, a2, a3, a4⟩ := StationRt.advances_same o.adv (s.st st)
    have hh : ((s.st st).completes i o).halted = (s.st st).halted := a1
    have hst : ((s.st st).completes i o).stopped = (s.st st).stopped := a2
    have hot : Open t st := by
      rcases ho with h | ⟨p, hp, hn, hf⟩
      · exact .inl (by rw [k.own, hh]; exact h)
      · exact .inr ⟨p, by rw [ht]; exact mem_put_ne _ hp hn, hn, hf⟩
    have m := State.settle_open hot
    rw [k.own, hst, k.signalsOf] at m
    unfold Completed
    have kn : Moves (s.noted ((s.st st).completes i o).settled) (t.noted ((s.st st).completes i o).settled) st ((s.st st).completes i o) [] := by
      unfold State.noted
      split
      · exact k.withJob _
      · exact k
    exact kn.trans m
  unfold State.complete
  dsimp only
  rw [hi]
  dsimp only
  rw [(StationRt.advances_same o.adv (s.st st)).2.2.1]
  exact hr _ rfl

/-- A command that completes at once on a station whose stream has not ended. -/
theorem State.issueDone_done {s : State} {st : Nat} (adv : List Advance) (sig : List (Option Nat × Nat))
    (h1 : (s.st st).halted = false) (h2 : (s.st st).stopped = false) :
    Done s (s.issueDone st adv sig) st (s.st st) adv sig := by
  unfold State.issueDone State.issue
  dsimp only
  rw [State.withSt_withSt]
  obtain ⟨a1, a2, a3, a4⟩ := StationRt.advances_same adv (s.st st)
  have k := Moves.withSt s st fun r => (adv.foldl StationRt.advance r).issued (atOnce sig)
  have m := State.settle_moves (s := s.withSt st fun r => (adv.foldl StationRt.advance r).issued (atOnce sig)) (st := st)
    (by rw [k.own]; simp [StationRt.issued, a1, h1]) (by rw [k.own]; simp [StationRt.issued, a2, h2])
  have n := k.trans m
  rw [k.own] at n
  exact n

/-- A command that is ready and completes at once. -/
theorem State.done_ready {s : State} {st : Nat} {cf : Common} {ok : Kind → Bool} (h : Ready s st cf ok) (adv : List Advance)
    (sig : List (Option Nat × Nat)) : Done s ((s.entered st cf).issueDone st adv sig) st ((s.st st).entered cf) adv sig := by
  have e := State.entered_moves s st cf
  obtain ⟨a, b, -⟩ := State.canIssue_spec h.1
  have k := State.issueDone_done (s := s.entered st cf) (st := st) adv sig (by rw [e.own]; simp [a]) (by rw [e.own]; simp [b])
  rw [e.own] at k
  have n := e.trans k
  rw [e.signalsOf, List.nil_append] at n
  exact n

/-- A command that is ready and completes at once, whose work changes its station alone. -/
theorem State.done_of_ready {s : State} {st : Nat} {cf : Common} {ok : Kind → Bool} (h : Ready s st cf ok)
    (f : StationRt → StationRt) (adv : List Advance) (sig : List (Option Nat × Nat))
    (h1 : ∀ r, (f r).halted = r.halted) (h2 : ∀ r, (f r).stopped = r.stopped) :
    Done s (((s.entered st cf).withSt st f).issueDone st adv sig) st (f ((s.st st).entered cf)) adv sig := by
  obtain ⟨a, b, -, -, -⟩ := State.canIssue_spec h.1
  have k := State.entered_moves s st cf
  have k2 := k.trans (Moves.withSt (s.entered st cf) st f)
  rw [k.own] at k2
  have m := State.issueDone_done (s := (s.entered st cf).withSt st f) (st := st) adv sig
    (by rw [k2.own, h1]; simp [a]) (by rw [k2.own, h2]; simp [b])
  rw [k2.own] at m
  have n := k2.trans m
  rw [k2.signalsOf, List.nil_append, List.nil_append] at n
  exact n

end Sys2Proof.Machine
end

