-- ==== Sys2Proof/Laws/Effects.lean ====
section
/-!
SUPPORT. What the operations that many commands share leave behind: events, transitions, FAULT, drain orders.
-/
namespace Sys2Proof.Machine

-- Proofs are checked one after another: many at once take more threads than the check allows.
set_option Elab.async false

/-! ### Parts that an operation leaves, as equations -/

@[simp] theorem State.setEvent_dev (s : State) (i c : Nat) : (s.setEvent i c).dev = s.dev :=
  (Frame.setEvent (Frame.refl _ _) i c rfl : Frame [.mgmt] s _) .dev (by decide)
@[simp] theorem State.setEvent_card (s : State) (i c : Nat) : (s.setEvent i c).card = s.card :=
  (Frame.setEvent (Frame.refl _ _) i c rfl : Frame [.mgmt] s _) .card (by decide)
@[simp] theorem State.setEvent_pt (s : State) (i c : Nat) : (s.setEvent i c).pt = s.pt :=
  (Frame.setEvent (Frame.refl _ _) i c rfl : Frame [.mgmt] s _) .pt (by decide)
@[simp] theorem State.setEvent_job (s : State) (i c : Nat) : (s.setEvent i c).job = s.job :=
  (Frame.setEvent (Frame.refl _ _) i c rfl : Frame [.mgmt] s _) .job (by decide)
@[simp] theorem State.setEvent_power (s : State) (i c : Nat) : (s.setEvent i c).power = s.power :=
  (Frame.setEvent (Frame.refl _ _) i c rfl : Frame [.mgmt] s _) .power (by decide)
@[simp] theorem State.setEvent_cells (s : State) (i c : Nat) : (s.setEvent i c).cells = s.cells :=
  (Frame.setEvent (Frame.refl _ _) i c rfl : Frame [.mgmt] s _) .cells (by decide)

/-- A bit of MGT_EVENT that is set. -/
theorem State.setEvent_event (s : State) (i c : Nat) :
    (s.setEvent i c).mgmt.event = s.mgmt.event ||| BitVec.ofNat 6 (2 ^ i) := by
  unfold State.setEvent
  dsimp only
  split <;> rfl

/-! ### Events (R457) -/

theorem journalAdd_head (c : Scorecard) (b : BitVec 32) (pt : Word) (code die : Nat) (p : List Byte) :
    (journalAdd c b pt code die p).1.head = c.head ∧ (journalAdd c b pt code die p).1.ledger = c.ledger := by
  unfold journalAdd
  split <;> exact ⟨rfl, rfl⟩

/-- An event enters the ledger at HEAD (R457). -/
theorem State.record_recorded (s : State) (code die : Nat) (p : List Byte) : Recorded s (s.record code die p) code := by
  obtain ⟨h1, h2⟩ := journalAdd_head s.card s.nvm.bootCount s.pt code die p
  have key : ∀ t : State, t.card = (s.record code die p).card → Recorded s t code → Recorded s (s.record code die p) code := by
    intro t e r
    unfold Recorded at r ⊢
    rw [← e]; exact r
  unfold State.record
  dsimp only
  split
  · unfold Recorded
    rw [State.setEvent_card]
    dsimp only
    rw [h1, h2]
    exact ⟨rfl, _, by rw [look_put, if_pos rfl], rfl, rfl, rfl⟩
  · unfold Recorded
    dsimp only
    rw [h1, h2]
    exact ⟨rfl, _, by rw [look_put, if_pos rfl], rfl, rfl, rfl⟩

/-! ### Transitions (R32) -/

theorem State.goto_dev {s : State} {m : DevState} (h : edge s.dev.mode m = true) :
    (s.goto m).dev = { s.dev with mode := m, prev := s.dev.mode } := by
  unfold State.goto
  rw [if_pos h, State.setEvent_dev]
  rfl

theorem State.goto_frame (s : State) (m : DevState) : Frame [.dev, .mgmt] s (s.goto m) :=
  Frame.goto (Frame.refl _ _) m rfl

theorem State.goto_event {s : State} {m : DevState} (h : edge s.dev.mode m = true) : (s.goto m).mgmt.event.getLsbD 0 = true := by
  unfold State.goto
  rw [if_pos h, State.setEvent_event]
  simp [evState]

/-! ### FAULT (R38) -/

theorem setTickets_empty (p : Power) (pt : Word) : (setTickets p pt [] []).held = [] ∧ (setTickets p pt [] []).queue = [] := ⟨rfl, rfl⟩

theorem State.endMembership_cells (s : State) : s.endMembership.cells.stations = [] ∧ s.endMembership.cells.signals = [] := ⟨rfl, rfl⟩

theorem State.endMembership_dev (s : State) : s.endMembership.dev = { s.dev with bound := false } := rfl

/-- The ports are closed; membership's end, tickets and device are as they were. -/
theorem State.closeTorus_spec (s : State) : (s.closeTorus).dev = s.dev ∧
    (s.closeTorus).cells = s.cells ∧ (s.closeTorus).power.held = s.power.held ∧ (s.closeTorus).power.queue = s.power.queue ∧
    ∀ p ∈ (s.closeTorus).links.ports, p.1 < 6 → p.2.state = .down := by
  unfold State.closeTorus
  dsimp only
  generalize hl : List.filter _ s.links.ports = l
  have fr : Frame [.fabric, .card, .mgmt, .sat] s (l.foldl (fun (s : State) p => s.fence p.1 2) s) :=
    Frame.foldl (Frame.refl _ _) fun u a hu => Frame.fence hu _ _ rfl
  generalize l.foldl (fun (s : State) p => s.fence p.1 2) s = t at fr
  have hp : t.power = s.power := fr .power (by decide)
  refine ⟨fr .dev (by decide), fr .cells (by decide), ?_, ?_, ?_⟩
  · show t.power.held = _; rw [hp]
  · show t.power.queue = _; rw [hp]
  · intro p hp h6
    simp only [State.withLinks, List.mem_map] at hp
    obtain ⟨q, -, hq⟩ := hp
    by_cases h : q.1 < 6
    · rw [if_pos h] at hq; rw [← hq]
    · rw [if_neg h] at hq; subst hq; exact absurd h6 h

/-- Entry to FAULT (R32, R38, R39). -/
theorem State.enterFault_faults {s : State} (code : Nat) (h : edge s.dev.mode .fault = true) : Faults s (s.enterFault code) code := by
  unfold State.enterFault
  rw [if_pos h]
  dsimp only
  generalize hn : (if s.dev.bound = true then s.report 0x41 _ false else s) = u
  have fu : Frame [.mgmt, .links, .fabric, .sat, .wrap] s u := by
    rw [← hn]; exact Frame.ite (Frame.report (Frame.refl _ _) _ _ _ rfl) (Frame.refl _ _)
  have ud : u.dev = s.dev := fu .dev (by decide)
  have he : edge (u.endMembership.withDev fun d => { d with faultCode := BitVec.ofNat 8 code }).dev.mode .fault = true := by
    show edge u.dev.mode .fault = true
    rw [ud]; exact h
  have gd := State.goto_dev he
  have gf := State.goto_frame (u.endMembership.withDev fun d => { d with faultCode := BitVec.ofNat 8 code }) .fault
  generalize ((u.endMembership.withDev fun d => { d with faultCode := BitVec.ofNat 8 code }).goto .fault) = g at gd gf
  have gc : g.cells = u.endMembership.cells := gf .cells (by decide)
  obtain ⟨c1, c2, c3, c4, c5⟩ := State.closeTorus_spec (g.withPower fun p => setTickets p g.pt [] [])
  have fr : Frame [.dev, .card, .mgmt, .power, .cells, .glide, .links, .fabric, .relay, .restore, .job, .sat, .wrap] s
      ((g.withPower fun p => setTickets p g.pt [] []).closeTorus.withCard fun c => { c with flushDue := true }) := by
    refine Frame.withCard (Frame.closeTorus (Frame.withPower ?_ _ rfl) rfl) _ rfl
    refine Frame.trans (Frame.trans (Frame.step (Frame.refl _ _) (by decide) fu) ?_) (Frame.step (Frame.refl _ _) (by decide) gf)
    exact Frame.withDev (Frame.endMembership (Frame.refl _ _) rfl) _ rfl
  have dv : ∀ t : State, t.dev = g.dev → t.dev = { s.dev with mode := .fault, prev := s.dev.mode, bound := false, faultCode := BitVec.ofNat 8 code } := by
    intro t e
    rw [e, gd]
    show ({ ({ u.dev with bound := false, faultCode := BitVec.ofNat 8 code } : Device) with mode := .fault, prev := u.dev.mode } : Device) = _
    rw [ud]
  have d := dv _ (show ((g.withPower fun p => setTickets p g.pt [] []).closeTorus.withCard fun c => { c with flushDue := true }).dev = g.dev from c1)
  refine ⟨by rw [d], by rw [d], by rw [d], by rw [d], ⟨c3, c4⟩, ⟨?_, ?_⟩, c5, rfl, ?_⟩
  · show (State.closeTorus _).cells.stations = []
    rw [c2]; show g.cells.stations = []; rw [gc]; rfl
  · show (State.closeTorus _).cells.signals = []
    rw [c2]; show g.cells.signals = []; rw [gc]; rfl
  · exact Frame.step (Frame.refl _ _) (by decide) fr

theorem Faults.of_frame {s u t : State} {code : Nat} (h : Faults u t code)
    (f : Frame [.pins, .clocks, .boot, .card, .mgmt, .thermal, .fabric, .sat] s u) : Faults s t code := by
  have hd : u.dev = s.dev := f .dev (by decide)
  exact ⟨h.mode, by rw [h.prev, hd], h.cause, h.bound, h.tickets, h.stations, h.ports, h.flush,
    Frame.trans (Frame.step (Frame.refl _ _) (by decide) f) h.rest⟩

/-! ### Sorting -/

theorem insertBy_perm {α : Type} (le : α → α → Bool) (x : α) (l : List α) : (insertBy le x l).Perm (x :: l) := by
  induction l with
  | nil => exact List.Perm.refl _
  | cons y r ih =>
    unfold insertBy
    split
    · exact List.Perm.refl _
    · exact (List.Perm.cons y ih).trans (List.Perm.swap x y r)

/-- A list in order holds what the list holds. -/
theorem sortBy_perm {α : Type} (l : List α) (le : α → α → Bool) : (sortBy l le).Perm l := by
  induction l with
  | nil => exact List.Perm.refl _
  | cons x r ih => exact (insertBy_perm le x _).trans (List.Perm.cons x ih)

end Sys2Proof.Machine
end

