-- ==== Sys2Proof/Laws/FrameDevice.lean ====
section
/-!
SUPPORT. Which parts of the state the operations of Machine/Device.lean may change.
-/
namespace Sys2Proof.Machine

-- Proofs are checked one after another: many at once take more threads than the check allows.
set_option Elab.async false

variable {l : List StatePart} {s t : State}

theorem Frame.enterBoot (h : Frame l s t) 
    (hl : covers [.dev, .boot, .mgmt, .freeIdx] l = true) : Frame l s (State.enterBoot t) := by
  unfold State.enterBoot
  repeat' first
    | with_reducible assumption
    | exact covers_trans hl rfl
    | with_reducible apply Frame.ite
    | with_reducible apply Frame.goto
    | with_reducible apply Frame.withBoot
    | with_reducible apply Frame.newNonce
    | dsimp only
    | split

theorem Frame.attemptFails (h : Frame l s t) 
    (hl : covers [.pins, .card, .mgmt] l = true) : Frame l s (State.attemptFails t) := by
  unfold State.attemptFails
  repeat' first
    | with_reducible assumption
    | exact covers_trans hl rfl
    | with_reducible apply Frame.ite
    | with_reducible apply Frame.withPins
    | with_reducible apply Frame.record
    | dsimp only
    | split

theorem Frame.trip (h : Frame l s t) (payload : List Byte) (die : Nat)
    (hl : covers [.dev, .pins, .card, .mgmt, .power, .thermal, .cells, .glide, .links, .fabric, .restore, .relay, .job, .sat, .wrap] l = true) : Frame l s (State.trip t payload die) := by
  unfold State.trip
  repeat' first
    | with_reducible assumption
    | exact covers_trans hl rfl
    | with_reducible apply Frame.ite
    | with_reducible apply Frame.withThermal
    | with_reducible apply Frame.record
    | with_reducible apply Frame.withPins
    | with_reducible apply Frame.enterFault
    | dsimp only
    | split

end Sys2Proof.Machine
end

