-- ==== Sys2Proof/Laws/FrameRouter.lean ====
section
/-!
SUPPORT. Which parts of the state the operations of Machine/Router.lean may change.
-/
namespace Sys2Proof.Machine

-- Proofs are checked one after another: many at once take more threads than the check allows.
set_option Elab.async false

variable {l : List StatePart} {s t : State}

theorem Frame.headerFail (h : Frame l s t) (port : Nat) (p : Packet)
    (hl : covers [.dev, .pins, .clocks, .nvm, .card, .mgmt, .power, .cells, .bucket, .stores, .glide, .links, .fabric, .windows, .restore, .relay, .job, .sat, .wrap, .freeIdx, .mem] l = true) : Frame l s (State.headerFail t port p) := by
  unfold State.headerFail
  repeat' first
    | with_reducible assumption
    | exact covers_trans hl rfl
    | with_reducible apply Frame.ite
    | with_reducible apply Frame.bump
    | with_reducible apply Frame.record
    | with_reducible apply Frame.orderDrain
    | dsimp only
    | split

theorem Frame.seqFault (h : Frame l s t) (src : Coord) (seq : Nat) (e : Nat)
    (hl : covers [.dev, .pins, .clocks, .nvm, .card, .mgmt, .power, .cells, .bucket, .stores, .glide, .links, .fabric, .windows, .restore, .relay, .job, .sat, .wrap, .freeIdx, .mem] l = true) : Frame l s (State.seqFault t src seq e) := by
  unfold State.seqFault
  repeat' first
    | with_reducible assumption
    | exact covers_trans hl rfl
    | with_reducible apply Frame.ite
    | with_reducible apply Frame.bump
    | with_reducible apply Frame.record
    | with_reducible apply Frame.orderDrain
    | dsimp only
    | split

theorem Frame.withCombines (h : Frame l s t) (port : Nat) (f : List Combine → List Combine)
    (hl : covers [.fabric] l = true) : Frame l s (State.withCombines t port f) := by
  unfold State.withCombines
  repeat' first
    | with_reducible assumption
    | exact covers_trans hl rfl
    | with_reducible apply Frame.ite
    | with_reducible apply Frame.withFabric
    | dsimp only
    | split

theorem Frame.closeEntry (h : Frame l s t) (port : Nat) (i : Nat)
    (hl : covers [.mgmt, .links, .fabric, .sat, .wrap] l = true) : Frame l s (State.closeEntry t port i) := by
  unfold State.closeEntry
  repeat' first
    | with_reducible assumption
    | exact covers_trans hl rfl
    | with_reducible apply Frame.ite
    | with_reducible apply Frame.withCombines
    | with_reducible apply Frame.enqueue
    | dsimp only
    | split

theorem Frame.closeFor (h : Frame l s t) (port : Nat) (p : Packet)
    (hl : covers [.mgmt, .links, .fabric, .sat, .wrap] l = true) : Frame l s (State.closeFor t port p) := by
  unfold State.closeFor
  repeat' first
    | with_reducible assumption
    | exact covers_trans hl rfl
    | with_reducible apply Frame.ite
    | with_reducible apply Frame.closeEntry
    | refine Frame.foldl ?_ (fun u a hu => ?_)
    | dsimp only
    | split

theorem Frame.markPassed (h : Frame l s t) (port : Nat) (p : Packet)
    (hl : covers [.fabric] l = true) : Frame l s (State.markPassed t port p) := by
  unfold State.markPassed
  repeat' first
    | with_reducible assumption
    | exact covers_trans hl rfl
    | with_reducible apply Frame.ite
    | with_reducible apply Frame.withCombines
    | dsimp only
    | split

theorem Frame.combineLoad (h : Frame l s t) (port : Nat) (p : Packet)
    (hl : covers [.mgmt, .links, .fabric, .sat, .wrap] l = true) : Frame l s (State.combineLoad t port p) := by
  unfold State.combineLoad
  repeat' first
    | with_reducible assumption
    | exact covers_trans hl rfl
    | with_reducible apply Frame.ite
    | with_reducible apply Frame.withCombines
    | with_reducible apply Frame.wrapBy
    | with_reducible apply Frame.markPassed
    | with_reducible apply Frame.enqueue
    | dsimp only
    | split

theorem Frame.combineAtom (h : Frame l s t) (port : Nat) (p : Packet)
    (hl : covers [.mgmt, .links, .fabric, .sat, .wrap] l = true) : Frame l s (State.combineAtom t port p) := by
  unfold State.combineAtom
  repeat' first
    | with_reducible assumption
    | exact covers_trans hl rfl
    | with_reducible apply Frame.ite
    | with_reducible apply Frame.withCombines
    | with_reducible apply Frame.wrapBy
    | with_reducible apply Frame.closeEntry
    | with_reducible apply Frame.markPassed
    | with_reducible apply Frame.enqueue
    | dsimp only
    | split

theorem Frame.output (h : Frame l s t) (port : Nat) (p : Packet)
    (hl : covers [.mgmt, .links, .fabric, .sat, .wrap] l = true) : Frame l s (State.output t port p) := by
  unfold State.output
  repeat' first
    | with_reducible assumption
    | exact covers_trans hl rfl
    | with_reducible apply Frame.ite
    | with_reducible apply Frame.closeFor
    | with_reducible apply Frame.combineLoad
    | with_reducible apply Frame.combineAtom
    | with_reducible apply Frame.markPassed
    | with_reducible apply Frame.enqueue
    | dsimp only
    | split

theorem Frame.forward (h : Frame l s t) (inPort : Option Nat) (p : Packet)
    (hl : covers [.mgmt, .links, .fabric, .sat, .wrap] l = true) : Frame l s (State.forward t inPort p) := by
  unfold State.forward
  repeat' first
    | with_reducible assumption
    | exact covers_trans hl rfl
    | with_reducible apply Frame.ite
    | with_reducible apply Frame.cameBy
    | with_reducible apply Frame.toLocal
    | with_reducible apply Frame.bump
    | with_reducible apply Frame.output
    | dsimp only
    | split

theorem Frame.inject (h : Frame l s t) (p : Packet)
    (hl : covers [.dev, .pins, .clocks, .nvm, .card, .mgmt, .power, .cells, .bucket, .stores, .glide, .links, .fabric, .windows, .restore, .relay, .job, .sat, .wrap, .freeIdx, .mem] l = true) : Frame l s (State.inject t p) := by
  unfold State.inject
  repeat' first
    | with_reducible assumption
    | exact covers_trans hl rfl
    | with_reducible apply Frame.ite
    | with_reducible apply Frame.bump
    | with_reducible apply Frame.wrapBy
    | with_reducible apply Frame.forward
    | with_reducible apply Frame.headerFail
    | dsimp only
    | split

theorem Frame.poisonMark (h : Frame l s t) (p : Packet)
    (hl : covers [.card, .mgmt, .sat] l = true) : Frame l s (State.poisonMark t p).1 := by
  unfold State.poisonMark
  repeat' first
    | with_reducible assumption
    | exact covers_trans hl rfl
    | with_reducible apply Frame.ite
    | with_reducible apply Frame.iteFst
    | with_reducible apply Frame.record
    | with_reducible apply Frame.bump
    | refine Frame.foldl ?_ (fun u a hu => ?_)
    | refine Frame.ofFst (by assumption) ?_
    | dsimp only
    | split

theorem Frame.respond (h : Frame l s t) (p : Packet) (opc : Byte) (status : Nat) (payload : List Byte)
    (hl : covers [.dev, .pins, .clocks, .nvm, .card, .mgmt, .power, .cells, .bucket, .stores, .glide, .links, .fabric, .windows, .restore, .relay, .job, .sat, .wrap, .freeIdx, .mem] l = true) : Frame l s (State.respond t p opc status payload) := by
  unfold State.respond
  repeat' first
    | with_reducible assumption
    | exact covers_trans hl rfl
    | with_reducible apply Frame.ite
    | with_reducible apply Frame.bump
    | with_reducible apply Frame.inject
    | dsimp only
    | split

theorem Frame.countDone (h : Frame l s t) (c : Coord)
    (hl : covers [.fabric] l = true) : Frame l s (State.countDone t c) := by
  unfold State.countDone
  repeat' first
    | with_reducible assumption
    | exact covers_trans hl rfl
    | with_reducible apply Frame.ite
    | with_reducible apply Frame.withFabric
    | dsimp only
    | split

end Sys2Proof.Machine
end

