-- ==== Sys2Proof/Laws/FrameOperands.lean ====
section
/-!
SUPPORT. Which parts of the state the operations of Machine/Operands.lean may change.
-/
namespace Sys2Proof.Machine

-- Proofs are checked one after another: many at once take more threads than the check allows.
set_option Elab.async false

variable {l : List StatePart} {s t : State}

theorem Frame.lineCorrected (h : Frame l s t) (cell : Nat) (off : Nat)
    (hl : covers [.card, .mgmt, .cells] l = true) : Frame l s (State.lineCorrected t cell off) := by
  unfold State.lineCorrected
  repeat' first
    | with_reducible assumption
    | exact covers_trans hl rfl
    | with_reducible apply Frame.ite
    | with_reducible apply Frame.withPCell
    | with_reducible apply Frame.record
    | dsimp only
    | split

theorem Frame.granEvent (h : Frame l s t) (pass : Option Nat) (a : Nat) (p : Place) (z : ZRead)
    (hl : covers [.dev, .nvm, .card, .mgmt, .cells, .bucket, .stores, .sat] l = true) : Frame l s (State.granEvent t pass a p z) := by
  unfold State.granEvent
  repeat' first
    | with_reducible assumption
    | exact covers_trans hl rfl
    | with_reducible apply Frame.ite
    | with_reducible apply Frame.record
    | with_reducible apply Frame.bump
    | with_reducible apply Frame.withStack
    | with_reducible apply Frame.withStores
    | with_reducible apply Frame.lineCorrected
    | with_reducible apply Frame.addPoints
    | exact rfl
    | dsimp only
    | split

theorem Frame.granEvents (h : Frame l s t) (pass : Option Nat) (zs : List (Nat × ZRead))
    (hl : covers [.dev, .nvm, .card, .mgmt, .cells, .bucket, .stores, .sat] l = true) : Frame l s (State.granEvents t pass zs) := by
  unfold State.granEvents
  repeat' first
    | with_reducible assumption
    | exact covers_trans hl rfl
    | with_reducible apply Frame.ite
    | with_reducible apply Frame.granEvent
    | refine Frame.foldl ?_ (fun u a hu => ?_)
    | dsimp only
    | split

theorem Frame.addressError (h : Frame l s t) (die : Nat) (unit : Nat) (a : Nat)
    (hl : covers [.card, .mgmt] l = true) : Frame l s (State.addressError t die unit a) := by
  unfold State.addressError
  repeat' first
    | with_reducible assumption
    | exact covers_trans hl rfl
    | with_reducible apply Frame.ite
    | with_reducible apply Frame.record
    | dsimp only
    | split

theorem Frame.badAccess (h : Frame l s t) (die : Nat) (unit : Nat) (a : Nat)
    (hl : covers [.card, .mgmt, .sat] l = true) : Frame l s (State.badAccess t die unit a) := by
  unfold State.badAccess
  repeat' first
    | with_reducible assumption
    | exact covers_trans hl rfl
    | with_reducible apply Frame.ite
    | with_reducible apply Frame.bump
    | with_reducible apply Frame.addressError
    | dsimp only
    | split

theorem Frame.countBytes (h : Frame l s t) (p : Place) (off : Nat) (n : Nat)
    (hl : covers [.wrap] l = true) : Frame l s (State.countBytes t p off n) := by
  unfold State.countBytes
  repeat' first
    | with_reducible assumption
    | exact covers_trans hl rfl
    | with_reducible apply Frame.ite
    | with_reducible apply Frame.wrapBy
    | dsimp only
    | split

theorem Frame.countNarrow (h : Frame l s t) (p : Place) (a : Nat) (len : Nat) (n : Nat)
    (hl : covers [.wrap] l = true) : Frame l s (State.countNarrow t p a len n) := by
  unfold State.countNarrow
  repeat' first
    | with_reducible assumption
    | exact covers_trans hl rfl
    | with_reducible apply Frame.ite
    | with_reducible apply Frame.countBytes
    | dsimp only
    | split

theorem Frame.noteRead (h : Frame l s t) (die : Nat) (unit : Nat) (a : Nat) (len : Nat) (pass : Option Nat) (gs : List (Nat × ZRead))
    (hl : covers [.dev, .nvm, .card, .mgmt, .cells, .bucket, .stores, .sat, .wrap] l = true) : Frame l s (State.noteRead t die unit a len pass gs) := by
  unfold State.noteRead
  repeat' first
    | with_reducible assumption
    | exact covers_trans hl rfl
    | with_reducible apply Frame.ite
    | with_reducible apply Frame.badAccess
    | with_reducible apply Frame.granEvents
    | with_reducible apply Frame.countBytes
    | dsimp only
    | split

theorem Frame.readStore (h : Frame l s t) (die : Nat) (unit : Nat) (a : Nat) (len : Nat)
    (hl : covers [.dev, .nvm, .card, .mgmt, .cells, .bucket, .stores, .sat, .wrap] l = true) : Frame l s (State.readStore t die unit a len).1 := by
  unfold State.readStore
  repeat' first
    | with_reducible assumption
    | exact covers_trans hl rfl
    | with_reducible apply Frame.ite
    | with_reducible apply Frame.iteFst
    | with_reducible apply Frame.noteRead
    | dsimp only
    | split

theorem Frame.withCache (h : Frame l s t) (slice : Nat) (f : List CacheLine → List CacheLine)
    (hl : covers [.stores] l = true) : Frame l s (State.withCache t slice f) := by
  unfold State.withCache
  repeat' first
    | with_reducible assumption
    | exact covers_trans hl rfl
    | with_reducible apply Frame.ite
    | with_reducible apply Frame.withStores
    | exact rfl
    | dsimp only
    | split

theorem Frame.markFills (h : Frame l s t) (units : List Nat)
    (hl : covers [.stores] l = true) : Frame l s (State.markFills t units) := by
  unfold State.markFills
  repeat' first
    | with_reducible assumption
    | exact covers_trans hl rfl
    | with_reducible apply Frame.ite
    | with_reducible apply Frame.withStores
    | exact rfl
    | dsimp only
    | split

theorem Frame.install (h : Frame l s t) (c : CacheLine)
    (hl : covers [.stores] l = true) : Frame l s (State.install t c) := by
  unfold State.install
  repeat' first
    | with_reducible assumption
    | exact covers_trans hl rfl
    | with_reducible apply Frame.ite
    | with_reducible apply Frame.withCache
    | dsimp only
    | split

theorem Frame.cacheEvents (h : Frame l s t) (slice : Nat) (u' : Nat) (zs : List ZRead)
    (hl : covers [.card, .mgmt, .sat] l = true) : Frame l s (State.cacheEvents t slice u' zs) := by
  unfold State.cacheEvents
  repeat' first
    | with_reducible assumption
    | exact covers_trans hl rfl
    | with_reducible apply Frame.ite
    | with_reducible apply Frame.bump
    | with_reducible apply Frame.record
    | refine Frame.foldl ?_ (fun u a hu => ?_)
    | dsimp only
    | split

theorem Frame.refetch (h : Frame l s t) (slice : Nat) (u' : Nat)
    (hl : covers [.card, .mgmt, .stores, .sat] l = true) : Frame l s (State.refetch t slice u') := by
  unfold State.refetch
  repeat' first
    | with_reducible assumption
    | exact covers_trans hl rfl
    | with_reducible apply Frame.ite
    | with_reducible apply Frame.withCache
    | with_reducible apply Frame.bump
    | with_reducible apply Frame.record
    | dsimp only
    | split

theorem Frame.cacheWrite (h : Frame l s t) (a : Nat) (b : List Byte) (bad : List Nat)
    (hl : covers [.card, .mgmt, .stores, .sat] l = true) : Frame l s (State.cacheWrite t a b bad) := by
  unfold State.cacheWrite
  repeat' first
    | with_reducible assumption
    | exact covers_trans hl rfl
    | with_reducible apply Frame.ite
    | with_reducible apply Frame.withCache
    | with_reducible apply Frame.cacheEvents
    | with_reducible apply Frame.markFills
    | refine Frame.foldl ?_ (fun u a hu => ?_)
    | dsimp only
    | split

theorem Frame.cacheDrop (h : Frame l s t) (a : Nat) (len : Nat)
    (hl : covers [.stores] l = true) : Frame l s (State.cacheDrop t a len) := by
  unfold State.cacheDrop
  repeat' first
    | with_reducible assumption
    | exact covers_trans hl rfl
    | with_reducible apply Frame.ite
    | with_reducible apply Frame.withCache
    | with_reducible apply Frame.markFills
    | refine Frame.foldl ?_ (fun u a hu => ?_)
    | dsimp only
    | split

theorem Frame.fetchUnit (h : Frame l s t) (die : Nat) (unit : Nat) (u' : Nat)
    (hl : covers [.dev, .nvm, .card, .mgmt, .cells, .bucket, .stores, .sat, .wrap] l = true) : Frame l s (State.fetchUnit t die unit u').1 := by
  unfold State.fetchUnit
  repeat' first
    | with_reducible assumption
    | exact covers_trans hl rfl
    | with_reducible apply Frame.ite
    | with_reducible apply Frame.iteFst
    | with_reducible apply Frame.wrapBy
    | with_reducible apply Frame.readStore
    | with_reducible apply Frame.install
    | dsimp only
    | split

theorem Frame.readUnit (h : Frame l s t) (die : Nat) (unit : Nat) (a : Nat) (len : Nat)
    (hl : covers [.dev, .nvm, .card, .mgmt, .cells, .bucket, .stores, .fabric, .sat, .wrap] l = true) : Frame l s (State.readUnit t die unit a len).1 := by
  unfold State.readUnit
  repeat' first
    | with_reducible assumption
    | exact covers_trans hl rfl
    | with_reducible apply Frame.ite
    | with_reducible apply Frame.iteFst
    | with_reducible apply Frame.take
    | with_reducible apply Frame.refetch
    | with_reducible apply Frame.fetchUnit
    | with_reducible apply Frame.wrapBy
    | with_reducible apply Frame.install
    | with_reducible apply Frame.cacheEvents
    | dsimp only
    | split

theorem Frame.readHere (h : Frame l s t) (die : Nat) (unit : Nat) (a : Nat) (len : Nat)
    (hl : covers [.dev, .nvm, .card, .mgmt, .cells, .bucket, .stores, .sat, .wrap] l = true) : Frame l s (State.readHere t die unit a len).1 := by
  unfold State.readHere
  repeat' first
    | with_reducible assumption
    | exact covers_trans hl rfl
    | with_reducible apply Frame.ite
    | with_reducible apply Frame.iteFst
    | with_reducible apply Frame.readStore
    | with_reducible apply Frame.countNarrow
    | dsimp only
    | split

theorem Frame.readMem (h : Frame l s t) (die : Nat) (unit : Nat) (a : Nat) (len : Nat)
    (hl : covers [.dev, .nvm, .card, .mgmt, .cells, .bucket, .stores, .fabric, .sat, .wrap] l = true) : Frame l s (State.readMem t die unit a len).1 := by
  unfold State.readMem
  repeat' first
    | with_reducible assumption
    | exact covers_trans hl rfl
    | with_reducible apply Frame.ite
    | with_reducible apply Frame.iteFst
    | with_reducible apply Frame.readUnit
    | with_reducible apply Frame.readHere
    | refine Frame.foldl ?_ (fun u a hu => ?_)
    | refine Frame.foldlFst ?_ (fun u b a hu => ?_)
    | refine Frame.ofFst (by assumption) ?_
    | dsimp only
    | split

theorem Frame.storeBytes (h : Frame l s t) (a : Nat) (b : List Byte) (bad : List Nat)
    (hl : covers [.card, .mgmt, .stores, .sat, .mem] l = true) : Frame l s (State.storeBytes t a b bad) := by
  unfold State.storeBytes
  repeat' first
    | with_reducible assumption
    | exact covers_trans hl rfl
    | with_reducible apply Frame.ite
    | with_reducible apply Frame.withStoresMem
    | with_reducible apply Frame.cacheWrite
    | exact rfl
    | dsimp only
    | split

theorem Frame.noteWrite (h : Frame l s t) (p : Place) (a : Nat) (len : Nat) (zs : List (Nat × ZRead))
    (hl : covers [.dev, .nvm, .card, .mgmt, .cells, .bucket, .stores, .sat, .wrap] l = true) : Frame l s (State.noteWrite t p a len zs) := by
  unfold State.noteWrite
  repeat' first
    | with_reducible assumption
    | exact covers_trans hl rfl
    | with_reducible apply Frame.ite
    | with_reducible apply Frame.granEvents
    | with_reducible apply Frame.countBytes
    | with_reducible apply Frame.countNarrow
    | dsimp only
    | split

theorem Frame.writePart (h : Frame l s t) (die : Nat) (unit : Nat) (a : Nat) (b : List Byte) (bad : List Nat)
    (hl : covers [.dev, .nvm, .card, .mgmt, .cells, .bucket, .stores, .sat, .wrap, .mem] l = true) : Frame l s (State.writePart t die unit a b bad) := by
  unfold State.writePart
  repeat' first
    | with_reducible assumption
    | exact covers_trans hl rfl
    | with_reducible apply Frame.ite
    | with_reducible apply Frame.badAccess
    | with_reducible apply Frame.noteWrite
    | with_reducible apply Frame.storeBytes
    | dsimp only
    | split

theorem Frame.writeMem (h : Frame l s t) (die : Nat) (unit : Nat) (a : Nat) (b : List Byte) (bad : List Nat)
    (hl : covers [.dev, .nvm, .card, .mgmt, .cells, .bucket, .stores, .fabric, .sat, .wrap, .mem] l = true) : Frame l s (State.writeMem t die unit a b bad) := by
  unfold State.writeMem
  repeat' first
    | with_reducible assumption
    | exact covers_trans hl rfl
    | with_reducible apply Frame.ite
    | with_reducible apply Frame.writePart
    | with_reducible apply Frame.take
    | dsimp only
    | split

theorem Frame.fillMem (h : Frame l s t) (a : Nat) (b : List Byte)
    (hl : covers [.stores, .mem] l = true) : Frame l s (State.fillMem t a b) := by
  unfold State.fillMem
  repeat' first
    | with_reducible assumption
    | exact covers_trans hl rfl
    | with_reducible apply Frame.ite
    | with_reducible apply Frame.withStoresMem
    | exact rfl
    | dsimp only
    | split

end Sys2Proof.Machine
end

