-- ==== Sys2Proof/Laws/FrameStations.lean ====
section
/-!
SUPPORT. Which parts of the state the operations of Machine/Stations.lean may change.
-/
namespace Sys2Proof.Machine

-- Proofs are checked one after another: many at once take more threads than the check allows.
set_option Elab.async false

variable {l : List StatePart} {s t : State}

theorem Frame.emit (h : Frame l s t) (st : Nat) (slot : Nat) (count : Nat)
    (hl : covers [.cells] l = true) : Frame l s (State.emit t st slot count) := by
  unfold State.emit
  repeat' first
    | with_reducible assumption
    | exact covers_trans hl rfl
    | with_reducible apply Frame.ite
    | with_reducible apply Frame.withCells
    | dsimp only
    | split

theorem Frame.checkDone (h : Frame l s t) 
    (hl : covers [.dev, .pins, .clocks, .nvm, .card, .mgmt, .power, .cells, .bucket, .stores, .glide, .links, .fabric, .windows, .restore, .relay, .job, .sat, .wrap, .freeIdx, .mem] l = true) : Frame l s (State.checkDone t) := by
  unfold State.checkDone
  repeat' first
    | with_reducible assumption
    | exact covers_trans hl rfl
    | with_reducible apply Frame.ite
    | with_reducible apply Frame.withJob
    | with_reducible apply Frame.report
    | with_reducible apply Frame.orderDrain
    | dsimp only
    | split

theorem Frame.settle (h : Frame l s t) (st : Nat)
    (hl : covers [.dev, .pins, .clocks, .nvm, .card, .mgmt, .power, .cells, .bucket, .stores, .glide, .links, .fabric, .windows, .restore, .relay, .job, .sat, .wrap, .freeIdx, .mem] l = true) : Frame l s (State.settle t st) := by
  unfold State.settle
  repeat' first
    | with_reducible assumption
    | exact covers_trans hl rfl
    | with_reducible apply Frame.ite
    | with_reducible apply Frame.withSt
    | with_reducible apply Frame.emit
    | with_reducible apply Frame.withJob
    | with_reducible apply Frame.checkDone
    | refine Frame.foldl ?_ (fun u a hu => ?_)
    | refine Frame.ofFst (by assumption) ?_
    | dsimp only
    | split

theorem Frame.complete (h : Frame l s t) (st : Nat) (i : Nat)
    (hl : covers [.dev, .pins, .clocks, .nvm, .card, .mgmt, .power, .cells, .bucket, .stores, .glide, .links, .fabric, .windows, .restore, .relay, .job, .sat, .wrap, .freeIdx, .mem] l = true) : Frame l s (State.complete t st i) := by
  unfold State.complete
  repeat' first
    | with_reducible assumption
    | exact covers_trans hl rfl
    | with_reducible apply Frame.ite
    | with_reducible apply Frame.withSt
    | with_reducible apply Frame.settle
    | refine Frame.foldl ?_ (fun u a hu => ?_)
    | dsimp only
    | split

theorem Frame.completeKind (h : Frame l s t) (st : Nat) (k : OutKind)
    (hl : covers [.dev, .pins, .clocks, .nvm, .card, .mgmt, .power, .cells, .bucket, .stores, .glide, .links, .fabric, .windows, .restore, .relay, .job, .sat, .wrap, .freeIdx, .mem] l = true) : Frame l s (State.completeKind t st k) := by
  unfold State.completeKind
  repeat' first
    | with_reducible assumption
    | exact covers_trans hl rfl
    | with_reducible apply Frame.ite
    | with_reducible apply Frame.complete
    | dsimp only
    | split

theorem Frame.tryWait (h : Frame l s t) (st : Nat) (sem : Nat) (n : Nat) (whole : Bool) (signal : Option Nat)
    (hl : covers [.cells] l = true) : Frame l s (State.tryWait t st sem n whole signal).1 := by
  unfold State.tryWait
  repeat' first
    | with_reducible assumption
    | exact covers_trans hl rfl
    | with_reducible apply Frame.ite
    | with_reducible apply Frame.iteFst
    | with_reducible apply Frame.withSt
    | dsimp only
    | split

theorem Frame.gate (h : Frame l s t) (st : Nat) (cf : Common) (ok : Kind → Bool) {work : State → State}
    (hw : ∀ u, Frame l s u → Frame l s (work u)) (hl : covers [.cells] l = true) : Frame l s (t.gate st cf ok work) := by
  unfold State.gate
  split
  · split
    · have k := Frame.tryWait h st cf.wSem 1 false none hl
      dsimp only
      split
      · exact hw _ (Frame.withSt k _ _ hl)
      · exact k
    · exact hw _ h
  · exact h

theorem Frame.issue (h : Frame l s t) (st : Nat) (os : List Outst)
    (hl : covers [.cells] l = true) : Frame l s (State.issue t st os) := by
  unfold State.issue
  repeat' first
    | with_reducible assumption
    | exact covers_trans hl rfl
    | with_reducible apply Frame.ite
    | with_reducible apply Frame.withSt
    | dsimp only
    | split

theorem Frame.issueDone (h : Frame l s t) (st : Nat) (adv : List Advance) (signals : List (Option Nat × Nat))
    (hl : covers [.dev, .pins, .clocks, .nvm, .card, .mgmt, .power, .cells, .bucket, .stores, .glide, .links, .fabric, .windows, .restore, .relay, .job, .sat, .wrap, .freeIdx, .mem] l = true) : Frame l s (State.issueDone t st adv signals) := by
  unfold State.issueDone
  repeat' first
    | with_reducible assumption
    | exact covers_trans hl rfl
    | with_reducible apply Frame.ite
    | with_reducible apply Frame.withSt
    | with_reducible apply Frame.issue
    | with_reducible apply Frame.settle
    | refine Frame.foldl ?_ (fun u a hu => ?_)
    | dsimp only
    | split

theorem Frame.frameOf (h : Frame l s t) (m : MemRead) (st : Nat) (a : Nat) (path : ReadPath)
    (hl : covers [.cells] l = true) : Frame l s (State.frameOf t m st a path).state := by
  unfold State.frameOf
  repeat' first
    | with_reducible assumption
    | exact covers_trans hl rfl
    | with_reducible apply Frame.ite
    | with_reducible apply Frame.withSt
    | dsimp only
    | split

theorem Frame.readFrame (h : Frame l s t) (st : Nat) (a : Nat) (path : ReadPath)
    (hl : covers [.dev, .nvm, .card, .mgmt, .cells, .bucket, .stores, .fabric, .sat, .wrap] l = true) : Frame l s (State.readFrame t st a path).state := by
  unfold State.readFrame
  repeat' first
    | with_reducible assumption
    | exact covers_trans hl rfl
    | with_reducible apply Frame.ite
    | with_reducible apply Frame.readMem
    | with_reducible apply Frame.frameOf
    | dsimp only
    | split

theorem Frame.awaitReread (h : Frame l s t) (st : Nat) (i : Instr)
    (hl : covers [.cells] l = true) : Frame l s (State.awaitReread t st i) := by
  unfold State.awaitReread
  repeat' first
    | with_reducible assumption
    | exact covers_trans hl rfl
    | with_reducible apply Frame.ite
    | with_reducible apply Frame.withSt
    | dsimp only
    | split

theorem Frame.readPort (h : Frame l s t) (st : Nat) (port : Nat) (n : Nat) (path : ReadPath)
    (hl : covers [.dev, .nvm, .card, .mgmt, .cells, .bucket, .stores, .fabric, .sat, .wrap] l = true) : Frame l s (State.readPort t st port n path).state := by
  unfold State.readPort
  repeat' first
    | with_reducible assumption
    | exact covers_trans hl rfl
    | with_reducible apply Frame.ite
    | with_reducible apply Frame.readFrame
    | dsimp only
    | split

theorem Frame.writeFrame (h : Frame l s t) (st : Nat) (a : Nat) (f : List Byte)
    (hl : covers [.dev, .nvm, .card, .mgmt, .cells, .bucket, .stores, .fabric, .sat, .wrap, .mem] l = true) : Frame l s (State.writeFrame t st a f) := by
  unfold State.writeFrame
  repeat' first
    | with_reducible assumption
    | exact covers_trans hl rfl
    | with_reducible apply Frame.ite
    | with_reducible apply Frame.writeMem
    | dsimp only
    | split

theorem Frame.writePort (h : Frame l s t) (st : Nat) (port : Nat) (n : Nat) (f : List Byte)
    (hl : covers [.dev, .nvm, .card, .mgmt, .cells, .bucket, .stores, .fabric, .sat, .wrap, .mem] l = true) : Frame l s (State.writePort t st port n f) := by
  unfold State.writePort
  repeat' first
    | with_reducible assumption
    | exact covers_trans hl rfl
    | with_reducible apply Frame.ite
    | with_reducible apply Frame.writeFrame
    | dsimp only
    | split

theorem Frame.tileTransient (h : Frame l s t) (a : Nat) (producer : Nat)
    (hl : covers [.dev, .nvm, .card, .mgmt, .cells, .bucket, .sat] l = true) : Frame l s (State.tileTransient t a producer) := by
  unfold State.tileTransient
  repeat' first
    | with_reducible assumption
    | exact covers_trans hl rfl
    | with_reducible apply Frame.ite
    | with_reducible apply Frame.record
    | with_reducible apply Frame.bump
    | with_reducible apply Frame.addPoints
    | dsimp only
    | split

theorem Frame.tileFault (h : Frame l s t) (a : Nat) (producer : Nat) (step : Nat)
    (hl : covers [.dev, .pins, .clocks, .nvm, .card, .mgmt, .power, .cells, .bucket, .stores, .glide, .links, .fabric, .windows, .restore, .relay, .job, .sat, .wrap, .freeIdx, .mem] l = true) : Frame l s (State.tileFault t a producer step) := by
  unfold State.tileFault
  repeat' first
    | with_reducible assumption
    | exact covers_trans hl rfl
    | with_reducible apply Frame.ite
    | with_reducible apply Frame.record
    | with_reducible apply Frame.bump
    | with_reducible apply Frame.withPCell
    | with_reducible apply Frame.withStack
    | with_reducible apply Frame.drainLevel
    | dsimp only
    | split

end Sys2Proof.Machine
end

