-- ==== Sys2Proof/Laws/FrameSequencer.lean ====
section
/-!
SUPPORT. Which parts of the state the operations of Machine/Sequencer.lean may change.
-/
namespace Sys2Proof.Machine

-- Proofs are checked one after another: many at once take more threads than the check allows.
set_option Elab.async false

variable {l : List StatePart} {s t : State}

theorem Frame.wake (h : Frame l s t) (st : Nat)
    (hl : covers [.dev, .pins, .clocks, .nvm, .card, .mgmt, .power, .cells, .bucket, .stores, .glide, .links, .fabric, .windows, .restore, .relay, .job, .sat, .wrap, .freeIdx, .mem] l = true) : Frame l s (State.wake t st) := by
  unfold State.wake
  repeat' first
    | with_reducible assumption
    | exact covers_trans hl rfl
    | with_reducible apply Frame.ite
    | with_reducible apply Frame.withSt
    | with_reducible apply Frame.issueDone
    | dsimp only
    | split

theorem Frame.raiseSem (h : Frame l s t) (m : SignalMsg)
    (hl : covers [.dev, .pins, .clocks, .nvm, .card, .mgmt, .power, .cells, .bucket, .stores, .glide, .links, .fabric, .windows, .restore, .relay, .job, .sat, .wrap, .freeIdx, .mem] l = true) : Frame l s (State.raiseSem t m) := by
  unfold State.raiseSem
  repeat' first
    | with_reducible assumption
    | exact covers_trans hl rfl
    | with_reducible apply Frame.ite
    | with_reducible apply Frame.courseError
    | with_reducible apply Frame.withSt
    | dsimp only
    | split

theorem Frame.applySignal (h : Frame l s t) (m : SignalMsg)
    (hl : covers [.dev, .pins, .clocks, .nvm, .card, .mgmt, .power, .cells, .bucket, .stores, .glide, .links, .fabric, .windows, .restore, .relay, .job, .sat, .wrap, .freeIdx, .mem] l = true) : Frame l s (State.applySignal t m) := by
  unfold State.applySignal
  repeat' first
    | with_reducible assumption
    | exact covers_trans hl rfl
    | with_reducible apply Frame.ite
    | with_reducible apply Frame.raiseSem
    | with_reducible apply Frame.countDone
    | with_reducible apply Frame.respond
    | dsimp only
    | split

theorem Frame.semCycle (h : Frame l s t) (ms : List SignalMsg)
    (hl : covers [.dev, .pins, .clocks, .nvm, .card, .mgmt, .power, .cells, .bucket, .stores, .glide, .links, .fabric, .windows, .restore, .relay, .job, .sat, .wrap, .freeIdx, .mem] l = true) : Frame l s (State.semCycle t ms) := by
  unfold State.semCycle
  repeat' first
    | with_reducible assumption
    | exact covers_trans hl rfl
    | with_reducible apply Frame.ite
    | with_reducible apply Frame.withCells
    | with_reducible apply Frame.wake
    | with_reducible apply Frame.applySignal
    | refine Frame.foldl ?_ (fun u a hu => ?_)
    | dsimp only
    | split

end Sys2Proof.Machine
end

