-- ==== Sys2Proof/Laws/FrameArrays.lean ====
section
/-!
SUPPORT. Which parts of the state the operations of Machine/Arrays.lean may change.
-/
namespace Sys2Proof.Machine

-- Proofs are checked one after another: many at once take more threads than the check allows.
set_option Elab.async false

variable {l : List StatePart} {s t : State}

theorem Frame.checkEvent (h : Frame l s t) (p : Nat) (f : ArrayFail) (attempt : Nat)
    (hl : covers [.card, .mgmt] l = true) : Frame l s (State.checkEvent t p f attempt) := by
  unfold State.checkEvent
  repeat' first
    | with_reducible assumption
    | exact covers_trans hl rfl
    | with_reducible apply Frame.ite
    | with_reducible apply Frame.record
    | dsimp only
    | split

theorem Frame.checkEvents (h : Frame l s t) (p : Nat) (l' : List ArrayFail) (attempt : Nat)
    (hl : covers [.card, .mgmt] l = true) : Frame l s (State.checkEvents t p l' attempt) := by
  unfold State.checkEvents
  repeat' first
    | with_reducible assumption
    | exact covers_trans hl rfl
    | with_reducible apply Frame.ite
    | with_reducible apply Frame.checkEvent
    | refine Frame.foldl ?_ (fun u a hu => ?_)
    | dsimp only
    | split

theorem Frame.stopOnFail (h : Frame l s t) (st : Nat) (p : Nat) (i : Instr) (checks : List ArrayFail)
    (hl : covers [.card, .mgmt, .cells] l = true) : Frame l s (State.stopOnFail t st p i checks) := by
  unfold State.stopOnFail
  repeat' first
    | with_reducible assumption
    | exact covers_trans hl rfl
    | with_reducible apply Frame.ite
    | with_reducible apply Frame.withSt
    | with_reducible apply Frame.checkEvents
    | dsimp only
    | split

theorem Frame.markConcern (h : Frame l s t) (p : Nat) (reason : Nat)
    (hl : covers [.card, .mgmt, .cells] l = true) : Frame l s (State.markConcern t p reason) := by
  unfold State.markConcern
  repeat' first
    | with_reducible assumption
    | exact covers_trans hl rfl
    | with_reducible apply Frame.ite
    | with_reducible apply Frame.withPCell
    | with_reducible apply Frame.record
    | dsimp only
    | split

theorem Frame.arrayTransient (h : Frame l s t) (p : Nat)
    (hl : covers [.dev, .nvm, .card, .mgmt, .cells, .bucket, .sat] l = true) : Frame l s (State.arrayTransient t p) := by
  unfold State.arrayTransient
  repeat' first
    | with_reducible assumption
    | exact covers_trans hl rfl
    | with_reducible apply Frame.ite
    | with_reducible apply Frame.bump
    | with_reducible apply Frame.withPCell
    | with_reducible apply Frame.markConcern
    | with_reducible apply Frame.addPoints
    | dsimp only
    | split

theorem Frame.ballastFail (h : Frame l s t) (cell : Nat) (f : ArrayFail)
    (hl : covers [.dev, .nvm, .card, .mgmt, .cells, .bucket, .sat] l = true) : Frame l s (State.ballastFail t cell f) := by
  unfold State.ballastFail
  repeat' first
    | with_reducible assumption
    | exact covers_trans hl rfl
    | with_reducible apply Frame.ite
    | with_reducible apply Frame.checkEvent
    | with_reducible apply Frame.arrayTransient
    | dsimp only
    | split

theorem Frame.ballastFails (h : Frame l s t) (cell : Nat) (l' : List ArrayFail)
    (hl : covers [.dev, .nvm, .card, .mgmt, .cells, .bucket, .sat] l = true) : Frame l s (State.ballastFails t cell l') := by
  unfold State.ballastFails
  repeat' first
    | with_reducible assumption
    | exact covers_trans hl rfl
    | with_reducible apply Frame.ite
    | with_reducible apply Frame.ballastFail
    | refine Frame.foldl ?_ (fun u a hu => ?_)
    | dsimp only
    | split

theorem Frame.setPhase (h : Frame l s t) (cell : Nat) (p : ArrayPhase)
    (hl : covers [.cells] l = true) : Frame l s (State.setPhase t cell p) := by
  unfold State.setPhase
  repeat' first
    | with_reducible assumption
    | exact covers_trans hl rfl
    | with_reducible apply Frame.ite
    | with_reducible apply Frame.withCells
    | dsimp only
    | split

theorem Frame.waitTicket (h : Frame l s t) (st : Nat)
    (hl : covers [.cells] l = true) : Frame l s (State.waitTicket t st) := by
  unfold State.waitTicket
  repeat' first
    | with_reducible assumption
    | exact covers_trans hl rfl
    | with_reducible apply Frame.ite
    | with_reducible apply Frame.withSt
    | dsimp only
    | split

theorem Frame.arrayRequest (h : Frame l s t) (st : Nat) (cell : Nat)
    (hl : covers [.power, .cells] l = true) : Frame l s (State.arrayRequest t st cell) := by
  unfold State.arrayRequest
  repeat' first
    | with_reducible assumption
    | exact covers_trans hl rfl
    | with_reducible apply Frame.ite
    | with_reducible apply Frame.request
    | with_reducible apply Frame.setPhase
    | with_reducible apply Frame.waitTicket
    | dsimp only
    | split

theorem Frame.arraysGo (h : Frame l s t) (st : Nat) (cell : Nat)
    (hl : covers [.power, .cells] l = true) : Frame l s (State.arraysGo t st cell).1 := by
  unfold State.arraysGo
  repeat' first
    | with_reducible assumption
    | exact covers_trans hl rfl
    | with_reducible apply Frame.ite
    | with_reducible apply Frame.iteFst
    | with_reducible apply Frame.arrayRequest
    | with_reducible apply Frame.setPhase
    | with_reducible apply Frame.waitTicket
    | with_reducible apply Frame.request
    | refine Frame.ofFst (by assumption) ?_
    | dsimp only
    | split

theorem Frame.bankRead (h : Frame l s t) (cell : Nat) (b : Bank)
    (hl : covers [.dev, .nvm, .card, .mgmt, .cells, .bucket, .sat] l = true) : Frame l s (State.bankRead t cell b) := by
  unfold State.bankRead
  repeat' first
    | with_reducible assumption
    | exact covers_trans hl rfl
    | with_reducible apply Frame.ite
    | with_reducible apply Frame.record
    | with_reducible apply Frame.addPoints
    | refine Frame.foldl ?_ (fun u a hu => ?_)
    | dsimp only
    | split

theorem Frame.mmRun (h : Frame l s t) (st : Nat) (cf : Common) (a : Nat) (b : Nat) (acc : Nat) (path : ReadPath) (checks : List ArrayFail)
    (hl : covers [.dev, .pins, .clocks, .nvm, .card, .mgmt, .power, .cells, .bucket, .stores, .glide, .links, .fabric, .windows, .restore, .relay, .job, .sat, .wrap, .freeIdx, .mem] l = true) : Frame l s (State.mmRun t st cf a b acc path checks) := by
  unfold State.mmRun
  repeat' first
    | with_reducible assumption
    | exact covers_trans hl rfl
    | with_reducible apply Frame.ite
    | with_reducible apply Frame.arraysGo
    | with_reducible apply Frame.readPort
    | with_reducible apply Frame.awaitReread
    | with_reducible apply Frame.courseError
    | with_reducible apply Frame.bankRead
    | with_reducible apply Frame.issue
    | with_reducible apply Frame.withSt
    | with_reducible apply Frame.stopOnFail
    | refine Frame.ofFst (by assumption) ?_
    | dsimp only
    | split

theorem Frame.commitMm (h : Frame l s t) (st : Nat)
    (hl : covers [.dev, .pins, .clocks, .nvm, .card, .mgmt, .power, .cells, .bucket, .stores, .glide, .links, .fabric, .windows, .restore, .relay, .job, .sat, .wrap, .freeIdx, .mem] l = true) : Frame l s (State.commitMm t st) := by
  unfold State.commitMm
  repeat' first
    | with_reducible assumption
    | exact covers_trans hl rfl
    | with_reducible apply Frame.ite
    | with_reducible apply Frame.withSt
    | with_reducible apply Frame.completeKind
    | dsimp only
    | split

theorem Frame.vecOp (h : Frame l s t) (st : Nat) (cf : Common) (fn : VecFn) (a : Nat) (b : Nat) (o : Nat) (fmt : Nat) (rnd : Rnd) (imm : BitVec 32) (path : ReadPath)
    (hl : covers [.dev, .pins, .clocks, .nvm, .card, .mgmt, .power, .cells, .bucket, .stores, .glide, .links, .fabric, .windows, .restore, .relay, .job, .sat, .wrap, .freeIdx, .mem] l = true) : Frame l s (State.vecOp t st cf fn a b o fmt rnd imm path) := by
  unfold State.vecOp
  repeat' first
    | with_reducible assumption
    | exact covers_trans hl rfl
    | with_reducible apply Frame.ite
    | with_reducible apply Frame.courseError
    | with_reducible apply Frame.writePort
    | with_reducible apply Frame.issueDone
    | with_reducible apply Frame.readPort
    | with_reducible apply Frame.awaitReread
    | dsimp only
    | split

end Sys2Proof.Machine
end

