-- ==== Sys2Proof/Laws/FrameImage.lean ====
section
/-!
SUPPORT. Which parts of the state the operations of Machine/Image.lean may change.
-/
namespace Sys2Proof.Machine

-- Proofs are checked one after another: many at once take more threads than the check allows.
set_option Elab.async false

variable {l : List StatePart} {s t : State}

theorem Frame.loadImage (h : Frame l s t) (img : List Byte) (copy : BitVec 2)
    (hl : covers [.clocks, .img, .config, .power, .cells] l = true) : Frame l s (State.loadImage t img copy) := by
  unfold State.loadImage
  repeat' first
    | with_reducible assumption
    | exact covers_trans hl rfl
    | with_reducible apply Frame.ite
    | with_reducible apply Frame.withClocks
    | with_reducible apply Frame.withCells
    | with_reducible apply Frame.withPower
    | dsimp only
    | split
    | (with_reducible apply Frame.parts <;> first | exact Or.inr rfl | exact Or.inl (covers_mem hl (by decide)) | skip)

theorem Frame.bootImage (h : Frame l s t) (readsA : Bool) (readsB : Bool)
    (hl : covers [.dev, .clocks, .card, .mgmt, .img, .config, .power, .cells, .glide, .links, .fabric, .restore, .relay, .job, .sat, .wrap] l = true) : Frame l s (State.bootImage t readsA readsB) := by
  unfold State.bootImage
  repeat' first
    | with_reducible assumption
    | exact covers_trans hl rfl
    | with_reducible apply Frame.ite
    | with_reducible apply Frame.enterFault
    | with_reducible apply Frame.loadImage
    | with_reducible apply Frame.bump
    | with_reducible apply Frame.record
    | dsimp only
    | split
    | (with_reducible apply Frame.parts <;> first | exact Or.inr rfl | exact Or.inl (covers_mem hl (by decide)) | skip)

end Sys2Proof.Machine
end

