-- ==== Sys2Proof/Laws/FrameEngines.lean ====
section
/-!
SUPPORT. Which parts of the state the operations of Machine/Engines.lean may change.
-/
namespace Sys2Proof.Machine

-- Proofs are checked one after another: many at once take more threads than the check allows.
set_option Elab.async false

variable {l : List StatePart} {s t : State}

theorem Frame.writeMapNow (h : Frame l s t) 
    (hl : covers [.card, .mgmt, .cap] l = true) : Frame l s (State.writeMapNow t) := by
  unfold State.writeMapNow
  repeat' first
    | with_reducible assumption
    | exact covers_trans hl rfl
    | with_reducible apply Frame.ite
    | with_reducible apply Frame.writeMap
    | dsimp only
    | split

theorem Frame.leaveService (h : Frame l s t) (n : Nat) (code : Nat) (full : Bool)
    (hl : covers [.card, .mgmt, .glide] l = true) : Frame l s (State.leaveService t n code full) := by
  unfold State.leaveService
  repeat' first
    | with_reducible assumption
    | exact covers_trans hl rfl
    | with_reducible apply Frame.ite
    | with_reducible apply Frame.record
    | with_reducible apply Frame.withEngine
    | with_reducible apply Frame.withGlide
    | dsimp only
    | split

theorem Frame.requestCal (h : Frame l s t) (n : Nat)
    (hl : covers [.power] l = true) : Frame l s (State.requestCal t n) := by
  unfold State.requestCal
  repeat' first
    | with_reducible assumption
    | exact covers_trans hl rfl
    | with_reducible apply Frame.ite
    | with_reducible apply Frame.request
    | dsimp only
    | split

theorem Frame.unbindGlide (h : Frame l s t) (n : Nat) (st : Nat)
    (hl : covers [.power, .glide] l = true) : Frame l s (State.unbindGlide t n st) := by
  unfold State.unbindGlide
  repeat' first
    | with_reducible assumption
    | exact covers_trans hl rfl
    | with_reducible apply Frame.ite
    | with_reducible apply Frame.withEngine
    | with_reducible apply Frame.release
    | dsimp only
    | split

end Sys2Proof.Machine
end

