-- ==== Sys2Proof/Laws/FrameLinks.lean ====
section
/-!
SUPPORT. Which parts of the state the operations of Machine/Links.lean may change.
-/
namespace Sys2Proof.Machine

-- Proofs are checked one after another: many at once take more threads than the check allows.
set_option Elab.async false

variable {l : List StatePart} {s t : State}

theorem Frame.withChan (h : Frame l s t) (n : Nat) (f : Nat) (w : Nat) (g : Channel → Channel)
    (hl : covers [.links] l = true) : Frame l s (State.withChan t n f w g) := by
  unfold State.withChan
  repeat' first
    | with_reducible assumption
    | exact covers_trans hl rfl
    | with_reducible apply Frame.ite
    | with_reducible apply Frame.withPort
    | dsimp only
    | split

theorem Frame.chanEvent (h : Frame l s t) (n : Nat) (f : Nat) (w : Nat) (cause : Nat)
    (hl : covers [.card, .mgmt] l = true) : Frame l s (State.chanEvent t n f w cause) := by
  unfold State.chanEvent
  repeat' first
    | with_reducible assumption
    | exact covers_trans hl rfl
    | with_reducible apply Frame.ite
    | with_reducible apply Frame.record
    | dsimp only
    | split

theorem Frame.fibreEvent (h : Frame l s t) (n : Nat) (f : Nat)
    (hl : covers [.card, .mgmt] l = true) : Frame l s (State.fibreEvent t n f) := by
  unfold State.fibreEvent
  repeat' first
    | with_reducible assumption
    | exact covers_trans hl rfl
    | with_reducible apply Frame.ite
    | with_reducible apply Frame.record
    | dsimp only
    | split

theorem Frame.retireChan (h : Frame l s t) (n : Nat) (f : Nat) (w : Nat) (cause : Nat)
    (hl : covers [.card, .mgmt, .links, .sat] l = true) : Frame l s (State.retireChan t n f w cause) := by
  unfold State.retireChan
  repeat' first
    | with_reducible assumption
    | exact covers_trans hl rfl
    | with_reducible apply Frame.ite
    | with_reducible apply Frame.withChan
    | with_reducible apply Frame.bump
    | with_reducible apply Frame.chanEvent
    | with_reducible apply Frame.withPort
    | with_reducible apply Frame.fibreEvent
    | dsimp only
    | split

theorem Frame.toLight (h : Frame l s t) (n : Nat)
    (hl : covers [.power, .links] l = true) : Frame l s (State.toLight t n) := by
  unfold State.toLight
  repeat' first
    | with_reducible assumption
    | exact covers_trans hl rfl
    | with_reducible apply Frame.ite
    | with_reducible apply Frame.withPort
    | with_reducible apply Frame.request
    | with_reducible apply Frame.release
    | dsimp only
    | split

theorem Frame.closePort (h : Frame l s t) (n : Nat)
    (hl : covers [.clocks, .card, .mgmt, .power, .links, .fabric, .sat] l = true) : Frame l s (State.closePort t n) := by
  unfold State.closePort
  repeat' first
    | with_reducible assumption
    | exact covers_trans hl rfl
    | with_reducible apply Frame.ite
    | with_reducible apply Frame.withPort
    | with_reducible apply Frame.withPower
    | with_reducible apply Frame.withClocks
    | with_reducible apply Frame.fence
    | dsimp only
    | split

theorem Frame.portDown (h : Frame l s t) (n : Nat) (cause : Nat)
    (hl : covers [.clocks, .card, .mgmt, .power, .links, .fabric, .sat] l = true) : Frame l s (State.portDown t n cause) := by
  unfold State.portDown
  repeat' first
    | with_reducible assumption
    | exact covers_trans hl rfl
    | with_reducible apply Frame.ite
    | with_reducible apply Frame.record
    | with_reducible apply Frame.bump
    | with_reducible apply Frame.closePort
    | with_reducible apply Frame.toLight
    | dsimp only
    | split

theorem Frame.holdPort (h : Frame l s t) (n : Nat) (cause : Nat)
    (hl : covers [.clocks, .card, .mgmt, .power, .links, .fabric, .sat] l = true) : Frame l s (State.holdPort t n cause) := by
  unfold State.holdPort
  repeat' first
    | with_reducible assumption
    | exact covers_trans hl rfl
    | with_reducible apply Frame.ite
    | with_reducible apply Frame.closePort
    | with_reducible apply Frame.release
    | with_reducible apply Frame.withPort
    | dsimp only
    | split

theorem Frame.portUp (h : Frame l s t) (n : Nat)
    (hl : covers [.card, .mgmt, .power, .links] l = true) : Frame l s (State.portUp t n) := by
  unfold State.portUp
  repeat' first
    | with_reducible assumption
    | exact covers_trans hl rfl
    | with_reducible apply Frame.ite
    | with_reducible apply Frame.release
    | with_reducible apply Frame.withPower
    | with_reducible apply Frame.withPort
    | with_reducible apply Frame.record
    | dsimp only
    | split

theorem Frame.advancePort (h : Frame l s t) (n : Nat)
    (hl : covers [.links] l = true) : Frame l s (State.advancePort t n) := by
  unfold State.advancePort
  repeat' first
    | with_reducible assumption
    | exact covers_trans hl rfl
    | with_reducible apply Frame.ite
    | with_reducible apply Frame.withPort
    | dsimp only
    | split

theorem Frame.portWork (h : Frame l s t) (n : Nat)
    (hl : covers [.links] l = true) : Frame l s (State.portWork t n) := by
  unfold State.portWork
  repeat' first
    | with_reducible assumption
    | exact covers_trans hl rfl
    | with_reducible apply Frame.ite
    | with_reducible apply Frame.withPort
    | with_reducible apply Frame.advancePort
    | dsimp only
    | split

theorem Frame.toLock (h : Frame l s t) (n : Nat)
    (hl : covers [.links] l = true) : Frame l s (State.toLock t n) := by
  unfold State.toLock
  repeat' first
    | with_reducible assumption
    | exact covers_trans hl rfl
    | with_reducible apply Frame.ite
    | with_reducible apply Frame.withPort
    | refine Frame.foldl ?_ (fun u a hu => ?_)
    | dsimp only
    | split

theorem Frame.leaveLight (h : Frame l s t) (n : Nat)
    (hl : covers [.links] l = true) : Frame l s (State.leaveLight t n) := by
  unfold State.leaveLight
  repeat' first
    | with_reducible assumption
    | exact covers_trans hl rfl
    | with_reducible apply Frame.ite
    | with_reducible apply Frame.toLock
    | dsimp only
    | split

theorem Frame.trigger (h : Frame l s t) (n : Nat) (cause : Nat)
    (hl : covers [.clocks, .mgmt, .links, .sat] l = true) : Frame l s (State.trigger t n cause) := by
  unfold State.trigger
  repeat' first
    | with_reducible assumption
    | exact covers_trans hl rfl
    | with_reducible apply Frame.ite
    | with_reducible apply Frame.withPort
    | with_reducible apply Frame.bump
    | with_reducible apply Frame.withClocks
    | dsimp only
    | split

theorem Frame.ringWord (h : Frame l s t) (n : Nat) (f : Nat) (w : Nat) (cf : Nat) (cw : Nat)
    (hl : covers [.card, .mgmt, .links, .sat] l = true) : Frame l s (State.ringWord t n f w cf cw) := by
  unfold State.ringWord
  repeat' first
    | with_reducible assumption
    | exact covers_trans hl rfl
    | with_reducible apply Frame.ite
    | with_reducible apply Frame.withPort
    | with_reducible apply Frame.withChan
    | with_reducible apply Frame.bump
    | with_reducible apply Frame.record
    | with_reducible apply Frame.chanEvent
    | dsimp only
    | split

theorem Frame.alignChan (h : Frame l s t) (n : Nat) (f : Nat) (w : Nat)
    (hl : covers [.links] l = true) : Frame l s (State.alignChan t n f w) := by
  unfold State.alignChan
  repeat' first
    | with_reducible assumption
    | exact covers_trans hl rfl
    | with_reducible apply Frame.ite
    | with_reducible apply Frame.withChan
    | dsimp only
    | split

theorem Frame.mapWord (h : Frame l s t) (n : Nat) (w : Nat)
    (hl : covers [.links] l = true) : Frame l s (State.mapWord t n w) := by
  unfold State.mapWord
  repeat' first
    | with_reducible assumption
    | exact covers_trans hl rfl
    | with_reducible apply Frame.ite
    | with_reducible apply Frame.withPort
    | dsimp only
    | split

theorem Frame.awaitLoop (h : Frame l s t) (n : Nat)
    (hl : covers [.links] l = true) : Frame l s (State.awaitLoop t n) := by
  unfold State.awaitLoop
  repeat' first
    | with_reducible assumption
    | exact covers_trans hl rfl
    | with_reducible apply Frame.ite
    | with_reducible apply Frame.withPort
    | dsimp only
    | split

theorem Frame.remap (h : Frame l s t) (n : Nat)
    (hl : covers [.links] l = true) : Frame l s (State.remap t n) := by
  unfold State.remap
  repeat' first
    | with_reducible assumption
    | exact covers_trans hl rfl
    | with_reducible apply Frame.ite
    | with_reducible apply Frame.withPort
    | dsimp only
    | split

theorem Frame.identWord (h : Frame l s t) (n : Nat) (w : Nat) (rtt : Nat)
    (hl : covers [.clocks, .card, .mgmt, .power, .links, .fabric, .sat] l = true) : Frame l s (State.identWord t n w rtt) := by
  unfold State.identWord
  repeat' first
    | with_reducible assumption
    | exact covers_trans hl rfl
    | with_reducible apply Frame.ite
    | with_reducible apply Frame.withPort
    | with_reducible apply Frame.holdPort
    | with_reducible apply Frame.portUp
    | with_reducible apply Frame.awaitLoop
    | with_reducible apply Frame.record
    | dsimp only
    | split

theorem Frame.retrainEvent (h : Frame l s t) (n : Nat) (causes : Byte) (ns : Nat) (st : LinkState)
    (hl : covers [.card, .mgmt] l = true) : Frame l s (State.retrainEvent t n causes ns st) := by
  unfold State.retrainEvent
  repeat' first
    | with_reducible assumption
    | exact covers_trans hl rfl
    | with_reducible apply Frame.ite
    | with_reducible apply Frame.record
    | dsimp only
    | split

theorem Frame.retrainCut (h : Frame l s t) (n : Nat)
    (hl : covers [.card, .mgmt] l = true) : Frame l s (State.retrainCut t n) := by
  unfold State.retrainCut
  repeat' first
    | with_reducible assumption
    | exact covers_trans hl rfl
    | with_reducible apply Frame.ite
    | with_reducible apply Frame.retrainEvent
    | dsimp only
    | split

theorem Frame.ackLane (h : Frame l s t) (n : Nat) (lane : Nat) (a : Nat)
    (hl : covers [.links, .wrap] l = true) : Frame l s (State.ackLane t n lane a) := by
  unfold State.ackLane
  repeat' first
    | with_reducible assumption
    | exact covers_trans hl rfl
    | with_reducible apply Frame.ite
    | with_reducible apply Frame.withPort
    | with_reducible apply Frame.fillLanes
    | dsimp only
    | split

theorem Frame.resend (h : Frame l s t) (n : Nat) (lane : Nat)
    (hl : covers [.clocks, .mgmt, .links, .sat, .wrap] l = true) : Frame l s (State.resend t n lane) := by
  unfold State.resend
  repeat' first
    | with_reducible assumption
    | exact covers_trans hl rfl
    | with_reducible apply Frame.ite
    | with_reducible apply Frame.withPort
    | with_reducible apply Frame.bump
    | with_reducible apply Frame.wrapBy
    | with_reducible apply Frame.trigger
    | dsimp only
    | split

theorem Frame.retryFrom (h : Frame l s t) (n : Nat) (lane : Nat) (a : Nat)
    (hl : covers [.clocks, .mgmt, .links, .sat, .wrap] l = true) : Frame l s (State.retryFrom t n lane a) := by
  unfold State.retryFrom
  repeat' first
    | with_reducible assumption
    | exact covers_trans hl rfl
    | with_reducible apply Frame.ite
    | with_reducible apply Frame.ackLane
    | with_reducible apply Frame.resend
    | dsimp only
    | split

theorem Frame.deliverFlits (h : Frame l s t) (n : Nat) (fuel : Nat)
    (hl : covers [.links] l = true) : Frame l s (State.deliverFlits t n fuel) := by
  induction fuel generalizing t n with
  | zero => exact h
  | succ fuel ih =>
    unfold State.deliverFlits
    repeat' first
      | with_reducible apply ih
      | with_reducible assumption
      | exact covers_trans hl rfl
      | with_reducible apply Frame.ite
      | with_reducible apply Frame.withPort
      | dsimp only
      | split

theorem Frame.acceptFrame (h : Frame l s t) (n : Nat) (lane : Nat) (flit : List Byte)
    (hl : covers [.links, .wrap] l = true) : Frame l s (State.acceptFrame t n lane flit) := by
  unfold State.acceptFrame
  repeat' first
    | with_reducible assumption
    | exact covers_trans hl rfl
    | with_reducible apply Frame.ite
    | with_reducible apply Frame.withPort
    | with_reducible apply Frame.wrapBy
    | with_reducible apply Frame.deliverFlits
    | dsimp only
    | split

theorem Frame.askRetry (h : Frame l s t) (n : Nat) (lane : Nat)
    (hl : covers [.links] l = true) : Frame l s (State.askRetry t n lane) := by
  unfold State.askRetry
  repeat' first
    | with_reducible assumption
    | exact covers_trans hl rfl
    | with_reducible apply Frame.ite
    | with_reducible apply Frame.withPort
    | dsimp only
    | split

theorem Frame.takePayload (h : Frame l s t) (n : Nat) (f : Nat) (w : Nat) (l' : List Nat)
    (hl : covers [.links, .fabric] l = true) : Frame l s (State.takePayload t n f w l') := by
  unfold State.takePayload
  repeat' first
    | with_reducible assumption
    | exact covers_trans hl rfl
    | with_reducible apply Frame.ite
    | with_reducible apply Frame.withPort
    | with_reducible apply Frame.take
    | dsimp only
    | split

theorem Frame.setHold (h : Frame l s t) (port : Nat) (value : Bool)
    (hl : covers [.clocks, .card, .mgmt, .power, .links, .fabric, .sat] l = true) : Frame l s (State.setHold t port value) := by
  unfold State.setHold
  repeat' first
    | with_reducible assumption
    | exact covers_trans hl rfl
    | with_reducible apply Frame.ite
    | with_reducible apply Frame.withPort
    | with_reducible apply Frame.holdPort
    | with_reducible apply Frame.toLight
    | dsimp only
    | split

theorem Frame.retrainPort (h : Frame l s t) (port : Nat)
    (hl : covers [.clocks, .card, .mgmt, .power, .links, .fabric, .sat] l = true) : Frame l s (State.retrainPort t port) := by
  unfold State.retrainPort
  repeat' first
    | with_reducible assumption
    | exact covers_trans hl rfl
    | with_reducible apply Frame.ite
    | with_reducible apply Frame.closePort
    | with_reducible apply Frame.withPort
    | with_reducible apply Frame.toLight
    | dsimp only
    | split

end Sys2Proof.Machine
end

