-- ==== Sys2Proof/Laws/FrameGlide.lean ====
section
/-!
SUPPORT. Which parts of the state the operations of Machine/Glide.lean may change.
-/
namespace Sys2Proof.Machine

-- Proofs are checked one after another: many at once take more threads than the check allows.
set_option Elab.async false

variable {l : List StatePart} {s t : State}

theorem Frame.readFrames (h : Frame l s t) (st : Nat) (addrs : List Nat) (path : ReadPath)
    (hl : covers [.dev, .nvm, .card, .mgmt, .cells, .bucket, .stores, .fabric, .sat, .wrap] l = true) : Frame l s (State.readFrames t st addrs path).1 := by
  induction addrs generalizing t path with
  | nil => exact h
  | cons x r ih =>
    have k := Frame.readFrame h st x path (covers_trans hl rfl)
    unfold State.readFrames
    dsimp only
    split
    · exact k
    · exact ih k _

theorem Frame.reloadW (h : Frame l s t) (st : Nat)
    (hl : covers [.dev, .pins, .clocks, .nvm, .card, .mgmt, .power, .cells, .bucket, .stores, .glide, .links, .fabric, .windows, .restore, .relay, .job, .sat, .wrap, .freeIdx, .mem] l = true) : Frame l s (State.reloadW t st) := by
  unfold State.reloadW
  repeat' first
    | with_reducible assumption
    | exact covers_trans hl rfl
    | with_reducible apply Frame.ite
    | with_reducible apply Frame.readFrames
    | with_reducible apply Frame.tileFault
    | with_reducible apply Frame.courseError
    | with_reducible apply Frame.withSt
    | dsimp only
    | split

theorem Frame.rerunOnCell (h : Frame l s t) (st : Nat)
    (hl : covers [.dev, .pins, .clocks, .nvm, .card, .mgmt, .power, .cells, .bucket, .stores, .glide, .links, .fabric, .windows, .restore, .relay, .job, .sat, .wrap, .freeIdx, .mem] l = true) : Frame l s (State.rerunOnCell t st) := by
  unfold State.rerunOnCell
  repeat' first
    | with_reducible assumption
    | exact covers_trans hl rfl
    | with_reducible apply Frame.ite
    | with_reducible apply Frame.reloadW
    | with_reducible apply Frame.withSt
    | dsimp only
    | split

theorem Frame.barStation (h : Frame l s t) (n : Nat) (st : Nat) (cause : Nat)
    (hl : covers [.dev, .pins, .clocks, .nvm, .card, .mgmt, .power, .cells, .bucket, .stores, .glide, .links, .fabric, .windows, .restore, .relay, .job, .sat, .wrap, .freeIdx, .mem] l = true) : Frame l s (State.barStation t n st cause) := by
  unfold State.barStation
  repeat' first
    | with_reducible assumption
    | exact covers_trans hl rfl
    | with_reducible apply Frame.ite
    | with_reducible apply Frame.record
    | with_reducible apply Frame.bump
    | with_reducible apply Frame.withJob
    | with_reducible apply Frame.rerunOnCell
    | with_reducible apply Frame.unbindGlide
    | with_reducible apply Frame.withGlide
    | dsimp only
    | split

theorem Frame.settleMap (h : Frame l s t) (n : Nat)
    (hl : covers [.glide] l = true) : Frame l s (State.settleMap t n) := by
  unfold State.settleMap
  repeat' first
    | with_reducible assumption
    | exact covers_trans hl rfl
    | with_reducible apply Frame.ite
    | with_reducible apply Frame.withEngine
    | dsimp only
    | split

theorem Frame.applyMap (h : Frame l s t) (n : Nat) (st : Nat)
    (hl : covers [.glide] l = true) : Frame l s (State.applyMap t n st) := by
  unfold State.applyMap
  repeat' first
    | with_reducible assumption
    | exact covers_trans hl rfl
    | with_reducible apply Frame.ite
    | with_reducible apply Frame.withEngine
    | with_reducible apply Frame.settleMap
    | dsimp only
    | split

theorem Frame.storeMap (h : Frame l s t) (n : Nat) (st : Nat) (m : PhaseMap)
    (hl : covers [.glide] l = true) : Frame l s (State.storeMap t n st m) := by
  unfold State.storeMap
  repeat' first
    | with_reducible assumption
    | exact covers_trans hl rfl
    | with_reducible apply Frame.ite
    | with_reducible apply Frame.withEngine
    | with_reducible apply Frame.applyMap
    | dsimp only
    | split

theorem Frame.engineGo (h : Frame l s t) (n : Nat) (st : Nat)
    (hl : covers [.power, .cells] l = true) : Frame l s (State.engineGo t n st).1 := by
  unfold State.engineGo
  repeat' first
    | with_reducible assumption
    | exact covers_trans hl rfl
    | with_reducible apply Frame.ite
    | with_reducible apply Frame.iteFst
    | with_reducible apply Frame.request
    | with_reducible apply Frame.waitTicket
    | refine Frame.ofFst (by assumption) ?_
    | dsimp only
    | split

theorem Frame.refuseMap (h : Frame l s t) (n : Nat) (st : Nat) (cause : Nat)
    (hl : covers [.dev, .pins, .clocks, .nvm, .card, .mgmt, .power, .cells, .bucket, .stores, .glide, .links, .fabric, .windows, .restore, .relay, .job, .sat, .wrap, .freeIdx, .mem] l = true) : Frame l s (State.refuseMap t n st cause) := by
  unfold State.refuseMap
  repeat' first
    | with_reducible assumption
    | exact covers_trans hl rfl
    | with_reducible apply Frame.ite
    | with_reducible apply Frame.barStation
    | with_reducible apply Frame.withEngine
    | dsimp only
    | split

theorem Frame.glLoad (h : Frame l s t) (st : Nat) (cf : Common) (w : Nat) (map : Nat) (path : ReadPath)
    (hl : covers [.dev, .pins, .clocks, .nvm, .card, .mgmt, .power, .cells, .bucket, .stores, .glide, .links, .fabric, .windows, .restore, .relay, .job, .sat, .wrap, .freeIdx, .mem] l = true) : Frame l s (State.glLoad t st cf w map path) := by
  unfold State.glLoad
  repeat' first
    | with_reducible assumption
    | exact covers_trans hl rfl
    | with_reducible apply Frame.ite
    | with_reducible apply Frame.withSt
    | with_reducible apply Frame.issueDone
    | with_reducible apply Frame.engineGo
    | with_reducible apply Frame.readFrames
    | with_reducible apply Frame.awaitReread
    | with_reducible apply Frame.courseError
    | with_reducible apply Frame.storeMap
    | with_reducible apply Frame.issue
    | with_reducible apply Frame.refuseMap
    | refine Frame.ofFst (by assumption) ?_
    | dsimp only
    | split

theorem Frame.settleLoads (h : Frame l s t) 
    (hl : covers [.dev, .pins, .clocks, .nvm, .card, .mgmt, .power, .cells, .bucket, .stores, .glide, .links, .fabric, .windows, .restore, .relay, .job, .sat, .wrap, .freeIdx, .mem] l = true) : Frame l s (State.settleLoads t) := by
  unfold State.settleLoads
  repeat' first
    | with_reducible assumption
    | exact covers_trans hl rfl
    | with_reducible apply Frame.ite
    | with_reducible apply Frame.completeKind
    | refine Frame.foldl ?_ (fun u a hu => ?_)
    | dsimp only
    | split

theorem Frame.engineTakes (h : Frame l s t) (n : Nat) (st : Nat)
    (hl : covers [.power, .cells, .glide] l = true) : Frame l s (State.engineTakes t n st).1 := by
  unfold State.engineTakes
  repeat' first
    | with_reducible assumption
    | exact covers_trans hl rfl
    | with_reducible apply Frame.ite
    | with_reducible apply Frame.iteFst
    | with_reducible apply Frame.engineGo
    | with_reducible apply Frame.settleMap
    | dsimp only
    | split

theorem Frame.sampled (h : Frame l s t) (n : Nat) (st : Nat) (g : GlideW) (h' : HeldRun) (adc : List (List (List Int)))
    (hl : covers [.mgmt, .glide, .sat, .wrap] l = true) : Frame l s (State.sampled t n st g h' adc) := by
  unfold State.sampled
  repeat' first
    | with_reducible assumption
    | exact covers_trans hl rfl
    | with_reducible apply Frame.ite
    | with_reducible apply Frame.wrapBy
    | with_reducible apply Frame.satBy
    | with_reducible apply Frame.withEngine
    | refine Frame.foldl ?_ (fun u a hu => ?_)
    | dsimp only
    | split

theorem Frame.glAgain (h : Frame l s t) (st : Nat) (h' : HeldRun) (adc : List (List (List Int)))
    (hl : covers [.mgmt, .power, .cells, .glide, .sat, .wrap] l = true) : Frame l s (State.glAgain t st h' adc) := by
  unfold State.glAgain
  repeat' first
    | with_reducible assumption
    | exact covers_trans hl rfl
    | with_reducible apply Frame.ite
    | with_reducible apply Frame.engineTakes
    | with_reducible apply Frame.withSt
    | with_reducible apply Frame.sampled
    | dsimp only
    | split

theorem Frame.glRun (h : Frame l s t) (st : Nat) (cf : Common) (i : Nat) (o : Nat) (fmt : Nat) (rnd : Rnd) (adc : List (List (List Int))) (path : ReadPath) (checks : List ArrayFail)
    (hl : covers [.dev, .pins, .clocks, .nvm, .card, .mgmt, .power, .cells, .bucket, .stores, .glide, .links, .fabric, .windows, .restore, .relay, .job, .sat, .wrap, .freeIdx, .mem] l = true) : Frame l s (State.glRun t st cf i o fmt rnd adc path checks) := by
  unfold State.glRun
  repeat' first
    | with_reducible assumption
    | exact covers_trans hl rfl
    | with_reducible apply Frame.ite
    | with_reducible apply Frame.engineTakes
    | with_reducible apply Frame.arraysGo
    | with_reducible apply Frame.readPort
    | with_reducible apply Frame.awaitReread
    | with_reducible apply Frame.courseError
    | with_reducible apply Frame.issue
    | with_reducible apply Frame.withSt
    | with_reducible apply Frame.sampled
    | with_reducible apply Frame.stopOnFail
    | refine Frame.ofFst (by assumption) ?_
    | dsimp only
    | split

theorem Frame.countGlFrame (h : Frame l s t) (n : Nat) (st : Nat) (h' : HeldRun)
    (hl : covers [.card, .mgmt, .glide, .sat, .wrap] l = true) : Frame l s (State.countGlFrame t n st h') := by
  unfold State.countGlFrame
  repeat' first
    | with_reducible assumption
    | exact covers_trans hl rfl
    | with_reducible apply Frame.ite
    | with_reducible apply Frame.wrapBy
    | with_reducible apply Frame.bump
    | with_reducible apply Frame.record
    | with_reducible apply Frame.withEngine
    | dsimp only
    | split

theorem Frame.glComplete (h : Frame l s t) (st : Nat)
    (hl : covers [.dev, .pins, .clocks, .nvm, .card, .mgmt, .power, .cells, .bucket, .stores, .glide, .links, .fabric, .windows, .restore, .relay, .job, .sat, .wrap, .freeIdx, .mem] l = true) : Frame l s (State.glComplete t st) := by
  unfold State.glComplete
  repeat' first
    | with_reducible assumption
    | exact covers_trans hl rfl
    | with_reducible apply Frame.ite
    | with_reducible apply Frame.writePort
    | with_reducible apply Frame.withSt
    | with_reducible apply Frame.countGlFrame
    | with_reducible apply Frame.completeKind
    | dsimp only
    | split

theorem Frame.withSlot (h : Frame l s t) (n : Nat) (st : Nat) (f : MapSlot → MapSlot)
    (hl : covers [.glide] l = true) : Frame l s (State.withSlot t n st f) := by
  unfold State.withSlot
  repeat' first
    | with_reducible assumption
    | exact covers_trans hl rfl
    | with_reducible apply Frame.ite
    | with_reducible apply Frame.withEngine
    | dsimp only
    | split

theorem Frame.passWindow (h : Frame l s t) (n : Nat) (st : Nat)
    (hl : covers [.cells] l = true) : Frame l s (State.passWindow t n st) := by
  unfold State.passWindow
  repeat' first
    | with_reducible assumption
    | exact covers_trans hl rfl
    | with_reducible apply Frame.ite
    | with_reducible apply Frame.withSt
    | dsimp only
    | split

theorem Frame.withShadow (h : Frame l s t) (n : Nat) (st : Nat) (f : ShadowRec → ShadowRec)
    (hl : covers [.glide] l = true) : Frame l s (State.withShadow t n st f) := by
  unfold State.withShadow
  repeat' first
    | with_reducible assumption
    | exact covers_trans hl rfl
    | with_reducible apply Frame.ite
    | with_reducible apply Frame.withEngine
    | dsimp only
    | split

theorem Frame.judgeWindow (h : Frame l s t) (n : Nat) (st : Nat) (w : List ShadowStat)
    (hl : covers [.dev, .pins, .clocks, .nvm, .card, .mgmt, .power, .cells, .bucket, .stores, .glide, .links, .fabric, .windows, .restore, .relay, .job, .sat, .wrap, .freeIdx, .mem] l = true) : Frame l s (State.judgeWindow t n st w) := by
  unfold State.judgeWindow
  repeat' first
    | with_reducible assumption
    | exact covers_trans hl rfl
    | with_reducible apply Frame.ite
    | with_reducible apply Frame.withShadow
    | with_reducible apply Frame.bump
    | with_reducible apply Frame.record
    | with_reducible apply Frame.barStation
    | with_reducible apply Frame.leaveService
    | refine Frame.foldl ?_ (fun u a hu => ?_)
    | dsimp only
    | split

theorem Frame.calibrated (h : Frame l s t) (c : GlideCal)
    (hl : covers [.card, .mgmt, .power, .glide, .sat] l = true) : Frame l s (State.calibrated t c) := by
  unfold State.calibrated
  repeat' first
    | with_reducible assumption
    | exact covers_trans hl rfl
    | with_reducible apply Frame.ite
    | with_reducible apply Frame.withEngine
    | with_reducible apply Frame.bump
    | with_reducible apply Frame.record
    | with_reducible apply Frame.release
    | with_reducible apply Frame.withGlide
    | dsimp only
    | split

end Sys2Proof.Machine
end

