-- ==== Sys2Proof/Laws/FramePatterns.lean ====
section
/-!
SUPPORT. Which parts of the state the operations of Machine/Patterns.lean may change.
-/
namespace Sys2Proof.Machine

-- Proofs are checked one after another: many at once take more threads than the check allows.
set_option Elab.async false

variable {l : List StatePart} {s t : State}

theorem Frame.keepPattern (h : Frame l s t) (o : PatternOps)
    (hl : covers [.card] l = true) : Frame l s (State.keepPattern t o).1 := by
  unfold State.keepPattern
  repeat' first
    | with_reducible assumption
    | exact covers_trans hl rfl
    | with_reducible apply Frame.ite
    | with_reducible apply Frame.iteFst
    | with_reducible apply Frame.withCard
    | refine Frame.ofFst (by assumption) ?_
    | dsimp only
    | split

end Sys2Proof.Machine
end

