-- ==== Sys2Proof/Laws/FrameRequests.lean ====
section
/-!
SUPPORT. Which parts of the state the operations of Machine/Requests.lean may change.
-/
namespace Sys2Proof.Machine

-- Proofs are checked one after another: many at once take more threads than the check allows.
set_option Elab.async false

variable {l : List StatePart} {s t : State}

theorem Frame.closedWindow (h : Frame l s t) 
    (hl : covers [.dev, .pins, .clocks, .nvm, .card, .mgmt, .power, .cells, .bucket, .stores, .glide, .links, .fabric, .windows, .restore, .relay, .job, .sat, .wrap, .freeIdx, .mem] l = true) : Frame l s (State.closedWindow t) := by
  unfold State.closedWindow
  repeat' first
    | with_reducible assumption
    | exact covers_trans hl rfl
    | with_reducible apply Frame.ite
    | with_reducible apply Frame.courseError
    | dsimp only
    | split

theorem Frame.signalSlots (h : Frame l s t) (id : Nat) (fuel : Nat)
    (hl : covers [.cells, .windows] l = true) : Frame l s (State.signalSlots t id fuel) := by
  induction fuel generalizing t id with
  | zero => exact h
  | succ fuel ih =>
    unfold State.signalSlots
    repeat' first
      | with_reducible apply ih
      | with_reducible assumption
      | exact covers_trans hl rfl
      | with_reducible apply Frame.ite
      | with_reducible apply Frame.emit
      | refine Frame.foldl ?_ (fun u a hu => ?_)
      | dsimp only
      | split
      | (with_reducible apply Frame.parts <;> first | exact Or.inr rfl | exact Or.inl (covers_mem hl (by decide)) | skip)

theorem Frame.tileWrite (h : Frame l s t) (id : Nat) (w : Window) (p : Packet)
    (hl : covers [.dev, .pins, .clocks, .nvm, .card, .mgmt, .power, .cells, .bucket, .stores, .glide, .links, .fabric, .windows, .restore, .relay, .job, .sat, .wrap, .freeIdx, .mem] l = true) : Frame l s (State.tileWrite t id w p).1 := by
  unfold State.tileWrite
  repeat' first
    | with_reducible assumption
    | exact covers_trans hl rfl
    | with_reducible apply Frame.ite
    | with_reducible apply Frame.iteFst
    | with_reducible apply Frame.courseError
    | with_reducible apply Frame.writeMem
    | with_reducible apply Frame.signalSlots
    | dsimp only
    | split
    | (with_reducible apply Frame.parts <;> first | exact Or.inr rfl | exact Or.inl (covers_mem hl (by decide)) | skip)

theorem Frame.memWrite (h : Frame l s t) (obj : Nat) (off : Nat) (bytes : List Byte) (bad : List Nat)
    (hl : covers [.dev, .nvm, .card, .mgmt, .cells, .bucket, .stores, .fabric, .sat, .wrap, .mem] l = true) : Frame l s (State.memWrite t obj off bytes bad) := by
  unfold State.memWrite
  repeat' first
    | with_reducible assumption
    | exact covers_trans hl rfl
    | with_reducible apply Frame.ite
    | with_reducible apply Frame.writeMem
    | refine Frame.foldl ?_ (fun u a hu => ?_)
    | dsimp only
    | split

theorem Frame.verifyRestored (h : Frame l s t) (obj : Nat) (f : Nat)
    (hl : covers [.dev, .pins, .clocks, .nvm, .card, .mgmt, .power, .cells, .bucket, .stores, .glide, .links, .fabric, .windows, .restore, .relay, .job, .sat, .wrap, .freeIdx, .mem] l = true) : Frame l s (State.verifyRestored t obj f).1 := by
  unfold State.verifyRestored
  repeat' first
    | with_reducible assumption
    | exact covers_trans hl rfl
    | with_reducible apply Frame.ite
    | with_reducible apply Frame.iteFst
    | with_reducible apply Frame.readMem
    | with_reducible apply Frame.tileFault
    | refine Frame.ofFst (by assumption) ?_
    | dsimp only
    | split

theorem Frame.verifyObject (h : Frame l s t) (obj : Nat) (n : Nat)
    (hl : covers [.dev, .pins, .clocks, .nvm, .card, .mgmt, .power, .cells, .bucket, .stores, .glide, .links, .fabric, .windows, .restore, .relay, .job, .sat, .wrap, .freeIdx, .mem] l = true) : Frame l s (State.verifyObject t obj n).1 := by
  exact Frame.foldlFst h fun u b a hu => Frame.verifyRestored hu _ _ hl

theorem Frame.restoreObject (h : Frame l s t) (r : Restore) (obj : Nat)
    (hl : covers [.dev, .pins, .clocks, .nvm, .card, .mgmt, .power, .cells, .bucket, .stores, .glide, .links, .fabric, .windows, .restore, .relay, .job, .sat, .wrap, .freeIdx, .mem] l = true) : Frame l s (State.restoreObject t r obj) := by
  unfold State.restoreObject
  dsimp only
  split
  · have k := Frame.verifyObject h obj (t.objectSize obj) (covers_trans hl rfl)
    exact k.step (covers_trans hl (rfl : covers [.restore] _ = true)) fun p hp => by
      cases p <;> first | rfl | exact absurd (.head _) hp
  · exact h.step (covers_trans hl (rfl : covers [.restore] _ = true)) fun p hp => by
      cases p <;> first | rfl | exact absurd (.head _) hp

theorem Frame.restoreWrite (h : Frame l s t) (r : Restore) (p : Packet)
    (hl : covers [.dev, .pins, .clocks, .nvm, .card, .mgmt, .power, .cells, .bucket, .stores, .glide, .links, .fabric, .windows, .restore, .relay, .job, .sat, .wrap, .freeIdx, .mem] l = true) : Frame l s (State.restoreWrite t r p) := by
  unfold State.restoreWrite
  repeat' first
    | with_reducible assumption
    | exact covers_trans hl rfl
    | with_reducible apply Frame.ite
    | with_reducible apply Frame.writeMem
    | with_reducible apply Frame.restoreObject
    | dsimp only
    | split

theorem Frame.doWrite (h : Frame l s t) (p : Packet)
    (hl : covers [.dev, .pins, .clocks, .nvm, .card, .mgmt, .power, .cells, .bucket, .stores, .glide, .links, .fabric, .windows, .restore, .relay, .job, .sat, .wrap, .freeIdx, .mem] l = true) : Frame l s (State.doWrite t p) := by
  unfold State.doWrite
  repeat' first
    | with_reducible assumption
    | exact covers_trans hl rfl
    | with_reducible apply Frame.ite
    | with_reducible apply Frame.restoreWrite
    | with_reducible apply Frame.countDone
    | with_reducible apply Frame.respond
    | with_reducible apply Frame.closedWindow
    | with_reducible apply Frame.memWrite
    | with_reducible apply Frame.tileWrite
    | refine Frame.ofFst (by assumption) ?_
    | dsimp only
    | split

theorem Frame.doStore (h : Frame l s t) (p : Packet)
    (hl : covers [.dev, .pins, .clocks, .nvm, .card, .mgmt, .power, .cells, .bucket, .stores, .glide, .links, .fabric, .windows, .restore, .relay, .job, .sat, .wrap, .freeIdx, .mem] l = true) : Frame l s (State.doStore t p) := by
  unfold State.doStore
  repeat' first
    | with_reducible assumption
    | exact covers_trans hl rfl
    | with_reducible apply Frame.ite
    | with_reducible apply Frame.closedWindow
    | with_reducible apply Frame.countDone
    | with_reducible apply Frame.respond
    | with_reducible apply Frame.writeMem
    | dsimp only
    | split

theorem Frame.doLoad (h : Frame l s t) (p : Packet)
    (hl : covers [.dev, .pins, .clocks, .nvm, .card, .mgmt, .power, .cells, .bucket, .stores, .glide, .links, .fabric, .windows, .restore, .relay, .job, .sat, .wrap, .freeIdx, .mem] l = true) : Frame l s (State.doLoad t p) := by
  unfold State.doLoad
  repeat' first
    | with_reducible assumption
    | exact covers_trans hl rfl
    | with_reducible apply Frame.ite
    | with_reducible apply Frame.closedWindow
    | with_reducible apply Frame.respond
    | with_reducible apply Frame.readMem
    | refine Frame.ofFst (by assumption) ?_
    | dsimp only
    | split

theorem Frame.atomicAt (h : Frame l s t) (a : Nat) (fn : Nat) (wide : Bool) (data : List Byte)
    (hl : covers [.dev, .nvm, .card, .mgmt, .cells, .bucket, .stores, .sat, .wrap, .mem] l = true) : Frame l s (State.atomicAt t a fn wide data).1 := by
  unfold State.atomicAt
  repeat' first
    | with_reducible assumption
    | exact covers_trans hl rfl
    | with_reducible apply Frame.ite
    | with_reducible apply Frame.iteFst
    | with_reducible apply Frame.readStore
    | with_reducible apply Frame.writePart
    | with_reducible apply Frame.cacheDrop
    | dsimp only
    | split

theorem Frame.markAtomic (h : Frame l s t) (c : Coord) (seq : BitVec 16) (old : Nat) (status : Nat)
    (hl : covers [.dev, .pins, .clocks, .nvm, .card, .mgmt, .power, .cells, .bucket, .stores, .glide, .links, .fabric, .windows, .restore, .relay, .job, .sat, .wrap, .freeIdx, .mem] l = true) : Frame l s (State.markAtomic t c seq old status) := by
  unfold State.markAtomic
  repeat' first
    | with_reducible assumption
    | exact covers_trans hl rfl
    | with_reducible apply Frame.ite
    | with_reducible apply Frame.withFabric
    | with_reducible apply Frame.settle
    | dsimp only
    | split

theorem Frame.answerAtomic (h : Frame l s t) (p : Packet) (old : Nat) (status : Nat)
    (hl : covers [.dev, .pins, .clocks, .nvm, .card, .mgmt, .power, .cells, .bucket, .stores, .glide, .links, .fabric, .windows, .restore, .relay, .job, .sat, .wrap, .freeIdx, .mem] l = true) : Frame l s (State.answerAtomic t p old status) := by
  unfold State.answerAtomic
  repeat' first
    | with_reducible assumption
    | exact covers_trans hl rfl
    | with_reducible apply Frame.ite
    | with_reducible apply Frame.respond
    | dsimp only
    | split

theorem Frame.replayAtomic (h : Frame l s t) (p : Packet)
    (hl : covers [.dev, .pins, .clocks, .nvm, .card, .mgmt, .power, .cells, .bucket, .stores, .glide, .links, .fabric, .windows, .restore, .relay, .job, .sat, .wrap, .freeIdx, .mem] l = true) : Frame l s (State.replayAtomic t p) := by
  unfold State.replayAtomic
  repeat' first
    | with_reducible assumption
    | exact covers_trans hl rfl
    | with_reducible apply Frame.ite
    | with_reducible apply Frame.bump
    | with_reducible apply Frame.answerAtomic
    | dsimp only
    | split

theorem Frame.applyAtomic (h : Frame l s t) (p : Packet) {r : State × Nat × Nat} (e : t.applyAtomic p = some r)
    (hl : covers [.dev, .pins, .clocks, .nvm, .card, .mgmt, .power, .cells, .bucket, .stores, .glide, .links, .fabric, .windows, .restore, .relay, .job, .sat, .wrap, .freeIdx, .mem] l = true) : Frame l s r.1 := by
  unfold State.applyAtomic at e
  split at e
  · cases e
  · dsimp only at e
    generalize (if p.aux.getLsbD 4 = true then 8 else 4) = n at e
    split at e
    · cases e; exact h
    · cases e; exact Frame.atomicAt h _ _ _ _ (covers_trans hl rfl)

theorem Frame.doAtomic (h : Frame l s t) (p : Packet) (hl : covers [.dev, .pins, .clocks, .nvm, .card, .mgmt, .power, .cells, .bucket, .stores, .glide, .links, .fabric, .windows, .restore, .relay, .job, .sat, .wrap, .freeIdx, .mem] l = true) : Frame l s (t.doAtomic p) := by
  unfold State.doAtomic
  dsimp only
  generalize List.map _ p.constituents = cs
  have k : Frame l s (List.foldl (fun u (c : Packet × Nat) => State.replayAtomic u c.1)
      (List.foldl (fun u (c : Packet × Nat) => u.seqFault c.1.src c.1.seq.toNat (u.atomState c.1.src).e.toNat) t
        (cs.filter fun c => c.2 = 3)) (cs.filter fun c => c.2 = 2)) :=
    Frame.foldl (Frame.foldl h fun u a hu => Frame.seqFault hu _ _ _ (covers_trans hl rfl)) fun u a hu =>
      Frame.replayAtomic hu _ (covers_trans hl rfl)
  split
  · exact k
  · split
    · exact Frame.closedWindow k (covers_trans hl rfl)
    · rename_i e
      exact Frame.foldl (Frame.applyAtomic k _ e hl) fun u a hu =>
        Frame.answerAtomic (Frame.countDone (Frame.markAtomic hu _ _ _ _ (covers_trans hl rfl)) _ (covers_trans hl rfl)) _ _ _
          (covers_trans hl rfl)

theorem Frame.doRefetch (h : Frame l s t) (p : Packet)
    (hl : covers [.dev, .pins, .clocks, .nvm, .card, .mgmt, .power, .cells, .bucket, .stores, .glide, .links, .fabric, .windows, .restore, .relay, .job, .sat, .wrap, .freeIdx, .mem] l = true) : Frame l s (State.doRefetch t p) := by
  unfold State.doRefetch
  repeat' first
    | with_reducible assumption
    | exact covers_trans hl rfl
    | with_reducible apply Frame.ite
    | with_reducible apply Frame.replayAtomic
    | with_reducible apply Frame.seqFault
    | dsimp only
    | split

theorem Frame.doSignal (h : Frame l s t) (p : Packet)
    (hl : covers [.dev, .pins, .clocks, .nvm, .card, .mgmt, .power, .cells, .bucket, .stores, .glide, .links, .fabric, .windows, .restore, .relay, .job, .sat, .wrap, .freeIdx, .mem] l = true) : Frame l s (State.doSignal t p) := by
  unfold State.doSignal
  repeat' first
    | with_reducible assumption
    | exact covers_trans hl rfl
    | with_reducible apply Frame.ite
    | with_reducible apply Frame.semCycle
    | with_reducible apply Frame.checkDone
    | dsimp only
    | split

theorem Frame.doFar (h : Frame l s t) (p : Packet)
    (hl : covers [.dev, .pins, .clocks, .nvm, .card, .mgmt, .power, .cells, .bucket, .stores, .glide, .links, .fabric, .windows, .restore, .relay, .job, .sat, .wrap, .freeIdx, .mem] l = true) : Frame l s (State.doFar t p) := by
  unfold State.doFar
  repeat' first
    | with_reducible assumption
    | exact covers_trans hl rfl
    | with_reducible apply Frame.ite
    | with_reducible apply Frame.closedWindow
    | with_reducible apply Frame.countDone
    | with_reducible apply Frame.respond
    | with_reducible apply Frame.readMem
    | with_reducible apply Frame.bump
    | with_reducible apply Frame.writeMem
    | with_reducible apply Frame.atomicAt
    | refine Frame.ofFst (by assumption) ?_
    | dsimp only
    | split

theorem Frame.takeLocal (h : Frame l s t) (p : Packet)
    (hl : covers [.fabric] l = true) : Frame l s (State.takeLocal t p) := by
  unfold State.takeLocal
  repeat' first
    | with_reducible assumption
    | exact covers_trans hl rfl
    | with_reducible apply Frame.ite
    | with_reducible apply Frame.withFabric
    | dsimp only
    | split

theorem Frame.perform (h : Frame l s t) (p : Packet)
    (hl : covers [.dev, .pins, .clocks, .nvm, .card, .mgmt, .power, .cells, .bucket, .stores, .glide, .links, .fabric, .windows, .restore, .relay, .job, .sat, .wrap, .freeIdx, .mem] l = true) : Frame l s (State.perform t p) := by
  unfold State.perform
  repeat' first
    | with_reducible assumption
    | exact covers_trans hl rfl
    | with_reducible apply Frame.ite
    | with_reducible apply Frame.wrapBy
    | with_reducible apply Frame.doWrite
    | with_reducible apply Frame.doStore
    | with_reducible apply Frame.doLoad
    | with_reducible apply Frame.doAtomic
    | with_reducible apply Frame.doSignal
    | with_reducible apply Frame.doRefetch
    | with_reducible apply Frame.doFar
    | dsimp only
    | split

theorem Frame.accept (h : Frame l s t) (p : Packet)
    (hl : covers [.dev, .pins, .clocks, .nvm, .card, .mgmt, .power, .cells, .bucket, .stores, .glide, .links, .fabric, .windows, .restore, .relay, .job, .sat, .wrap, .freeIdx, .mem] l = true) : Frame l s (State.accept t p) := by
  unfold State.accept
  repeat' first
    | with_reducible assumption
    | exact covers_trans hl rfl
    | with_reducible apply Frame.ite
    | with_reducible apply Frame.takeLocal
    | with_reducible apply Frame.perform
    | with_reducible apply Frame.withFabric
    | with_reducible apply Frame.wrapBy
    | dsimp only
    | split

end Sys2Proof.Machine
end

