-- ==== Sys2Proof/Laws/FrameDma.lean ====
section
/-!
SUPPORT. Which parts of the state the operations of Machine/Dma.lean may change.
-/
namespace Sys2Proof.Machine

-- Proofs are checked one after another: many at once take more threads than the check allows.
set_option Elab.async false

variable {l : List StatePart} {s t : State}

theorem Frame.markFlight (h : Frame l s t) 
    (hl : covers [.fabric] l = true) : Frame l s (State.markFlight t) := by
  unfold State.markFlight
  repeat' first
    | with_reducible assumption
    | exact covers_trans hl rfl
    | with_reducible apply Frame.ite
    | with_reducible apply Frame.withFabric
    | dsimp only
    | split

theorem Frame.sendOp (h : Frame l s t) (st : Nat) (kind : OpKind) (cmd : Nat) (p : Packet)
    (hl : covers [.dev, .pins, .clocks, .nvm, .card, .mgmt, .power, .cells, .bucket, .stores, .glide, .links, .fabric, .windows, .restore, .relay, .job, .sat, .wrap, .freeIdx, .mem] l = true) : Frame l s (State.sendOp t st kind cmd p) := by
  unfold State.sendOp
  repeat' first
    | with_reducible assumption
    | exact covers_trans hl rfl
    | with_reducible apply Frame.ite
    | with_reducible apply Frame.withFabric
    | with_reducible apply Frame.inject
    | with_reducible apply Frame.markFlight
    | dsimp only
    | split

theorem Frame.moveAll (h : Frame l s t) {count : Nat} {f : State → Nat → State × Bool}
    (hf : ∀ u k, Frame l s u → Frame l s (f u k).1) : Frame l s (moveAll count t f).1 :=
  Frame.foldlFst h fun u b k hu => by
    cases b
    · exact hu
    · exact hf u k hu

theorem Frame.takeFrame (h : Frame l s t) (st port n : Nat) (path : ReadPath) (i : Instr) {use : State → List Byte → State}
    (hu : ∀ u f, Frame l s u → Frame l s (use u f)) (hl : covers [.dev, .pins, .clocks, .nvm, .card, .mgmt, .power, .cells, .bucket, .stores, .glide, .links, .fabric, .windows, .restore, .relay, .job, .sat, .wrap, .freeIdx, .mem] l = true) :
    Frame l s (t.takeFrame st port n path i use).1 := by
  have k : Frame l s (t.readPort st port n path).state := Frame.readPort h _ _ _ _ (covers_trans hl rfl)
  unfold State.takeFrame
  dsimp only
  cases (t.readPort st port n path).frame with
  | none => exact Frame.awaitReread k _ _ (covers_trans hl rfl)
  | some f => exact Frame.iteFst (hu _ _ k) (Frame.courseError k _ _ (covers_trans hl rfl))

theorem Frame.pumpLocal (h : Frame l s t) (st : Nat)
    (hl : covers [.cells, .fabric] l = true) : Frame l s (State.pumpLocal t st) := by
  unfold State.pumpLocal
  repeat' first
    | with_reducible assumption
    | exact covers_trans hl rfl
    | with_reducible apply Frame.ite
    | with_reducible apply Frame.withSt
    | with_reducible apply Frame.markFlight
    | dsimp only
    | split

theorem Frame.noteWait (h : Frame l s t) (st : Nat) (before : Nat) (wants : Bool)
    (hl : covers [.cells] l = true) : Frame l s (State.noteWait t st before wants) := by
  unfold State.noteWait
  repeat' first
    | with_reducible assumption
    | exact covers_trans hl rfl
    | with_reducible apply Frame.ite
    | with_reducible apply Frame.withSt
    | dsimp only
    | split

theorem Frame.issueDma (h : Frame l s t) (st : Nat) (cf : Common) (adv : List Advance) (count : Nat)
    (hl : covers [.cells, .fabric] l = true) : Frame l s (State.issueDma t st cf adv count) := by
  unfold State.issueDma
  repeat' first
    | with_reducible assumption
    | exact covers_trans hl rfl
    | with_reducible apply Frame.ite
    | with_reducible apply Frame.issue
    | with_reducible apply Frame.pumpLocal
    | with_reducible apply Frame.noteWait
    | dsimp only
    | split

theorem Frame.rdTiles (h : Frame l s t) (st : Nat) (cf : Common) (obj : Nat) (o : Nat) (first : Nat) (count : Nat) (path : ReadPath)
    (hl : covers [.dev, .nvm, .card, .mgmt, .cells, .bucket, .stores, .fabric, .sat, .wrap, .mem] l = true) : Frame l s (State.rdTiles t st cf obj o first count path) := by
  unfold State.rdTiles
  repeat' first
    | with_reducible assumption
    | exact covers_trans hl rfl
    | with_reducible apply Frame.ite
    | with_reducible apply Frame.iteFst
    | refine Frame.moveAll ?_ (fun u k hu => ?_)
    | with_reducible apply Frame.readFrame
    | with_reducible apply Frame.awaitReread
    | with_reducible apply Frame.writePort
    | with_reducible apply Frame.issueDma
    | refine Frame.ofFst (by assumption) ?_
    | dsimp only
    | split

theorem Frame.wrTiles (h : Frame l s t) (st : Nat) (cf : Common) (obj : Nat) (i : Nat) (first : Nat) (count : Nat) (path : ReadPath)
    (hl : covers [.dev, .pins, .clocks, .nvm, .card, .mgmt, .power, .cells, .bucket, .stores, .glide, .links, .fabric, .windows, .restore, .relay, .job, .sat, .wrap, .freeIdx, .mem] l = true) : Frame l s (State.wrTiles t st cf obj i first count path) := by
  unfold State.wrTiles
  repeat' first
    | with_reducible assumption
    | exact covers_trans hl rfl
    | with_reducible apply Frame.ite
    | with_reducible apply Frame.iteFst
    | refine Frame.moveAll ?_ (fun u k hu => ?_)
    | refine Frame.takeFrame ?_ _ _ _ _ _ (fun u f hu => ?_) ?_
    | with_reducible apply Frame.writeFrame
    | with_reducible apply Frame.issueDma
    | refine Frame.ofFst (by assumption) ?_
    | dsimp only
    | split

theorem Frame.cpTiles (h : Frame l s t) (st : Nat) (cf : Common) (i : Nat) (o : Nat) (count : Nat) (path : ReadPath)
    (hl : covers [.dev, .pins, .clocks, .nvm, .card, .mgmt, .power, .cells, .bucket, .stores, .glide, .links, .fabric, .windows, .restore, .relay, .job, .sat, .wrap, .freeIdx, .mem] l = true) : Frame l s (State.cpTiles t st cf i o count path) := by
  unfold State.cpTiles
  repeat' first
    | with_reducible assumption
    | exact covers_trans hl rfl
    | with_reducible apply Frame.ite
    | with_reducible apply Frame.iteFst
    | refine Frame.moveAll ?_ (fun u k hu => ?_)
    | refine Frame.takeFrame ?_ _ _ _ _ _ (fun u f hu => ?_) ?_
    | with_reducible apply Frame.writePort
    | with_reducible apply Frame.issueDma
    | refine Frame.ofFst (by assumption) ?_
    | dsimp only
    | split

theorem Frame.pumpSend (h : Frame l s t) (st : Nat) (fuel : Nat)
    (hl : covers [.dev, .pins, .clocks, .nvm, .card, .mgmt, .power, .cells, .bucket, .stores, .glide, .links, .fabric, .windows, .restore, .relay, .job, .sat, .wrap, .freeIdx, .mem] l = true) : Frame l s (State.pumpSend t st fuel) := by
  induction fuel generalizing t st with
  | zero => exact h
  | succ fuel ih =>
    unfold State.pumpSend
    repeat' first
      | with_reducible apply ih
      | with_reducible assumption
      | exact covers_trans hl rfl
      | with_reducible apply Frame.ite
      | with_reducible apply Frame.withSt
      | with_reducible apply Frame.sendOp
      | dsimp only
      | split

theorem Frame.opDone (h : Frame l s t) (st : Nat) (id : Nat)
    (hl : covers [.dev, .pins, .clocks, .nvm, .card, .mgmt, .power, .cells, .bucket, .stores, .glide, .links, .fabric, .windows, .restore, .relay, .job, .sat, .wrap, .freeIdx, .mem] l = true) : Frame l s (State.opDone t st id) := by
  unfold State.opDone
  repeat' first
    | with_reducible assumption
    | exact covers_trans hl rfl
    | with_reducible apply Frame.ite
    | with_reducible apply Frame.withSt
    | with_reducible apply Frame.complete
    | dsimp only
    | split

theorem Frame.cpRemote (h : Frame l s t) (st : Nat) (cf : Common) (i : Nat) (rank : RankOp) (window : Nat) (slot : Nat) (count : Nat) (path : ReadPath)
    (hl : covers [.dev, .pins, .clocks, .nvm, .card, .mgmt, .power, .cells, .bucket, .stores, .glide, .links, .fabric, .windows, .restore, .relay, .job, .sat, .wrap, .freeIdx, .mem] l = true) : Frame l s (State.cpRemote t st cf i rank window slot count path) := by
  unfold State.cpRemote
  repeat' first
    | with_reducible assumption
    | exact covers_trans hl rfl
    | with_reducible apply Frame.ite
    | with_reducible apply Frame.iteFst
    | with_reducible apply Frame.courseError
    | refine Frame.moveAll ?_ (fun u k hu => ?_)
    | refine Frame.takeFrame ?_ _ _ _ _ _ (fun u f hu => ?_) ?_
    | with_reducible apply Frame.withSt
    | with_reducible apply Frame.issue
    | with_reducible apply Frame.pumpSend
    | with_reducible apply Frame.noteWait
    | refine Frame.ofFst (by assumption) ?_
    | dsimp only
    | split

theorem Frame.withList (h : Frame l s t) (id : Nat) (f : OpList → OpList)
    (hl : covers [.fabric] l = true) : Frame l s (State.withList t id f) := by
  unfold State.withList
  repeat' first
    | with_reducible assumption
    | exact covers_trans hl rfl
    | with_reducible apply Frame.ite
    | with_reducible apply Frame.withFabric
    | dsimp only
    | split

theorem Frame.closeList (h : Frame l s t) (id : Nat)
    (hl : covers [.dev, .pins, .clocks, .nvm, .card, .mgmt, .power, .cells, .bucket, .stores, .glide, .links, .fabric, .windows, .restore, .relay, .job, .sat, .wrap, .freeIdx, .mem] l = true) : Frame l s (State.closeList t id) := by
  unfold State.closeList
  repeat' first
    | with_reducible assumption
    | exact covers_trans hl rfl
    | with_reducible apply Frame.ite
    | with_reducible apply Frame.writeFrame
    | with_reducible apply Frame.withFabric
    | with_reducible apply Frame.opDone
    | dsimp only
    | split

theorem Frame.pumpLists (h : Frame l s t) (st : Nat) (fuel : Nat)
    (hl : covers [.dev, .pins, .clocks, .nvm, .card, .mgmt, .power, .cells, .bucket, .stores, .glide, .links, .fabric, .windows, .restore, .relay, .job, .sat, .wrap, .freeIdx, .mem] l = true) : Frame l s (State.pumpLists t st fuel) := by
  induction fuel generalizing t st with
  | zero => exact h
  | succ fuel ih =>
    unfold State.pumpLists
    repeat' first
      | with_reducible apply ih
      | with_reducible assumption
      | exact covers_trans hl rfl
      | with_reducible apply Frame.ite
      | with_reducible apply Frame.courseError
      | with_reducible apply Frame.withList
      | with_reducible apply Frame.closeList
      | with_reducible apply Frame.send
      | with_reducible apply Frame.withFabric
      | with_reducible apply Frame.wrapBy
      | with_reducible apply Frame.sendOp
      | dsimp only
      | split

theorem Frame.pumpStation (h : Frame l s t) (st : Nat)
    (hl : covers [.dev, .pins, .clocks, .nvm, .card, .mgmt, .power, .cells, .bucket, .stores, .glide, .links, .fabric, .windows, .restore, .relay, .job, .sat, .wrap, .freeIdx, .mem] l = true) : Frame l s (State.pumpStation t st) := by
  unfold State.pumpStation
  repeat' first
    | with_reducible assumption
    | exact covers_trans hl rfl
    | with_reducible apply Frame.ite
    | with_reducible apply Frame.pumpLocal
    | with_reducible apply Frame.pumpSend
    | with_reducible apply Frame.pumpLists
    | with_reducible apply Frame.noteWait
    | dsimp only
    | split

theorem Frame.pumpAll (h : Frame l s t) 
    (hl : covers [.dev, .pins, .clocks, .nvm, .card, .mgmt, .power, .cells, .bucket, .stores, .glide, .links, .fabric, .windows, .restore, .relay, .job, .sat, .wrap, .freeIdx, .mem] l = true) : Frame l s (State.pumpAll t) := by
  unfold State.pumpAll
  repeat' first
    | with_reducible assumption
    | exact covers_trans hl rfl
    | with_reducible apply Frame.ite
    | with_reducible apply Frame.pumpStation
    | refine Frame.foldl ?_ (fun u a hu => ?_)
    | dsimp only
    | split

theorem Frame.opLists (h : Frame l s t) (st : Nat) (cf : Common) (o : Nat) (count : Nat) (path : ReadPath)
    (hl : covers [.dev, .pins, .clocks, .nvm, .card, .mgmt, .power, .cells, .bucket, .stores, .glide, .links, .fabric, .windows, .restore, .relay, .job, .sat, .wrap, .freeIdx, .mem] l = true) : Frame l s (State.opLists t st cf o count path) := by
  unfold State.opLists
  repeat' first
    | with_reducible assumption
    | exact covers_trans hl rfl
    | with_reducible apply Frame.ite
    | with_reducible apply Frame.iteFst
    | refine Frame.moveAll ?_ (fun u k hu => ?_)
    | with_reducible apply Frame.readPort
    | with_reducible apply Frame.awaitReread
    | with_reducible apply Frame.courseError
    | with_reducible apply Frame.withFabric
    | with_reducible apply Frame.issue
    | with_reducible apply Frame.pumpLists
    | with_reducible apply Frame.noteWait
    | refine Frame.ofFst (by assumption) ?_
    | dsimp only
    | split

theorem Frame.endFlight (h : Frame l s t) (f : FlightOp)
    (hl : covers [.fabric] l = true) : Frame l s (State.endFlight t f) := by
  unfold State.endFlight
  repeat' first
    | with_reducible assumption
    | exact covers_trans hl rfl
    | with_reducible apply Frame.ite
    | with_reducible apply Frame.withFabric
    | dsimp only
    | split

end Sys2Proof.Machine
end

