-- ==== Sys2Proof/Laws/FrameUpdate.lean ====
section
/-!
SUPPORT. Which parts of the state the operations of Machine/Update.lean may change.
-/
namespace Sys2Proof.Machine

-- Proofs are checked one after another: many at once take more threads than the check allows.
set_option Elab.async false

variable {l : List StatePart} {s t : State}

theorem Frame.withUpd (h : Frame l s t) (st : Nat) (id : Nat) (f : UpdCmd → UpdCmd)
    (hl : covers [.cells] l = true) : Frame l s (State.withUpd t st id f) := by
  unfold State.withUpd
  repeat' first
    | with_reducible assumption
    | exact covers_trans hl rfl
    | with_reducible apply Frame.ite
    | with_reducible apply Frame.withSt
    | dsimp only
    | split

theorem Frame.readSlot (h : Frame l s t) (st : Nat) (a : Nat) (path : ReadPath)
    (hl : covers [.dev, .nvm, .card, .mgmt, .cells, .bucket, .stores, .sat, .wrap] l = true) : Frame l s (State.readSlot t st a path).state := by
  unfold State.readSlot
  repeat' first
    | with_reducible assumption
    | exact covers_trans hl rfl
    | with_reducible apply Frame.ite
    | with_reducible apply Frame.readHere
    | with_reducible apply Frame.frameOf
    | dsimp only
    | split

theorem Frame.readSlots (h : Frame l s t) (st : Nat) (f : Nat) (c : UpdCmd) (l' : List Slot) (path : ReadPath) (acc : List (List Byte))
    (hl : covers [.dev, .nvm, .card, .mgmt, .cells, .bucket, .stores, .sat, .wrap] l = true) : Frame l s (State.readSlots t st f c l' path acc).1 := by
  induction l' generalizing t path acc with
  | nil => exact h
  | cons x r ih =>
    have k := Frame.readSlot h st (t.frameAddr x.src f) path (covers_trans hl rfl)
    unfold State.readSlots
    dsimp only
    split
    · exact k
    · exact ih (Frame.ite (Frame.withUpd (Frame.tileTransient k _ _ (covers_trans hl rfl)) _ _ _ (covers_trans hl rfl)) k) _ _

theorem Frame.updFrame (h : Frame l s t) (engine : Nat) (st : Nat) (f : Nat) (path : ReadPath) (c : UpdCmd)
    (hl : covers [.dev, .pins, .clocks, .nvm, .card, .mgmt, .power, .cells, .bucket, .stores, .glide, .links, .fabric, .windows, .restore, .relay, .job, .sat, .wrap, .freeIdx, .mem] l = true) : Frame l s (State.updFrame t engine st f path c) := by
  unfold State.updFrame
  repeat' first
    | with_reducible assumption
    | exact covers_trans hl rfl
    | with_reducible apply Frame.ite
    | with_reducible apply Frame.readSlots
    | with_reducible apply Frame.withSt
    | with_reducible apply Frame.tileFault
    | with_reducible apply Frame.withUpd
    | with_reducible apply Frame.courseError
    | with_reducible apply Frame.writeMem
    | with_reducible apply Frame.cacheDrop
    | with_reducible apply Frame.wrapBy
    | refine Frame.foldl ?_ (fun u a hu => ?_)
    | refine Frame.ofFst (by assumption) ?_
    | dsimp only
    | split

end Sys2Proof.Machine
end

