-- ==== Sys2Proof/Laws/FramePlacer.lean ====
section
/-!
SUPPORT. Which parts of the state the operations of Machine/Placer.lean may change.
-/
namespace Sys2Proof.Machine

-- Proofs are checked one after another: many at once take more threads than the check allows.
set_option Elab.async false

variable {l : List StatePart} {s t : State}

theorem Frame.sendPlacement (h : Frame l s t) (event : Nat) (status : Nat) (entries : List (List Byte))
    (hl : covers [.mgmt, .links, .fabric, .sat, .wrap] l = true) : Frame l s (State.sendPlacement t event status entries) := by
  unfold State.sendPlacement
  repeat' first
    | with_reducible assumption
    | exact covers_trans hl rfl
    | with_reducible apply Frame.ite
    | with_reducible apply Frame.report
    | dsimp only
    | split

end Sys2Proof.Machine
end

