-- ==== Sys2Proof/Laws/FrameRelay.lean ====
section
/-!
SUPPORT. Which parts of the state the operations of Machine/Relay.lean may change.
-/
namespace Sys2Proof.Machine

-- Proofs are checked one after another: many at once take more threads than the check allows.
set_option Elab.async false

variable {l : List StatePart} {s t : State}

theorem Frame.markSlots (h : Frame l s t) (g : Nat) (minus : Bool)
    (hl : covers [.relay] l = true) : Frame l s (State.markSlots t g minus) := by
  unfold State.markSlots
  repeat' first
    | with_reducible assumption
    | exact covers_trans hl rfl
    | with_reducible apply Frame.ite
    | with_reducible apply Frame.withRelay
    | dsimp only
    | split

theorem Frame.withColl (h : Frame l s t) (g : Nat) (f : Coll → Coll)
    (hl : covers [.relay] l = true) : Frame l s (State.withColl t g f) := by
  unfold State.withColl
  repeat' first
    | with_reducible assumption
    | exact covers_trans hl rfl
    | with_reducible apply Frame.ite
    | with_reducible apply Frame.withRelay
    | dsimp only
    | split

theorem Frame.sendRing (h : Frame l s t) (g : Nat) (minus : Bool)
    (hl : covers [.dev, .pins, .clocks, .nvm, .card, .mgmt, .power, .cells, .bucket, .stores, .glide, .links, .fabric, .windows, .restore, .relay, .job, .sat, .wrap, .freeIdx, .mem] l = true) : Frame l s (State.sendRing t g minus).1 := by
  unfold State.sendRing
  repeat' first
    | with_reducible assumption
    | exact covers_trans hl rfl
    | with_reducible apply Frame.ite
    | with_reducible apply Frame.iteFst
    | with_reducible apply Frame.sendOp
    | with_reducible apply Frame.take
    | with_reducible apply Frame.withRelay
    | with_reducible apply Frame.withColl
    | with_reducible apply Frame.wrapBy
    | with_reducible apply Frame.markSlots
    | refine Frame.ofFst (by assumption) ?_
    | dsimp only
    | split

theorem Frame.relayFault (h : Frame l s t) (g : Nat) (x : Staged) (f : List Byte)
    (hl : covers [.dev, .pins, .clocks, .nvm, .card, .mgmt, .power, .cells, .bucket, .stores, .glide, .links, .fabric, .windows, .restore, .relay, .job, .sat, .wrap, .freeIdx, .mem] l = true) : Frame l s (State.relayFault t g x f) := by
  unfold State.relayFault
  repeat' first
    | with_reducible assumption
    | exact covers_trans hl rfl
    | with_reducible apply Frame.ite
    | with_reducible apply Frame.withColl
    | with_reducible apply Frame.withSt
    | with_reducible apply Frame.tileFault
    | dsimp only
    | split

theorem Frame.consume (h : Frame l s t) (x : Staged)
    (hl : covers [.dev, .pins, .clocks, .nvm, .card, .mgmt, .power, .cells, .bucket, .stores, .glide, .links, .fabric, .windows, .restore, .relay, .job, .sat, .wrap, .freeIdx, .mem] l = true) : Frame l s (State.consume t x) := by
  unfold State.consume
  repeat' first
    | with_reducible assumption
    | exact covers_trans hl rfl
    | with_reducible apply Frame.ite
    | with_reducible apply Frame.withRelay
    | with_reducible apply Frame.inject
    | dsimp only
    | split

theorem Frame.combinerCheck (h : Frame l s t) (g : Nat) (c : Coll) (stage : Nat) (frame : Nat) (fails : Nat) (p : List Byte) (q : List Byte)
    (hl : covers [.dev, .pins, .clocks, .nvm, .card, .mgmt, .power, .cells, .bucket, .stores, .glide, .links, .fabric, .windows, .restore, .relay, .job, .sat, .wrap, .freeIdx, .mem] l = true) : Frame l s (State.combinerCheck t g c stage frame fails p q).1 := by
  unfold State.combinerCheck
  repeat' first
    | with_reducible assumption
    | exact covers_trans hl rfl
    | with_reducible apply Frame.ite
    | with_reducible apply Frame.iteFst
    | with_reducible apply Frame.bump
    | with_reducible apply Frame.record
    | with_reducible apply Frame.addPoints
    | with_reducible apply Frame.satBy
    | with_reducible apply Frame.keepPattern
    | with_reducible apply Frame.withColl
    | with_reducible apply Frame.orderDrain
    | refine Frame.ofFst (by assumption) ?_
    | dsimp only
    | split

theorem Frame.recvRing (h : Frame l s t) (g : Nat) (minus : Bool) (fails : RelayChecks)
    (hl : covers [.dev, .pins, .clocks, .nvm, .card, .mgmt, .power, .cells, .bucket, .stores, .glide, .links, .fabric, .windows, .restore, .relay, .job, .sat, .wrap, .freeIdx, .mem] l = true) : Frame l s (State.recvRing t g minus fails).1 := by
  unfold State.recvRing
  repeat' first
    | with_reducible assumption
    | exact covers_trans hl rfl
    | with_reducible apply Frame.ite
    | with_reducible apply Frame.iteFst
    | with_reducible apply Frame.take
    | with_reducible apply Frame.bump
    | with_reducible apply Frame.relayFault
    | with_reducible apply Frame.tileTransient
    | with_reducible apply Frame.withRelay
    | with_reducible apply Frame.withColl
    | with_reducible apply Frame.wrapBy
    | with_reducible apply Frame.consume
    | with_reducible apply Frame.combinerCheck
    | with_reducible apply Frame.courseError
    | refine Frame.ofFst (by assumption) ?_
    | dsimp only
    | split

theorem Frame.finishColl (h : Frame l s t) (g : Nat) (c : Coll)
    (hl : covers [.dev, .nvm, .card, .mgmt, .cells, .bucket, .stores, .fabric, .relay, .sat, .wrap, .mem] l = true) : Frame l s (State.finishColl t g c) := by
  unfold State.finishColl
  repeat' first
    | with_reducible assumption
    | exact covers_trans hl rfl
    | with_reducible apply Frame.ite
    | with_reducible apply Frame.writePort
    | with_reducible apply Frame.withColl
    | refine Frame.foldl ?_ (fun u a hu => ?_)
    | dsimp only
    | split

theorem Frame.nextStage (h : Frame l s t) (g : Nat)
    (hl : covers [.dev, .nvm, .card, .mgmt, .cells, .bucket, .stores, .fabric, .relay, .sat, .wrap, .mem] l = true) : Frame l s (State.nextStage t g).1 := by
  unfold State.nextStage
  repeat' first
    | with_reducible assumption
    | exact covers_trans hl rfl
    | with_reducible apply Frame.ite
    | with_reducible apply Frame.iteFst
    | with_reducible apply Frame.withColl
    | with_reducible apply Frame.finishColl
    | refine Frame.foldl ?_ (fun u a hu => ?_)
    | refine Frame.ofFst (by assumption) ?_
    | dsimp only
    | split

theorem Frame.pumpColl (h : Frame l s t) (g : Nat) (fails : RelayChecks) (fuel : Nat)
    (hl : covers [.dev, .pins, .clocks, .nvm, .card, .mgmt, .power, .cells, .bucket, .stores, .glide, .links, .fabric, .windows, .restore, .relay, .job, .sat, .wrap, .freeIdx, .mem] l = true) : Frame l s (State.pumpColl t g fails fuel) := by
  induction fuel generalizing t g fails with
  | zero => exact h
  | succ fuel ih =>
    unfold State.pumpColl
    repeat' first
      | with_reducible apply ih
      | with_reducible assumption
      | exact covers_trans hl rfl
      | with_reducible apply Frame.ite
      | with_reducible apply Frame.recvRing
      | with_reducible apply Frame.sendRing
      | with_reducible apply Frame.nextStage
      | refine Frame.ofFst (by assumption) ?_
      | dsimp only
      | split

theorem Frame.pumpGroup (h : Frame l s t) (g : Nat) (fails : RelayChecks)
    (hl : covers [.dev, .pins, .clocks, .nvm, .card, .mgmt, .power, .cells, .bucket, .stores, .glide, .links, .fabric, .windows, .restore, .relay, .job, .sat, .wrap, .freeIdx, .mem] l = true) : Frame l s (State.pumpGroup t g fails) := by
  unfold State.pumpGroup
  repeat' first
    | with_reducible assumption
    | exact covers_trans hl rfl
    | with_reducible apply Frame.ite
    | with_reducible apply Frame.pumpColl
    | dsimp only
    | split

theorem Frame.collInputs (h : Frame l s t) (st : Nat) (i : Nat) (n : Nat) (path : ReadPath) (ins : Instr) (ok : List Byte → Bool)
    (hl : covers [.dev, .pins, .clocks, .nvm, .card, .mgmt, .power, .cells, .bucket, .stores, .glide, .links, .fabric, .windows, .restore, .relay, .job, .sat, .wrap, .freeIdx, .mem] l = true) : Frame l s (State.collInputs t st i n path ins ok).1 := by
  refine Frame.foldlFst h fun u b k hu => ?_
  cases b with
  | none => exact hu
  | some x =>
    have kr := Frame.readPort hu st i ((t.st st).inPos i + k) (path.shift k) (covers_trans hl rfl)
    dsimp only
    split
    · exact Frame.awaitReread kr _ _ (covers_trans hl rfl)
    · exact Frame.iteFst (Frame.courseError kr _ _ (covers_trans hl rfl))
        (Frame.iteFst (Frame.courseError kr _ _ (covers_trans hl rfl)) kr)

theorem Frame.startColl (h : Frame l s t) (g : Nat) (c : Coll) (cf : Common) (adv : List Advance)
    (hl : covers [.dev, .pins, .clocks, .nvm, .card, .mgmt, .power, .cells, .bucket, .stores, .glide, .links, .fabric, .windows, .restore, .relay, .job, .sat, .wrap, .freeIdx, .mem] l = true) : Frame l s (State.startColl t g c cf adv) := by
  unfold State.startColl
  repeat' first
    | with_reducible assumption
    | exact covers_trans hl rfl
    | with_reducible apply Frame.ite
    | with_reducible apply Frame.issue
    | with_reducible apply Frame.withSt
    | with_reducible apply Frame.withRelay
    | with_reducible apply Frame.pumpGroup
    | dsimp only
    | split

theorem Frame.colWork (h : Frame l s t) (kind : CollKind) (st : Nat) (cf : Common) (i : Nat) (o : Nat) (count : Nat) (path : ReadPath) (ins : Instr)
    (hl : covers [.dev, .pins, .clocks, .nvm, .card, .mgmt, .power, .cells, .bucket, .stores, .glide, .links, .fabric, .windows, .restore, .relay, .job, .sat, .wrap, .freeIdx, .mem] l = true) : Frame l s (State.colWork t kind st cf i o count path ins) := by
  unfold State.colWork
  repeat' first
    | with_reducible assumption
    | exact covers_trans hl rfl
    | with_reducible apply Frame.ite
    | with_reducible apply Frame.courseError
    | with_reducible apply Frame.collInputs
    | with_reducible apply Frame.startColl
    | refine Frame.ofFst (by assumption) ?_
    | dsimp only
    | split

theorem Frame.colRs (h : Frame l s t) (st : Nat) (cf : Common) (i : Nat) (o : Nat) (count : Nat) (path : ReadPath)
    (hl : covers [.dev, .pins, .clocks, .nvm, .card, .mgmt, .power, .cells, .bucket, .stores, .glide, .links, .fabric, .windows, .restore, .relay, .job, .sat, .wrap, .freeIdx, .mem] l = true) : Frame l s (State.colRs t st cf i o count path) := by
  unfold State.colRs
  repeat' first
    | with_reducible assumption
    | exact covers_trans hl rfl
    | with_reducible apply Frame.ite
    | with_reducible apply Frame.colWork
    | dsimp only
    | split

theorem Frame.colAg (h : Frame l s t) (st : Nat) (cf : Common) (i : Nat) (o : Nat) (count : Nat) (path : ReadPath)
    (hl : covers [.dev, .pins, .clocks, .nvm, .card, .mgmt, .power, .cells, .bucket, .stores, .glide, .links, .fabric, .windows, .restore, .relay, .job, .sat, .wrap, .freeIdx, .mem] l = true) : Frame l s (State.colAg t st cf i o count path) := by
  unfold State.colAg
  repeat' first
    | with_reducible assumption
    | exact covers_trans hl rfl
    | with_reducible apply Frame.ite
    | with_reducible apply Frame.colWork
    | dsimp only
    | split

theorem Frame.digestOf (h : Frame l s t) (st : Nat) (obj : Nat)
    (hl : covers [.dev, .nvm, .card, .mgmt, .cells, .bucket, .stores, .fabric, .sat, .wrap] l = true) : Frame l s (State.digestOf t st obj).1 := by
  exact Frame.foldlFst
    (f := fun (p : State × List (List Byte)) f =>
      ((p.1.readMem (p.1.dieOf st) (p.1.unitOf st) (p.1.frameAddr obj f) 32).1,
        p.2 ++ [(p.1.readMem (p.1.dieOf st) (p.1.unitOf st) (p.1.frameAddr obj f) 32).2.bytes]))
    h fun u b f hu => Frame.readMem hu _ _ _ _ (covers_trans hl rfl)

theorem Frame.sendTally (h : Frame l s t) (g : Nat) (c : Coll) (a : Nat) (step : Nat) (bytes : List Byte)
    (hl : covers [.dev, .pins, .clocks, .nvm, .card, .mgmt, .power, .cells, .bucket, .stores, .glide, .links, .fabric, .windows, .restore, .relay, .job, .sat, .wrap, .freeIdx, .mem] l = true) : Frame l s (State.sendTally t g c a step bytes) := by
  unfold State.sendTally
  repeat' first
    | with_reducible assumption
    | exact covers_trans hl rfl
    | with_reducible apply Frame.ite
    | with_reducible apply Frame.sendOp
    | refine Frame.ofFst (by assumption) ?_
    | dsimp only
    | split

theorem Frame.pumpTally (h : Frame l s t) (g : Nat) (fuel : Nat)
    (hl : covers [.dev, .pins, .clocks, .nvm, .card, .mgmt, .power, .cells, .bucket, .stores, .glide, .links, .fabric, .windows, .restore, .relay, .job, .sat, .wrap, .freeIdx, .mem] l = true) : Frame l s (State.pumpTally t g fuel) := by
  induction fuel generalizing t g with
  | zero => exact h
  | succ fuel ih =>
    unfold State.pumpTally
    repeat' first
      | with_reducible apply ih
      | with_reducible assumption
      | exact covers_trans hl rfl
      | with_reducible apply Frame.ite
      | with_reducible apply Frame.withColl
      | with_reducible apply Frame.sendTally
      | with_reducible apply Frame.withRelay
      | refine Frame.ofFst (by assumption) ?_
      | dsimp only
      | split

theorem Frame.colDigest (h : Frame l s t) (st : Nat) (cf : Common) (obj : Nat)
    (hl : covers [.dev, .pins, .clocks, .nvm, .card, .mgmt, .power, .cells, .bucket, .stores, .glide, .links, .fabric, .windows, .restore, .relay, .job, .sat, .wrap, .freeIdx, .mem] l = true) : Frame l s (State.colDigest t st cf obj) := by
  unfold State.colDigest
  repeat' first
    | with_reducible assumption
    | exact covers_trans hl rfl
    | with_reducible apply Frame.ite
    | with_reducible apply Frame.noteWait
    | with_reducible apply Frame.digestOf
    | with_reducible apply Frame.startColl
    | with_reducible apply Frame.sendTally
    | with_reducible apply Frame.pumpTally
    | refine Frame.ofFst (by assumption) ?_
    | dsimp only
    | split

theorem Frame.pumpRings (h : Frame l s t) 
    (hl : covers [.dev, .pins, .clocks, .nvm, .card, .mgmt, .power, .cells, .bucket, .stores, .glide, .links, .fabric, .windows, .restore, .relay, .job, .sat, .wrap, .freeIdx, .mem] l = true) : Frame l s (State.pumpRings t) := by
  unfold State.pumpRings
  repeat' first
    | with_reducible assumption
    | exact covers_trans hl rfl
    | with_reducible apply Frame.ite
    | with_reducible apply Frame.pumpTally
    | with_reducible apply Frame.pumpGroup
    | refine Frame.foldl ?_ (fun u a hu => ?_)
    | dsimp only
    | split

theorem Frame.opEnded (h : Frame l s t) (before : State)
    (hl : covers [.dev, .pins, .clocks, .nvm, .card, .mgmt, .power, .cells, .bucket, .stores, .glide, .links, .fabric, .windows, .restore, .relay, .job, .sat, .wrap, .freeIdx, .mem] l = true) : Frame l s (State.opEnded t before) := by
  unfold State.opEnded
  repeat' first
    | with_reducible assumption
    | exact covers_trans hl rfl
    | with_reducible apply Frame.ite
    | with_reducible apply Frame.pumpAll
    | with_reducible apply Frame.pumpRings
    | dsimp only
    | split

theorem Frame.lagReport (h : Frame l s t) (g : Nat) (c : Coll)
    (hl : covers [.card, .mgmt, .links, .fabric, .relay, .sat, .wrap] l = true) : Frame l s (State.lagReport t g c) := by
  unfold State.lagReport
  repeat' first
    | with_reducible assumption
    | exact covers_trans hl rfl
    | with_reducible apply Frame.ite
    | with_reducible apply Frame.withRelay
    | with_reducible apply Frame.bump
    | with_reducible apply Frame.record
    | with_reducible apply Frame.report
    | refine Frame.ofFst (by assumption) ?_
    | dsimp only
    | split

theorem Frame.digestReport (h : Frame l s t) (g : Nat) (c : Coll)
    (hl : covers [.card, .mgmt, .links, .fabric, .relay, .sat, .wrap] l = true) : Frame l s (State.digestReport t g c) := by
  unfold State.digestReport
  repeat' first
    | with_reducible assumption
    | exact covers_trans hl rfl
    | with_reducible apply Frame.ite
    | with_reducible apply Frame.withRelay
    | with_reducible apply Frame.bump
    | with_reducible apply Frame.record
    | with_reducible apply Frame.report
    | refine Frame.foldl ?_ (fun u a hu => ?_)
    | dsimp only
    | split

end Sys2Proof.Machine
end

