-- ==== Sys2Proof/Laws/FrameJobs.lean ====
section
/-!
SUPPORT. Which parts of the state the operations of Machine/Jobs.lean may change.
-/
namespace Sys2Proof.Machine

-- Proofs are checked one after another: many at once take more threads than the check allows.
set_option Elab.async false

variable {l : List StatePart} {s t : State}

theorem Frame.manifest (h : Frame l s t) (m : Msg)
    (hl : covers [.job] l = true) : Frame l s (State.manifest t m).1 := by
  unfold State.manifest
  repeat' first
    | with_reducible assumption
    | exact covers_trans hl rfl
    | with_reducible apply Frame.ite
    | with_reducible apply Frame.iteFst
    | refine Frame.ofFst (by assumption) ?_
    | dsimp only
    | split
    | (with_reducible apply Frame.parts <;> first | exact Or.inr rfl | exact Or.inl (covers_mem hl (by decide)) | skip)

theorem Frame.startJob (h : Frame l s t) (m : Msg)
    (hl : covers [.job] l = true) : Frame l s (State.startJob t m).1 := by
  unfold State.startJob
  repeat' first
    | with_reducible assumption
    | exact covers_trans hl rfl
    | with_reducible apply Frame.ite
    | with_reducible apply Frame.iteFst
    | with_reducible apply Frame.withJob
    | refine Frame.ofFst (by assumption) ?_
    | dsimp only
    | split

theorem Frame.abandonTest (h : Frame l s t) 
    (hl : covers [.card, .mgmt, .test] l = true) : Frame l s (State.abandonTest t) := by
  unfold State.abandonTest
  repeat' first
    | with_reducible assumption
    | exact covers_trans hl rfl
    | with_reducible apply Frame.ite
    | with_reducible apply Frame.withTest
    | with_reducible apply Frame.record
    | dsimp only
    | split

theorem Frame.setLodge (h : Frame l s t) (k : Nat)
    (hl : covers [.stores, .mem] l = true) : Frame l s (State.setLodge t k) := by
  unfold State.setLodge
  repeat' first
    | with_reducible assumption
    | exact covers_trans hl rfl
    | with_reducible apply Frame.ite
    | with_reducible apply Frame.withStoresMem
    | exact rfl
    | dsimp only
    | split

theorem Frame.fillObject (h : Frame l s t) (o : ObjectDesc)
    (hl : covers [.stores, .mem] l = true) : Frame l s (State.fillObject t o) := by
  unfold State.fillObject
  repeat' first
    | with_reducible assumption
    | exact covers_trans hl rfl
    | with_reducible apply Frame.ite
    | with_reducible apply Frame.fillMem
    | refine Frame.foldl ?_ (fun u a hu => ?_)
    | dsimp only
    | split

theorem Frame.fillObjects (h : Frame l s t) (keep : Bool)
    (hl : covers [.stores, .mem] l = true) : Frame l s (State.fillObjects t keep) := by
  unfold State.fillObjects
  repeat' first
    | with_reducible assumption
    | exact covers_trans hl rfl
    | with_reducible apply Frame.ite
    | with_reducible apply Frame.fillObject
    | refine Frame.foldl ?_ (fun u a hu => ?_)
    | dsimp only
    | split

theorem Frame.bindEngines (h : Frame l s t) 
    (hl : covers [.glide] l = true) : Frame l s (State.bindEngines t) := by
  unfold State.bindEngines
  repeat' first
    | with_reducible assumption
    | exact covers_trans hl rfl
    | with_reducible apply Frame.ite
    | with_reducible apply Frame.withEngine
    | refine Frame.foldl ?_ (fun u a hu => ?_)
    | dsimp only
    | split

theorem Frame.leaveStacks (h : Frame l s t) 
    (hl : covers [.stores] l = true) : Frame l s (State.leaveStacks t) := by
  unfold State.leaveStacks
  repeat' first
    | with_reducible assumption
    | exact covers_trans hl rfl
    | with_reducible apply Frame.ite
    | with_reducible apply Frame.withStores
    | exact rfl
    | dsimp only
    | split

theorem Frame.leaveSlices (h : Frame l s t) 
    (hl : covers [.stores] l = true) : Frame l s (State.leaveSlices t) := by
  unfold State.leaveSlices
  repeat' first
    | with_reducible assumption
    | exact covers_trans hl rfl
    | with_reducible apply Frame.ite
    | with_reducible apply Frame.withStores
    | exact rfl
    | dsimp only
    | split

theorem Frame.dropTests (h : Frame l s t) 
    (hl : covers [.cells] l = true) : Frame l s (State.dropTests t) := by
  unfold State.dropTests
  repeat' first
    | with_reducible assumption
    | exact covers_trans hl rfl
    | with_reducible apply Frame.ite
    | with_reducible apply Frame.withCells
    | dsimp only
    | split

theorem Frame.takePlacement (h : Frame l s t) (p : Placement)
    (hl : covers [.job] l = true) : Frame l s (State.takePlacement t p) := by
  unfold State.takePlacement
  repeat' first
    | with_reducible assumption
    | exact covers_trans hl rfl
    | with_reducible apply Frame.ite
    | with_reducible apply Frame.withJob
    | dsimp only
    | split

theorem Frame.openStations (h : Frame l s t) (j : Job)
    (hl : covers [.cells] l = true) : Frame l s (State.openStations t j) := by
  unfold State.openStations
  repeat' first
    | with_reducible assumption
    | exact covers_trans hl rfl
    | with_reducible apply Frame.ite
    | with_reducible apply Frame.withCells
    | dsimp only
    | split

theorem Frame.openWindows (h : Frame l s t) (j : Job)
    (hl : covers [.windows, .restore] l = true) : Frame l s (State.openWindows t j) := by
  unfold State.openWindows
  repeat' first
    | with_reducible assumption
    | exact covers_trans hl rfl
    | with_reducible apply Frame.ite
    | refine Frame.foldl ?_ (fun u a hu => ?_)
    | dsimp only
    | split
    | (with_reducible apply Frame.parts <;> first | exact Or.inr rfl | exact Or.inl (covers_mem hl (by decide)) | skip)

theorem Frame.toRun (h : Frame l s t) 
    (hl : covers [.dev, .mgmt] l = true) : Frame l s (State.toRun t) := by
  unfold State.toRun
  repeat' first
    | with_reducible assumption
    | exact covers_trans hl rfl
    | with_reducible apply Frame.ite
    | with_reducible apply Frame.goto
    | dsimp only
    | split

theorem Frame.becomeMember (h : Frame l s t) 
    (hl : covers [.dev, .mgmt] l = true) : Frame l s (State.becomeMember t) := by
  unfold State.becomeMember
  repeat' first
    | with_reducible assumption
    | exact covers_trans hl rfl
    | with_reducible apply Frame.ite
    | with_reducible apply Frame.toRun
    | with_reducible apply Frame.withDev
    | dsimp only
    | split

theorem Frame.bindJob (h : Frame l s t) (j : Job) (p : Placement)
    (hl : covers [.dev, .mgmt, .cells, .stores, .glide, .windows, .restore, .relay, .job, .mem] l = true) : Frame l s (State.bindJob t j p) := by
  unfold State.bindJob
  repeat' first
    | with_reducible assumption
    | exact covers_trans hl rfl
    | with_reducible apply Frame.ite
    | with_reducible apply Frame.takePlacement
    | with_reducible apply Frame.becomeMember
    | with_reducible apply Frame.openStations
    | with_reducible apply Frame.bindEngines
    | with_reducible apply Frame.fillObjects
    | with_reducible apply Frame.openWindows
    | with_reducible apply Frame.withRelay
    | with_reducible apply Frame.withMgmt
    | dsimp only
    | split

theorem Frame.keepTicket (h : Frame l s t) (n : Nat)
    (hl : covers [.power] l = true) : Frame l s (State.keepTicket t n) := by
  unfold State.keepTicket
  repeat' first
    | with_reducible assumption
    | exact covers_trans hl rfl
    | with_reducible apply Frame.ite
    | with_reducible apply Frame.withPower
    | with_reducible apply Frame.requestCal
    | dsimp only
    | split

theorem Frame.replace (h : Frame l s t) (st : Nat) (f : StationPlace → StationPlace)
    (hl : covers [.job] l = true) : Frame l s (State.replace t st f) := by
  unfold State.replace
  repeat' first
    | with_reducible assumption
    | exact covers_trans hl rfl
    | with_reducible apply Frame.ite
    | with_reducible apply Frame.withJob
    | dsimp only
    | split

theorem Frame.toHost (h : Frame l s t) (st : Nat)
    (hl : covers [.dev, .pins, .clocks, .nvm, .card, .mgmt, .power, .cells, .bucket, .stores, .glide, .links, .fabric, .windows, .restore, .relay, .job, .sat, .wrap, .freeIdx, .mem] l = true) : Frame l s (State.toHost t st) := by
  unfold State.toHost
  repeat' first
    | with_reducible assumption
    | exact covers_trans hl rfl
    | with_reducible apply Frame.ite
    | with_reducible apply Frame.replace
    | with_reducible apply Frame.rerunOnCell
    | dsimp only
    | split

theorem Frame.loadBack (h : Frame l s t) (n : Nat) (st : Nat)
    (hl : covers [.dev, .pins, .clocks, .nvm, .card, .mgmt, .power, .cells, .bucket, .stores, .glide, .links, .fabric, .windows, .restore, .relay, .job, .sat, .wrap, .freeIdx, .mem] l = true) : Frame l s (State.loadBack t n st).1 := by
  unfold State.loadBack
  repeat' first
    | with_reducible assumption
    | exact covers_trans hl rfl
    | with_reducible apply Frame.ite
    | with_reducible apply Frame.iteFst
    | with_reducible apply Frame.glLoad
    | with_reducible apply Frame.readFrames
    | with_reducible apply Frame.withSt
    | with_reducible apply Frame.storeMap
    | refine Frame.ofFst (by assumption) ?_
    | dsimp only
    | split

theorem Frame.returnStation (h : Frame l s t) (ns : List Nat) (st : Nat)
    (hl : covers [.dev, .pins, .clocks, .nvm, .card, .mgmt, .power, .cells, .bucket, .stores, .glide, .links, .fabric, .windows, .restore, .relay, .job, .sat, .wrap, .freeIdx, .mem] l = true) : Frame l s (State.returnStation t ns st).1 := by
  unfold State.returnStation
  repeat' first
    | with_reducible assumption
    | exact covers_trans hl rfl
    | with_reducible apply Frame.ite
    | with_reducible apply Frame.iteFst
    | with_reducible apply Frame.loadBack
    | with_reducible apply Frame.refuseMap
    | with_reducible apply Frame.replace
    | with_reducible apply Frame.withGlide
    | with_reducible apply Frame.withEngine
    | refine Frame.ofFst (by assumption) ?_
    | dsimp only
    | split

theorem Frame.returnTo (h : Frame l s t) (ns : List Nat)
    (hl : covers [.dev, .pins, .clocks, .nvm, .card, .mgmt, .power, .cells, .bucket, .stores, .glide, .links, .fabric, .windows, .restore, .relay, .job, .sat, .wrap, .freeIdx, .mem] l = true) : Frame l s (State.returnTo t ns).1 := by
  unfold State.returnTo
  repeat' first
    | with_reducible assumption
    | exact covers_trans hl rfl
    | with_reducible apply Frame.ite
    | with_reducible apply Frame.iteFst
    | with_reducible apply Frame.returnStation
    | refine Frame.foldl ?_ (fun u a hu => ?_)
    | refine Frame.foldlFst ?_ (fun u b a hu => ?_)
    | refine Frame.ofFst (by assumption) ?_
    | dsimp only
    | split

theorem Frame.setTest (h : Frame l s t) (p : Nat) (from_ : RotPhase) (to_ : RotPhase)
    (hl : covers [.cells] l = true) : Frame l s (State.setTest t p from_ to_) := by
  unfold State.setTest
  repeat' first
    | with_reducible assumption
    | exact covers_trans hl rfl
    | with_reducible apply Frame.ite
    | with_reducible apply Frame.withCluster
    | dsimp only
    | split

theorem Frame.verdict (h : Frame l s t) (result : Nat) (first : Nat) (second : Option Nat) (jidx : BitVec 32)
    (hl : covers [.card, .mgmt, .cells] l = true) : Frame l s (State.verdict t result first second jidx) := by
  unfold State.verdict
  repeat' first
    | with_reducible assumption
    | exact covers_trans hl rfl
    | with_reducible apply Frame.ite
    | with_reducible apply Frame.withCells
    | with_reducible apply Frame.record
    | dsimp only
    | split

end Sys2Proof.Machine
end

