-- ==== Sys2Proof/Laws/FrameRotation.lean ====
section
/-!
SUPPORT. Which parts of the state the operations of Machine/Rotation.lean may change.
-/
namespace Sys2Proof.Machine

-- Proofs are checked one after another: many at once take more threads than the check allows.
set_option Elab.async false

variable {l : List StatePart} {s t : State}

theorem Frame.beginRotation (h : Frame l s t) (cluster : Nat)
    (hl : covers [.cells] l = true) : Frame l s (State.beginRotation t cluster) := by
  unfold State.beginRotation
  repeat' first
    | with_reducible assumption
    | exact covers_trans hl rfl
    | with_reducible apply Frame.ite
    | with_reducible apply Frame.withCells
    | with_reducible apply Frame.withCluster
    | dsimp only
    | split

theorem Frame.returnAll (h : Frame l s t) 
    (hl : covers [.dev, .pins, .clocks, .nvm, .card, .mgmt, .power, .cells, .bucket, .stores, .glide, .links, .fabric, .windows, .restore, .relay, .job, .sat, .wrap, .freeIdx, .mem] l = true) : Frame l s (State.returnAll t).1 := by
  unfold State.returnAll
  repeat' first
    | with_reducible assumption
    | exact covers_trans hl rfl
    | with_reducible apply Frame.ite
    | with_reducible apply Frame.iteFst
    | with_reducible apply Frame.returnTo
    | dsimp only
    | split

theorem Frame.reportRotation (h : Frame l s t) 
    (hl : covers [.dev, .pins, .clocks, .nvm, .card, .mgmt, .power, .cells, .bucket, .stores, .glide, .links, .fabric, .windows, .restore, .relay, .job, .sat, .wrap, .freeIdx, .mem] l = true) : Frame l s (State.reportRotation t) := by
  unfold State.reportRotation
  repeat' first
    | with_reducible assumption
    | exact covers_trans hl rfl
    | with_reducible apply Frame.ite
    | with_reducible apply Frame.returnAll
    | with_reducible apply Frame.sendPlacement
    | refine Frame.ofFst (by assumption) ?_
    | dsimp only
    | split

theorem Frame.copyCell (h : Frame l s t) (cell : Nat)
    (hl : covers [.dev, .nvm, .card, .mgmt, .cells, .bucket, .stores, .sat, .mem] l = true) : Frame l s (State.copyCell t cell) := by
  unfold State.copyCell
  repeat' first
    | with_reducible assumption
    | exact covers_trans hl rfl
    | with_reducible apply Frame.ite
    | with_reducible apply Frame.granEvents
    | with_reducible apply Frame.withStoresMem
    | exact rfl
    | dsimp only
    | split

theorem Frame.selfTestFail (h : Frame l s t) (source : Nat) (f : SelfTestFail)
    (hl : covers [.nvm, .card, .mgmt, .test, .sat] l = true) : Frame l s (State.selfTestFail t source f) := by
  unfold State.selfTestFail
  repeat' first
    | with_reducible assumption
    | exact covers_trans hl rfl
    | with_reducible apply Frame.ite
    | with_reducible apply Frame.withTest
    | with_reducible apply Frame.bump
    | with_reducible apply Frame.record
    | with_reducible apply Frame.addSpare
    | dsimp only
    | split

theorem Frame.cellFaulty (h : Frame l s t) (p : Nat) (source : Nat)
    (hl : covers [.nvm, .cells] l = true) : Frame l s (State.cellFaulty t p source) := by
  unfold State.cellFaulty
  repeat' first
    | with_reducible assumption
    | exact covers_trans hl rfl
    | with_reducible apply Frame.ite
    | with_reducible apply Frame.withPCell
    | with_reducible apply Frame.addSpare
    | with_reducible apply Frame.withCluster
    | dsimp only
    | split

theorem Frame.slotTested (h : Frame l s t) (p : Nat)
    (hl : covers [.cells] l = true) : Frame l s (State.slotTested t p) := by
  unfold State.slotTested
  repeat' first
    | with_reducible assumption
    | exact covers_trans hl rfl
    | with_reducible apply Frame.ite
    | with_reducible apply Frame.withCells
    | dsimp only
    | split

theorem Frame.testResult (h : Frame l s t) (p : Nat) (passed : Bool) (what : Nat)
    (hl : covers [.card, .mgmt] l = true) : Frame l s (State.testResult t p passed what) := by
  unfold State.testResult
  repeat' first
    | with_reducible assumption
    | exact covers_trans hl rfl
    | with_reducible apply Frame.ite
    | with_reducible apply Frame.record
    | dsimp only
    | split

end Sys2Proof.Machine
end

