-- ==== Sys2Proof/Laws/FrameControllers.lean ====
section
/-!
SUPPORT. Which parts of the state the operations of Machine/Controllers.lean may change.
-/
namespace Sys2Proof.Machine

-- Proofs are checked one after another: many at once take more threads than the check allows.
set_option Elab.async false

variable {l : List StatePart} {s t : State}

theorem Frame.withChannel (h : Frame l s t) (m : Nat) (pc : Nat) (f : PseudoChannel → PseudoChannel)
    (hl : covers [.stores] l = true) : Frame l s (State.withChannel t m pc f) := by
  unfold State.withChannel
  repeat' first
    | with_reducible assumption
    | exact covers_trans hl rfl
    | with_reducible apply Frame.ite
    | with_reducible apply Frame.withStack
    | dsimp only
    | split

theorem Frame.takeEffect (h : Frame l s t) (e : QReq)
    (hl : covers [.card, .mgmt, .stores, .sat, .mem] l = true) : Frame l s (State.takeEffect t e) := by
  unfold State.takeEffect
  repeat' first
    | with_reducible assumption
    | exact covers_trans hl rfl
    | with_reducible apply Frame.ite
    | with_reducible apply Frame.storeBytes
    | with_reducible apply Frame.cacheDrop
    | dsimp only
    | split

theorem Frame.acceptPart (h : Frame l s t) (r : MemReq)
    (hl : covers [.card, .mgmt, .power, .stores, .sat, .wrap, .mem] l = true) : Frame l s (State.acceptPart t r) := by
  unfold State.acceptPart
  repeat' first
    | with_reducible assumption
    | exact covers_trans hl rfl
    | with_reducible apply Frame.ite
    | with_reducible apply Frame.withStack
    | with_reducible apply Frame.withChannel
    | with_reducible apply Frame.countNarrow
    | with_reducible apply Frame.takeEffect
    | with_reducible apply Frame.burstRequest
    | dsimp only
    | split

theorem Frame.toControllers (h : Frame l s t) (r : MemReq)
    (hl : covers [.card, .mgmt, .power, .stores, .sat, .wrap, .mem] l = true) : Frame l s (State.toControllers t r) := by
  unfold State.toControllers
  repeat' first
    | with_reducible assumption
    | exact covers_trans hl rfl
    | with_reducible apply Frame.ite
    | with_reducible apply Frame.acceptPart
    | with_reducible apply Frame.badAccess
    | with_reducible apply Frame.withStores
    | refine Frame.foldl ?_ (fun u a hu => ?_)
    | exact rfl
    | dsimp only
    | split

theorem Frame.reply (h : Frame l s t) (r : MemReq) (m : MemRead)
    (hl : covers [.stores] l = true) : Frame l s (State.reply t r m) := by
  unfold State.reply
  repeat' first
    | with_reducible assumption
    | exact covers_trans hl rfl
    | with_reducible apply Frame.ite
    | with_reducible apply Frame.withStores
    | exact rfl
    | dsimp only
    | split

theorem Frame.serve (h : Frame l s t) (e : QReq)
    (hl : covers [.dev, .nvm, .card, .mgmt, .cells, .bucket, .stores, .sat, .wrap] l = true) : Frame l s (State.serve t e) := by
  unfold State.serve
  repeat' first
    | with_reducible assumption
    | exact covers_trans hl rfl
    | with_reducible apply Frame.ite
    | with_reducible apply Frame.granEvents
    | with_reducible apply Frame.withStores
    | with_reducible apply Frame.countBytes
    | with_reducible apply Frame.reply
    | exact rfl
    | dsimp only
    | split

theorem Frame.serveSlice (h : Frame l s t) (r : MemReq)
    (hl : covers [.dev, .nvm, .card, .mgmt, .cells, .bucket, .stores, .fabric, .sat, .wrap, .mem] l = true) : Frame l s (State.serveSlice t r) := by
  unfold State.serveSlice
  repeat' first
    | with_reducible assumption
    | exact covers_trans hl rfl
    | with_reducible apply Frame.ite
    | with_reducible apply Frame.readStore
    | with_reducible apply Frame.reply
    | with_reducible apply Frame.writeMem
    | with_reducible apply Frame.atomicAt
    | dsimp only
    | split

theorem Frame.fixLine (h : Frame l s t) (line : Nat)
    (hl : covers [.stores, .mem] l = true) : Frame l s (State.fixLine t line) := by
  unfold State.fixLine
  repeat' first
    | with_reducible assumption
    | exact covers_trans hl rfl
    | with_reducible apply Frame.ite
    | with_reducible apply Frame.withStoresMem
    | refine Frame.foldl ?_ (fun u a hu => ?_)
    | exact rfl
    | refine Frame.ofFst (by assumption) ?_
    | dsimp only
    | split

theorem Frame.scrub (h : Frame l s t) (a : Nat) (len : Nat)
    (hl : covers [.dev, .nvm, .card, .mgmt, .cells, .bucket, .stores, .sat] l = true) : Frame l s (State.scrub t a len) := by
  unfold State.scrub
  repeat' first
    | with_reducible assumption
    | exact covers_trans hl rfl
    | with_reducible apply Frame.ite
    | with_reducible apply Frame.granEvents
    | dsimp only
    | split

theorem Frame.maintain (h : Frame l s t) (m : Nat) (pc : Nat) (w : MaintWork)
    (hl : covers [.dev, .nvm, .card, .mgmt, .cells, .bucket, .stores, .sat, .mem] l = true) : Frame l s (State.maintain t m pc w) := by
  unfold State.maintain
  repeat' first
    | with_reducible assumption
    | exact covers_trans hl rfl
    | with_reducible apply Frame.ite
    | with_reducible apply Frame.fixLine
    | with_reducible apply Frame.withStores
    | with_reducible apply Frame.scrub
    | with_reducible apply Frame.withChannel
    | exact rfl
    | dsimp only
    | split

theorem Frame.miss (h : Frame l s t) (r : MemReq)
    (hl : covers [.card, .mgmt, .power, .stores, .sat, .wrap, .mem] l = true) : Frame l s (State.miss t r) := by
  unfold State.miss
  repeat' first
    | with_reducible assumption
    | exact covers_trans hl rfl
    | with_reducible apply Frame.ite
    | with_reducible apply Frame.withStores
    | with_reducible apply Frame.wrapBy
    | with_reducible apply Frame.acceptPart
    | exact rfl
    | dsimp only
    | split

theorem Frame.lodgeRead (h : Frame l s t) (r : MemReq)
    (hl : covers [.dev, .nvm, .card, .mgmt, .power, .cells, .bucket, .stores, .fabric, .sat, .wrap, .mem] l = true) : Frame l s (State.lodgeRead t r) := by
  unfold State.lodgeRead
  repeat' first
    | with_reducible assumption
    | exact covers_trans hl rfl
    | with_reducible apply Frame.ite
    | with_reducible apply Frame.take
    | with_reducible apply Frame.refetch
    | with_reducible apply Frame.miss
    | with_reducible apply Frame.readUnit
    | with_reducible apply Frame.reply
    | dsimp only
    | split

theorem Frame.scrubCached (h : Frame l s t) (slice : Nat) (c : CacheLine)
    (hl : covers [.dev, .nvm, .card, .mgmt, .cells, .bucket, .stores, .sat, .wrap] l = true) : Frame l s (State.scrubCached t slice c) := by
  unfold State.scrubCached
  repeat' first
    | with_reducible assumption
    | exact covers_trans hl rfl
    | with_reducible apply Frame.ite
    | with_reducible apply Frame.refetch
    | with_reducible apply Frame.fetchUnit
    | with_reducible apply Frame.withCache
    | with_reducible apply Frame.cacheEvents
    | dsimp only
    | split

theorem Frame.restoreLine (h : Frame l s t) (line : Nat)
    (hl : covers [.stores, .mem] l = true) : Frame l s (State.restoreLine t line) := by
  unfold State.restoreLine
  repeat' first
    | with_reducible assumption
    | exact covers_trans hl rfl
    | with_reducible apply Frame.ite
    | with_reducible apply Frame.withStoresMem
    | exact rfl
    | dsimp only
    | split

theorem Frame.rewriteRow (h : Frame l s t) (m : Nat) (pc : Nat) (bank : Nat) (row : Nat)
    (hl : covers [.stores, .mem] l = true) : Frame l s (State.rewriteRow t m pc bank row) := by
  unfold State.rewriteRow
  repeat' first
    | with_reducible assumption
    | exact covers_trans hl rfl
    | with_reducible apply Frame.ite
    | with_reducible apply Frame.restoreLine
    | refine Frame.foldl ?_ (fun u a hu => ?_)
    | dsimp only
    | split

theorem Frame.marginStack (h : Frame l s t) (x : MarginResult)
    (hl : covers [.stores] l = true) : Frame l s (State.marginStack t x) := by
  unfold State.marginStack
  repeat' first
    | with_reducible assumption
    | exact covers_trans hl rfl
    | with_reducible apply Frame.ite
    | with_reducible apply Frame.withStack
    | refine Frame.foldl ?_ (fun u a hu => ?_)
    | dsimp only
    | split

theorem Frame.marginAgain (h : Frame l s t) (x : MarginResult)
    (hl : covers [.card, .mgmt, .stores] l = true) : Frame l s (State.marginAgain t x) := by
  unfold State.marginAgain
  repeat' first
    | with_reducible assumption
    | exact covers_trans hl rfl
    | with_reducible apply Frame.ite
    | with_reducible apply Frame.marginStack
    | with_reducible apply Frame.withStack
    | with_reducible apply Frame.record
    | dsimp only
    | split

end Sys2Proof.Machine
end

