-- ==== Sys2Proof/Laws/FrameTickets.lean ====
section
/-!
SUPPORT. Which parts of the state the operations of Machine/Tickets.lean may change.
-/
namespace Sys2Proof.Machine

-- Proofs are checked one after another: many at once take more threads than the check allows.
set_option Elab.async false

variable {l : List StatePart} {s t : State}

theorem Frame.ticketHere (h : Frame l s t) (sts : List Nat)
    (hl : covers [.cells] l = true) : Frame l s (State.ticketHere t sts) := by
  unfold State.ticketHere
  repeat' first
    | with_reducible assumption
    | exact covers_trans hl rfl
    | with_reducible apply Frame.ite
    | with_reducible apply Frame.withSt
    | refine Frame.foldl ?_ (fun u a hu => ?_)
    | dsimp only
    | split

theorem Frame.granted (h : Frame l s t) (c : TicketClass) (ballast : List ArrayFail)
    (hl : covers [.dev, .nvm, .card, .mgmt, .cells, .bucket, .glide, .links, .sat] l = true) : Frame l s (State.granted t c ballast) := by
  unfold State.granted
  repeat' first
    | with_reducible assumption
    | exact covers_trans hl rfl
    | with_reducible apply Frame.ite
    | with_reducible apply Frame.withEngine
    | with_reducible apply Frame.setPhase
    | with_reducible apply Frame.ticketHere
    | with_reducible apply Frame.ballastFails
    | with_reducible apply Frame.withPort
    | dsimp only
    | split

theorem Frame.recallTicket (h : Frame l s t) (t' : Ticket)
    (hl : covers [.power, .cells] l = true) : Frame l s (State.recallTicket t t') := by
  unfold State.recallTicket
  repeat' first
    | with_reducible assumption
    | exact covers_trans hl rfl
    | with_reducible apply Frame.ite
    | with_reducible apply Frame.setPhase
    | with_reducible apply Frame.withPower
    | with_reducible apply Frame.release
    | with_reducible apply Frame.burstRequest
    | dsimp only
    | split

end Sys2Proof.Machine
end

