-- ==== Sys2Proof/Laws/FrameSensors.lean ====
section
/-!
SUPPORT. Which parts of the state the operations of Machine/Sensors.lean may change.
-/
namespace Sys2Proof.Machine

-- Proofs are checked one after another: many at once take more threads than the check allows.
set_option Elab.async false

variable {l : List StatePart} {s t : State}

theorem Frame.withSensor (h : Frame l s t) (i : Nat) (f : Sensor → Sensor)
    (hl : covers [.thermal] l = true) : Frame l s (State.withSensor t i f) := by
  unfold State.withSensor
  repeat' first
    | with_reducible assumption
    | exact covers_trans hl rfl
    | with_reducible apply Frame.ite
    | with_reducible apply Frame.withThermal
    | dsimp only
    | split

theorem Frame.suspectEvent (h : Frame l s t) (i : Nat)
    (hl : covers [.card, .mgmt] l = true) : Frame l s (State.suspectEvent t i) := by
  unfold State.suspectEvent
  repeat' first
    | with_reducible assumption
    | exact covers_trans hl rfl
    | with_reducible apply Frame.ite
    | with_reducible apply Frame.record
    | dsimp only
    | split

theorem Frame.checkSensor (h : Frame l s t) (i : Nat)
    (hl : covers [.card, .mgmt, .thermal, .sat] l = true) : Frame l s (State.checkSensor t i) := by
  unfold State.checkSensor
  repeat' first
    | with_reducible assumption
    | exact covers_trans hl rfl
    | with_reducible apply Frame.ite
    | with_reducible apply Frame.withSensor
    | with_reducible apply Frame.bump
    | with_reducible apply Frame.suspectEvent
    | dsimp only
    | split

theorem Frame.setPause (h : Frame l s t) (die : Nat) (p : Nat)
    (hl : covers [.card, .mgmt, .thermal] l = true) : Frame l s (State.setPause t die p) := by
  unfold State.setPause
  repeat' first
    | with_reducible assumption
    | exact covers_trans hl rfl
    | with_reducible apply Frame.ite
    | with_reducible apply Frame.withThermal
    | with_reducible apply Frame.record
    | dsimp only
    | split

theorem Frame.plough (h : Frame l s t) (die : Nat)
    (hl : covers [.card, .mgmt, .thermal] l = true) : Frame l s (State.plough t die) := by
  unfold State.plough
  repeat' first
    | with_reducible assumption
    | exact covers_trans hl rfl
    | with_reducible apply Frame.ite
    | with_reducible apply Frame.setPause
    | dsimp only
    | split

theorem Frame.checkTrip (h : Frame l s t) (i : Nat) (before : Int)
    (hl : covers [.dev, .pins, .card, .mgmt, .power, .thermal, .cells, .glide, .links, .fabric, .restore, .relay, .job, .sat, .wrap] l = true) : Frame l s (State.checkTrip t i before) := by
  unfold State.checkTrip
  repeat' first
    | with_reducible assumption
    | exact covers_trans hl rfl
    | with_reducible apply Frame.ite
    | with_reducible apply Frame.trip
    | with_reducible apply Frame.record
    | dsimp only
    | split

theorem Frame.classified (h : Frame l s t) (i : Nat)
    (hl : covers [.cells] l = true) : Frame l s (State.classified t i) := by
  unfold State.classified
  repeat' first
    | with_reducible assumption
    | exact covers_trans hl rfl
    | with_reducible apply Frame.ite
    | with_reducible apply Frame.withCells
    | dsimp only
    | split

theorem Frame.glideReading (h : Frame l s t) (n : Nat)
    (hl : covers [.glide] l = true) : Frame l s (State.glideReading t n) := by
  unfold State.glideReading
  repeat' first
    | with_reducible assumption
    | exact covers_trans hl rfl
    | with_reducible apply Frame.ite
    | with_reducible apply Frame.withEngine
    | dsimp only
    | split

theorem Frame.readSensor (h : Frame l s t) (i : Nat) (t' : Int)
    (hl : covers [.dev, .pins, .card, .mgmt, .power, .thermal, .cells, .glide, .links, .fabric, .restore, .relay, .job, .sat, .wrap] l = true) : Frame l s (State.readSensor t i t') := by
  unfold State.readSensor
  repeat' first
    | with_reducible assumption
    | exact covers_trans hl rfl
    | with_reducible apply Frame.ite
    | with_reducible apply Frame.withSensor
    | with_reducible apply Frame.checkSensor
    | with_reducible apply Frame.withThermal
    | with_reducible apply Frame.classified
    | with_reducible apply Frame.glideReading
    | with_reducible apply Frame.plough
    | with_reducible apply Frame.checkTrip
    | dsimp only
    | split

theorem Frame.stepEngine (h : Frame l s t) (first : Word) (n : Nat)
    (hl : covers [.power, .cells, .glide] l = true) : Frame l s (State.stepEngine t first n) := by
  unfold State.stepEngine
  repeat' first
    | with_reducible assumption
    | exact covers_trans hl rfl
    | with_reducible apply Frame.ite
    | with_reducible apply Frame.withCells
    | with_reducible apply Frame.withEngine
    | with_reducible apply Frame.request
    | dsimp only
    | split

theorem Frame.confirmStep (h : Frame l s t) (i : Nat) (first : Word) (change : Int) (l' : List Int)
    (hl : covers [.card, .mgmt, .power, .thermal, .cells, .glide, .links, .sat, .wrap] l = true) : Frame l s (State.confirmStep t i first change l') := by
  unfold State.confirmStep
  repeat' first
    | with_reducible assumption
    | exact covers_trans hl rfl
    | with_reducible apply Frame.ite
    | with_reducible apply Frame.withThermal
    | with_reducible apply Frame.bump
    | with_reducible apply Frame.record
    | with_reducible apply Frame.revoke
    | with_reducible apply Frame.stepEngine
    | with_reducible apply Frame.requestAgain
    | with_reducible apply Frame.setPause
    | refine Frame.foldl ?_ (fun u a hu => ?_)
    | dsimp only
    | split

end Sys2Proof.Machine
end

