-- ==== Sys2Proof/Laws/FrameRegisters.lean ====
section
/-!
SUPPORT. Which parts of the state the operations of Machine/Registers.lean may change.
-/
namespace Sys2Proof.Machine

-- Proofs are checked one after another: many at once take more threads than the check allows.
set_option Elab.async false

variable {l : List StatePart} {s t : State}

theorem Frame.regRead (h : Frame l s t) (off : Nat)
    (hl : covers [.mgmt, .sat] l = true) : Frame l s (State.regRead t off).1 := by
  unfold State.regRead
  repeat' first
    | with_reducible assumption
    | exact covers_trans hl rfl
    | with_reducible apply Frame.ite
    | with_reducible apply Frame.iteFst
    | with_reducible apply Frame.bump
    | refine Frame.ofFst (by assumption) ?_
    | dsimp only
    | split

end Sys2Proof.Machine
end

