-- ==== Sys2Proof/Laws/FrameParts.lean ====
section
/-!
SUPPORT. Which parts of the state the operations of Machine/Parts.lean may change.
-/
namespace Sys2Proof.Machine

-- Proofs are checked one after another: many at once take more threads than the check allows.
set_option Elab.async false

variable {l : List StatePart} {s t : State}

theorem Frame.clusterLost (h : Frame l s t) (c : Nat)
    (hl : covers [.cells] l = true) : Frame l s (State.clusterLost t c) := by
  unfold State.clusterLost
  repeat' first
    | with_reducible assumption
    | exact covers_trans hl rfl
    | with_reducible apply Frame.ite
    | with_reducible apply Frame.withPCell
    | with_reducible apply Frame.withCluster
    | refine Frame.foldl ?_ (fun u a hu => ?_)
    | dsimp only
    | split

theorem Frame.sliceLost (h : Frame l s t) (i : Nat)
    (hl : covers [.stores] l = true) : Frame l s (State.sliceLost t i) := by
  unfold State.sliceLost
  repeat' first
    | with_reducible assumption
    | exact covers_trans hl rfl
    | with_reducible apply Frame.ite
    | with_reducible apply Frame.withStores
    | exact rfl
    | dsimp only
    | split

theorem Frame.sliceLeaves (h : Frame l s t) (i : Nat)
    (hl : covers [.stores] l = true) : Frame l s (State.sliceLeaves t i) := by
  unfold State.sliceLeaves
  repeat' first
    | with_reducible assumption
    | exact covers_trans hl rfl
    | with_reducible apply Frame.ite
    | with_reducible apply Frame.withStores
    | exact rfl
    | dsimp only
    | split

theorem Frame.stackLost (h : Frame l s t) (m : Nat)
    (hl : covers [.stores] l = true) : Frame l s (State.stackLost t m) := by
  unfold State.stackLost
  repeat' first
    | with_reducible assumption
    | exact covers_trans hl rfl
    | with_reducible apply Frame.ite
    | with_reducible apply Frame.withStack
    | dsimp only
    | split

theorem Frame.engineLost (h : Frame l s t) (n : Nat)
    (hl : covers [.glide] l = true) : Frame l s (State.engineLost t n) := by
  unfold State.engineLost
  repeat' first
    | with_reducible assumption
    | exact covers_trans hl rfl
    | with_reducible apply Frame.ite
    | with_reducible apply Frame.withEngine
    | dsimp only
    | split

theorem Frame.portLost (h : Frame l s t) (n : Nat)
    (hl : covers [.clocks, .card, .mgmt, .power, .links, .fabric, .sat] l = true) : Frame l s (State.portLost t n) := by
  unfold State.portLost
  repeat' first
    | with_reducible assumption
    | exact covers_trans hl rfl
    | with_reducible apply Frame.ite
    | with_reducible apply Frame.holdPort
    | dsimp only
    | split

theorem Frame.sensorLost (h : Frame l s t) (i : Nat)
    (hl : covers [.thermal] l = true) : Frame l s (State.sensorLost t i) := by
  unfold State.sensorLost
  repeat' first
    | with_reducible assumption
    | exact covers_trans hl rfl
    | with_reducible apply Frame.ite
    | with_reducible apply Frame.withSensor
    | dsimp only
    | split

theorem Frame.stopLost (h : Frame l s t) (stop : Nat)
    (hl : covers [.cells, .stores, .glide] l = true) : Frame l s (State.stopLost t stop) := by
  unfold State.stopLost
  repeat' first
    | with_reducible assumption
    | exact covers_trans hl rfl
    | with_reducible apply Frame.ite
    | with_reducible apply Frame.clusterLost
    | with_reducible apply Frame.sliceLost
    | with_reducible apply Frame.stackLost
    | with_reducible apply Frame.engineLost
    | refine Frame.foldl ?_ (fun u a hu => ?_)
    | dsimp only
    | split

theorem Frame.coreLost (h : Frame l s t) 
    (hl : covers [.boot] l = true) : Frame l s (State.coreLost t) := by
  unfold State.coreLost
  repeat' first
    | with_reducible assumption
    | exact covers_trans hl rfl
    | with_reducible apply Frame.ite
    | with_reducible apply Frame.withBoot
    | dsimp only
    | split

theorem Frame.blockLost (h : Frame l s t) (u' : Nat)
    (hl : covers [.clocks, .boot, .card, .mgmt, .power, .cells, .stores, .glide, .links, .fabric, .sat] l = true) : Frame l s (State.blockLost t u') := by
  unfold State.blockLost
  repeat' first
    | with_reducible assumption
    | exact covers_trans hl rfl
    | with_reducible apply Frame.ite
    | with_reducible apply Frame.coreLost
    | with_reducible apply Frame.stopLost
    | with_reducible apply Frame.stackLost
    | with_reducible apply Frame.portLost
    | dsimp only
    | split

theorem Frame.partFails (h : Frame l s t) (p : Part) (source : Nat)
    (hl : covers [.dev, .pins, .clocks, .boot, .nvm, .card, .mgmt, .power, .cells, .bucket, .stores, .glide, .links, .fabric, .windows, .restore, .relay, .job, .sat, .wrap, .freeIdx, .mem] l = true) : Frame l s (State.partFails t p source) := by
  unfold State.partFails
  repeat' first
    | with_reducible assumption
    | exact covers_trans hl rfl
    | with_reducible apply Frame.ite
    | with_reducible apply Frame.cellFaulty
    | with_reducible apply Frame.clusterLost
    | with_reducible apply Frame.addSpare
    | with_reducible apply Frame.stopLost
    | with_reducible apply Frame.stackLost
    | with_reducible apply Frame.portLost
    | with_reducible apply Frame.engineLost
    | with_reducible apply Frame.sliceLost
    | with_reducible apply Frame.sliceLeaves
    | with_reducible apply Frame.coreLost
    | with_reducible apply Frame.enterFault
    | with_reducible apply Frame.orderDrain
    | dsimp only
    | split

end Sys2Proof.Machine
end

