-- ==== Sys2Proof/Laws/FrameWrites.lean ====
section
/-!
SUPPORT. Which parts of the state the operations of Machine/Writes.lean may change.
-/
namespace Sys2Proof.Machine

-- Proofs are checked one after another: many at once take more threads than the check allows.
set_option Elab.async false

variable {l : List StatePart} {s t : State}

theorem Frame.drainHold (h : Frame l s t) 
    (hl : covers [.dev, .pins, .clocks, .nvm, .card, .mgmt, .power, .cells, .bucket, .stores, .glide, .links, .fabric, .windows, .restore, .relay, .job, .sat, .wrap, .freeIdx, .mem] l = true) : Frame l s (State.drainHold t) := by
  unfold State.drainHold
  repeat' first
    | with_reducible assumption
    | exact covers_trans hl rfl
    | with_reducible apply Frame.ite
    | with_reducible apply Frame.withDev
    | with_reducible apply Frame.orderDrain
    | dsimp only
    | split

theorem Frame.drainRelease (h : Frame l s t) 
    (hl : covers [.dev, .pins, .clocks, .nvm, .card, .mgmt, .power, .cells, .bucket, .stores, .glide, .links, .fabric, .windows, .restore, .relay, .job, .freeIdx, .mem] l = true) : Frame l s (State.drainRelease t) := by
  unfold State.drainRelease
  repeat' first
    | with_reducible assumption
    | exact covers_trans hl rfl
    | with_reducible apply Frame.ite
    | with_reducible apply Frame.withDev
    | with_reducible apply Frame.leaveDrain
    | dsimp only
    | split

theorem Frame.writeCtl (h : Frame l s t) (v : Word)
    (hl : covers [.dev, .pins, .clocks, .nvm, .card, .mgmt, .power, .cells, .bucket, .stores, .glide, .links, .fabric, .windows, .restore, .relay, .job, .sat, .wrap, .freeIdx, .mem] l = true) : Frame l s (State.writeCtl t v) := by
  unfold State.writeCtl
  repeat' first
    | with_reducible assumption
    | exact covers_trans hl rfl
    | with_reducible apply Frame.ite
    | with_reducible apply Frame.drainHold
    | with_reducible apply Frame.drainRelease
    | with_reducible apply Frame.orderDrain
    | dsimp only
    | split

theorem Frame.writeTel (h : Frame l s t) (v : Word)
    (hl : covers [.mgmt] l = true) : Frame l s (State.writeTel t v) := by
  unfold State.writeTel
  repeat' first
    | with_reducible assumption
    | exact covers_trans hl rfl
    | with_reducible apply Frame.ite
    | with_reducible apply Frame.withMgmt
    | dsimp only
    | split

theorem Frame.writeMgt (h : Frame l s t) (o : Nat) (v : Word)
    (hl : covers [.dev, .pins, .clocks, .nvm, .card, .mgmt, .power, .cells, .bucket, .stores, .glide, .links, .fabric, .windows, .restore, .relay, .job, .sat, .wrap, .freeIdx, .mem] l = true) : Frame l s (State.writeMgt t o v) := by
  unfold State.writeMgt
  repeat' first
    | with_reducible assumption
    | exact covers_trans hl rfl
    | with_reducible apply Frame.ite
    | with_reducible apply Frame.writeCtl
    | with_reducible apply Frame.withMgmt
    | with_reducible apply Frame.writeTel
    | dsimp only
    | split

theorem Frame.selectEntry (h : Frame l s t) (j : BitVec 32)
    (hl : covers [.card] l = true) : Frame l s (State.selectEntry t j) := by
  unfold State.selectEntry
  repeat' first
    | with_reducible assumption
    | exact covers_trans hl rfl
    | with_reducible apply Frame.ite
    | with_reducible apply Frame.withCard
    | dsimp only
    | split

theorem Frame.writeBucket (h : Frame l s t) (v : Word)
    (hl : covers [.bucket] l = true) : Frame l s (State.writeBucket t v) := by
  unfold State.writeBucket
  repeat' first
    | with_reducible assumption
    | exact covers_trans hl rfl
    | with_reducible apply Frame.ite
    | with_reducible apply Frame.withBucket
    | dsimp only
    | split

theorem Frame.writeHlt (h : Frame l s t) (o : Nat) (v : Word)
    (hl : covers [.card, .mgmt, .bucket] l = true) : Frame l s (State.writeHlt t o v) := by
  unfold State.writeHlt
  repeat' first
    | with_reducible assumption
    | exact covers_trans hl rfl
    | with_reducible apply Frame.ite
    | with_reducible apply Frame.selectEntry
    | with_reducible apply Frame.writeBucket
    | with_reducible apply Frame.withMgmt
    | dsimp only
    | split

theorem Frame.writeBudget (h : Frame l s t) (i : Nat) (v : Word)
    (hl : covers [.card, .mgmt, .power, .cells, .links, .sat, .wrap] l = true) : Frame l s (State.writeBudget t i v) := by
  unfold State.writeBudget
  repeat' first
    | with_reducible assumption
    | exact covers_trans hl rfl
    | with_reducible apply Frame.ite
    | with_reducible apply Frame.withPower
    | with_reducible apply Frame.enforceLimit
    | with_reducible apply Frame.growBursts
    | with_reducible apply Frame.bump
    | with_reducible apply Frame.record
    | dsimp only
    | split

theorem Frame.writeLimit (h : Frame l s t) (w : Nat)
    (hl : covers [.card, .mgmt, .power, .cells, .links, .wrap] l = true) : Frame l s (State.writeLimit t w) := by
  unfold State.writeLimit
  repeat' first
    | with_reducible assumption
    | exact covers_trans hl rfl
    | with_reducible apply Frame.ite
    | with_reducible apply Frame.withPower
    | with_reducible apply Frame.enforceLimit
    | with_reducible apply Frame.growBursts
    | dsimp only
    | split

theorem Frame.writePwrCtl (h : Frame l s t) (v : Word)
    (hl : covers [.card, .mgmt, .power, .cells, .links, .wrap] l = true) : Frame l s (State.writePwrCtl t v) := by
  unfold State.writePwrCtl
  repeat' first
    | with_reducible assumption
    | exact covers_trans hl rfl
    | with_reducible apply Frame.ite
    | with_reducible apply Frame.writeLimit
    | with_reducible apply Frame.withPower
    | dsimp only
    | split

theorem Frame.writePwr (h : Frame l s t) (o : Nat) (v : Word)
    (hl : covers [.card, .mgmt, .power, .cells, .links, .sat, .wrap] l = true) : Frame l s (State.writePwr t o v) := by
  unfold State.writePwr
  repeat' first
    | with_reducible assumption
    | exact covers_trans hl rfl
    | with_reducible apply Frame.ite
    | with_reducible apply Frame.writePwrCtl
    | with_reducible apply Frame.writeBudget
    | dsimp only
    | split

theorem Frame.writeLnk (h : Frame l s t) (o : Nat) (v : Word)
    (hl : covers [.clocks, .card, .mgmt, .power, .links, .fabric, .sat] l = true) : Frame l s (State.writeLnk t o v) := by
  unfold State.writeLnk
  repeat' first
    | with_reducible assumption
    | exact covers_trans hl rfl
    | with_reducible apply Frame.ite
    | with_reducible apply Frame.setHold
    | with_reducible apply Frame.retrainPort
    | dsimp only
    | split

theorem Frame.writeMem' (h : Frame l s t) (o : Nat) (v : Word)
    (hl : covers [.stores] l = true) : Frame l s (State.writeMem' t o v) := by
  unfold State.writeMem'
  repeat' first
    | with_reducible assumption
    | exact covers_trans hl rfl
    | with_reducible apply Frame.ite
    | with_reducible apply Frame.withStores
    | exact rfl
    | dsimp only
    | split

theorem Frame.writeGld (h : Frame l s t) (o : Nat) (v : Word)
    (hl : covers [.glide] l = true) : Frame l s (State.writeGld t o v) := by
  unfold State.writeGld
  repeat' first
    | with_reducible assumption
    | exact covers_trans hl rfl
    | with_reducible apply Frame.ite
    | with_reducible apply Frame.withGlide
    | dsimp only
    | split

theorem Frame.writeCel (h : Frame l s t) (o : Nat) (v : Word)
    (hl : covers [.cells, .bucket] l = true) : Frame l s (State.writeCel t o v) := by
  unfold State.writeCel
  repeat' first
    | with_reducible assumption
    | exact covers_trans hl rfl
    | with_reducible apply Frame.ite
    | with_reducible apply Frame.withCells
    | with_reducible apply Frame.startFullTest
    | dsimp only
    | split

theorem Frame.writeFab (h : Frame l s t) (o : Nat) (v : Word)
    (hl : covers [.card, .mgmt, .fabric, .sat] l = true) : Frame l s (State.writeFab t o v) := by
  unfold State.writeFab
  repeat' first
    | with_reducible assumption
    | exact covers_trans hl rfl
    | with_reducible apply Frame.ite
    | with_reducible apply Frame.fence
    | dsimp only
    | split

theorem Frame.writeRly (h : Frame l s t) (o : Nat) (v : Word)
    (hl : covers [.relay] l = true) : Frame l s (State.writeRly t o v) := by
  unfold State.writeRly
  repeat' first
    | with_reducible assumption
    | exact covers_trans hl rfl
    | with_reducible apply Frame.ite
    | with_reducible apply Frame.withRelay
    | dsimp only
    | split

theorem Frame.testGo (h : Frame l s t) 
    (hl : covers [.test] l = true) : Frame l s (State.testGo t) := by
  unfold State.testGo
  repeat' first
    | with_reducible assumption
    | exact covers_trans hl rfl
    | with_reducible apply Frame.ite
    | with_reducible apply Frame.withTest
    | dsimp only
    | split

theorem Frame.writeTstCtl (h : Frame l s t) (v : Word)
    (hl : covers [.test] l = true) : Frame l s (State.writeTstCtl t v) := by
  unfold State.writeTstCtl
  repeat' first
    | with_reducible assumption
    | exact covers_trans hl rfl
    | with_reducible apply Frame.ite
    | with_reducible apply Frame.withTest
    | with_reducible apply Frame.testGo
    | dsimp only
    | split

theorem Frame.demandFail (h : Frame l s t) (f : SelfTestFail)
    (hl : covers [.dev, .pins, .clocks, .boot, .nvm, .card, .mgmt, .test, .power, .cells, .bucket, .stores, .glide, .links, .fabric, .windows, .restore, .relay, .job, .sat, .wrap, .freeIdx, .mem] l = true) : Frame l s (State.demandFail t f) := by
  unfold State.demandFail
  repeat' first
    | with_reducible assumption
    | exact covers_trans hl rfl
    | with_reducible apply Frame.ite
    | with_reducible apply Frame.selfTestFail
    | with_reducible apply Frame.partFails
    | dsimp only
    | split

theorem Frame.writeTst (h : Frame l s t) (o : Nat) (v : Word)
    (hl : covers [.test] l = true) : Frame l s (State.writeTst t o v) := by
  unfold State.writeTst
  repeat' first
    | with_reducible assumption
    | exact covers_trans hl rfl
    | with_reducible apply Frame.ite
    | with_reducible apply Frame.writeTstCtl
    | dsimp only
    | split

theorem Frame.writeImg (h : Frame l s t) (o : Nat) (v : Word)
    (hl : covers [.nvm] l = true) : Frame l s (State.writeImg t o v) := by
  unfold State.writeImg
  repeat' first
    | with_reducible assumption
    | exact covers_trans hl rfl
    | with_reducible apply Frame.ite
    | with_reducible apply Frame.withNvm
    | dsimp only
    | split

theorem Frame.clearSat (h : Frame l s t) (off : Nat) (v : Word)
    (hl : covers [.sat] l = true) : Frame l s (State.clearSat t off v) := by
  unfold State.clearSat
  repeat' first
    | with_reducible assumption
    | exact covers_trans hl rfl
    | with_reducible apply Frame.ite
    | dsimp only
    | split
    | (with_reducible apply Frame.parts <;> first | exact Or.inr rfl | exact Or.inl (covers_mem hl (by decide)) | skip)

theorem Frame.writeAt (h : Frame l s t) (off : Nat) (v : Word)
    (hl : covers [.dev, .pins, .clocks, .nvm, .card, .mgmt, .test, .power, .cells, .bucket, .stores, .glide, .links, .fabric, .windows, .restore, .relay, .job, .sat, .wrap, .freeIdx, .mem] l = true) : Frame l s (State.writeAt t off v) := by
  unfold State.writeAt
  repeat' first
    | with_reducible assumption
    | exact covers_trans hl rfl
    | with_reducible apply Frame.ite
    | with_reducible apply Frame.clearSat
    | with_reducible apply Frame.writeMgt
    | with_reducible apply Frame.writeHlt
    | with_reducible apply Frame.writePwr
    | with_reducible apply Frame.writeLnk
    | with_reducible apply Frame.writeMem'
    | with_reducible apply Frame.writeGld
    | with_reducible apply Frame.writeCel
    | with_reducible apply Frame.writeFab
    | with_reducible apply Frame.writeRly
    | with_reducible apply Frame.writeTst
    | with_reducible apply Frame.writeImg
    | dsimp only
    | split

theorem Frame.regWrite (h : Frame l s t) (off : Nat) (v : Word)
    (hl : covers [.dev, .pins, .clocks, .nvm, .card, .mgmt, .test, .power, .cells, .bucket, .stores, .glide, .links, .fabric, .windows, .restore, .relay, .job, .sat, .wrap, .freeIdx, .mem] l = true) : Frame l s (State.regWrite t off v).1 := by
  unfold State.regWrite
  repeat' first
    | with_reducible assumption
    | exact covers_trans hl rfl
    | with_reducible apply Frame.ite
    | with_reducible apply Frame.iteFst
    | with_reducible apply Frame.bump
    | with_reducible apply Frame.writeAt
    | dsimp only
    | split

theorem Frame.flushFails (h : Frame l s t) 
    (hl : covers [.card, .mgmt] l = true) : Frame l s (State.flushFails t) := by
  unfold State.flushFails
  repeat' first
    | with_reducible assumption
    | exact covers_trans hl rfl
    | with_reducible apply Frame.ite
    | with_reducible apply Frame.setEvent
    | with_reducible apply Frame.withCard
    | dsimp only
    | split

end Sys2Proof.Machine
end

