-- ==== Sys2Proof/Laws/FrameBoot.lean ====
section
/-!
SUPPORT. Which parts of the state the operations of Machine/Boot.lean may change.
-/
namespace Sys2Proof.Machine

-- Proofs are checked one after another: many at once take more threads than the check allows.
set_option Elab.async false

variable {l : List StatePart} {s t : State}

theorem Frame.applySpare (h : Frame l s t) (e : SpareEntry)
    (hl : covers [.clocks, .boot, .card, .mgmt, .power, .thermal, .cells, .stores, .glide, .links, .fabric, .sat] l = true) : Frame l s (State.applySpare t e) := by
  unfold State.applySpare
  repeat' first
    | with_reducible assumption
    | exact covers_trans hl rfl
    | with_reducible apply Frame.ite
    | with_reducible apply Frame.withPort
    | with_reducible apply Frame.withPCell
    | with_reducible apply Frame.sliceLost
    | with_reducible apply Frame.sensorLost
    | with_reducible apply Frame.clusterLost
    | with_reducible apply Frame.engineLost
    | with_reducible apply Frame.blockLost
    | dsimp only
    | split

theorem Frame.readSpare (h : Frame l s t) (i : Nat)
    (hl : covers [.clocks, .boot, .card, .mgmt, .power, .thermal, .cells, .stores, .glide, .links, .fabric, .sat] l = true) : Frame l s (State.readSpare t i) := by
  unfold State.readSpare
  repeat' first
    | with_reducible assumption
    | exact covers_trans hl rfl
    | with_reducible apply Frame.ite
    | with_reducible apply Frame.bump
    | with_reducible apply Frame.record
    | with_reducible apply Frame.applySpare
    | dsimp only
    | split

theorem Frame.bootTestFail (h : Frame l s t) (f : SelfTestFail)
    (hl : covers [.dev, .pins, .clocks, .boot, .nvm, .card, .mgmt, .test, .power, .cells, .bucket, .stores, .glide, .links, .fabric, .windows, .restore, .relay, .job, .sat, .wrap, .freeIdx, .mem] l = true) : Frame l s (State.bootTestFail t f) := by
  unfold State.bootTestFail
  repeat' first
    | with_reducible assumption
    | exact covers_trans hl rfl
    | with_reducible apply Frame.ite
    | with_reducible apply Frame.selfTestFail
    | with_reducible apply Frame.partFails
    | dsimp only
    | split

theorem Frame.analogEvent (h : Frame l s t) (k : Nat) (die : Nat)
    (hl : covers [.card, .mgmt] l = true) : Frame l s (State.analogEvent t k die) := by
  unfold State.analogEvent
  repeat' first
    | with_reducible assumption
    | exact covers_trans hl rfl
    | with_reducible apply Frame.ite
    | with_reducible apply Frame.record
    | dsimp only
    | split

theorem Frame.analogFails (h : Frame l s t) (a : AnalogFail)
    (hl : covers [.dev, .clocks, .nvm, .card, .mgmt, .power, .thermal, .cells, .glide, .links, .fabric, .restore, .relay, .job, .sat, .wrap] l = true) : Frame l s (State.analogFails t a) := by
  unfold State.analogFails
  repeat' first
    | with_reducible assumption
    | exact covers_trans hl rfl
    | with_reducible apply Frame.ite
    | with_reducible apply Frame.analogEvent
    | with_reducible apply Frame.enterFault
    | with_reducible apply Frame.withClocks
    | with_reducible apply Frame.sensorLost
    | with_reducible apply Frame.addSpare
    | with_reducible apply Frame.engineLost
    | with_reducible apply Frame.retireChan
    | with_reducible apply Frame.withPort
    | with_reducible apply Frame.portLost
    | dsimp only
    | split

theorem Frame.laneLost (h : Frame l s t) (r : LaneReport)
    (hl : covers [.clocks, .nvm, .card, .mgmt, .power, .cells, .glide, .links, .fabric, .sat] l = true) : Frame l s (State.laneLost t r) := by
  unfold State.laneLost
  repeat' first
    | with_reducible assumption
    | exact covers_trans hl rfl
    | with_reducible apply Frame.ite
    | with_reducible apply Frame.portLost
    | with_reducible apply Frame.clusterLost
    | with_reducible apply Frame.addSpare
    | with_reducible apply Frame.engineLost
    | dsimp only
    | split

theorem Frame.laneFails (h : Frame l s t) (r : LaneReport)
    (hl : covers [.dev, .clocks, .nvm, .card, .mgmt, .power, .cells, .glide, .links, .fabric, .restore, .relay, .job, .sat, .wrap] l = true) : Frame l s (State.laneFails t r) := by
  unfold State.laneFails
  repeat' first
    | with_reducible assumption
    | exact covers_trans hl rfl
    | with_reducible apply Frame.ite
    | with_reducible apply Frame.record
    | with_reducible apply Frame.addSpare
    | with_reducible apply Frame.withPort
    | with_reducible apply Frame.laneLost
    | with_reducible apply Frame.enterFault
    | dsimp only
    | split

theorem Frame.rowFails (h : Frame l s t) (m : Nat) (r : RowFail)
    (hl : covers [.card, .mgmt, .stores, .sat] l = true) : Frame l s (State.rowFails t m r) := by
  unfold State.rowFails
  repeat' first
    | with_reducible assumption
    | exact covers_trans hl rfl
    | with_reducible apply Frame.ite
    | with_reducible apply Frame.withStack
    | with_reducible apply Frame.record
    | with_reducible apply Frame.bump
    | with_reducible apply Frame.stackLost
    | dsimp only
    | split

theorem Frame.hardRepairs (h : Frame l s t) (m : Nat)
    (hl : covers [.nvm, .mgmt, .sat] l = true) : Frame l s (State.hardRepairs t m) := by
  unfold State.hardRepairs
  repeat' first
    | with_reducible assumption
    | exact covers_trans hl rfl
    | with_reducible apply Frame.ite
    | with_reducible apply Frame.withNvm
    | with_reducible apply Frame.bump
    | refine Frame.foldl ?_ (fun u a hu => ?_)
    | dsimp only
    | split

theorem Frame.bringStack (h : Frame l s t) (x : MarginResult)
    (hl : covers [.nvm, .card, .mgmt, .stores, .sat] l = true) : Frame l s (State.bringStack t x) := by
  unfold State.bringStack
  repeat' first
    | with_reducible assumption
    | exact covers_trans hl rfl
    | with_reducible apply Frame.ite
    | with_reducible apply Frame.hardRepairs
    | with_reducible apply Frame.marginStack
    | with_reducible apply Frame.stackLost
    | with_reducible apply Frame.withStack
    | with_reducible apply Frame.record
    | with_reducible apply Frame.rowFails
    | with_reducible apply Frame.addSpare
    | refine Frame.foldl ?_ (fun u a hu => ?_)
    | dsimp only
    | split

theorem Frame.silentStacks (h : Frame l s t) 
    (hl : covers [.stores] l = true) : Frame l s (State.silentStacks t) := by
  unfold State.silentStacks
  repeat' first
    | with_reducible assumption
    | exact covers_trans hl rfl
    | with_reducible apply Frame.ite
    | with_reducible apply Frame.withStack
    | with_reducible apply Frame.stackLost
    | refine Frame.foldl ?_ (fun u a hu => ?_)
    | dsimp only
    | split

theorem Frame.readStraps (h : Frame l s t) (x : StrapSample)
    (hl : covers [.clocks, .card, .mgmt, .power, .links, .fabric, .sat] l = true) : Frame l s (State.readStraps t x) := by
  unfold State.readStraps
  repeat' first
    | with_reducible assumption
    | exact covers_trans hl rfl
    | with_reducible apply Frame.ite
    | with_reducible apply Frame.withLinks
    | with_reducible apply Frame.record
    | with_reducible apply Frame.holdPort
    | refine Frame.foldl ?_ (fun u a hu => ?_)
    | dsimp only
    | split

theorem Frame.bootOrders (h : Frame l s t) 
    (hl : covers [.dev, .pins, .clocks, .nvm, .card, .mgmt, .power, .cells, .bucket, .stores, .glide, .links, .fabric, .windows, .restore, .relay, .job, .sat, .wrap, .freeIdx, .mem] l = true) : Frame l s (State.bootOrders t) := by
  unfold State.bootOrders
  repeat' first
    | with_reducible assumption
    | exact covers_trans hl rfl
    | with_reducible apply Frame.ite
    | with_reducible apply Frame.withDev
    | with_reducible apply Frame.goto
    | with_reducible apply Frame.completeDrain
    | dsimp only
    | split

theorem Frame.endBoot (h : Frame l s t) 
    (hl : covers [.dev, .pins, .clocks, .nvm, .card, .mgmt, .power, .cells, .bucket, .stores, .glide, .links, .fabric, .windows, .restore, .relay, .job, .sat, .wrap, .freeIdx, .mem] l = true) : Frame l s (State.endBoot t) := by
  unfold State.endBoot
  repeat' first
    | with_reducible assumption
    | exact covers_trans hl rfl
    | with_reducible apply Frame.ite
    | with_reducible apply Frame.enterBenched
    | with_reducible apply Frame.enterWatch
    | with_reducible apply Frame.goto
    | with_reducible apply Frame.record
    | with_reducible apply Frame.bootOrders
    | dsimp only
    | split

theorem Frame.beginStep (h : Frame l s t) (k : Nat)
    (hl : covers [.clocks, .boot, .card, .mgmt, .power, .glide, .links, .fabric, .sat] l = true) : Frame l s (State.beginStep t k) := by
  unfold State.beginStep
  repeat' first
    | with_reducible assumption
    | exact covers_trans hl rfl
    | with_reducible apply Frame.ite
    | with_reducible apply Frame.withBoot
    | with_reducible apply Frame.toLight
    | with_reducible apply Frame.withEngine
    | with_reducible apply Frame.requestCal
    | with_reducible apply Frame.advancePort
    | with_reducible apply Frame.readStraps
    | refine Frame.foldl ?_ (fun u a hu => ?_)
    | dsimp only
    | split

theorem Frame.uncalibrated (h : Frame l s t) 
    (hl : covers [.power, .glide] l = true) : Frame l s (State.uncalibrated t) := by
  unfold State.uncalibrated
  repeat' first
    | with_reducible assumption
    | exact covers_trans hl rfl
    | with_reducible apply Frame.ite
    | with_reducible apply Frame.withEngine
    | with_reducible apply Frame.release
    | refine Frame.foldl ?_ (fun u a hu => ?_)
    | dsimp only
    | split

theorem Frame.stepWork (h : Frame l s t) (k : Nat) (r : StepReport)
    (hl : covers [.dev, .pins, .clocks, .boot, .fuses, .nvm, .card, .mgmt, .img, .config, .test, .power, .thermal, .cells, .cap, .bucket, .stores, .glide, .links, .fabric, .windows, .restore, .relay, .job, .sat, .wrap, .freeIdx, .mem] l = true) : Frame l s (State.stepWork t k r) := by
  unfold State.stepWork
  repeat' first
    | with_reducible assumption
    | exact covers_trans hl rfl
    | with_reducible apply Frame.ite
    | with_reducible apply Frame.applySpare
    | with_reducible apply Frame.readSpare
    | with_reducible apply Frame.withClocks
    | with_reducible apply Frame.bootImage
    | with_reducible apply Frame.analogFails
    | with_reducible apply Frame.bootTestFail
    | with_reducible apply Frame.laneFails
    | with_reducible apply Frame.bringStack
    | with_reducible apply Frame.silentStacks
    | with_reducible apply Frame.withEngine
    | with_reducible apply Frame.calibrated
    | with_reducible apply Frame.uncalibrated
    | with_reducible apply Frame.bindClusters
    | with_reducible apply Frame.writeMapNow
    | refine Frame.foldl ?_ (fun u a hu => ?_)
    | dsimp only
    | split
    | (with_reducible apply Frame.parts <;> first | exact Or.inr rfl | exact Or.inl (covers_mem hl (by decide)) | skip)

theorem Frame.stepDone (h : Frame l s t) (k : Nat)
    (hl : covers [.dev, .pins, .clocks, .boot, .nvm, .card, .mgmt, .power, .cells, .bucket, .stores, .glide, .links, .fabric, .windows, .restore, .relay, .job, .sat, .wrap, .freeIdx, .mem] l = true) : Frame l s (State.stepDone t k) := by
  unfold State.stepDone
  repeat' first
    | with_reducible assumption
    | exact covers_trans hl rfl
    | with_reducible apply Frame.ite
    | with_reducible apply Frame.withBoot
    | with_reducible apply Frame.endBoot
    | with_reducible apply Frame.beginStep
    | dsimp only
    | split

end Sys2Proof.Machine
end

