-- ==== Sys2Proof/Laws/FrameSlices.lean ====
section
/-!
SUPPORT. Which parts of the state the operations of Machine/Slices.lean may change.
-/
namespace Sys2Proof.Machine

-- Proofs are checked one after another: many at once take more threads than the check allows.
set_option Elab.async false

variable {l : List StatePart} {s t : State}

theorem Frame.loadTable (h : Frame l s t) (t' : SliceTable)
    (hl : covers [.card, .mgmt, .fabric, .windows, .sat] l = true) : Frame l s (State.loadTable t t') := by
  unfold State.loadTable
  repeat' first
    | with_reducible assumption
    | exact covers_trans hl rfl
    | with_reducible apply Frame.ite
    | with_reducible apply Frame.withFabric
    | with_reducible apply Frame.fence
    | with_reducible apply Frame.record
    | with_reducible apply Frame.clearTable
    | refine Frame.foldl ?_ (fun u a hu => ?_)
    | dsimp only
    | split

theorem Frame.sliceTable (h : Frame l s t) (m : Msg)
    (hl : covers [.card, .mgmt, .fabric, .windows, .sat] l = true) : Frame l s (State.sliceTable t m).1 := by
  unfold State.sliceTable
  repeat' first
    | with_reducible assumption
    | exact covers_trans hl rfl
    | with_reducible apply Frame.ite
    | with_reducible apply Frame.iteFst
    | with_reducible apply Frame.loadTable
    | with_reducible apply Frame.withFabric
    | with_reducible apply Frame.record
    | refine Frame.ofFst (by assumption) ?_
    | dsimp only
    | split

end Sys2Proof.Machine
end

