-- ==== Sys2Proof/Laws/FrameSigned.lean ====
section
/-!
SUPPORT. Which parts of the state the operations of Machine/Signed.lean may change.
-/
namespace Sys2Proof.Machine

-- Proofs are checked one after another: many at once take more threads than the check allows.
set_option Elab.async false

variable {l : List StatePart} {s t : State}

theorem Frame.debugUnlock (h : Frame l s t) (scope : Nat) (slot : Nat)
    (hl : covers [.dev, .pins, .clocks, .nvm, .card, .mgmt, .power, .cells, .bucket, .stores, .glide, .links, .fabric, .windows, .restore, .relay, .job, .sat, .wrap, .freeIdx, .mem] l = true) : Frame l s (State.debugUnlock t scope slot) := by
  unfold State.debugUnlock
  repeat' first
    | with_reducible assumption
    | exact covers_trans hl rfl
    | with_reducible apply Frame.ite
    | with_reducible apply Frame.withMgmt
    | with_reducible apply Frame.record
    | with_reducible apply Frame.withPins
    | with_reducible apply Frame.withDev
    | with_reducible apply Frame.orderDrain
    | dsimp only
    | split

theorem Frame.sgEffect (h : Frame l s t) (b : List Byte)
    (hl : covers [.dev, .pins, .clocks, .fuses, .nvm, .card, .mgmt, .power, .cells, .bucket, .stores, .glide, .links, .fabric, .windows, .restore, .relay, .job, .sat, .wrap, .freeIdx, .mem] l = true) : Frame l s (State.sgEffect t b) := by
  unfold State.sgEffect
  repeat' first
    | with_reducible assumption
    | exact covers_trans hl rfl
    | with_reducible apply Frame.ite
    | with_reducible apply Frame.withMgmt
    | with_reducible apply Frame.withNvm
    | with_reducible apply Frame.debugUnlock
    | dsimp only
    | split
    | (with_reducible apply Frame.parts <;> first | exact Or.inr rfl | exact Or.inl (covers_mem hl (by decide)) | skip)

theorem Frame.signed (h : Frame l s t) (m : Msg)
    (hl : covers [.dev, .pins, .clocks, .fuses, .nvm, .card, .mgmt, .power, .cells, .bucket, .stores, .glide, .links, .fabric, .windows, .restore, .relay, .job, .sat, .wrap, .freeIdx, .mem] l = true) : Frame l s (State.signed t m).1 := by
  unfold State.signed
  repeat' first
    | with_reducible assumption
    | exact covers_trans hl rfl
    | with_reducible apply Frame.ite
    | with_reducible apply Frame.iteFst
    | with_reducible apply Frame.withMgmt
    | with_reducible apply Frame.sgEffect
    | with_reducible apply Frame.bump
    | with_reducible apply Frame.newNonce
    | refine Frame.ofFst (by assumption) ?_
    | dsimp only
    | split

theorem Frame.pack (h : Frame l s t) (m : Msg)
    (hl : covers [.nvm, .card, .mgmt, .test, .sat] l = true) : Frame l s (State.pack t m).1 := by
  unfold State.pack
  repeat' first
    | with_reducible assumption
    | exact covers_trans hl rfl
    | with_reducible apply Frame.ite
    | with_reducible apply Frame.iteFst
    | with_reducible apply Frame.record
    | with_reducible apply Frame.setEvent
    | with_reducible apply Frame.withNvm
    | with_reducible apply Frame.withTest
    | with_reducible apply Frame.bump
    | dsimp only
    | split

theorem Frame.withCopy (h : Frame l s t) (copy : Nat) (b : List Byte)
    (hl : covers [.nvm] l = true) : Frame l s (State.withCopy t copy b) := by
  unfold State.withCopy
  repeat' first
    | with_reducible assumption
    | exact covers_trans hl rfl
    | with_reducible apply Frame.ite
    | with_reducible apply Frame.withNvm
    | dsimp only
    | split

theorem Frame.image (h : Frame l s t) (m : Msg)
    (hl : covers [.nvm, .mgmt] l = true) : Frame l s (State.image t m).1 := by
  unfold State.image
  repeat' first
    | with_reducible assumption
    | exact covers_trans hl rfl
    | with_reducible apply Frame.ite
    | with_reducible apply Frame.iteFst
    | with_reducible apply Frame.setEvent
    | with_reducible apply Frame.withCopy
    | refine Frame.ofFst (by assumption) ?_
    | dsimp only
    | split

end Sys2Proof.Machine
end

