-- ==== Sys2Proof/Laws/FrameMessages.lean ====
section
/-!
SUPPORT. Which parts of the state the operations of Machine/Messages.lean may change.
-/
namespace Sys2Proof.Machine

-- Proofs are checked one after another: many at once take more threads than the check allows.
set_option Elab.async false

variable {l : List StatePart} {s t : State}

theorem Frame.regReads (h : Frame l s t) (m : Msg)
    (hl : covers [.mgmt, .sat] l = true) : Frame l s (State.regReads t m).1 := by
  unfold State.regReads
  repeat' first
    | with_reducible assumption
    | exact covers_trans hl rfl
    | with_reducible apply Frame.ite
    | with_reducible apply Frame.iteFst
    | with_reducible apply Frame.regRead
    | refine Frame.foldl ?_ (fun u a hu => ?_)
    | refine Frame.foldlFst ?_ (fun u b a hu => ?_)
    | refine Frame.ofFst (by assumption) ?_
    | dsimp only
    | split

theorem Frame.regWrites (h : Frame l s t) (m : Msg)
    (hl : covers [.dev, .pins, .clocks, .nvm, .card, .mgmt, .test, .power, .cells, .bucket, .stores, .glide, .links, .fabric, .windows, .restore, .relay, .job, .sat, .wrap, .freeIdx, .mem] l = true) : Frame l s (State.regWrites t m).1 := by
  unfold State.regWrites
  repeat' first
    | with_reducible assumption
    | exact covers_trans hl rfl
    | with_reducible apply Frame.ite
    | with_reducible apply Frame.iteFst
    | with_reducible apply Frame.regWrite
    | refine Frame.foldl ?_ (fun u a hu => ?_)
    | refine Frame.foldlFst ?_ (fun u b a hu => ?_)
    | refine Frame.ofFst (by assumption) ?_
    | dsimp only
    | split

theorem Frame.drainMsg (h : Frame l s t) (m : Msg)
    (hl : covers [.dev, .pins, .clocks, .nvm, .card, .mgmt, .power, .cells, .bucket, .stores, .glide, .links, .fabric, .windows, .restore, .relay, .job, .sat, .wrap, .freeIdx, .mem] l = true) : Frame l s (State.drainMsg t m).1 := by
  unfold State.drainMsg
  repeat' first
    | with_reducible assumption
    | exact covers_trans hl rfl
    | with_reducible apply Frame.ite
    | with_reducible apply Frame.iteFst
    | with_reducible apply Frame.drainHold
    | with_reducible apply Frame.orderDrain
    | refine Frame.ofFst (by assumption) ?_
    | dsimp only
    | split

theorem Frame.releaseMsg (h : Frame l s t) (m : Msg)
    (hl : covers [.dev, .pins, .clocks, .nvm, .card, .mgmt, .power, .cells, .bucket, .stores, .glide, .links, .fabric, .windows, .restore, .relay, .job, .freeIdx, .mem] l = true) : Frame l s (State.releaseMsg t m).1 := by
  unfold State.releaseMsg
  repeat' first
    | with_reducible assumption
    | exact covers_trans hl rfl
    | with_reducible apply Frame.ite
    | with_reducible apply Frame.iteFst
    | with_reducible apply Frame.drainRelease
    | refine Frame.ofFst (by assumption) ?_
    | dsimp only
    | split

theorem Frame.fenceMsg (h : Frame l s t) (m : Msg)
    (hl : covers [.card, .mgmt, .fabric, .sat] l = true) : Frame l s (State.fenceMsg t m).1 := by
  unfold State.fenceMsg
  repeat' first
    | with_reducible assumption
    | exact covers_trans hl rfl
    | with_reducible apply Frame.ite
    | with_reducible apply Frame.iteFst
    | with_reducible apply Frame.fence
    | refine Frame.foldl ?_ (fun u a hu => ?_)
    | refine Frame.ofFst (by assumption) ?_
    | dsimp only
    | split

theorem Frame.suspectNotice (h : Frame l s t) (m : Msg)
    (hl : covers [.dev, .nvm, .card, .mgmt, .cells, .bucket, .sat] l = true) : Frame l s (State.suspectNotice t m).1 := by
  unfold State.suspectNotice
  repeat' first
    | with_reducible assumption
    | exact covers_trans hl rfl
    | with_reducible apply Frame.ite
    | with_reducible apply Frame.iteFst
    | with_reducible apply Frame.record
    | with_reducible apply Frame.bump
    | with_reducible apply Frame.raiseHigh
    | with_reducible apply Frame.testAgain
    | refine Frame.ofFst (by assumption) ?_
    | dsimp only
    | split

theorem Frame.act (h : Frame l s t) (mtype : Nat) (m : Msg)
    (hl : covers [.dev, .pins, .clocks, .fuses, .nvm, .card, .mgmt, .test, .power, .cells, .bucket, .stores, .glide, .links, .fabric, .windows, .restore, .relay, .job, .sat, .wrap, .freeIdx, .mem] l = true) : Frame l s (State.act t mtype m).1 := by
  unfold State.act
  repeat' first
    | with_reducible assumption
    | exact covers_trans hl rfl
    | with_reducible apply Frame.ite
    | with_reducible apply Frame.iteFst
    | with_reducible apply Frame.regReads
    | with_reducible apply Frame.regWrites
    | with_reducible apply Frame.sliceTable
    | with_reducible apply Frame.manifest
    | with_reducible apply Frame.startJob
    | with_reducible apply Frame.drainMsg
    | with_reducible apply Frame.releaseMsg
    | with_reducible apply Frame.fenceMsg
    | with_reducible apply Frame.suspectNotice
    | with_reducible apply Frame.pack
    | with_reducible apply Frame.image
    | with_reducible apply Frame.signed
    | refine Frame.ofFst (by assumption) ?_
    | dsimp only
    | split

theorem Frame.answer (h : Frame l s t) (c : Chunk) (status : Nat) (body : List Byte)
    (hl : covers [.mgmt, .links, .fabric, .sat, .wrap] l = true) : Frame l s (State.answer t c status body) := by
  unfold State.answer
  repeat' first
    | with_reducible assumption
    | exact covers_trans hl rfl
    | with_reducible apply Frame.ite
    | with_reducible apply Frame.withMgmt
    | with_reducible apply Frame.sendChunkOf
    | dsimp only
    | split

theorem Frame.dropPartial (h : Frame l s t) (r : Route)
    (hl : covers [.mgmt] l = true) : Frame l s (State.dropPartial t r) := by
  unfold State.dropPartial
  repeat' first
    | with_reducible assumption
    | exact covers_trans hl rfl
    | with_reducible apply Frame.ite
    | with_reducible apply Frame.withMgmt
    | dsimp only
    | split

theorem Frame.program (h : Frame l s t) (p : Partial)
    (hl : covers [.nvm] l = true) : Frame l s (State.program t p) := by
  unfold State.program
  repeat' first
    | with_reducible assumption
    | exact covers_trans hl rfl
    | with_reducible apply Frame.ite
    | with_reducible apply Frame.withCopy
    | refine Frame.foldl ?_ (fun u a hu => ?_)
    | dsimp only
    | split

theorem Frame.place_ (h : Frame l s t) (c : Chunk)
    (hl : covers [.dev, .pins, .clocks, .fuses, .nvm, .card, .mgmt, .test, .power, .cells, .bucket, .stores, .glide, .links, .fabric, .windows, .restore, .relay, .job, .sat, .wrap, .freeIdx, .mem] l = true) : Frame l s (State.place_ t c) := by
  unfold State.place_
  repeat' first
    | with_reducible assumption
    | exact covers_trans hl rfl
    | with_reducible apply Frame.ite
    | with_reducible apply Frame.dropPartial
    | with_reducible apply Frame.act
    | with_reducible apply Frame.answer
    | with_reducible apply Frame.withMgmt
    | with_reducible apply Frame.program
    | refine Frame.ofFst (by assumption) ?_
    | dsimp only
    | split

theorem Frame.receiveChunk (h : Frame l s t) (c : Chunk)
    (hl : covers [.dev, .pins, .clocks, .fuses, .nvm, .card, .mgmt, .test, .power, .cells, .bucket, .stores, .glide, .links, .fabric, .windows, .restore, .relay, .job, .sat, .wrap, .freeIdx, .mem] l = true) : Frame l s (State.receiveChunk t c) := by
  unfold State.receiveChunk
  repeat' first
    | with_reducible assumption
    | exact covers_trans hl rfl
    | with_reducible apply Frame.ite
    | with_reducible apply Frame.wrapBy
    | with_reducible apply Frame.sendChunkOf
    | with_reducible apply Frame.answer
    | with_reducible apply Frame.dropPartial
    | with_reducible apply Frame.place_
    | dsimp only
    | split

theorem Frame.responded (h : Frame l s t) (mseq : BitVec 32) (off : Nat)
    (hl : covers [.mgmt, .wrap] l = true) : Frame l s (State.responded t mseq off) := by
  unfold State.responded
  repeat' first
    | with_reducible assumption
    | exact covers_trans hl rfl
    | with_reducible apply Frame.ite
    | with_reducible apply Frame.withMgmt
    | with_reducible apply Frame.wrapBy
    | dsimp only
    | split

theorem Frame.receive (h : Frame l s t) (src : Option Coord) (b : List Byte)
    (hl : covers [.dev, .pins, .clocks, .fuses, .nvm, .card, .mgmt, .test, .power, .cells, .bucket, .stores, .glide, .links, .fabric, .windows, .restore, .relay, .job, .sat, .wrap, .freeIdx, .mem] l = true) : Frame l s (State.receive t src b) := by
  unfold State.receive
  repeat' first
    | with_reducible assumption
    | exact covers_trans hl rfl
    | with_reducible apply Frame.ite
    | with_reducible apply Frame.responded
    | with_reducible apply Frame.receiveChunk
    | dsimp only
    | split

theorem Frame.receiveMsg (h : Frame l s t) (mtype : Nat) (m : Msg)
    (hl : covers [.dev, .pins, .clocks, .fuses, .nvm, .card, .mgmt, .test, .power, .cells, .bucket, .stores, .glide, .links, .fabric, .windows, .restore, .relay, .job, .sat, .wrap, .freeIdx, .mem] l = true) : Frame l s (State.receiveMsg t mtype m) := by
  unfold State.receiveMsg
  repeat' first
    | with_reducible assumption
    | exact covers_trans hl rfl
    | with_reducible apply Frame.ite
    | with_reducible apply Frame.receiveChunk
    | refine Frame.foldl ?_ (fun u a hu => ?_)
    | dsimp only
    | split

theorem Frame.deliverMgt (h : Frame l s t) (p : Packet)
    (hl : covers [.dev, .pins, .clocks, .fuses, .nvm, .card, .mgmt, .test, .power, .cells, .bucket, .stores, .glide, .links, .fabric, .windows, .restore, .relay, .job, .sat, .wrap, .freeIdx, .mem] l = true) : Frame l s (State.deliverMgt t p) := by
  unfold State.deliverMgt
  repeat' first
    | with_reducible assumption
    | exact covers_trans hl rfl
    | with_reducible apply Frame.ite
    | with_reducible apply Frame.takeLocal
    | with_reducible apply Frame.receive
    | dsimp only
    | split

end Sys2Proof.Machine
end

