-- ==== Sys2Proof/Laws/FrameI3c.lean ====
section
/-!
SUPPORT. Which parts of the state the operations of Machine/I3c.lean may change.
-/
namespace Sys2Proof.Machine

-- Proofs are checked one after another: many at once take more threads than the check allows.
set_option Elab.async false

variable {l : List StatePart} {s t : State}

theorem Frame.drive (h : Frame l s t) (l' : List Byte)
    (hl : covers [.mgmt] l = true) : Frame l s (State.drive t l') := by
  unfold State.drive
  repeat' first
    | with_reducible assumption
    | exact covers_trans hl rfl
    | with_reducible apply Frame.ite
    | with_reducible apply Frame.withI3c
    | dsimp only
    | split

theorem Frame.i3cWrite (h : Frame l s t) (f : List Byte)
    (hl : covers [.dev, .pins, .clocks, .nvm, .card, .mgmt, .test, .power, .cells, .bucket, .stores, .glide, .links, .fabric, .windows, .restore, .relay, .job, .sat, .wrap, .freeIdx, .mem] l = true) : Frame l s (State.i3cWrite t f) := by
  unfold State.i3cWrite
  repeat' first
    | with_reducible assumption
    | exact covers_trans hl rfl
    | with_reducible apply Frame.ite
    | with_reducible apply Frame.regWrite
    | with_reducible apply Frame.withI3c
    | refine Frame.ofFst (by assumption) ?_
    | dsimp only
    | split

theorem Frame.takeInbox (h : Frame l s t) 
    (hl : covers [.dev, .pins, .clocks, .fuses, .nvm, .card, .mgmt, .test, .power, .cells, .bucket, .stores, .glide, .links, .fabric, .windows, .restore, .relay, .job, .sat, .wrap, .freeIdx, .mem] l = true) : Frame l s (State.takeInbox t) := by
  unfold State.takeInbox
  repeat' first
    | with_reducible assumption
    | exact covers_trans hl rfl
    | with_reducible apply Frame.ite
    | with_reducible apply Frame.withI3c
    | with_reducible apply Frame.receive
    | with_reducible apply Frame.take
    | dsimp only
    | split

theorem Frame.i3cAppend (h : Frame l s t) (f : List Byte)
    (hl : covers [.dev, .pins, .clocks, .fuses, .nvm, .card, .mgmt, .test, .power, .cells, .bucket, .stores, .glide, .links, .fabric, .windows, .restore, .relay, .job, .sat, .wrap, .freeIdx, .mem] l = true) : Frame l s (State.i3cAppend t f) := by
  unfold State.i3cAppend
  repeat' first
    | with_reducible assumption
    | exact covers_trans hl rfl
    | with_reducible apply Frame.ite
    | with_reducible apply Frame.withI3c
    | with_reducible apply Frame.takeInbox
    | dsimp only
    | split

theorem Frame.i3cFrame (h : Frame l s t) (f : List Byte)
    (hl : covers [.dev, .pins, .clocks, .fuses, .nvm, .card, .mgmt, .test, .power, .cells, .bucket, .stores, .glide, .links, .fabric, .windows, .restore, .relay, .job, .sat, .wrap, .freeIdx, .mem] l = true) : Frame l s (State.i3cFrame t f) := by
  unfold State.i3cFrame
  repeat' first
    | with_reducible assumption
    | exact covers_trans hl rfl
    | with_reducible apply Frame.ite
    | with_reducible apply Frame.bump
    | with_reducible apply Frame.i3cWrite
    | with_reducible apply Frame.withI3c
    | with_reducible apply Frame.i3cAppend
    | with_reducible apply Frame.dropPartial
    | dsimp only
    | split

end Sys2Proof.Machine
end

