-- ==== Sys2Proof/Laws/FrameLimits.lean ====
section
/-!
SUPPORT. Which parts of the state the operations of Machine/Limits.lean may change.
-/
namespace Sys2Proof.Machine

-- Proofs are checked one after another: many at once take more threads than the check allows.
set_option Elab.async false

variable {l : List StatePart} {s t : State}

theorem Frame.undefineObject (h : Frame l s t) (obj : Nat)
    (hl : covers [.stores, .freeIdx, .mem] l = true) : Frame l s (State.undefineObject t obj) := by
  unfold State.undefineObject
  repeat' first
    | with_reducible assumption
    | exact covers_trans hl rfl
    | with_reducible apply Frame.ite
    | with_reducible apply Frame.fillMem
    | refine Frame.foldl ?_ (fun u a hu => ?_)
    | dsimp only
    | split
    | (with_reducible apply Frame.parts <;> first | exact Or.inr rfl | exact Or.inl (covers_mem hl (by decide)) | skip)

theorem Frame.abandonConfirmation (h : Frame l s t) 
    (hl : covers [.card, .mgmt, .cells] l = true) : Frame l s (State.abandonConfirmation t) := by
  unfold State.abandonConfirmation
  repeat' first
    | with_reducible assumption
    | exact covers_trans hl rfl
    | with_reducible apply Frame.ite
    | with_reducible apply Frame.withCells
    | with_reducible apply Frame.setTest
    | with_reducible apply Frame.verdict
    | with_reducible apply Frame.withPCell
    | dsimp only
    | split

theorem Frame.dropTickets (h : Frame l s t) 
    (hl : covers [.power] l = true) : Frame l s (State.dropTickets t) := by
  unfold State.dropTickets
  repeat' first
    | with_reducible assumption
    | exact covers_trans hl rfl
    | with_reducible apply Frame.ite
    | with_reducible apply Frame.withPower
    | dsimp only
    | split

end Sys2Proof.Machine
end

