-- ==== Sys2Proof/Laws/FrameResponses.lean ====
section
/-!
SUPPORT. Which parts of the state the operations of Machine/Responses.lean may change.
-/
namespace Sys2Proof.Machine

-- Proofs are checked one after another: many at once take more threads than the check allows.
set_option Elab.async false

variable {l : List StatePart} {s t : State}

theorem Frame.entryReply (h : Frame l s t) (f : FlightOp) (id : Nat) (row : Nat) (reply : List Byte)
    (hl : covers [.dev, .pins, .clocks, .nvm, .card, .mgmt, .power, .cells, .bucket, .stores, .glide, .links, .fabric, .windows, .restore, .relay, .job, .sat, .wrap, .freeIdx, .mem] l = true) : Frame l s (State.entryReply t f id row reply) := by
  unfold State.entryReply
  repeat' first
    | with_reducible assumption
    | exact covers_trans hl rfl
    | with_reducible apply Frame.ite
    | with_reducible apply Frame.endFlight
    | with_reducible apply Frame.withList
    | with_reducible apply Frame.reply
    | with_reducible apply Frame.closeList
    | with_reducible apply Frame.opEnded
    | dsimp only
    | split

end Sys2Proof.Machine
end

