-- ==== Sys2Proof/Laws/FrameRereads.lean ====
section
/-!
SUPPORT. Which parts of the state the operations of Machine/Rereads.lean may change.
-/
namespace Sys2Proof.Machine

-- Proofs are checked one after another: many at once take more threads than the check allows.
set_option Elab.async false

variable {l : List StatePart} {s t : State}

theorem Frame.proceed (h : Frame l s t) (i : Instr) (path : ReadPath)
    (hl : covers [.dev, .pins, .clocks, .nvm, .card, .mgmt, .power, .cells, .bucket, .stores, .glide, .links, .fabric, .windows, .restore, .relay, .job, .sat, .wrap, .freeIdx, .mem] l = true) : Frame l s (State.proceed t i path) := by
  unfold State.proceed
  repeat' first
    | with_reducible assumption
    | exact covers_trans hl rfl
    | with_reducible apply Frame.ite
    | with_reducible apply Frame.mmRun
    | with_reducible apply Frame.vecOp
    | with_reducible apply Frame.glLoad
    | with_reducible apply Frame.glRun
    | with_reducible apply Frame.cpTiles
    | with_reducible apply Frame.opLists
    | with_reducible apply Frame.cpRemote
    | with_reducible apply Frame.colRs
    | with_reducible apply Frame.colAg
    | with_reducible apply Frame.rdTiles
    | with_reducible apply Frame.wrTiles
    | dsimp only
    | split

end Sys2Proof.Machine
end

