-- ==== Sys2Proof/Laws/Memory.lean ====
section
/-!
SUPPORT. The laws of memory: every operation keeps the canonical form; a byte set reads back, and every other byte reads as
before.
-/
namespace Sys2Proof.Machine

-- Proofs are checked one after another: many at once take more threads than the check allows.
set_option Elab.async false

/-! ### The canonical form -/

theorem cellsOk_lower {a b : Nat} (h : a ≤ b) {l : List Host.Cell} (w : cellsOk b l = true) : cellsOk a l = true := by
  cases l with
  | nil => rfl
  | cons c r => simp only [cellsOk, Bool.and_eq_true, decide_eq_true_eq] at w ⊢; exact ⟨⟨by omega, w.1.2⟩, w.2⟩

theorem cellsOk_filter (p : Host.Cell → Bool) {lo : Nat} {l : List Host.Cell} (w : cellsOk lo l = true) :
    cellsOk lo (l.filter p) = true := by
  induction l generalizing lo with
  | nil => rfl
  | cons c r ih =>
    simp only [cellsOk, Bool.and_eq_true, decide_eq_true_eq] at w
    by_cases hc : p c = true
    · simp only [List.filter_cons, hc, if_true, cellsOk, Bool.and_eq_true, decide_eq_true_eq]
      exact ⟨w.1, ih w.2⟩
    · simp only [List.filter_cons, hc]
      exact cellsOk_lower (by omega) (ih w.2)

theorem cellsOk_raise {a lo : Nat} {l : List Host.Cell} (w : cellsOk lo l = true) (h : ∀ c ∈ l, a ≤ c.1) :
    cellsOk a l = true := by
  cases l with
  | nil => rfl
  | cons c r =>
    simp only [cellsOk, Bool.and_eq_true, decide_eq_true_eq] at w ⊢
    exact ⟨⟨h c (by simp), w.1.2⟩, w.2⟩

theorem cellsOk_append {lo k : Nat} {l r : List Host.Cell} (wl : cellsOk lo l = true) (hl : ∀ c ∈ l, c.1 < k)
    (wr : cellsOk k r = true) (hk : lo ≤ k) : cellsOk lo (l ++ r) = true := by
  induction l generalizing lo with
  | nil => exact cellsOk_lower hk wr
  | cons c t ih =>
    simp only [cellsOk, List.cons_append, Bool.and_eq_true, decide_eq_true_eq] at wl ⊢
    exact ⟨wl.1, ih wl.2 (fun d hd => hl d (by simp [hd])) (hl c (by simp))⟩

theorem cellsOf_ok (a : Nat) (b : List Byte) : cellsOk a (cellsOf a b) = true := by
  induction b generalizing a with
  | nil => rfl
  | cons x r ih =>
    by_cases hx : x = 0
    · simp only [cellsOf, hx, if_true]; exact cellsOk_lower (by omega) (ih (a + 1))
    · simp only [cellsOf, hx, if_false, cellsOk, ih (a + 1), Bool.and_true, Nat.le_refl, decide_true, Bool.true_and]
      exact bne_iff_ne.mpr hx

theorem cellsOf_below (a : Nat) (b : List Byte) : ∀ c ∈ cellsOf a b, c.1 < a + b.length := by
  induction b generalizing a with
  | nil => simp [cellsOf]
  | cons x r ih =>
    intro c hc
    by_cases hx : x = 0
    · simp only [cellsOf, hx, if_true] at hc; have := ih (a + 1) c hc; simp; omega
    · simp only [cellsOf, hx, if_false, List.mem_cons] at hc
      rcases hc with rfl | hc
      · simp
      · have := ih (a + 1) c hc; simp; omega

/-- Setting bytes keeps the canonical form. -/
theorem cellsSet_ok {l : List Host.Cell} (w : cellsOk 0 l = true) (a : Nat) (b : List Byte) :
    cellsOk 0 (cellsSet l a b) = true := by
  have hb : cellsOk 0 (cellsBelow a l) = true := cellsOk_filter _ w
  have hf : cellsOk (a + b.length) (cellsFrom (a + b.length) l) = true :=
    cellsOk_raise (cellsOk_filter _ w) (by intro c hc; simpa using (List.mem_filter.mp hc).2)
  have hm : cellsOk a (cellsOf a b ++ cellsFrom (a + b.length) l) = true :=
    cellsOk_append (cellsOf_ok a b) (cellsOf_below a b) hf (by omega)
  rw [cellsSet, List.append_assoc]
  exact cellsOk_append hb (by intro c hc; simpa using (List.mem_filter.mp hc).2) hm (by omega)

theorem Memory.wf_iff (m : Memory) : m.wf = true ↔ cellsOk 0 m.data = true ∧ cellsOk 0 m.check = true := by
  simp [Memory.wf]

theorem Memory.setGranules_wf {m : Memory} (w : m.wf = true) (g : Nat) (d c : List Byte) :
    (m.setGranules g d c).wf = true := by
  rw [Memory.wf_iff] at *
  exact ⟨cellsSet_ok w.1 _ _, cellsSet_ok w.2 _ _⟩

/-- A write keeps the canonical form. -/
theorem Memory.write_wf {m : Memory} (w : m.wf = true) (a : Nat) (b : List Byte) (bad : List Nat) :
    (m.write a b bad).1.wf = true := by
  unfold Memory.write
  dsimp only
  split
  · exact w
  · exact Memory.setGranules_wf w _ _ _

/-- Erasing a range keeps the canonical form. -/
theorem Memory.erase_wf {m : Memory} (w : m.wf = true) (a b : Nat) : (m.erase a b).wf = true := by
  rw [Memory.wf_iff] at *
  exact ⟨cellsOk_filter _ w.1, cellsOk_filter _ w.2⟩

/-- Restoring granules keeps the canonical form. -/
theorem Memory.restored_wf {m : Memory} (w : m.wf = true) (gs : List Nat) : (m.restored gs).wf = true := by
  unfold Memory.restored
  induction gs generalizing m with
  | nil => exact w
  | cons g r ih =>
    refine ih ?_
    dsimp only
    split
    · exact Memory.setGranules_wf w _ _ _
    · exact Memory.setGranules_wf w _ _ _
    · exact w

theorem Memory.empty_wf : ({} : Memory).wf = true := rfl

/-! ### Reading one byte -/

theorem look_none_of_above {l : List Host.Cell} {lo a : Nat} (w : cellsOk lo l = true) (h : a < lo) : look l a = none := by
  induction l generalizing lo with
  | nil => rfl
  | cons c r ih =>
    simp only [cellsOk, Bool.and_eq_true, decide_eq_true_eq] at w
    have : c.1 ≠ a := by omega
    simp only [look, this, if_false]
    exact ih w.2 (by omega)

/-- One byte reads as its cell, or 0x00. -/
theorem cellsAt_one {l : List Host.Cell} {lo : Nat} (w : cellsOk lo l = true) (a : Nat) :
    (cellsAt l a 1).headD 0 = lookD l a 0 := by
  induction l generalizing lo with
  | nil => rfl
  | cons c r ih =>
    simp only [cellsOk, Bool.and_eq_true, decide_eq_true_eq] at w
    by_cases h1 : a ≤ c.1
    · by_cases h2 : c.1 = a
      · simp [cellsAt, cellsFrom, expand, lookD, look, h2]
      · have : look r a = none := look_none_of_above w.2 (by omega)
        simp [cellsAt, cellsFrom, h1, expand, lookD, look, h2, this]
    · have h2 : c.1 ≠ a := by omega
      have := ih w.2
      simpa [cellsAt, cellsFrom, h1, lookD, look, h2] using this

theorem Memory.byte_eq {m : Memory} (w : m.wf = true) (a : Nat) : m.byte a = lookD m.data a 0 :=
  cellsAt_one ((Memory.wf_iff m).mp w).1 a

theorem look_append (l r : List Host.Cell) (a : Nat) : look (l ++ r) a = (look l a).or (look r a) := by
  induction l with
  | nil => rfl
  | cons c t ih =>
    by_cases h : c.1 = a <;> simp [look, h, ih]

theorem look_filter (p : Nat → Bool) (l : List Host.Cell) (a : Nat) :
    look (l.filter fun c => p c.1) a = if p a then look l a else none := by
  induction l with
  | nil => simp [look]
  | cons c t ih =>
    by_cases hp : p c.1 = true <;> by_cases ha : c.1 = a
    · subst ha; simp [look, hp]
    · simp [look, hp, ha, ih]
    · subst ha; simp [hp, ih]
    · simp [look, hp, ha, ih]

theorem lookD_cellsOf (a : Nat) (b : List Byte) (x : Nat) :
    (look (cellsOf a b) x).getD 0 = if a ≤ x ∧ x < a + b.length then b.getD (x - a) 0 else 0 := by
  induction b generalizing a with
  | nil => simp [cellsOf, look]
  | cons v r ih =>
    have h := ih (a + 1)
    by_cases hv : v = 0
    · simp only [cellsOf, hv, if_true, h]
      by_cases hx : x = a
      · subst hx; simp <;> omega
      · by_cases hr : a + 1 ≤ x ∧ x < a + 1 + r.length
        · have e : x - a = (x - (a + 1)) + 1 := by omega
          rw [if_pos hr, if_pos (by simp; omega), e]; rfl
        · rw [if_neg hr, if_neg (by simp; omega)]
    · simp only [cellsOf, hv, if_false, look]
      by_cases hx : a = x
      · subst hx; simp
      · simp only [hx, if_false, h]
        by_cases hr : a + 1 ≤ x ∧ x < a + 1 + r.length
        · have e : x - a = (x - (a + 1)) + 1 := by omega
          rw [if_pos hr, if_pos (by simp; omega), e]; rfl
        · rw [if_neg hr, if_neg (by simp; omega)]

theorem look_cellsOf_out (a : Nat) (b : List Byte) (x : Nat) (h : x < a ∨ a + b.length ≤ x) : look (cellsOf a b) x = none := by
  induction b generalizing a with
  | nil => rfl
  | cons v r ih =>
    have hr : look (cellsOf (a + 1) r) x = none := ih (a + 1) (by simp at h; omega)
    by_cases hv : v = 0
    · simp [cellsOf, hv, hr]
    · have : a ≠ x := by simp at h; omega
      simp only [cellsOf, hv, if_false, look, hr, this]

/-- A byte outside the bytes set reads as before. -/
theorem lookD_cellsSet_out (l : List Host.Cell) (a : Nat) (b : List Byte) (x : Nat) (h : x < a ∨ a + b.length ≤ x) :
    lookD (cellsSet l a b) x 0 = lookD l x 0 := by
  unfold lookD cellsSet cellsBelow cellsFrom
  rw [look_append, look_append, look_cellsOf_out a b x h, look_filter (fun k => decide (k < a)),
    look_filter (fun k => decide (a + b.length ≤ k))]
  rcases h with h | h
  · have : ¬ a + b.length ≤ x := by omega
    simp [h, this]
  · have : ¬ x < a := by omega
    simp [h, this]

/-- A byte that was set reads as it was set. -/
theorem lookD_cellsSet_in (l : List Host.Cell) (a : Nat) (b : List Byte) (x : Nat) (h : a ≤ x) (h' : x < a + b.length) :
    lookD (cellsSet l a b) x 0 = b.getD (x - a) 0 := by
  unfold lookD cellsSet cellsBelow cellsFrom
  rw [look_append, look_append, look_filter (fun k => decide (k < a)), look_filter (fun k => decide (a + b.length ≤ k))]
  have h1 : ¬ x < a := by omega
  have h2 : ¬ a + b.length ≤ x := by omega
  have := lookD_cellsOf a b x
  simp only [h1, h2, decide_false, Bool.false_eq_true, if_false, Option.none_or, Option.or_none]
  rw [this, if_pos ⟨h, h'⟩]

end Sys2Proof.Machine
end

