-- ==== Sys2Proof/Laws/Kept.lean ====
section
/-!
SUPPORT. What every shared operation keeps (Kept of Safety.lean), each said once: an operation on a state that keeps what s
has keeps it too.
-/
namespace Sys2Proof.Machine

-- Proofs are checked one after another: many at once take more threads than the check allows.
set_option Elab.async false

variable {s t u : State}

theorem DevState.onward_refl (m : DevState) : m.onward m = true := by cases m <;> rfl

theorem DevState.onward_trans {a b c : DevState} (h : a.onward b = true) (k : b.onward c = true) : a.onward c = true := by
  revert h k
  cases a <;> cases b <;> cases c <;> decide

@[refl] theorem Kept.refl (s : State) : Kept s s :=
  ⟨rfl, rfl, rfl, DevState.onward_refl _, id, id, id⟩

theorem Kept.trans (h : Kept s t) (k : Kept t u) : Kept s u :=
  ⟨k.sameQueue.trans h.sameQueue, k.samePt.trans h.samePt, k.sameBoots.trans h.sameBoots,
    DevState.onward_trans h.modeOnward k.modeOnward, fun x => k.benchStays (h.benchStays x),
    fun x => k.tripStays (h.tripStays x), fun x => k.staysSafe (h.staysSafe x)⟩

/-- A state that agrees in what Kept speaks of. -/
theorem Kept.same (h : Kept s t) (h1 : u.pending = t.pending) (h2 : u.pt = t.pt) (h3 : u.nvm = t.nvm)
    (h4 : u.dev = t.dev) (h5 : u.pins.thermtrip = t.pins.thermtrip) (h6 : u.stores.mem = t.stores.mem)
    (h7 : u.sat = t.sat) : Kept s u :=
  h.trans ⟨h1, h2, by rw [h3], by rw [h4]; exact DevState.onward_refl _, by rw [h3]; exact id, by rw [h5]; exact id,
    fun x => ⟨by rw [h6]; exact x.mem, by rw [h7]; exact x.sat, by rw [h3]; exact x.level, by rw [h4]; exact x.member⟩⟩

/-- A state written out: the queue, PT, the NVM and the SAT counters are those of t, and the rest is free but for what Kept
speaks of. -/
theorem Kept.parts (h : Kept s t) {dev : Device} {pins : Pins} {stores : Stores}
    {clocks boot fuses card mgmt img config test power thermal cells cap bucket glide links fabric windows restore relay job wrap freeIdx}
    (hd : dev = t.dev) (hp : pins.thermtrip = t.pins.thermtrip) (hm : stores.mem = t.stores.mem) :
    Kept s { pending := t.pending, pt := t.pt, nvm := t.nvm, sat := t.sat, dev := dev, pins := pins, stores := stores,
             clocks := clocks, boot := boot, fuses := fuses, card := card, mgmt := mgmt, img := img, config := config, test := test, power := power, thermal := thermal, cells := cells, cap := cap, bucket := bucket, glide := glide, links := links, fabric := fabric, windows := windows, restore := restore, relay := relay, job := job, wrap := wrap, freeIdx := freeIdx } :=
  h.same rfl rfl rfl hd hp hm rfl

/-! ### Updates of parts of the state -/

/-- An update of the device that leaves its state and keeps BOUND or clears it. -/
theorem Kept.withDev (h : Kept s t) (f : Device → Device) (hf : (f t.dev).mode = t.dev.mode)
    (hb : t.dev.memberOk = true → (f t.dev).memberOk = true) : Kept s (t.withDev f) :=
  h.trans ⟨rfl, rfl, rfl, (congrArg t.dev.mode.onward hf).trans (DevState.onward_refl _), id, id,
    fun x => ⟨x.mem, x.sat, x.level, hb x.member⟩⟩

theorem Kept.withPins (h : Kept s t) (f : Pins → Pins) (hf : (f t.pins).thermtrip = t.pins.thermtrip) :
    Kept s (t.withPins f) :=
  h.same rfl rfl rfl rfl hf rfl rfl

/-- An update of the NVM that leaves the boot count, the bench record and LEVEL. -/
theorem Kept.withNvm (h : Kept s t) (f : Nvm → Nvm) (h1 : (f t.nvm).bootCount = t.nvm.bootCount)
    (h2 : (f t.nvm).benchRecord = t.nvm.benchRecord) (h3 : (f t.nvm).level = t.nvm.level) : Kept s (t.withNvm f) :=
  h.trans ⟨rfl, rfl, h1, DevState.onward_refl _, fun x => h2.trans x, id,
    fun x => ⟨x.mem, x.sat, (congrArg (fun l : BitVec 16 => decide (l.toNat ≤ 255 * 256)) h3).trans x.level, x.member⟩⟩

theorem Kept.withStores (h : Kept s t) (f : Stores → Stores) (hf : t.stores.mem.wf = true → (f t.stores).mem.wf = true) :
    Kept s (t.withStores f) :=
  h.trans ⟨rfl, rfl, rfl, DevState.onward_refl _, id, id, fun x => ⟨hf x.mem, x.sat, x.level, x.member⟩⟩

theorem Kept.withClocks (h : Kept s t) (f : Clocks → Clocks) : Kept s (t.withClocks f) := h.same rfl rfl rfl rfl rfl rfl rfl
theorem Kept.withBoot (h : Kept s t) (f : Boot → Boot) : Kept s (t.withBoot f) := h.same rfl rfl rfl rfl rfl rfl rfl
theorem Kept.withCard (h : Kept s t) (f : Scorecard → Scorecard) : Kept s (t.withCard f) := h.same rfl rfl rfl rfl rfl rfl rfl
theorem Kept.withMgmt (h : Kept s t) (f : Mgmt → Mgmt) : Kept s (t.withMgmt f) := h.same rfl rfl rfl rfl rfl rfl rfl
theorem Kept.withI3c (h : Kept s t) (f : I3c → I3c) : Kept s (t.withI3c f) := h.same rfl rfl rfl rfl rfl rfl rfl
theorem Kept.withConfig (h : Kept s t) (f : ImageConfig → ImageConfig) : Kept s (t.withConfig f) :=
  h.same rfl rfl rfl rfl rfl rfl rfl
theorem Kept.withTest (h : Kept s t) (f : TestStatus → TestStatus) : Kept s (t.withTest f) := h.same rfl rfl rfl rfl rfl rfl rfl
theorem Kept.withPower (h : Kept s t) (f : Power → Power) : Kept s (t.withPower f) := h.same rfl rfl rfl rfl rfl rfl rfl
theorem Kept.withThermal (h : Kept s t) (f : Thermal → Thermal) : Kept s (t.withThermal f) := h.same rfl rfl rfl rfl rfl rfl rfl
theorem Kept.withCells (h : Kept s t) (f : Cells → Cells) : Kept s (t.withCells f) := h.same rfl rfl rfl rfl rfl rfl rfl
theorem Kept.withCap (h : Kept s t) (f : CapMap → CapMap) : Kept s (t.withCap f) := h.same rfl rfl rfl rfl rfl rfl rfl
theorem Kept.withBucket (h : Kept s t) (f : Bucket → Bucket) : Kept s (t.withBucket f) := h.same rfl rfl rfl rfl rfl rfl rfl
theorem Kept.withGlide (h : Kept s t) (f : Glide → Glide) : Kept s (t.withGlide f) := h.same rfl rfl rfl rfl rfl rfl rfl
theorem Kept.withLinks (h : Kept s t) (f : Links → Links) : Kept s (t.withLinks f) := h.same rfl rfl rfl rfl rfl rfl rfl
theorem Kept.withFabric (h : Kept s t) (f : Fabric → Fabric) : Kept s (t.withFabric f) := h.same rfl rfl rfl rfl rfl rfl rfl
theorem Kept.withRelay (h : Kept s t) (f : Relay → Relay) : Kept s (t.withRelay f) := h.same rfl rfl rfl rfl rfl rfl rfl
theorem Kept.withJob (h : Kept s t) (f : Job → Job) : Kept s (t.withJob f) := h.same rfl rfl rfl rfl rfl rfl rfl
theorem Kept.withSt (h : Kept s t) (n : Nat) (f : StationRt → StationRt) : Kept s (t.withSt n f) :=
  h.same rfl rfl rfl rfl rfl rfl rfl
theorem Kept.withStack (h : Kept s t) (n : Nat) (f : Stack → Stack) : Kept s (t.withStack n f) :=
  h.same rfl rfl rfl rfl rfl rfl rfl
theorem Kept.withEngine (h : Kept s t) (n : Nat) (f : Engine → Engine) : Kept s (t.withEngine n f) :=
  h.same rfl rfl rfl rfl rfl rfl rfl
theorem Kept.withPort (h : Kept s t) (n : Nat) (f : Port → Port) : Kept s (t.withPort n f) :=
  h.same rfl rfl rfl rfl rfl rfl rfl
theorem Kept.withPCell (h : Kept s t) (n : Nat) (f : PCell → PCell) : Kept s (t.withPCell n f) :=
  h.same rfl rfl rfl rfl rfl rfl rfl
theorem Kept.withCluster (h : Kept s t) (n : Nat) (f : Cluster → Cluster) : Kept s (t.withCluster n f) :=
  h.same rfl rfl rfl rfl rfl rfl rfl
theorem Kept.wrapBy (h : Kept s t) (o n : Nat) : Kept s (t.wrapBy o n) := h.same rfl rfl rfl rfl rfl rfl rfl

/-! ### Folds -/

theorem Kept.foldl {α : Type} {f : State → α → State} {l : List α} (h : Kept s t)
    (hf : ∀ u a, Kept s u → Kept s (f u a)) : Kept s (l.foldl f t) := by
  induction l generalizing t with
  | nil => exact h
  | cons a r ih => exact ih (hf t a h)

theorem Kept.foldlFst {α β : Type} {f : State × β → α → State × β} {l : List α} {b : β} (h : Kept s t)
    (hf : ∀ u b a, Kept s u → Kept s (f (u, b) a).1) : Kept s (l.foldl f (t, b)).1 := by
  induction l generalizing t b with
  | nil => exact h
  | cons a r ih => exact ih (t := (f (t, b) a).1) (b := (f (t, b) a).2) (hf t b a h)

/-! ### Branches, pairs and outcomes -/

theorem Kept.ite {c : Prop} [Decidable c] (h : Kept s t) (k : Kept s u) : Kept s (if c then t else u) := by
  split
  · exact h
  · exact k

theorem Kept.iteFst {α : Type} {c : Prop} [Decidable c] {a b : State × α} (h : Kept s a.1) (k : Kept s b.1) :
    Kept s (if c then a else b).1 := by
  split
  · exact h
  · exact k

theorem Kept.ofFst {α : Type} {e : State × α} {x : α} (he : e = (u, x)) (h : Kept s e.1) : Kept s u := by
  rw [he] at h
  exact h

theorem Goes.next (h : Kept s t) : Goes s (.next t) := ⟨t, rfl, h⟩

theorem Goes.ite {c : Prop} [Decidable c] {a b : Out} (h : Goes s a) (k : Goes s b) : Goes s (if c then a else b) := by
  split
  · exact h
  · exact k

/-! ### Flags, counters and the scorecard -/

theorem satOk_put {l : Table Word} (h : satOk l = true) (k : Nat) (v : Word) (hv : bits v.toNat 62 48 = 0) :
    satOk (put l k v) = true := by
  induction l with
  | nil => simp [put, satOk, hv]
  | cons x r ih =>
    simp only [satOk, List.all_cons, Bool.and_eq_true, decide_eq_true_eq] at h
    have hr := ih h.2
    unfold put
    split
    · simp only [satOk, List.all_cons, Bool.and_eq_true, decide_eq_true_eq]; exact ⟨hv, h.1, h.2⟩
    · split
      · simp only [satOk, List.all_cons, Bool.and_eq_true, decide_eq_true_eq]; exact ⟨hv, h.2⟩
      · simp only [satOk, List.all_cons, Bool.and_eq_true, decide_eq_true_eq]; exact ⟨h.1, hr⟩

theorem satOk_lookD {l : Table Word} (h : satOk l = true) (k : Nat) : bits (lookD l k 0).toNat 62 48 = 0 := by
  induction l with
  | nil => simp [lookD, look, bits]
  | cons x r ih =>
    simp only [satOk, List.all_cons, Bool.and_eq_true, decide_eq_true_eq] at h
    have hr := ih h.2
    by_cases hk : x.1 = k
    · simpa [lookD, look, hk] using h.1
    · simpa [lookD, look, hk] using hr

theorem satAdd_ok (w : Word) (n : Nat) (h : bits w.toNat 62 48 = 0) : bits (satAdd w n).1.toNat 62 48 = 0 := by
  unfold satAdd
  dsimp only
  split
  · exact h
  · split
    · rfl
    · rename_i hn
      have : w.toNat % 2 ^ 48 + n < 2 ^ 48 := by have := hn; unfold satMax at this; omega
      simp only [bits, BitVec.toNat_ofNat] at *
      omega

theorem Kept.setEvent (h : Kept s t) (i c : Nat) : Kept s (t.setEvent i c) := by
  unfold State.setEvent
  dsimp only
  split
  · exact (h.withMgmt _).withI3c _
  · exact h.withMgmt _

theorem Kept.satBy (h : Kept s t) (o n : Nat) : Kept s (t.satBy o n) := by
  have key : Kept s { t with sat := put t.sat o (satAdd (lookD t.sat o 0) n).1 } :=
    h.trans ⟨rfl, rfl, rfl, DevState.onward_refl _, id, id,
      fun x => ⟨x.mem, satOk_put x.sat _ _ (satAdd_ok _ _ (satOk_lookD x.sat _)), x.level, x.member⟩⟩
  unfold State.satBy
  dsimp only
  split
  · exact key.setEvent _ _
  · exact key

theorem Kept.bump (h : Kept s t) (o : Nat) : Kept s (t.bump o) := h.satBy o 1

theorem Kept.record (h : Kept s t) (c d : Nat) (p : List Byte) : Kept s (t.record c d p) := by
  have key : ∀ x, Kept s { t with card := x } := fun x => h.same rfl rfl rfl rfl rfl rfl rfl
  unfold State.record
  dsimp only
  split
  · exact (key _).setEvent _ _
  · exact key _

theorem Kept.addSpare (h : Kept s t) (a b c d e f : Nat) : Kept s (t.addSpare a b c d e f) := by
  unfold State.addSpare
  exact Kept.withNvm h _ rfl rfl rfl

theorem Kept.flush (h : Kept s t) : Kept s t.flush := by
  unfold State.flush
  exact Kept.withCard (Kept.withNvm h _ rfl rfl rfl) _

end Sys2Proof.Machine
end

