-- ==== Sys2Proof/Laws/KeptRoutes.lean ====
section
/-!
SUPPORT. What the operations of Machine/Routes.lean keep.
-/
namespace Sys2Proof.Machine

-- Proofs are checked one after another: many at once take more threads than the check allows.
set_option Elab.async false

variable {s t : State}

theorem Kept.fillLanes (h : Kept s t) (n : Nat) (fuel : Nat) :
    Kept s (State.fillLanes t n fuel) := by
  induction fuel generalizing t n with
  | zero => exact h
  | succ fuel ih =>
    unfold State.fillLanes
    repeat' first
      | with_reducible apply ih
      | with_reducible assumption
      | with_reducible apply Kept.ite
      | with_reducible apply Kept.withPort
      | with_reducible apply Kept.wrapBy
      | dsimp only
      | split
      | (with_reducible apply Kept.parts <;> first | exact rfl | skip)

theorem Kept.handFlits (h : Kept s t) (n : Nat) (fs : List (List Byte)) :
    Kept s (State.handFlits t n fs) := by
  unfold State.handFlits
  repeat' first
    | with_reducible assumption
    | with_reducible apply Kept.ite
    | with_reducible apply Kept.withPort
    | with_reducible apply Kept.fillLanes
    | dsimp only
    | split
    | (with_reducible apply Kept.parts <;> first | exact rfl | skip)

theorem Kept.depart (h : Kept s t) (port : Nat) (p : Packet) :
    Kept s (State.depart t port p) := by
  unfold State.depart
  repeat' first
    | with_reducible assumption
    | with_reducible apply Kept.ite
    | with_reducible apply Kept.withFabric
    | with_reducible apply Kept.handFlits
    | with_reducible apply Kept.wrapBy
    | dsimp only
    | split
    | (with_reducible apply Kept.parts <;> first | exact rfl | skip)

theorem Kept.take (h : Kept s t) (port : Nat) (x : Waiting) :
    Kept s (State.take t port x) := by
  unfold State.take
  repeat' first
    | with_reducible assumption
    | with_reducible apply Kept.ite
    | with_reducible apply Kept.withFabric
    | dsimp only
    | split
    | (with_reducible apply Kept.parts <;> first | exact rfl | skip)

theorem Kept.pump (h : Kept s t) (port : Nat) (fuel : Nat) :
    Kept s (State.pump t port fuel) := by
  induction fuel generalizing t port with
  | zero => exact h
  | succ fuel ih =>
    unfold State.pump
    repeat' first
      | with_reducible apply ih
      | with_reducible assumption
      | with_reducible apply Kept.ite
      | with_reducible apply Kept.take
      | with_reducible apply Kept.depart
      | dsimp only
      | split
      | (with_reducible apply Kept.parts <;> first | exact rfl | skip)

theorem Kept.enqueue (h : Kept s t) (port : Nat) (p : Packet) :
    Kept s (State.enqueue t port p) := by
  unfold State.enqueue
  repeat' first
    | with_reducible assumption
    | with_reducible apply Kept.ite
    | with_reducible apply Kept.bump
    | with_reducible apply Kept.withFabric
    | with_reducible apply Kept.pump
    | dsimp only
    | split
    | (with_reducible apply Kept.parts <;> first | exact rfl | skip)

theorem Kept.toLocal (h : Kept s t) (p : Packet) :
    Kept s (State.toLocal t p) := by
  unfold State.toLocal
  repeat' first
    | with_reducible assumption
    | with_reducible apply Kept.ite
    | with_reducible apply Kept.withFabric
    | dsimp only
    | split
    | (with_reducible apply Kept.parts <;> first | exact rfl | skip)

theorem Kept.cameBy (h : Kept s t) (inPort : Option Nat) :
    Kept s (State.cameBy t inPort) := by
  unfold State.cameBy
  repeat' first
    | with_reducible assumption
    | with_reducible apply Kept.ite
    | with_reducible apply Kept.withFabric
    | dsimp only
    | split
    | (with_reducible apply Kept.parts <;> first | exact rfl | skip)

theorem Kept.routeMgt (h : Kept s t) (inPort : Option Nat) (p : Packet) :
    Kept s (State.routeMgt t inPort p) := by
  unfold State.routeMgt
  repeat' first
    | with_reducible assumption
    | with_reducible apply Kept.ite
    | with_reducible apply Kept.bump
    | with_reducible apply Kept.cameBy
    | with_reducible apply Kept.toLocal
    | with_reducible apply Kept.enqueue
    | dsimp only
    | split
    | (with_reducible apply Kept.parts <;> first | exact rfl | skip)

theorem Kept.sendChunkOf (h : Kept s t) (total : Nat) (c : OutMsg) :
    Kept s (State.sendChunkOf t total c) := by
  unfold State.sendChunkOf
  repeat' first
    | with_reducible assumption
    | with_reducible apply Kept.ite
    | with_reducible apply Kept.withMgmt
    | with_reducible apply Kept.wrapBy
    | with_reducible apply Kept.withI3c
    | with_reducible apply Kept.routeMgt
    | dsimp only
    | split
    | (with_reducible apply Kept.parts <;> first | exact rfl | skip)

theorem Kept.send (h : Kept s t) (dest : Route) (mtype : Nat) (jobId : BitVec 64) (body : List Byte) (acked : Bool) :
    Kept s (State.send t dest mtype jobId body acked) := by
  unfold State.send
  repeat' first
    | with_reducible assumption
    | with_reducible apply Kept.ite
    | with_reducible apply Kept.withMgmt
    | with_reducible apply Kept.sendChunkOf
    | refine Kept.foldl ?_ (fun u a hu => ?_)
    | dsimp only
    | split
    | (with_reducible apply Kept.parts <;> first | exact rfl | skip)

theorem Kept.report (h : Kept s t) (mtype : Nat) (body : List Byte) (acked : Bool) :
    Kept s (State.report t mtype body acked) := by
  unfold State.report
  repeat' first
    | with_reducible assumption
    | with_reducible apply Kept.ite
    | with_reducible apply Kept.send
    | dsimp only
    | split
    | (with_reducible apply Kept.parts <;> first | exact rfl | skip)

end Sys2Proof.Machine
end

