-- ==== Sys2Proof/Laws/KeptPools.lean ====
section
/-!
SUPPORT. What the operations of Machine/Pools.lean keep.
-/
namespace Sys2Proof.Machine

-- Proofs are checked one after another: many at once take more threads than the check allows.
set_option Elab.async false

variable {s t : State}

theorem Kept.request (h : Kept s t) (c : TicketClass) :
    Kept s (State.request t c) := by
  unfold State.request
  repeat' first
    | with_reducible assumption
    | with_reducible apply Kept.ite
    | with_reducible apply Kept.withPower
    | dsimp only
    | split
    | (with_reducible apply Kept.parts <;> first | exact rfl | skip)

theorem Kept.release (h : Kept s t) (c : TicketClass) :
    Kept s (State.release t c) := by
  unfold State.release
  repeat' first
    | with_reducible assumption
    | with_reducible apply Kept.ite
    | with_reducible apply Kept.withPower
    | dsimp only
    | split

theorem Kept.discardRuns (h : Kept s t) (n : Nat) :
    Kept s (State.discardRuns t n) := by
  unfold State.discardRuns
  repeat' first
    | with_reducible assumption
    | with_reducible apply Kept.ite
    | with_reducible apply Kept.withCells
    | dsimp only
    | split
    | (with_reducible apply Kept.parts <;> first | exact rfl | skip)

theorem Kept.withdrawn (h : Kept s t) (t' : Ticket) :
    Kept s (State.withdrawn t t') := by
  unfold State.withdrawn
  repeat' first
    | with_reducible assumption
    | with_reducible apply Kept.ite
    | with_reducible apply Kept.withCells
    | with_reducible apply Kept.discardRuns
    | with_reducible apply Kept.withPort
    | dsimp only
    | split
    | (with_reducible apply Kept.parts <;> first | exact rfl | skip)

theorem Kept.burstRequest (h : Kept s t) (m : Nat) :
    Kept s (State.burstRequest t m) := by
  unfold State.burstRequest
  repeat' first
    | with_reducible assumption
    | with_reducible apply Kept.ite
    | with_reducible apply Kept.request
    | dsimp only
    | split
    | (with_reducible apply Kept.parts <;> first | exact rfl | skip)

theorem Kept.wantAgain (h : Kept s t) (t' : Ticket) :
    Kept s (State.wantAgain t t') := by
  unfold State.wantAgain
  repeat' first
    | with_reducible assumption
    | with_reducible apply Kept.ite
    | with_reducible apply Kept.request
    | with_reducible apply Kept.burstRequest
    | dsimp only
    | split
    | (with_reducible apply Kept.parts <;> first | exact rfl | skip)

theorem Kept.revoke (h : Kept s t) (cause : Nat) (which : List Ticket) :
    Kept s (State.revoke t cause which) := by
  unfold State.revoke
  repeat' first
    | with_reducible assumption
    | with_reducible apply Kept.ite
    | with_reducible apply Kept.withPower
    | with_reducible apply Kept.withdrawn
    | with_reducible apply Kept.wrapBy
    | with_reducible apply Kept.record
    | refine Kept.foldl ?_ (fun u a hu => ?_)
    | dsimp only
    | split

theorem Kept.requestAgain (h : Kept s t) (which : List Ticket) :
    Kept s (State.requestAgain t which) := by
  unfold State.requestAgain
  repeat' first
    | with_reducible assumption
    | with_reducible apply Kept.ite
    | with_reducible apply Kept.wantAgain
    | refine Kept.foldl ?_ (fun u a hu => ?_)
    | dsimp only
    | split

theorem Kept.enforceLimit (h : Kept s t)  :
    Kept s (State.enforceLimit t) := by
  unfold State.enforceLimit
  repeat' first
    | with_reducible assumption
    | with_reducible apply Kept.ite
    | with_reducible apply Kept.revoke
    | with_reducible apply Kept.requestAgain
    | refine Kept.foldl ?_ (fun u a hu => ?_)
    | dsimp only
    | split

theorem Kept.growBurst (h : Kept s t) (m : Nat) :
    Kept s (State.growBurst t m) := by
  unfold State.growBurst
  repeat' first
    | with_reducible assumption
    | with_reducible apply Kept.ite
    | with_reducible apply Kept.release
    | with_reducible apply Kept.request
    | dsimp only
    | split
    | (with_reducible apply Kept.parts <;> first | exact rfl | skip)

theorem Kept.growBursts (h : Kept s t)  :
    Kept s (State.growBursts t) := by
  unfold State.growBursts
  repeat' first
    | with_reducible assumption
    | with_reducible apply Kept.ite
    | with_reducible apply Kept.growBurst
    | refine Kept.foldl ?_ (fun u a hu => ?_)
    | dsimp only
    | split

end Sys2Proof.Machine
end

