-- ==== Sys2Proof/Laws/KeptCapacity.lean ====
section
/-!
SUPPORT. What the operations of Machine/Capacity.lean keep.
-/
namespace Sys2Proof.Machine

-- Proofs are checked one after another: many at once take more threads than the check allows.
set_option Elab.async false

variable {s t : State}

theorem Kept.bindCluster (h : Kept s t) (c : Nat) :
    Kept s (State.bindCluster t c) := by
  unfold State.bindCluster
  repeat' first
    | with_reducible assumption
    | with_reducible apply Kept.ite
    | with_reducible apply Kept.withCluster
    | with_reducible apply Kept.take
    | dsimp only
    | split
    | (with_reducible apply Kept.parts <;> first | exact rfl | skip)

theorem Kept.bindClusters (h : Kept s t)  :
    Kept s (State.bindClusters t) := by
  unfold State.bindClusters
  repeat' first
    | with_reducible assumption
    | with_reducible apply Kept.ite
    | with_reducible apply Kept.bindCluster
    | refine Kept.foldl ?_ (fun u a hu => ?_)
    | dsimp only
    | split

theorem Kept.writeMap (h : Kept s t) (engineReg : Nat → Word) (predN : Nat → Word) :
    Kept s (State.writeMap t engineReg predN) := by
  unfold State.writeMap
  repeat' first
    | with_reducible assumption
    | with_reducible apply Kept.ite
    | with_reducible apply Kept.setEvent
    | with_reducible apply Kept.record
    | dsimp only
    | split
    | (with_reducible apply Kept.parts <;> first | exact rfl | skip)

end Sys2Proof.Machine
end

