-- ==== Sys2Proof/Laws/KeptTransitions.lean ====
section
/-!
SUPPORT. What the operations of Machine/Transitions.lean keep.
-/
namespace Sys2Proof.Machine

-- Proofs are checked one after another: many at once take more threads than the check allows.
set_option Elab.async false

variable {s t : State}

theorem DevState.onward_of_edge {a b : DevState} (h : edge a b = true) (hb : b ≠ .off) (ha : a ≠ .off) :
    a.onward b = true := by
  cases a <;> cases b <;> first | rfl | contradiction

theorem Device.bound_of_ok {d : Device} (h : d.memberOk = true) (hm : d.mode.bindable = false) : d.bound = false := by
  simpa [Device.memberOk, hm] using h

theorem Device.ok_of_unbound {d : Device} (h : d.bound = false) : d.memberOk = true := by simp [Device.memberOk, h]

/-- A transition of the table that neither leaves nor enters OFF, and that leaves the states of membership only unbound. -/
theorem Kept.goto (h : Kept s t) (m : DevState) (hm : m ≠ .off) (hs : m ≠ .standby ∨ t.dev.mode ≠ .off)
    (hb : m.bindable = true ∨ t.dev.mode.bindable = false ∨ t.dev.bound = false) : Kept s (t.goto m) := by
  unfold State.goto
  split
  · rename_i he
    have ho : t.dev.mode ≠ .off := by
      intro e
      rw [e] at he
      cases m <;> simp_all [edge]
    refine Kept.setEvent (h.trans ⟨rfl, rfl, rfl, DevState.onward_of_edge he hm ho, id, id,
      fun x => ⟨x.mem, x.sat, x.level, ?_⟩⟩ : Kept s (t.withDev fun d => { d with mode := m, prev := d.mode })) _ _
    rcases hb with hb | hb | hb
    · simp [Device.memberOk, State.withDev, hb]
    · exact Device.ok_of_unbound (show t.dev.bound = false from Device.bound_of_ok x.member hb)
    · exact Device.ok_of_unbound hb
  · exact h

/-- A transition into a state that a member may be in. -/
theorem Kept.gotoOn (h : Kept s t) (m : DevState) (hm : m ≠ .off ∧ m ≠ .standby ∧ m.bindable = true) : Kept s (t.goto m) :=
  h.goto m hm.1 (Or.inl hm.2.1) (Or.inl hm.2.2)

theorem Kept.endMembership (h : Kept s t)  :
    Kept s (State.endMembership t) := by
  unfold State.endMembership
  refine Kept.parts ?_ rfl rfl rfl
  exact Kept.withRelay (Kept.withFabric (Kept.withPower (Kept.withGlide (Kept.withCells (Kept.withJob
    (Kept.withDev h _ rfl fun _ => Device.ok_of_unbound rfl) _) _) _) _) _) _

theorem Kept.clearTable (h : Kept s t)  :
    Kept s (State.clearTable t) := by
  unfold State.clearTable
  repeat' first
    | with_reducible assumption
    | with_reducible apply Kept.ite
    | with_reducible apply Kept.withFabric
    | dsimp only
    | split
    | (with_reducible apply Kept.parts <;> first | exact rfl | skip)

theorem Kept.fence (h : Kept s t) (n : Nat) (cause : Nat) :
    Kept s (State.fence t n cause) := by
  unfold State.fence
  repeat' first
    | with_reducible assumption
    | with_reducible apply Kept.ite
    | with_reducible apply Kept.withFabric
    | with_reducible apply Kept.satBy
    | with_reducible apply Kept.record
    | refine Kept.foldl ?_ (fun u a hu => ?_)
    | dsimp only
    | split
    | (with_reducible apply Kept.parts <;> first | exact rfl | skip)

theorem Kept.closeTorus (h : Kept s t)  :
    Kept s (State.closeTorus t) := by
  unfold State.closeTorus
  repeat' first
    | with_reducible assumption
    | with_reducible apply Kept.ite
    | with_reducible apply Kept.fence
    | with_reducible apply Kept.withPower
    | with_reducible apply Kept.withLinks
    | refine Kept.foldl ?_ (fun u a hu => ?_)
    | dsimp only
    | split
    | (with_reducible apply Kept.parts <;> first | exact rfl | skip)

theorem Kept.enterFault (h : Kept s t) (code : Nat) :
    Kept s (State.enterFault t code) := by
  unfold State.enterFault
  split
  · dsimp only
    refine Kept.withCard (Kept.closeTorus (Kept.withPower (Kept.goto (Kept.withDev (Kept.endMembership
      (Kept.ite (Kept.report h _ _ _) h)) _ rfl id) .fault (by decide) (Or.inl (by decide)) (Or.inr (Or.inr rfl))) _)) _
  · exact h

theorem Kept.enterBenched (h : Kept s t) (hb : t.dev.mode.bindable = false ∨ t.dev.bound = false) :
    Kept s t.enterBenched := by
  unfold State.enterBenched
  split
  · have k := h.goto .benched (by decide) (Or.inl (by decide)) (Or.inr hb)
    have k2 : Kept s ((t.goto .benched).withNvm fun n => { n with benchRecord := true }) :=
      k.trans ⟨rfl, rfl, rfl, DevState.onward_refl _, fun _ => rfl, id, fun x => ⟨x.mem, x.sat, x.level, x.member⟩⟩
    exact Kept.withCard (Kept.withDev k2 _ rfl id) _
  · exact h

theorem Kept.startFullTest (h : Kept s t)  :
    Kept s (State.startFullTest t) := by
  unfold State.startFullTest
  repeat' first
    | with_reducible assumption
    | with_reducible apply Kept.ite
    | with_reducible apply Kept.withBucket
    | with_reducible apply Kept.withCells
    | dsimp only
    | split
    | (with_reducible apply Kept.parts <;> first | exact rfl | skip)

theorem Kept.enterWatch (h : Kept s t) (test : Bool) :
    Kept s (State.enterWatch t test) := by
  unfold State.enterWatch
  repeat' first
    | with_reducible assumption
    | with_reducible apply Kept.ite
    | with_reducible apply Kept.gotoOn
    | with_reducible apply Kept.withNvm
    | with_reducible apply Kept.startFullTest
    | exact rfl
    | exact ⟨DevState.noConfusion, DevState.noConfusion, rfl⟩
    | dsimp only
    | split
    | (with_reducible apply Kept.parts <;> first | exact rfl | skip)

theorem Kept.newNonce (h : Kept s t)  :
    Kept s (State.newNonce t) := by
  unfold State.newNonce
  repeat' first
    | with_reducible assumption
    | with_reducible apply Kept.ite
    | with_reducible apply Kept.withMgmt
    | dsimp only
    | split
    | (with_reducible apply Kept.parts <;> first | exact rfl | skip)

theorem Kept.mainPowerOff (h : Kept s t)  :
    Kept s (State.mainPowerOff t) := by
  unfold State.mainPowerOff
  exact h.trans ⟨rfl, rfl, rfl, DevState.onward_refl _, id, id, fun x => ⟨Memory.empty_wf, x.sat, x.level, x.member⟩⟩

theorem Kept.enterStandbyDown (h : Kept s t) (hb : t.dev.bound = false) : Kept s t.enterStandbyDown := by
  unfold State.enterStandbyDown
  split
  · rename_i hd
    have k : Kept s (t.goto .standby) :=
      h.goto .standby (by decide) (Or.inr (by simp [hd])) (Or.inr (Or.inr hb))
    exact Kept.mainPowerOff (Kept.newNonce (Kept.withDev (Kept.withPins k _ rfl) _ rfl id))
  · exact h

theorem Kept.leaveDrain (h : Kept s t)  :
    Kept s (State.leaveDrain t) := by
  unfold State.leaveDrain
  split
  · rename_i hd
    have k := Kept.clearTable h
    exact Kept.ite (Kept.enterBenched k (Or.inr hd.2.2)) (Kept.ite (Kept.enterStandbyDown k hd.2.2) (Kept.ite h
      (Kept.ite (Kept.enterWatch k _) (k.goto .ready (by decide) (Or.inl (by decide)) (Or.inr (Or.inr hd.2.2))))))
  · exact h

theorem Kept.completeDrain (h : Kept s t) (outstanding : List Byte) :
    Kept s (State.completeDrain t outstanding) := by
  unfold State.completeDrain
  repeat' first
    | with_reducible assumption
    | with_reducible apply Kept.ite
    | with_reducible apply Kept.withDev
    | with_reducible apply Kept.report
    | with_reducible apply Kept.endMembership
    | with_reducible apply Kept.leaveDrain
    | exact rfl
    | exact id
    | dsimp only
    | split
    | (with_reducible apply Kept.parts <;> first | exact rfl | skip)

theorem Kept.orderDrain (h : Kept s t) (reason : Nat) :
    Kept s (State.orderDrain t reason) := by
  unfold State.orderDrain
  repeat' first
    | with_reducible assumption
    | with_reducible apply Kept.ite
    | with_reducible apply Kept.gotoOn
    | with_reducible apply Kept.withDev
    | with_reducible apply Kept.revoke
    | with_reducible apply Kept.requestAgain
    | with_reducible apply Kept.completeDrain
    | with_reducible apply Kept.leaveDrain
    | exact rfl
    | exact id
    | exact ⟨DevState.noConfusion, DevState.noConfusion, rfl⟩
    | dsimp only
    | split
    | (with_reducible apply Kept.parts <;> first | exact rfl | skip)

theorem Kept.checkFloor (h : Kept s t)  :
    Kept s (State.checkFloor t) := by
  unfold State.checkFloor
  repeat' first
    | with_reducible assumption
    | with_reducible apply Kept.ite
    | with_reducible apply Kept.orderDrain
    | dsimp only
    | split

theorem Kept.testAgain (h : Kept s t)  :
    Kept s (State.testAgain t) := by
  unfold State.testAgain
  repeat' first
    | with_reducible assumption
    | with_reducible apply Kept.ite
    | with_reducible apply Kept.startFullTest
    | dsimp only
    | split
    | (with_reducible apply Kept.parts <;> first | exact rfl | skip)

theorem Kept.noteCrossing (h : Kept s t) (cause : Nat) :
    Kept s (State.noteCrossing t cause) := by
  unfold State.noteCrossing
  repeat' first
    | with_reducible assumption
    | with_reducible apply Kept.ite
    | with_reducible apply Kept.bump
    | with_reducible apply Kept.record
    | dsimp only
    | split

theorem Kept.crossed (h : Kept s t) (cause : Nat) :
    Kept s (State.crossed t cause) := by
  unfold State.crossed
  repeat' first
    | with_reducible assumption
    | with_reducible apply Kept.ite
    | with_reducible apply Kept.noteCrossing
    | with_reducible apply Kept.withNvm
    | with_reducible apply Kept.withBucket
    | with_reducible apply Kept.enterWatch
    | with_reducible apply Kept.testAgain
    | exact rfl
    | dsimp only
    | split
    | (with_reducible apply Kept.parts <;> first | exact rfl | skip)

/-- A level within the bucket's limit. -/
theorem Kept.levelTo (h : Kept s t) (lv : Nat) (hl : Safe s → lv ≤ 255 * 256) : Kept s (t.levelTo lv) := by
  unfold State.levelTo
  dsimp only
  have k : Kept s (t.withNvm fun n => { n with level := BitVec.ofNat 16 lv }) :=
    ⟨h.sameQueue, h.samePt, h.sameBoots, h.modeOnward, h.benchStays, h.tripStays, fun x => by
      have y := h.staysSafe x
      refine ⟨y.mem, y.sat, ?_, y.member⟩
      have := hl x
      simp only [Nvm.levelOk, State.withNvm, BitVec.toNat_ofNat, decide_eq_true_eq]; omega⟩
  exact k.withBucket _

/-- A level within the bucket's limit, with its crossing. -/
theorem Kept.setLevelOf (h : Kept s t) (lv cause : Nat) (hl : Safe s → lv ≤ 255 * 256) :
    Kept s (t.setLevel lv cause) := by
  unfold State.setLevel
  dsimp only
  exact Kept.ite (Kept.crossed (h.levelTo lv hl) _) (h.levelTo lv hl)

theorem Kept.levelLe (h : Kept s t) (x : Safe s) : t.nvm.level.toNat ≤ 255 * 256 := by
  simpa [Nvm.levelOk] using (h.staysSafe x).level

theorem Kept.setLevel (h : Kept s t) (lv cause : Nat) (hl : t.nvm.level.toNat ≤ 255 * 256 → lv ≤ 255 * 256) :
    Kept s (t.setLevel lv cause) := h.setLevelOf lv cause fun x => hl (h.levelLe x)

/-- An order to drain, and a level within the bucket's limit. -/
theorem Kept.drainLevel (h : Kept s t) (reason lv cause : Nat) (hl : Safe s → lv ≤ 255 * 256) :
    Kept s (t.drainLevel reason lv cause) := by
  have k := h.orderDrain reason
  unfold State.drainLevel
  dsimp only
  exact Kept.ite (Kept.ite (Kept.noteCrossing (k.levelTo lv hl) _) (k.levelTo lv hl)) (k.setLevelOf lv cause hl)

theorem State.levelPlus_le (s : State) (n : Nat) : s.levelPlus n ≤ 255 * 256 := Nat.min_le_left _ _

theorem State.levelAtHigh_le (x : s.nvm.level.toNat ≤ 255 * 256) : s.levelAtHigh ≤ 255 * 256 := by
  have := s.bucket.high.isLt
  unfold State.levelAtHigh
  omega

theorem Kept.addPoints (h : Kept s t) (pts : Nat) (cause : Nat) :
    Kept s (State.addPoints t pts cause) := by
  exact Kept.setLevelOf h _ _ (fun _ => t.levelPlus_le pts)

theorem Kept.raiseHigh (h : Kept s t) (cause : Nat) :
    Kept s (State.raiseHigh t cause) := by
  exact Kept.setLevel h _ _ State.levelAtHigh_le

theorem Kept.raiseAndDrain (h : Kept s t) (cause : Nat) :
    Kept s (State.raiseAndDrain t cause) := by
  exact Kept.drainLevel h _ _ _ fun x => State.levelAtHigh_le (h.levelLe x)

theorem Kept.courseError (h : Kept s t) (code : Nat) (station : Nat) :
    Kept s (State.courseError t code station) := by
  unfold State.courseError
  repeat' first
    | with_reducible assumption
    | with_reducible apply Kept.ite
    | with_reducible apply Kept.withCells
    | with_reducible apply Kept.withJob
    | with_reducible apply Kept.report
    | with_reducible apply Kept.orderDrain
    | dsimp only
    | split
    | (with_reducible apply Kept.parts <;> first | exact rfl | skip)

end Sys2Proof.Machine
end

