-- ==== Sys2Proof/Laws/KeptDevice.lean ====
section
/-!
SUPPORT. What the operations of Machine/Device.lean keep.
-/
namespace Sys2Proof.Machine

-- Proofs are checked one after another: many at once take more threads than the check allows.
set_option Elab.async false

variable {s t : State}

theorem Goes.execPwrEnAssert (h : Kept s t)  :
    Goes s (execPwrEnAssert t) := by
  unfold Machine.execPwrEnAssert
  repeat' first
    | with_reducible assumption
    | with_reducible apply Kept.ite
    | with_reducible apply Goes.ite
    | with_reducible apply Goes.next
    | with_reducible apply Kept.withClocks
    | with_reducible apply Kept.withPins
    | exact rfl
    | dsimp only
    | split
    | (with_reducible apply Kept.parts <;> first | exact rfl | skip)

theorem Kept.enterBoot (h : Kept s t)  :
    Kept s (State.enterBoot t) := by
  have k : Kept s (t.goto .boot) := by
    by_cases hd : t.dev.mode = .standby
    · exact h.goto .boot (by decide) (Or.inl (by decide)) (Or.inr (Or.inl (by rw [hd]; rfl)))
    · have he : edge t.dev.mode .boot = false := by cases hm : t.dev.mode <;> simp_all [edge]
      unfold State.goto
      rw [he]
      exact h
  exact Kept.newNonce (Kept.withBoot k _)

theorem Goes.execPgoodAssert (h : Kept s t)  :
    Goes s (execPgoodAssert t) := by
  unfold Machine.execPgoodAssert
  repeat' first
    | with_reducible assumption
    | with_reducible apply Kept.ite
    | with_reducible apply Goes.ite
    | with_reducible apply Goes.next
    | with_reducible apply Kept.withPins
    | with_reducible apply Kept.enterBoot
    | exact rfl
    | dsimp only
    | split
    | (with_reducible apply Kept.parts <;> first | exact rfl | skip)

theorem Kept.attemptFails (h : Kept s t)  :
    Kept s (State.attemptFails t) := by
  unfold State.attemptFails
  repeat' first
    | with_reducible assumption
    | with_reducible apply Kept.ite
    | with_reducible apply Kept.withPins
    | with_reducible apply Kept.record
    | exact rfl
    | dsimp only
    | split
    | (with_reducible apply Kept.parts <;> first | exact rfl | skip)

theorem Goes.execPgoodTimeout (h : Kept s t)  :
    Goes s (execPgoodTimeout t) := by
  unfold Machine.execPgoodTimeout
  repeat' first
    | with_reducible assumption
    | with_reducible apply Kept.ite
    | with_reducible apply Goes.ite
    | with_reducible apply Goes.next
    | with_reducible apply Kept.attemptFails
    | dsimp only
    | split

theorem Goes.execPgoodLost (h : Kept s t)  :
    Goes s (execPgoodLost t) := by
  unfold Machine.execPgoodLost
  repeat' first
    | with_reducible assumption
    | with_reducible apply Kept.ite
    | with_reducible apply Goes.ite
    | with_reducible apply Goes.next
    | with_reducible apply Kept.withPins
    | with_reducible apply Kept.attemptFails
    | with_reducible apply Kept.enterFault
    | exact rfl
    | dsimp only
    | split
    | (with_reducible apply Kept.parts <;> first | exact rfl | skip)

theorem Goes.execDrainReqPinAssert (h : Kept s t)  :
    Goes s (execDrainReqPinAssert t) := by
  unfold Machine.execDrainReqPinAssert
  repeat' first
    | with_reducible assumption
    | with_reducible apply Kept.ite
    | with_reducible apply Goes.ite
    | with_reducible apply Goes.next
    | with_reducible apply Kept.withPins
    | with_reducible apply Kept.orderDrain
    | exact rfl
    | dsimp only
    | split
    | (with_reducible apply Kept.parts <;> first | exact rfl | skip)

theorem Goes.execDrainReqPinDeassert (h : Kept s t)  :
    Goes s (execDrainReqPinDeassert t) := by
  unfold Machine.execDrainReqPinDeassert
  repeat' first
    | with_reducible assumption
    | with_reducible apply Kept.ite
    | with_reducible apply Goes.ite
    | with_reducible apply Goes.next
    | with_reducible apply Kept.withPins
    | with_reducible apply Kept.leaveDrain
    | exact rfl
    | dsimp only
    | split
    | (with_reducible apply Kept.parts <;> first | exact rfl | skip)

theorem Goes.execPwrLimitAssert (h : Kept s t)  :
    Goes s (execPwrLimitAssert t) := by
  unfold Machine.execPwrLimitAssert
  repeat' first
    | with_reducible assumption
    | with_reducible apply Kept.ite
    | with_reducible apply Goes.ite
    | with_reducible apply Goes.next
    | with_reducible apply Kept.withPins
    | with_reducible apply Kept.bump
    | with_reducible apply Kept.record
    | with_reducible apply Kept.withPower
    | with_reducible apply Kept.enforceLimit
    | exact rfl
    | dsimp only
    | split
    | (with_reducible apply Kept.parts <;> first | exact rfl | skip)

theorem Goes.execPwrLimitRelease (h : Kept s t)  :
    Goes s (execPwrLimitRelease t) := by
  unfold Machine.execPwrLimitRelease
  repeat' first
    | with_reducible assumption
    | with_reducible apply Kept.ite
    | with_reducible apply Goes.ite
    | with_reducible apply Goes.next
    | with_reducible apply Kept.withPins
    | with_reducible apply Kept.withPower
    | with_reducible apply Kept.record
    | with_reducible apply Kept.growBursts
    | exact rfl
    | dsimp only
    | split
    | (with_reducible apply Kept.parts <;> first | exact rfl | skip)

theorem Goes.execRootPllLoss (h : Kept s t) (refPresent : Bool) :
    Goes s (execRootPllLoss refPresent t) := by
  unfold Machine.execRootPllLoss
  repeat' first
    | with_reducible assumption
    | with_reducible apply Kept.ite
    | with_reducible apply Goes.ite
    | with_reducible apply Goes.next
    | with_reducible apply Kept.withPins
    | with_reducible apply Kept.withClocks
    | with_reducible apply Kept.enterFault
    | exact rfl
    | dsimp only
    | split
    | (with_reducible apply Kept.parts <;> first | exact rfl | skip)

theorem Goes.execReferenceClockLoss (h : Kept s t)  :
    Goes s (execReferenceClockLoss t) := by
  unfold Machine.execReferenceClockLoss
  repeat' first
    | with_reducible assumption
    | with_reducible apply Kept.ite
    | with_reducible apply Goes.ite
    | with_reducible apply Goes.next
    | with_reducible apply Kept.withPins
    | with_reducible apply Kept.withClocks
    | with_reducible apply Kept.enterFault
    | exact rfl
    | dsimp only
    | split
    | (with_reducible apply Kept.parts <;> first | exact rfl | skip)

theorem Goes.execClockLoss (h : Kept s t) (die : Nat) :
    Goes s (execClockLoss die t) := by
  unfold Machine.execClockLoss
  repeat' first
    | with_reducible assumption
    | with_reducible apply Kept.ite
    | with_reducible apply Goes.ite
    | with_reducible apply Goes.next
    | with_reducible apply Kept.withClocks
    | with_reducible apply Kept.fence
    | with_reducible apply Kept.enterFault
    | with_reducible apply Kept.record
    | dsimp only
    | split
    | (with_reducible apply Kept.parts <;> first | exact rfl | skip)

theorem Goes.execLockstepMismatch (h : Kept s t) (courseControllers : Bool) :
    Goes s (execLockstepMismatch courseControllers t) := by
  unfold Machine.execLockstepMismatch
  repeat' first
    | with_reducible assumption
    | with_reducible apply Kept.ite
    | with_reducible apply Goes.ite
    | with_reducible apply Goes.next
    | with_reducible apply Kept.enterFault
    | dsimp only
    | split

theorem Kept.trip (h : Kept s t) (payload : List Byte) (die : Nat) :
    Kept s (State.trip t payload die) := by
  have k : Kept s (((t.withThermal fun x => { x with trip := true }).record 0x76 die payload).withPins fun p => { p with thermtrip := true }) :=
    Kept.trans (Kept.record (Kept.withThermal h _) _ _ _)
      ⟨rfl, rfl, rfl, DevState.onward_refl _, id, fun _ => rfl, fun x => ⟨x.mem, x.sat, x.level, x.member⟩⟩
  unfold State.trip
  apply Kept.withPins
  · exact Kept.enterFault k _
  · rfl

theorem Goes.execTripComparator (h : Kept s t) (die : Nat) (comp : Nat) :
    Goes s (execTripComparator die comp t) := by
  unfold Machine.execTripComparator
  repeat' first
    | with_reducible assumption
    | with_reducible apply Kept.ite
    | with_reducible apply Goes.ite
    | with_reducible apply Goes.next
    | with_reducible apply Kept.trip
    | with_reducible apply Kept.withThermal
    | with_reducible apply Kept.record
    | dsimp only
    | split
    | (with_reducible apply Kept.parts <;> first | exact rfl | skip)

theorem Goes.execDrained (h : Kept s t)  :
    Goes s (execDrained t) := by
  unfold Machine.execDrained
  repeat' first
    | with_reducible assumption
    | with_reducible apply Kept.ite
    | with_reducible apply Goes.ite
    | with_reducible apply Goes.next
    | with_reducible apply Kept.completeDrain
    | dsimp only
    | split

end Sys2Proof.Machine
end

