-- ==== Sys2Proof/Laws/KeptRouter.lean ====
section
/-!
SUPPORT. What the operations of Machine/Router.lean keep.
-/
namespace Sys2Proof.Machine

-- Proofs are checked one after another: many at once take more threads than the check allows.
set_option Elab.async false

variable {s t : State}

theorem Kept.headerFail (h : Kept s t) (port : Nat) (p : Packet) :
    Kept s (State.headerFail t port p) := by
  unfold State.headerFail
  repeat' first
    | with_reducible assumption
    | with_reducible apply Kept.ite
    | with_reducible apply Kept.bump
    | with_reducible apply Kept.record
    | with_reducible apply Kept.orderDrain
    | dsimp only
    | split

theorem Kept.seqFault (h : Kept s t) (src : Coord) (seq : Nat) (e : Nat) :
    Kept s (State.seqFault t src seq e) := by
  unfold State.seqFault
  repeat' first
    | with_reducible assumption
    | with_reducible apply Kept.ite
    | with_reducible apply Kept.bump
    | with_reducible apply Kept.record
    | with_reducible apply Kept.orderDrain
    | dsimp only
    | split

theorem Kept.withCombines (h : Kept s t) (port : Nat) (f : List Combine → List Combine) :
    Kept s (State.withCombines t port f) := by
  unfold State.withCombines
  repeat' first
    | with_reducible assumption
    | with_reducible apply Kept.ite
    | with_reducible apply Kept.withFabric
    | dsimp only
    | split
    | (with_reducible apply Kept.parts <;> first | exact rfl | skip)

theorem Kept.closeEntry (h : Kept s t) (port : Nat) (i : Nat) :
    Kept s (State.closeEntry t port i) := by
  unfold State.closeEntry
  repeat' first
    | with_reducible assumption
    | with_reducible apply Kept.ite
    | with_reducible apply Kept.withCombines
    | with_reducible apply Kept.enqueue
    | dsimp only
    | split
    | (with_reducible apply Kept.parts <;> first | exact rfl | skip)

theorem Kept.closeFor (h : Kept s t) (port : Nat) (p : Packet) :
    Kept s (State.closeFor t port p) := by
  unfold State.closeFor
  repeat' first
    | with_reducible assumption
    | with_reducible apply Kept.ite
    | with_reducible apply Kept.closeEntry
    | refine Kept.foldl ?_ (fun u a hu => ?_)
    | dsimp only
    | split
    | (with_reducible apply Kept.parts <;> first | exact rfl | skip)

theorem Kept.markPassed (h : Kept s t) (port : Nat) (p : Packet) :
    Kept s (State.markPassed t port p) := by
  unfold State.markPassed
  repeat' first
    | with_reducible assumption
    | with_reducible apply Kept.ite
    | with_reducible apply Kept.withCombines
    | dsimp only
    | split
    | (with_reducible apply Kept.parts <;> first | exact rfl | skip)

theorem Kept.combineLoad (h : Kept s t) (port : Nat) (p : Packet) :
    Kept s (State.combineLoad t port p) := by
  unfold State.combineLoad
  repeat' first
    | with_reducible assumption
    | with_reducible apply Kept.ite
    | with_reducible apply Kept.withCombines
    | with_reducible apply Kept.wrapBy
    | with_reducible apply Kept.markPassed
    | with_reducible apply Kept.enqueue
    | dsimp only
    | split
    | (with_reducible apply Kept.parts <;> first | exact rfl | skip)

theorem Kept.combineAtom (h : Kept s t) (port : Nat) (p : Packet) :
    Kept s (State.combineAtom t port p) := by
  unfold State.combineAtom
  repeat' first
    | with_reducible assumption
    | with_reducible apply Kept.ite
    | with_reducible apply Kept.withCombines
    | with_reducible apply Kept.wrapBy
    | with_reducible apply Kept.closeEntry
    | with_reducible apply Kept.markPassed
    | with_reducible apply Kept.enqueue
    | dsimp only
    | split
    | (with_reducible apply Kept.parts <;> first | exact rfl | skip)

theorem Kept.output (h : Kept s t) (port : Nat) (p : Packet) :
    Kept s (State.output t port p) := by
  unfold State.output
  repeat' first
    | with_reducible assumption
    | with_reducible apply Kept.ite
    | with_reducible apply Kept.closeFor
    | with_reducible apply Kept.combineLoad
    | with_reducible apply Kept.combineAtom
    | with_reducible apply Kept.markPassed
    | with_reducible apply Kept.enqueue
    | dsimp only
    | split
    | (with_reducible apply Kept.parts <;> first | exact rfl | skip)

theorem Kept.forward (h : Kept s t) (inPort : Option Nat) (p : Packet) :
    Kept s (State.forward t inPort p) := by
  unfold State.forward
  repeat' first
    | with_reducible assumption
    | with_reducible apply Kept.ite
    | with_reducible apply Kept.cameBy
    | with_reducible apply Kept.toLocal
    | with_reducible apply Kept.bump
    | with_reducible apply Kept.output
    | dsimp only
    | split
    | (with_reducible apply Kept.parts <;> first | exact rfl | skip)

theorem Kept.inject (h : Kept s t) (p : Packet) :
    Kept s (State.inject t p) := by
  unfold State.inject
  repeat' first
    | with_reducible assumption
    | with_reducible apply Kept.ite
    | with_reducible apply Kept.bump
    | with_reducible apply Kept.wrapBy
    | with_reducible apply Kept.forward
    | with_reducible apply Kept.headerFail
    | dsimp only
    | split
    | (with_reducible apply Kept.parts <;> first | exact rfl | skip)

theorem Kept.poisonMark (h : Kept s t) (p : Packet) :
    Kept s (State.poisonMark t p).1 := by
  unfold State.poisonMark
  repeat' first
    | with_reducible assumption
    | with_reducible apply Kept.ite
    | with_reducible apply Kept.iteFst
    | with_reducible apply Kept.record
    | with_reducible apply Kept.bump
    | refine Kept.foldl ?_ (fun u a hu => ?_)
    | refine Kept.ofFst (by assumption) ?_
    | dsimp only
    | split
    | (with_reducible apply Kept.parts <;> first | exact rfl | skip)

theorem Kept.noteFixed (h : Kept s t) (port : Nat) (p : Packet) : Kept s (State.noteFixed t port p) := by
  unfold State.noteFixed
  exact Kept.foldl h fun u a hu => Kept.record hu _ _ _

theorem Goes.execPacketArrival (h : Kept s t) (port : Nat) (p : Packet) :
    Goes s (execPacketArrival port p t) := by
  unfold Machine.execPacketArrival
  repeat' first
    | with_reducible assumption
    | with_reducible apply Kept.ite
    | with_reducible apply Goes.ite
    | with_reducible apply Goes.next
    | with_reducible apply Kept.noteFixed
    | with_reducible apply Kept.withPort
    | with_reducible apply Kept.wrapBy
    | with_reducible apply Kept.withFabric
    | with_reducible apply Kept.headerFail
    | with_reducible apply Kept.routeMgt
    | with_reducible apply Kept.bump
    | with_reducible apply Kept.poisonMark
    | with_reducible apply Kept.forward
    | refine Kept.ofFst (by assumption) ?_
    | dsimp only
    | split
    | (with_reducible apply Kept.parts <;> first | exact rfl | skip)

theorem Goes.execCreditReturn (h : Kept s t) (port : Nat) (vc : Nat) (flits : Nat) :
    Goes s (execCreditReturn port vc flits t) := by
  unfold Machine.execCreditReturn
  repeat' first
    | with_reducible assumption
    | with_reducible apply Kept.ite
    | with_reducible apply Goes.ite
    | with_reducible apply Goes.next
    | with_reducible apply Kept.withFabric
    | with_reducible apply Kept.pump
    | dsimp only
    | split
    | (with_reducible apply Kept.parts <;> first | exact rfl | skip)

theorem Goes.execCombineEntryClose (h : Kept s t) (port : Nat) (entry : Nat) :
    Goes s (execCombineEntryClose port entry t) := by
  unfold Machine.execCombineEntryClose
  repeat' first
    | with_reducible assumption
    | with_reducible apply Kept.ite
    | with_reducible apply Goes.ite
    | with_reducible apply Goes.next
    | with_reducible apply Kept.cameBy
    | with_reducible apply Kept.closeEntry
    | dsimp only
    | split
    | (with_reducible apply Kept.parts <;> first | exact rfl | skip)

theorem Kept.respond (h : Kept s t) (p : Packet) (opc : Byte) (status : Nat) (payload : List Byte) :
    Kept s (State.respond t p opc status payload) := by
  unfold State.respond
  repeat' first
    | with_reducible assumption
    | with_reducible apply Kept.ite
    | with_reducible apply Kept.bump
    | with_reducible apply Kept.inject
    | dsimp only
    | split

theorem Kept.countDone (h : Kept s t) (c : Coord) :
    Kept s (State.countDone t c) := by
  unfold State.countDone
  repeat' first
    | with_reducible assumption
    | with_reducible apply Kept.ite
    | with_reducible apply Kept.withFabric
    | dsimp only
    | split
    | (with_reducible apply Kept.parts <;> first | exact rfl | skip)

end Sys2Proof.Machine
end

