-- ==== Sys2Proof/Laws/KeptOperands.lean ====
section
/-!
SUPPORT. What the operations of Machine/Operands.lean keep.
-/
namespace Sys2Proof.Machine

-- Proofs are checked one after another: many at once take more threads than the check allows.
set_option Elab.async false

variable {s t : State}

theorem Kept.lineCorrected (h : Kept s t) (cell : Nat) (off : Nat) :
    Kept s (State.lineCorrected t cell off) := by
  unfold State.lineCorrected
  repeat' first
    | with_reducible assumption
    | with_reducible apply Kept.ite
    | with_reducible apply Kept.withPCell
    | with_reducible apply Kept.record
    | dsimp only
    | split
    | (with_reducible apply Kept.parts <;> first | exact rfl | skip)

theorem Kept.granEvent (h : Kept s t) (pass : Option Nat) (a : Nat) (p : Place) (z : ZRead) :
    Kept s (State.granEvent t pass a p z) := by
  unfold State.granEvent
  repeat' first
    | with_reducible assumption
    | with_reducible apply Kept.ite
    | with_reducible apply Kept.record
    | with_reducible apply Kept.bump
    | with_reducible apply Kept.withStack
    | with_reducible apply Kept.withStores
    | with_reducible apply Kept.lineCorrected
    | with_reducible apply Kept.addPoints
    | exact id
    | dsimp only
    | split
    | (with_reducible apply Kept.parts <;> first | exact rfl | skip)

theorem Kept.granEvents (h : Kept s t) (pass : Option Nat) (zs : List (Nat × ZRead)) :
    Kept s (State.granEvents t pass zs) := by
  unfold State.granEvents
  repeat' first
    | with_reducible assumption
    | with_reducible apply Kept.ite
    | with_reducible apply Kept.granEvent
    | refine Kept.foldl ?_ (fun u a hu => ?_)
    | dsimp only
    | split
    | (with_reducible apply Kept.parts <;> first | exact rfl | skip)

theorem Kept.addressError (h : Kept s t) (die : Nat) (unit : Nat) (a : Nat) :
    Kept s (State.addressError t die unit a) := by
  unfold State.addressError
  repeat' first
    | with_reducible assumption
    | with_reducible apply Kept.ite
    | with_reducible apply Kept.record
    | dsimp only
    | split

theorem Kept.badAccess (h : Kept s t) (die : Nat) (unit : Nat) (a : Nat) :
    Kept s (State.badAccess t die unit a) := by
  unfold State.badAccess
  repeat' first
    | with_reducible assumption
    | with_reducible apply Kept.ite
    | with_reducible apply Kept.bump
    | with_reducible apply Kept.addressError
    | dsimp only
    | split

theorem Kept.countBytes (h : Kept s t) (p : Place) (off : Nat) (n : Nat) :
    Kept s (State.countBytes t p off n) := by
  unfold State.countBytes
  repeat' first
    | with_reducible assumption
    | with_reducible apply Kept.ite
    | with_reducible apply Kept.wrapBy
    | dsimp only
    | split
    | (with_reducible apply Kept.parts <;> first | exact rfl | skip)

theorem Kept.countNarrow (h : Kept s t) (p : Place) (a : Nat) (len : Nat) (n : Nat) :
    Kept s (State.countNarrow t p a len n) := by
  unfold State.countNarrow
  repeat' first
    | with_reducible assumption
    | with_reducible apply Kept.ite
    | with_reducible apply Kept.countBytes
    | dsimp only
    | split

theorem Kept.noteRead (h : Kept s t) (die : Nat) (unit : Nat) (a : Nat) (len : Nat) (pass : Option Nat) (gs : List (Nat × ZRead)) :
    Kept s (State.noteRead t die unit a len pass gs) := by
  unfold State.noteRead
  repeat' first
    | with_reducible assumption
    | with_reducible apply Kept.ite
    | with_reducible apply Kept.badAccess
    | with_reducible apply Kept.granEvents
    | with_reducible apply Kept.countBytes
    | dsimp only
    | split
    | (with_reducible apply Kept.parts <;> first | exact rfl | skip)

theorem Kept.readStore (h : Kept s t) (die : Nat) (unit : Nat) (a : Nat) (len : Nat) :
    Kept s (State.readStore t die unit a len).1 := by
  unfold State.readStore
  repeat' first
    | with_reducible assumption
    | with_reducible apply Kept.ite
    | with_reducible apply Kept.iteFst
    | with_reducible apply Kept.noteRead
    | dsimp only
    | split

theorem Kept.withCache (h : Kept s t) (slice : Nat) (f : List CacheLine → List CacheLine) :
    Kept s (State.withCache t slice f) := by
  unfold State.withCache
  repeat' first
    | with_reducible assumption
    | with_reducible apply Kept.ite
    | with_reducible apply Kept.withStores
    | exact id
    | dsimp only
    | split
    | (with_reducible apply Kept.parts <;> first | exact rfl | skip)

theorem Kept.markFills (h : Kept s t) (units : List Nat) :
    Kept s (State.markFills t units) := by
  unfold State.markFills
  repeat' first
    | with_reducible assumption
    | with_reducible apply Kept.ite
    | with_reducible apply Kept.withStores
    | exact id
    | dsimp only
    | split
    | (with_reducible apply Kept.parts <;> first | exact rfl | skip)

theorem Kept.install (h : Kept s t) (c : CacheLine) :
    Kept s (State.install t c) := by
  unfold State.install
  repeat' first
    | with_reducible assumption
    | with_reducible apply Kept.ite
    | with_reducible apply Kept.withCache
    | dsimp only
    | split

theorem Kept.cacheEvents (h : Kept s t) (slice : Nat) (u' : Nat) (zs : List ZRead) :
    Kept s (State.cacheEvents t slice u' zs) := by
  unfold State.cacheEvents
  repeat' first
    | with_reducible assumption
    | with_reducible apply Kept.ite
    | with_reducible apply Kept.bump
    | with_reducible apply Kept.record
    | refine Kept.foldl ?_ (fun u a hu => ?_)
    | dsimp only
    | split
    | (with_reducible apply Kept.parts <;> first | exact rfl | skip)

theorem Kept.refetch (h : Kept s t) (slice : Nat) (u' : Nat) :
    Kept s (State.refetch t slice u') := by
  unfold State.refetch
  repeat' first
    | with_reducible assumption
    | with_reducible apply Kept.ite
    | with_reducible apply Kept.withCache
    | with_reducible apply Kept.bump
    | with_reducible apply Kept.record
    | dsimp only
    | split

theorem Kept.cacheWrite (h : Kept s t) (a : Nat) (b : List Byte) (bad : List Nat) :
    Kept s (State.cacheWrite t a b bad) := by
  unfold State.cacheWrite
  repeat' first
    | with_reducible assumption
    | with_reducible apply Kept.ite
    | with_reducible apply Kept.withCache
    | with_reducible apply Kept.cacheEvents
    | with_reducible apply Kept.markFills
    | refine Kept.foldl ?_ (fun u a hu => ?_)
    | dsimp only
    | split
    | (with_reducible apply Kept.parts <;> first | exact rfl | skip)

theorem Kept.cacheDrop (h : Kept s t) (a : Nat) (len : Nat) :
    Kept s (State.cacheDrop t a len) := by
  unfold State.cacheDrop
  repeat' first
    | with_reducible assumption
    | with_reducible apply Kept.ite
    | with_reducible apply Kept.withCache
    | with_reducible apply Kept.markFills
    | refine Kept.foldl ?_ (fun u a hu => ?_)
    | dsimp only
    | split

theorem Kept.fetchUnit (h : Kept s t) (die : Nat) (unit : Nat) (u' : Nat) :
    Kept s (State.fetchUnit t die unit u').1 := by
  unfold State.fetchUnit
  repeat' first
    | with_reducible assumption
    | with_reducible apply Kept.ite
    | with_reducible apply Kept.iteFst
    | with_reducible apply Kept.wrapBy
    | with_reducible apply Kept.readStore
    | with_reducible apply Kept.install
    | dsimp only
    | split

theorem Kept.readUnit (h : Kept s t) (die : Nat) (unit : Nat) (a : Nat) (len : Nat) :
    Kept s (State.readUnit t die unit a len).1 := by
  unfold State.readUnit
  repeat' first
    | with_reducible assumption
    | with_reducible apply Kept.ite
    | with_reducible apply Kept.iteFst
    | with_reducible apply Kept.take
    | with_reducible apply Kept.refetch
    | with_reducible apply Kept.fetchUnit
    | with_reducible apply Kept.wrapBy
    | with_reducible apply Kept.install
    | with_reducible apply Kept.cacheEvents
    | dsimp only
    | split
    | (with_reducible apply Kept.parts <;> first | exact rfl | skip)

theorem Kept.readHere (h : Kept s t) (die : Nat) (unit : Nat) (a : Nat) (len : Nat) :
    Kept s (State.readHere t die unit a len).1 := by
  unfold State.readHere
  repeat' first
    | with_reducible assumption
    | with_reducible apply Kept.ite
    | with_reducible apply Kept.iteFst
    | with_reducible apply Kept.readStore
    | with_reducible apply Kept.countNarrow
    | dsimp only
    | split
    | (with_reducible apply Kept.parts <;> first | exact rfl | skip)

theorem Kept.readMem (h : Kept s t) (die : Nat) (unit : Nat) (a : Nat) (len : Nat) :
    Kept s (State.readMem t die unit a len).1 := by
  unfold State.readMem
  repeat' first
    | with_reducible assumption
    | with_reducible apply Kept.ite
    | with_reducible apply Kept.iteFst
    | with_reducible apply Kept.readUnit
    | with_reducible apply Kept.readHere
    | refine Kept.foldl ?_ (fun u a hu => ?_)
    | refine Kept.foldlFst ?_ (fun u b a hu => ?_)
    | refine Kept.ofFst (by assumption) ?_
    | dsimp only
    | split

theorem Kept.storeBytes (h : Kept s t) (a : Nat) (b : List Byte) (bad : List Nat) :
    Kept s (State.storeBytes t a b bad) := by
  unfold State.storeBytes
  repeat' first
    | with_reducible assumption
    | with_reducible apply Kept.ite
    | with_reducible apply Kept.withStores
    | with_reducible apply Kept.cacheWrite
    | with_reducible exact id
    | exact fun w => Memory.write_wf w _ _ _
    | dsimp only
    | split
    | (with_reducible apply Kept.parts <;> first | exact rfl | skip)

theorem Kept.noteWrite (h : Kept s t) (p : Place) (a : Nat) (len : Nat) (zs : List (Nat × ZRead)) :
    Kept s (State.noteWrite t p a len zs) := by
  unfold State.noteWrite
  repeat' first
    | with_reducible assumption
    | with_reducible apply Kept.ite
    | with_reducible apply Kept.granEvents
    | with_reducible apply Kept.countBytes
    | with_reducible apply Kept.countNarrow
    | dsimp only
    | split

theorem Kept.writePart (h : Kept s t) (die : Nat) (unit : Nat) (a : Nat) (b : List Byte) (bad : List Nat) :
    Kept s (State.writePart t die unit a b bad) := by
  unfold State.writePart
  repeat' first
    | with_reducible assumption
    | with_reducible apply Kept.ite
    | with_reducible apply Kept.badAccess
    | with_reducible apply Kept.noteWrite
    | with_reducible apply Kept.storeBytes
    | dsimp only
    | split
    | (with_reducible apply Kept.parts <;> first | exact rfl | skip)

theorem Kept.writeMem (h : Kept s t) (die : Nat) (unit : Nat) (a : Nat) (b : List Byte) (bad : List Nat) :
    Kept s (State.writeMem t die unit a b bad) := by
  unfold State.writeMem
  repeat' first
    | with_reducible assumption
    | with_reducible apply Kept.ite
    | with_reducible apply Kept.writePart
    | with_reducible apply Kept.take
    | dsimp only
    | split

theorem Kept.fillMem (h : Kept s t) (a : Nat) (b : List Byte) :
    Kept s (State.fillMem t a b) := by
  unfold State.fillMem
  repeat' first
    | with_reducible assumption
    | with_reducible apply Kept.ite
    | with_reducible apply Kept.withStores
    | with_reducible exact id
    | exact fun w => Memory.write_wf w _ _ _
    | dsimp only
    | split
    | (with_reducible apply Kept.parts <;> first | exact rfl | skip)

end Sys2Proof.Machine
end

