-- ==== Sys2Proof/Laws/KeptStations.lean ====
section
/-!
SUPPORT. What the operations of Machine/Stations.lean keep.
-/
namespace Sys2Proof.Machine

-- Proofs are checked one after another: many at once take more threads than the check allows.
set_option Elab.async false

variable {s t : State}

theorem Kept.emit (h : Kept s t) (st : Nat) (slot : Nat) (count : Nat) :
    Kept s (State.emit t st slot count) := by
  unfold State.emit
  repeat' first
    | with_reducible assumption
    | with_reducible apply Kept.ite
    | with_reducible apply Kept.withCells
    | dsimp only
    | split
    | (with_reducible apply Kept.parts <;> first | exact rfl | skip)

theorem Kept.checkDone (h : Kept s t)  :
    Kept s (State.checkDone t) := by
  unfold State.checkDone
  repeat' first
    | with_reducible assumption
    | with_reducible apply Kept.ite
    | with_reducible apply Kept.withJob
    | with_reducible apply Kept.report
    | with_reducible apply Kept.orderDrain
    | dsimp only
    | split
    | (with_reducible apply Kept.parts <;> first | exact rfl | skip)

theorem Kept.settle (h : Kept s t) (st : Nat) :
    Kept s (State.settle t st) := by
  unfold State.settle
  repeat' first
    | with_reducible assumption
    | with_reducible apply Kept.ite
    | with_reducible apply Kept.withSt
    | with_reducible apply Kept.emit
    | with_reducible apply Kept.withJob
    | with_reducible apply Kept.checkDone
    | refine Kept.foldl ?_ (fun u a hu => ?_)
    | refine Kept.ofFst (by assumption) ?_
    | dsimp only
    | split
    | (with_reducible apply Kept.parts <;> first | exact rfl | skip)

theorem Kept.complete (h : Kept s t) (st : Nat) (i : Nat) :
    Kept s (State.complete t st i) := by
  unfold State.complete
  repeat' first
    | with_reducible assumption
    | with_reducible apply Kept.ite
    | with_reducible apply Kept.withSt
    | with_reducible apply Kept.settle
    | refine Kept.foldl ?_ (fun u a hu => ?_)
    | dsimp only
    | split
    | (with_reducible apply Kept.parts <;> first | exact rfl | skip)

theorem Kept.completeKind (h : Kept s t) (st : Nat) (k : OutKind) :
    Kept s (State.completeKind t st k) := by
  unfold State.completeKind
  repeat' first
    | with_reducible assumption
    | with_reducible apply Kept.ite
    | with_reducible apply Kept.complete
    | dsimp only
    | split
    | (with_reducible apply Kept.parts <;> first | exact rfl | skip)

theorem Kept.tryWait (h : Kept s t) (st : Nat) (sem : Nat) (n : Nat) (whole : Bool) (signal : Option Nat) :
    Kept s (State.tryWait t st sem n whole signal).1 := by
  unfold State.tryWait
  repeat' first
    | with_reducible assumption
    | with_reducible apply Kept.ite
    | with_reducible apply Kept.iteFst
    | with_reducible apply Kept.withSt
    | dsimp only
    | split
    | (with_reducible apply Kept.parts <;> first | exact rfl | skip)

theorem Kept.gate (h : Kept s t) (st : Nat) (cf : Common) (ok : Kind → Bool) {work : State → State}
    (hw : ∀ u, Kept s u → Kept s (work u)) : Kept s (t.gate st cf ok work) := by
  unfold State.gate
  split
  · split
    · have k := Kept.tryWait h st cf.wSem 1 false none
      dsimp only
      split
      · exact hw _ (Kept.withSt k _ _)
      · exact k
    · exact hw _ h
  · exact h

theorem Kept.issue (h : Kept s t) (st : Nat) (os : List Outst) :
    Kept s (State.issue t st os) := by
  unfold State.issue
  repeat' first
    | with_reducible assumption
    | with_reducible apply Kept.ite
    | with_reducible apply Kept.withSt
    | dsimp only
    | split
    | (with_reducible apply Kept.parts <;> first | exact rfl | skip)

theorem Kept.issueDone (h : Kept s t) (st : Nat) (adv : List Advance) (signals : List (Option Nat × Nat)) :
    Kept s (State.issueDone t st adv signals) := by
  unfold State.issueDone
  repeat' first
    | with_reducible assumption
    | with_reducible apply Kept.ite
    | with_reducible apply Kept.withSt
    | with_reducible apply Kept.issue
    | with_reducible apply Kept.settle
    | refine Kept.foldl ?_ (fun u a hu => ?_)
    | dsimp only
    | split

theorem Kept.frameOf (h : Kept s t) (m : MemRead) (st : Nat) (a : Nat) (path : ReadPath) :
    Kept s (State.frameOf t m st a path).state := by
  unfold State.frameOf
  repeat' first
    | with_reducible assumption
    | with_reducible apply Kept.ite
    | with_reducible apply Kept.withSt
    | dsimp only
    | split
    | (with_reducible apply Kept.parts <;> first | exact rfl | skip)

theorem Kept.readFrame (h : Kept s t) (st : Nat) (a : Nat) (path : ReadPath) :
    Kept s (State.readFrame t st a path).state := by
  unfold State.readFrame
  repeat' first
    | with_reducible assumption
    | with_reducible apply Kept.ite
    | with_reducible apply Kept.readMem
    | with_reducible apply Kept.frameOf
    | dsimp only
    | split

theorem Kept.awaitReread (h : Kept s t) (st : Nat) (i : Instr) :
    Kept s (State.awaitReread t st i) := by
  unfold State.awaitReread
  repeat' first
    | with_reducible assumption
    | with_reducible apply Kept.ite
    | with_reducible apply Kept.withSt
    | dsimp only
    | split
    | (with_reducible apply Kept.parts <;> first | exact rfl | skip)

theorem Kept.readPort (h : Kept s t) (st : Nat) (port : Nat) (n : Nat) (path : ReadPath) :
    Kept s (State.readPort t st port n path).state := by
  unfold State.readPort
  repeat' first
    | with_reducible assumption
    | with_reducible apply Kept.ite
    | with_reducible apply Kept.readFrame
    | dsimp only
    | split

theorem Kept.writeFrame (h : Kept s t) (st : Nat) (a : Nat) (f : List Byte) :
    Kept s (State.writeFrame t st a f) := by
  unfold State.writeFrame
  repeat' first
    | with_reducible assumption
    | with_reducible apply Kept.ite
    | with_reducible apply Kept.writeMem
    | dsimp only
    | split

theorem Kept.writePort (h : Kept s t) (st : Nat) (port : Nat) (n : Nat) (f : List Byte) :
    Kept s (State.writePort t st port n f) := by
  unfold State.writePort
  repeat' first
    | with_reducible assumption
    | with_reducible apply Kept.ite
    | with_reducible apply Kept.writeFrame
    | dsimp only
    | split

theorem Kept.tileTransient (h : Kept s t) (a : Nat) (producer : Nat) :
    Kept s (State.tileTransient t a producer) := by
  unfold State.tileTransient
  repeat' first
    | with_reducible assumption
    | with_reducible apply Kept.ite
    | with_reducible apply Kept.record
    | with_reducible apply Kept.bump
    | with_reducible apply Kept.addPoints
    | dsimp only
    | split

theorem Kept.tileFault (h : Kept s t) (a : Nat) (producer : Nat) (step : Nat) :
    Kept s (State.tileFault t a producer step) := by
  unfold State.tileFault
  repeat' first
    | with_reducible assumption
    | with_reducible apply Kept.ite
    | with_reducible apply Kept.record
    | with_reducible apply Kept.bump
    | with_reducible apply Kept.withPCell
    | with_reducible apply Kept.withStack
    | with_reducible apply Kept.drainLevel
    | exact fun _ => State.levelPlus_le _ _
    | dsimp only
    | split
    | (with_reducible apply Kept.parts <;> first | exact rfl | skip)

end Sys2Proof.Machine
end

