-- ==== Sys2Proof/Laws/KeptSequencer.lean ====
section
/-!
SUPPORT. What the operations of Machine/Sequencer.lean keep.
-/
namespace Sys2Proof.Machine

-- Proofs are checked one after another: many at once take more threads than the check allows.
set_option Elab.async false

variable {s t : State}

theorem Goes.execNop (h : Kept s t) (st : Nat) (cf : Common) :
    Goes s (execNop st cf t) := by
  unfold Machine.execNop
  repeat' first
    | with_reducible assumption
    | with_reducible apply Kept.ite
    | with_reducible apply Goes.ite
    | with_reducible apply Goes.next
    | refine Kept.gate ?_ _ _ _ (fun u hu => ?_)
    | with_reducible apply Kept.issueDone
    | dsimp only
    | split

theorem Goes.execSemWait (h : Kept s t) (st : Nat) (cf : Common) (sem : Nat) (count : Nat) :
    Goes s (execSemWait st cf sem count t) := by
  unfold Machine.execSemWait
  repeat' first
    | with_reducible assumption
    | with_reducible apply Kept.ite
    | with_reducible apply Goes.ite
    | with_reducible apply Goes.next
    | refine Kept.gate ?_ _ _ _ (fun u hu => ?_)
    | with_reducible apply Kept.tryWait
    | with_reducible apply Kept.issueDone
    | refine Kept.ofFst (by assumption) ?_
    | dsimp only
    | split

theorem Goes.execSemSignal (h : Kept s t) (st : Nat) (cf : Common) (slot : Nat) (count : Nat) :
    Goes s (execSemSignal st cf slot count t) := by
  unfold Machine.execSemSignal
  repeat' first
    | with_reducible assumption
    | with_reducible apply Kept.ite
    | with_reducible apply Goes.ite
    | with_reducible apply Goes.next
    | refine Kept.gate ?_ _ _ _ (fun u hu => ?_)
    | with_reducible apply Kept.issueDone
    | dsimp only
    | split

theorem Goes.execLoop (h : Kept s t) (st : Nat) (cf : Common) (count : Nat) :
    Goes s (execLoop st cf count t) := by
  unfold Machine.execLoop
  repeat' first
    | with_reducible assumption
    | with_reducible apply Kept.ite
    | with_reducible apply Goes.ite
    | with_reducible apply Goes.next
    | refine Kept.gate ?_ _ _ _ (fun u hu => ?_)
    | with_reducible apply Kept.withSt
    | with_reducible apply Kept.issueDone
    | dsimp only
    | split
    | (with_reducible apply Kept.parts <;> first | exact rfl | skip)

theorem Goes.execEndLoop (h : Kept s t) (st : Nat) (cf : Common) :
    Goes s (execEndLoop st cf t) := by
  unfold Machine.execEndLoop
  repeat' first
    | with_reducible assumption
    | with_reducible apply Kept.ite
    | with_reducible apply Goes.ite
    | with_reducible apply Goes.next
    | refine Kept.gate ?_ _ _ _ (fun u hu => ?_)
    | with_reducible apply Kept.issueDone
    | with_reducible apply Kept.withSt
    | dsimp only
    | split
    | (with_reducible apply Kept.parts <;> first | exact rfl | skip)

theorem Goes.execHalt (h : Kept s t) (st : Nat) (cf : Common) :
    Goes s (execHalt st cf t) := by
  unfold Machine.execHalt
  repeat' first
    | with_reducible assumption
    | with_reducible apply Kept.ite
    | with_reducible apply Goes.ite
    | with_reducible apply Goes.next
    | refine Kept.gate ?_ _ _ _ (fun u hu => ?_)
    | with_reducible apply Kept.withSt
    | with_reducible apply Kept.issueDone
    | dsimp only
    | split
    | (with_reducible apply Kept.parts <;> first | exact rfl | skip)

theorem Goes.execStep (h : Kept s t) (st : Nat) (cf : Common) :
    Goes s (execStep st cf t) := by
  unfold Machine.execStep
  repeat' first
    | with_reducible assumption
    | with_reducible apply Kept.ite
    | with_reducible apply Goes.ite
    | with_reducible apply Goes.next
    | refine Kept.gate ?_ _ _ _ (fun u hu => ?_)
    | with_reducible apply Kept.withSt
    | with_reducible apply Kept.issueDone
    | dsimp only
    | split
    | (with_reducible apply Kept.parts <;> first | exact rfl | skip)

theorem Kept.wake (h : Kept s t) (st : Nat) :
    Kept s (State.wake t st) := by
  unfold State.wake
  repeat' first
    | with_reducible assumption
    | with_reducible apply Kept.ite
    | with_reducible apply Kept.withSt
    | with_reducible apply Kept.issueDone
    | dsimp only
    | split
    | (with_reducible apply Kept.parts <;> first | exact rfl | skip)

theorem Kept.raiseSem (h : Kept s t) (m : SignalMsg) :
    Kept s (State.raiseSem t m) := by
  unfold State.raiseSem
  repeat' first
    | with_reducible assumption
    | with_reducible apply Kept.ite
    | with_reducible apply Kept.courseError
    | with_reducible apply Kept.withSt
    | dsimp only
    | split
    | (with_reducible apply Kept.parts <;> first | exact rfl | skip)

theorem Kept.applySignal (h : Kept s t) (m : SignalMsg) :
    Kept s (State.applySignal t m) := by
  unfold State.applySignal
  repeat' first
    | with_reducible assumption
    | with_reducible apply Kept.ite
    | with_reducible apply Kept.raiseSem
    | with_reducible apply Kept.countDone
    | with_reducible apply Kept.respond
    | dsimp only
    | split
    | (with_reducible apply Kept.parts <;> first | exact rfl | skip)

theorem Kept.semCycle (h : Kept s t) (ms : List SignalMsg) :
    Kept s (State.semCycle t ms) := by
  unfold State.semCycle
  repeat' first
    | with_reducible assumption
    | with_reducible apply Kept.ite
    | with_reducible apply Kept.withCells
    | with_reducible apply Kept.wake
    | with_reducible apply Kept.applySignal
    | refine Kept.foldl ?_ (fun u a hu => ?_)
    | dsimp only
    | split
    | (with_reducible apply Kept.parts <;> first | exact rfl | skip)

theorem Goes.execSignalArrival (h : Kept s t) (first : Nat) (others : List Nat) :
    Goes s (execSignalArrival first others t) := by
  unfold Machine.execSignalArrival
  repeat' first
    | with_reducible assumption
    | with_reducible apply Kept.ite
    | with_reducible apply Goes.ite
    | with_reducible apply Goes.next
    | with_reducible apply Kept.withCells
    | with_reducible apply Kept.semCycle
    | with_reducible apply Kept.checkDone
    | dsimp only
    | split
    | (with_reducible apply Kept.parts <;> first | exact rfl | skip)

theorem Goes.execWatchdog (h : Kept s t) (st : Nat) :
    Goes s (execWatchdog st t) := by
  unfold Machine.execWatchdog
  repeat' first
    | with_reducible assumption
    | with_reducible apply Kept.ite
    | with_reducible apply Goes.ite
    | with_reducible apply Goes.next
    | with_reducible apply Kept.courseError
    | dsimp only
    | split
    | (with_reducible apply Kept.parts <;> first | exact rfl | skip)

end Sys2Proof.Machine
end

