-- ==== Sys2Proof/Laws/KeptArrays.lean ====
section
/-!
SUPPORT. What the operations of Machine/Arrays.lean keep.
-/
namespace Sys2Proof.Machine

-- Proofs are checked one after another: many at once take more threads than the check allows.
set_option Elab.async false

variable {s t : State}

theorem Kept.checkEvent (h : Kept s t) (p : Nat) (f : ArrayFail) (attempt : Nat) :
    Kept s (State.checkEvent t p f attempt) := by
  unfold State.checkEvent
  repeat' first
    | with_reducible assumption
    | with_reducible apply Kept.ite
    | with_reducible apply Kept.record
    | dsimp only
    | split

theorem Kept.checkEvents (h : Kept s t) (p : Nat) (l : List ArrayFail) (attempt : Nat) :
    Kept s (State.checkEvents t p l attempt) := by
  unfold State.checkEvents
  repeat' first
    | with_reducible assumption
    | with_reducible apply Kept.ite
    | with_reducible apply Kept.checkEvent
    | refine Kept.foldl ?_ (fun u a hu => ?_)
    | dsimp only
    | split

theorem Kept.stopOnFail (h : Kept s t) (st : Nat) (p : Nat) (i : Instr) (checks : List ArrayFail) :
    Kept s (State.stopOnFail t st p i checks) := by
  unfold State.stopOnFail
  repeat' first
    | with_reducible assumption
    | with_reducible apply Kept.ite
    | with_reducible apply Kept.withSt
    | with_reducible apply Kept.checkEvents
    | dsimp only
    | split
    | (with_reducible apply Kept.parts <;> first | exact rfl | skip)

theorem Kept.markConcern (h : Kept s t) (p : Nat) (reason : Nat) :
    Kept s (State.markConcern t p reason) := by
  unfold State.markConcern
  repeat' first
    | with_reducible assumption
    | with_reducible apply Kept.ite
    | with_reducible apply Kept.withPCell
    | with_reducible apply Kept.record
    | dsimp only
    | split
    | (with_reducible apply Kept.parts <;> first | exact rfl | skip)

theorem Kept.arrayTransient (h : Kept s t) (p : Nat) :
    Kept s (State.arrayTransient t p) := by
  unfold State.arrayTransient
  repeat' first
    | with_reducible assumption
    | with_reducible apply Kept.ite
    | with_reducible apply Kept.bump
    | with_reducible apply Kept.withPCell
    | with_reducible apply Kept.markConcern
    | with_reducible apply Kept.addPoints
    | dsimp only
    | split
    | (with_reducible apply Kept.parts <;> first | exact rfl | skip)

theorem Kept.ballastFail (h : Kept s t) (cell : Nat) (f : ArrayFail) :
    Kept s (State.ballastFail t cell f) := by
  unfold State.ballastFail
  repeat' first
    | with_reducible assumption
    | with_reducible apply Kept.ite
    | with_reducible apply Kept.checkEvent
    | with_reducible apply Kept.arrayTransient
    | dsimp only
    | split

theorem Kept.ballastFails (h : Kept s t) (cell : Nat) (l : List ArrayFail) :
    Kept s (State.ballastFails t cell l) := by
  unfold State.ballastFails
  repeat' first
    | with_reducible assumption
    | with_reducible apply Kept.ite
    | with_reducible apply Kept.ballastFail
    | refine Kept.foldl ?_ (fun u a hu => ?_)
    | dsimp only
    | split

theorem Kept.setPhase (h : Kept s t) (cell : Nat) (p : ArrayPhase) :
    Kept s (State.setPhase t cell p) := by
  unfold State.setPhase
  repeat' first
    | with_reducible assumption
    | with_reducible apply Kept.ite
    | with_reducible apply Kept.withCells
    | dsimp only
    | split
    | (with_reducible apply Kept.parts <;> first | exact rfl | skip)

theorem Kept.waitTicket (h : Kept s t) (st : Nat) :
    Kept s (State.waitTicket t st) := by
  unfold State.waitTicket
  repeat' first
    | with_reducible assumption
    | with_reducible apply Kept.ite
    | with_reducible apply Kept.withSt
    | dsimp only
    | split
    | (with_reducible apply Kept.parts <;> first | exact rfl | skip)

theorem Kept.arrayRequest (h : Kept s t) (st : Nat) (cell : Nat) :
    Kept s (State.arrayRequest t st cell) := by
  unfold State.arrayRequest
  repeat' first
    | with_reducible assumption
    | with_reducible apply Kept.ite
    | with_reducible apply Kept.request
    | with_reducible apply Kept.setPhase
    | with_reducible apply Kept.waitTicket
    | dsimp only
    | split

theorem Kept.arraysGo (h : Kept s t) (st : Nat) (cell : Nat) :
    Kept s (State.arraysGo t st cell).1 := by
  unfold State.arraysGo
  repeat' first
    | with_reducible assumption
    | with_reducible apply Kept.ite
    | with_reducible apply Kept.iteFst
    | with_reducible apply Kept.arrayRequest
    | with_reducible apply Kept.setPhase
    | with_reducible apply Kept.waitTicket
    | with_reducible apply Kept.request
    | refine Kept.ofFst (by assumption) ?_
    | dsimp only
    | split
    | (with_reducible apply Kept.parts <;> first | exact rfl | skip)

theorem Goes.execRampDownStart (h : Kept s t) (cell : Nat) (ballast : List ArrayFail) :
    Goes s (execRampDownStart cell ballast t) := by
  unfold Machine.execRampDownStart
  repeat' first
    | with_reducible assumption
    | with_reducible apply Kept.ite
    | with_reducible apply Goes.ite
    | with_reducible apply Goes.next
    | with_reducible apply Kept.setPhase
    | with_reducible apply Kept.ballastFails
    | dsimp only
    | split

theorem Goes.execRampDownComplete (h : Kept s t) (cell : Nat) :
    Goes s (execRampDownComplete cell t) := by
  unfold Machine.execRampDownComplete
  repeat' first
    | with_reducible assumption
    | with_reducible apply Kept.ite
    | with_reducible apply Goes.ite
    | with_reducible apply Goes.next
    | with_reducible apply Kept.withPower
    | with_reducible apply Kept.setPhase
    | dsimp only
    | split

theorem Goes.execMmClear (h : Kept s t) (st : Nat) (cf : Common) (acc : Nat) :
    Goes s (execMmClear st cf acc t) := by
  unfold Machine.execMmClear
  repeat' first
    | with_reducible assumption
    | with_reducible apply Kept.ite
    | with_reducible apply Goes.ite
    | with_reducible apply Goes.next
    | refine Kept.gate ?_ _ _ _ (fun u hu => ?_)
    | with_reducible apply Kept.withSt
    | with_reducible apply Kept.issueDone
    | dsimp only
    | split
    | (with_reducible apply Kept.parts <;> first | exact rfl | skip)

theorem Kept.bankRead (h : Kept s t) (cell : Nat) (b : Bank) :
    Kept s (State.bankRead t cell b) := by
  unfold State.bankRead
  repeat' first
    | with_reducible assumption
    | with_reducible apply Kept.ite
    | with_reducible apply Kept.record
    | with_reducible apply Kept.addPoints
    | refine Kept.foldl ?_ (fun u a hu => ?_)
    | dsimp only
    | split

theorem Kept.mmRun (h : Kept s t) (st : Nat) (cf : Common) (a : Nat) (b : Nat) (acc : Nat) (path : ReadPath) (checks : List ArrayFail) :
    Kept s (State.mmRun t st cf a b acc path checks) := by
  unfold State.mmRun
  repeat' first
    | with_reducible assumption
    | with_reducible apply Kept.ite
    | with_reducible apply Kept.arraysGo
    | with_reducible apply Kept.readPort
    | with_reducible apply Kept.awaitReread
    | with_reducible apply Kept.courseError
    | with_reducible apply Kept.bankRead
    | with_reducible apply Kept.issue
    | with_reducible apply Kept.withSt
    | with_reducible apply Kept.stopOnFail
    | refine Kept.ofFst (by assumption) ?_
    | dsimp only
    | split
    | (with_reducible apply Kept.parts <;> first | exact rfl | skip)

theorem Goes.execMmRun (h : Kept s t) (st : Nat) (cf : Common) (a : Nat) (b : Nat) (acc : Nat) (path : ReadPath) (checks : List ArrayFail) :
    Goes s (execMmRun st cf a b acc path checks t) := by
  unfold Machine.execMmRun
  repeat' first
    | with_reducible assumption
    | with_reducible apply Kept.ite
    | with_reducible apply Goes.ite
    | with_reducible apply Goes.next
    | refine Kept.gate ?_ _ _ _ (fun u hu => ?_)
    | with_reducible apply Kept.mmRun
    | dsimp only
    | split

theorem Kept.commitMm (h : Kept s t) (st : Nat) :
    Kept s (State.commitMm t st) := by
  unfold State.commitMm
  repeat' first
    | with_reducible assumption
    | with_reducible apply Kept.ite
    | with_reducible apply Kept.withSt
    | with_reducible apply Kept.completeKind
    | dsimp only
    | split
    | (with_reducible apply Kept.parts <;> first | exact rfl | skip)

theorem Goes.execMmRunCommit (h : Kept s t) (st : Nat) :
    Goes s (execMmRunCommit st t) := by
  unfold Machine.execMmRunCommit
  repeat' first
    | with_reducible assumption
    | with_reducible apply Kept.ite
    | with_reducible apply Goes.ite
    | with_reducible apply Goes.next
    | with_reducible apply Kept.commitMm
    | dsimp only
    | split

theorem Goes.execArrayRepeat (h : Kept s t) (st : Nat) (checks : List ArrayFail) :
    Goes s (execArrayRepeat st checks t) := by
  unfold Machine.execArrayRepeat
  repeat' first
    | with_reducible assumption
    | with_reducible apply Kept.ite
    | with_reducible apply Goes.ite
    | with_reducible apply Goes.next
    | with_reducible apply Kept.withSt
    | with_reducible apply Kept.arrayTransient
    | with_reducible apply Kept.mmRun
    | with_reducible apply Kept.commitMm
    | with_reducible apply Kept.checkEvents
    | with_reducible apply Kept.bump
    | with_reducible apply Kept.withCells
    | dsimp only
    | split
    | (with_reducible apply Kept.parts <;> first | exact rfl | skip)

theorem Goes.execMmDrain (h : Kept s t) (st : Nat) (cf : Common) (o : Nat) (acc : Nat) (fmt : Nat) (rnd : Rnd) (clr : Bool) :
    Goes s (execMmDrain st cf o acc fmt rnd clr t) := by
  unfold Machine.execMmDrain
  repeat' first
    | with_reducible assumption
    | with_reducible apply Kept.ite
    | with_reducible apply Goes.ite
    | with_reducible apply Goes.next
    | refine Kept.gate ?_ _ _ _ (fun u hu => ?_)
    | with_reducible apply Kept.bankRead
    | with_reducible apply Kept.courseError
    | with_reducible apply Kept.writePort
    | with_reducible apply Kept.withSt
    | with_reducible apply Kept.issueDone
    | dsimp only
    | split
    | (with_reducible apply Kept.parts <;> first | exact rfl | skip)

theorem Kept.vecOp (h : Kept s t) (st : Nat) (cf : Common) (fn : VecFn) (a : Nat) (b : Nat) (o : Nat) (fmt : Nat) (rnd : Rnd) (imm : BitVec 32) (path : ReadPath) :
    Kept s (State.vecOp t st cf fn a b o fmt rnd imm path) := by
  unfold State.vecOp
  repeat' first
    | with_reducible assumption
    | with_reducible apply Kept.ite
    | with_reducible apply Kept.courseError
    | with_reducible apply Kept.writePort
    | with_reducible apply Kept.issueDone
    | with_reducible apply Kept.readPort
    | with_reducible apply Kept.awaitReread
    | dsimp only
    | split
    | (with_reducible apply Kept.parts <;> first | exact rfl | skip)

theorem Goes.execVecOp (h : Kept s t) (st : Nat) (cf : Common) (fn : VecFn) (a : Nat) (b : Nat) (o : Nat) (fmt : Nat) (rnd : Rnd) (imm : BitVec 32) (path : ReadPath) :
    Goes s (execVecOp st cf fn a b o fmt rnd imm path t) := by
  unfold Machine.execVecOp
  repeat' first
    | with_reducible assumption
    | with_reducible apply Kept.ite
    | with_reducible apply Goes.ite
    | with_reducible apply Goes.next
    | refine Kept.gate ?_ _ _ _ (fun u hu => ?_)
    | with_reducible apply Kept.vecOp
    | dsimp only
    | split

end Sys2Proof.Machine
end

