-- ==== Sys2Proof/Laws/KeptImage.lean ====
section
/-!
SUPPORT. What the operations of Machine/Image.lean keep.
-/
namespace Sys2Proof.Machine

-- Proofs are checked one after another: many at once take more threads than the check allows.
set_option Elab.async false

variable {s t : State}

theorem Kept.loadImage (h : Kept s t) (img : List Byte) (copy : BitVec 2) :
    Kept s (State.loadImage t img copy) := by
  unfold State.loadImage
  repeat' first
    | with_reducible assumption
    | with_reducible apply Kept.ite
    | with_reducible apply Kept.withClocks
    | with_reducible apply Kept.withCells
    | with_reducible apply Kept.withPower
    | dsimp only
    | split
    | (with_reducible apply Kept.parts <;> first | exact rfl | skip)

theorem Kept.bootImage (h : Kept s t) (readsA : Bool) (readsB : Bool) :
    Kept s (State.bootImage t readsA readsB) := by
  unfold State.bootImage
  repeat' first
    | with_reducible assumption
    | with_reducible apply Kept.ite
    | with_reducible apply Kept.enterFault
    | with_reducible apply Kept.loadImage
    | with_reducible apply Kept.bump
    | with_reducible apply Kept.record
    | dsimp only
    | split
    | (with_reducible apply Kept.parts <;> first | exact rfl | skip)

end Sys2Proof.Machine
end

