-- ==== Sys2Proof/Laws/KeptEngines.lean ====
section
/-!
SUPPORT. What the operations of Machine/Engines.lean keep.
-/
namespace Sys2Proof.Machine

-- Proofs are checked one after another: many at once take more threads than the check allows.
set_option Elab.async false

variable {s t : State}

theorem Kept.writeMapNow (h : Kept s t)  :
    Kept s (State.writeMapNow t) := by
  unfold State.writeMapNow
  repeat' first
    | with_reducible assumption
    | with_reducible apply Kept.ite
    | with_reducible apply Kept.writeMap
    | dsimp only
    | split

theorem Kept.leaveService (h : Kept s t) (n : Nat) (code : Nat) (full : Bool) :
    Kept s (State.leaveService t n code full) := by
  unfold State.leaveService
  repeat' first
    | with_reducible assumption
    | with_reducible apply Kept.ite
    | with_reducible apply Kept.record
    | with_reducible apply Kept.withEngine
    | with_reducible apply Kept.withGlide
    | dsimp only
    | split
    | (with_reducible apply Kept.parts <;> first | exact rfl | skip)

theorem Kept.requestCal (h : Kept s t) (n : Nat) :
    Kept s (State.requestCal t n) := by
  unfold State.requestCal
  repeat' first
    | with_reducible assumption
    | with_reducible apply Kept.ite
    | with_reducible apply Kept.request
    | dsimp only
    | split

theorem Kept.unbindGlide (h : Kept s t) (n : Nat) (st : Nat) :
    Kept s (State.unbindGlide t n st) := by
  unfold State.unbindGlide
  repeat' first
    | with_reducible assumption
    | with_reducible apply Kept.ite
    | with_reducible apply Kept.withEngine
    | with_reducible apply Kept.release
    | dsimp only
    | split
    | (with_reducible apply Kept.parts <;> first | exact rfl | skip)

end Sys2Proof.Machine
end

