-- ==== Sys2Proof/Laws/KeptLinks.lean ====
section
/-!
SUPPORT. What the operations of Machine/Links.lean keep.
-/
namespace Sys2Proof.Machine

-- Proofs are checked one after another: many at once take more threads than the check allows.
set_option Elab.async false

variable {s t : State}

theorem Kept.withChan (h : Kept s t) (n : Nat) (f : Nat) (w : Nat) (g : Channel → Channel) :
    Kept s (State.withChan t n f w g) := by
  unfold State.withChan
  repeat' first
    | with_reducible assumption
    | with_reducible apply Kept.ite
    | with_reducible apply Kept.withPort
    | dsimp only
    | split
    | (with_reducible apply Kept.parts <;> first | exact rfl | skip)

theorem Kept.chanEvent (h : Kept s t) (n : Nat) (f : Nat) (w : Nat) (cause : Nat) :
    Kept s (State.chanEvent t n f w cause) := by
  unfold State.chanEvent
  repeat' first
    | with_reducible assumption
    | with_reducible apply Kept.ite
    | with_reducible apply Kept.record
    | dsimp only
    | split

theorem Kept.fibreEvent (h : Kept s t) (n : Nat) (f : Nat) :
    Kept s (State.fibreEvent t n f) := by
  unfold State.fibreEvent
  repeat' first
    | with_reducible assumption
    | with_reducible apply Kept.ite
    | with_reducible apply Kept.record
    | dsimp only
    | split

theorem Kept.retireChan (h : Kept s t) (n : Nat) (f : Nat) (w : Nat) (cause : Nat) :
    Kept s (State.retireChan t n f w cause) := by
  unfold State.retireChan
  repeat' first
    | with_reducible assumption
    | with_reducible apply Kept.ite
    | with_reducible apply Kept.withChan
    | with_reducible apply Kept.bump
    | with_reducible apply Kept.chanEvent
    | with_reducible apply Kept.withPort
    | with_reducible apply Kept.fibreEvent
    | dsimp only
    | split
    | (with_reducible apply Kept.parts <;> first | exact rfl | skip)

theorem Kept.toLight (h : Kept s t) (n : Nat) :
    Kept s (State.toLight t n) := by
  unfold State.toLight
  repeat' first
    | with_reducible assumption
    | with_reducible apply Kept.ite
    | with_reducible apply Kept.withPort
    | with_reducible apply Kept.request
    | with_reducible apply Kept.release
    | dsimp only
    | split
    | (with_reducible apply Kept.parts <;> first | exact rfl | skip)

theorem Kept.closePort (h : Kept s t) (n : Nat) :
    Kept s (State.closePort t n) := by
  unfold State.closePort
  repeat' first
    | with_reducible assumption
    | with_reducible apply Kept.ite
    | with_reducible apply Kept.withPort
    | with_reducible apply Kept.withPower
    | with_reducible apply Kept.withClocks
    | with_reducible apply Kept.fence
    | dsimp only
    | split
    | (with_reducible apply Kept.parts <;> first | exact rfl | skip)

theorem Kept.portDown (h : Kept s t) (n : Nat) (cause : Nat) :
    Kept s (State.portDown t n cause) := by
  unfold State.portDown
  repeat' first
    | with_reducible assumption
    | with_reducible apply Kept.ite
    | with_reducible apply Kept.record
    | with_reducible apply Kept.bump
    | with_reducible apply Kept.closePort
    | with_reducible apply Kept.toLight
    | dsimp only
    | split

theorem Kept.holdPort (h : Kept s t) (n : Nat) (cause : Nat) :
    Kept s (State.holdPort t n cause) := by
  unfold State.holdPort
  repeat' first
    | with_reducible assumption
    | with_reducible apply Kept.ite
    | with_reducible apply Kept.closePort
    | with_reducible apply Kept.release
    | with_reducible apply Kept.withPort
    | dsimp only
    | split
    | (with_reducible apply Kept.parts <;> first | exact rfl | skip)

theorem Kept.portUp (h : Kept s t) (n : Nat) :
    Kept s (State.portUp t n) := by
  unfold State.portUp
  repeat' first
    | with_reducible assumption
    | with_reducible apply Kept.ite
    | with_reducible apply Kept.release
    | with_reducible apply Kept.withPower
    | with_reducible apply Kept.withPort
    | with_reducible apply Kept.record
    | dsimp only
    | split
    | (with_reducible apply Kept.parts <;> first | exact rfl | skip)

theorem Kept.advancePort (h : Kept s t) (n : Nat) :
    Kept s (State.advancePort t n) := by
  unfold State.advancePort
  repeat' first
    | with_reducible assumption
    | with_reducible apply Kept.ite
    | with_reducible apply Kept.withPort
    | dsimp only
    | split
    | (with_reducible apply Kept.parts <;> first | exact rfl | skip)

theorem Kept.portWork (h : Kept s t) (n : Nat) :
    Kept s (State.portWork t n) := by
  unfold State.portWork
  repeat' first
    | with_reducible assumption
    | with_reducible apply Kept.ite
    | with_reducible apply Kept.withPort
    | with_reducible apply Kept.advancePort
    | dsimp only
    | split
    | (with_reducible apply Kept.parts <;> first | exact rfl | skip)

theorem Kept.toLock (h : Kept s t) (n : Nat) :
    Kept s (State.toLock t n) := by
  unfold State.toLock
  repeat' first
    | with_reducible assumption
    | with_reducible apply Kept.ite
    | with_reducible apply Kept.withPort
    | refine Kept.foldl ?_ (fun u a hu => ?_)
    | dsimp only
    | split
    | (with_reducible apply Kept.parts <;> first | exact rfl | skip)

theorem Kept.leaveLight (h : Kept s t) (n : Nat) :
    Kept s (State.leaveLight t n) := by
  unfold State.leaveLight
  repeat' first
    | with_reducible assumption
    | with_reducible apply Kept.ite
    | with_reducible apply Kept.toLock
    | dsimp only
    | split

theorem Goes.execLightDetected (h : Kept s t) (port : Nat) (fibres : List Nat) :
    Goes s (execLightDetected port fibres t) := by
  unfold Machine.execLightDetected
  repeat' first
    | with_reducible assumption
    | with_reducible apply Kept.ite
    | with_reducible apply Goes.ite
    | with_reducible apply Goes.next
    | with_reducible apply Kept.withPort
    | with_reducible apply Kept.leaveLight
    | dsimp only
    | split
    | (with_reducible apply Kept.parts <;> first | exact rfl | skip)

theorem Kept.trigger (h : Kept s t) (n : Nat) (cause : Nat) :
    Kept s (State.trigger t n cause) := by
  unfold State.trigger
  repeat' first
    | with_reducible assumption
    | with_reducible apply Kept.ite
    | with_reducible apply Kept.withPort
    | with_reducible apply Kept.bump
    | with_reducible apply Kept.withClocks
    | dsimp only
    | split
    | (with_reducible apply Kept.parts <;> first | exact rfl | skip)

theorem Kept.ringWord (h : Kept s t) (n : Nat) (f : Nat) (w : Nat) (cf : Nat) (cw : Nat) :
    Kept s (State.ringWord t n f w cf cw) := by
  unfold State.ringWord
  repeat' first
    | with_reducible assumption
    | with_reducible apply Kept.ite
    | with_reducible apply Kept.withPort
    | with_reducible apply Kept.withChan
    | with_reducible apply Kept.bump
    | with_reducible apply Kept.record
    | with_reducible apply Kept.chanEvent
    | dsimp only
    | split
    | (with_reducible apply Kept.parts <;> first | exact rfl | skip)

theorem Kept.alignChan (h : Kept s t) (n : Nat) (f : Nat) (w : Nat) :
    Kept s (State.alignChan t n f w) := by
  unfold State.alignChan
  repeat' first
    | with_reducible assumption
    | with_reducible apply Kept.ite
    | with_reducible apply Kept.withChan
    | dsimp only
    | split
    | (with_reducible apply Kept.parts <;> first | exact rfl | skip)

theorem Kept.mapWord (h : Kept s t) (n : Nat) (w : Nat) :
    Kept s (State.mapWord t n w) := by
  unfold State.mapWord
  repeat' first
    | with_reducible assumption
    | with_reducible apply Kept.ite
    | with_reducible apply Kept.withPort
    | dsimp only
    | split
    | (with_reducible apply Kept.parts <;> first | exact rfl | skip)

theorem Kept.awaitLoop (h : Kept s t) (n : Nat) :
    Kept s (State.awaitLoop t n) := by
  unfold State.awaitLoop
  repeat' first
    | with_reducible assumption
    | with_reducible apply Kept.ite
    | with_reducible apply Kept.withPort
    | dsimp only
    | split
    | (with_reducible apply Kept.parts <;> first | exact rfl | skip)

theorem Kept.remap (h : Kept s t) (n : Nat) :
    Kept s (State.remap t n) := by
  unfold State.remap
  repeat' first
    | with_reducible assumption
    | with_reducible apply Kept.ite
    | with_reducible apply Kept.withPort
    | dsimp only
    | split
    | (with_reducible apply Kept.parts <;> first | exact rfl | skip)

theorem Kept.identWord (h : Kept s t) (n : Nat) (w : Nat) (rtt : Nat) :
    Kept s (State.identWord t n w rtt) := by
  unfold State.identWord
  repeat' first
    | with_reducible assumption
    | with_reducible apply Kept.ite
    | with_reducible apply Kept.withPort
    | with_reducible apply Kept.holdPort
    | with_reducible apply Kept.portUp
    | with_reducible apply Kept.awaitLoop
    | with_reducible apply Kept.record
    | dsimp only
    | split
    | (with_reducible apply Kept.parts <;> first | exact rfl | skip)

theorem Goes.execTrainingWord (h : Kept s t) (port : Nat) (fibre : Nat) (chan : Nat) (word : BitVec 128) (rtt : Nat) :
    Goes s (execTrainingWord port fibre chan word rtt t) := by
  unfold Machine.execTrainingWord
  repeat' first
    | with_reducible assumption
    | with_reducible apply Kept.ite
    | with_reducible apply Goes.ite
    | with_reducible apply Goes.next
    | with_reducible apply Kept.withPort
    | with_reducible apply Kept.leaveLight
    | with_reducible apply Kept.ringWord
    | with_reducible apply Kept.portWork
    | with_reducible apply Kept.alignChan
    | with_reducible apply Kept.advancePort
    | with_reducible apply Kept.mapWord
    | with_reducible apply Kept.awaitLoop
    | with_reducible apply Kept.identWord
    | with_reducible apply Kept.trigger
    | with_reducible apply Kept.remap
    | dsimp only
    | split
    | (with_reducible apply Kept.parts <;> first | exact rfl | skip)

theorem Goes.execMarginTest (h : Kept s t) (port : Nat) (results : List ChannelMargin) (dark : List Nat) :
    Goes s (execMarginTest port results dark t) := by
  unfold Machine.execMarginTest
  repeat' first
    | with_reducible assumption
    | with_reducible apply Kept.ite
    | with_reducible apply Goes.ite
    | with_reducible apply Goes.next
    | with_reducible apply Kept.withChan
    | with_reducible apply Kept.chanEvent
    | with_reducible apply Kept.withPort
    | with_reducible apply Kept.fibreEvent
    | with_reducible apply Kept.record
    | with_reducible apply Kept.portWork
    | with_reducible apply Kept.awaitLoop
    | refine Kept.foldl ?_ (fun u a hu => ?_)
    | dsimp only
    | split
    | (with_reducible apply Kept.parts <;> first | exact rfl | skip)

theorem Kept.retrainEvent (h : Kept s t) (n : Nat) (causes : Byte) (ns : Nat) (st : LinkState) :
    Kept s (State.retrainEvent t n causes ns st) := by
  unfold State.retrainEvent
  repeat' first
    | with_reducible assumption
    | with_reducible apply Kept.ite
    | with_reducible apply Kept.record
    | dsimp only
    | split

theorem Kept.retrainCut (h : Kept s t) (n : Nat) :
    Kept s (State.retrainCut t n) := by
  unfold State.retrainCut
  repeat' first
    | with_reducible assumption
    | with_reducible apply Kept.ite
    | with_reducible apply Kept.retrainEvent
    | dsimp only
    | split

theorem Goes.execTrainingLimit (h : Kept s t) (port : Nat) :
    Goes s (execTrainingLimit port t) := by
  unfold Machine.execTrainingLimit
  repeat' first
    | with_reducible assumption
    | with_reducible apply Kept.ite
    | with_reducible apply Goes.ite
    | with_reducible apply Goes.next
    | with_reducible apply Kept.retrainEvent
    | with_reducible apply Kept.portDown
    | with_reducible apply Kept.awaitLoop
    | dsimp only
    | split
    | (with_reducible apply Kept.parts <;> first | exact rfl | skip)

theorem Kept.ackLane (h : Kept s t) (n : Nat) (lane : Nat) (a : Nat) :
    Kept s (State.ackLane t n lane a) := by
  unfold State.ackLane
  repeat' first
    | with_reducible assumption
    | with_reducible apply Kept.ite
    | with_reducible apply Kept.withPort
    | with_reducible apply Kept.fillLanes
    | dsimp only
    | split
    | (with_reducible apply Kept.parts <;> first | exact rfl | skip)

theorem Kept.resend (h : Kept s t) (n : Nat) (lane : Nat) :
    Kept s (State.resend t n lane) := by
  unfold State.resend
  repeat' first
    | with_reducible assumption
    | with_reducible apply Kept.ite
    | with_reducible apply Kept.withPort
    | with_reducible apply Kept.bump
    | with_reducible apply Kept.wrapBy
    | with_reducible apply Kept.trigger
    | dsimp only
    | split
    | (with_reducible apply Kept.parts <;> first | exact rfl | skip)

theorem Kept.retryFrom (h : Kept s t) (n : Nat) (lane : Nat) (a : Nat) :
    Kept s (State.retryFrom t n lane a) := by
  unfold State.retryFrom
  repeat' first
    | with_reducible assumption
    | with_reducible apply Kept.ite
    | with_reducible apply Kept.ackLane
    | with_reducible apply Kept.resend
    | dsimp only
    | split
    | (with_reducible apply Kept.parts <;> first | exact rfl | skip)

theorem Kept.deliverFlits (h : Kept s t) (n : Nat) (fuel : Nat) :
    Kept s (State.deliverFlits t n fuel) := by
  induction fuel generalizing t n with
  | zero => exact h
  | succ fuel ih =>
    unfold State.deliverFlits
    repeat' first
      | with_reducible apply ih
      | with_reducible assumption
      | with_reducible apply Kept.ite
      | with_reducible apply Kept.withPort
      | dsimp only
      | split
      | (with_reducible apply Kept.parts <;> first | exact rfl | skip)

theorem Kept.acceptFrame (h : Kept s t) (n : Nat) (lane : Nat) (flit : List Byte) :
    Kept s (State.acceptFrame t n lane flit) := by
  unfold State.acceptFrame
  repeat' first
    | with_reducible assumption
    | with_reducible apply Kept.ite
    | with_reducible apply Kept.withPort
    | with_reducible apply Kept.wrapBy
    | with_reducible apply Kept.deliverFlits
    | dsimp only
    | split
    | (with_reducible apply Kept.parts <;> first | exact rfl | skip)

theorem Kept.askRetry (h : Kept s t) (n : Nat) (lane : Nat) :
    Kept s (State.askRetry t n lane) := by
  unfold State.askRetry
  repeat' first
    | with_reducible assumption
    | with_reducible apply Kept.ite
    | with_reducible apply Kept.withPort
    | dsimp only
    | split
    | (with_reducible apply Kept.parts <;> first | exact rfl | skip)

theorem Goes.execLinkFrame (h : Kept s t) (port : Nat) (lane : Nat) (frame : List Byte) :
    Goes s (execLinkFrame port lane frame t) := by
  unfold Machine.execLinkFrame
  repeat' first
    | with_reducible assumption
    | with_reducible apply Kept.ite
    | with_reducible apply Goes.ite
    | with_reducible apply Goes.next
    | with_reducible apply Kept.withPort
    | with_reducible apply Kept.bump
    | with_reducible apply Kept.askRetry
    | with_reducible apply Kept.retryFrom
    | with_reducible apply Kept.ackLane
    | with_reducible apply Kept.acceptFrame
    | dsimp only
    | split
    | (with_reducible apply Kept.parts <;> first | exact rfl | skip)

theorem Goes.execLinkRetryRequest (h : Kept s t) (port : Nat) (lane : Nat) (ack : Nat) :
    Goes s (execLinkRetryRequest port lane ack t) := by
  unfold Machine.execLinkRetryRequest
  repeat' first
    | with_reducible assumption
    | with_reducible apply Kept.ite
    | with_reducible apply Goes.ite
    | with_reducible apply Goes.next
    | with_reducible apply Kept.retryFrom
    | dsimp only
    | split

theorem Goes.execReplayTimeout (h : Kept s t) (port : Nat) (lane : Nat) :
    Goes s (execReplayTimeout port lane t) := by
  unfold Machine.execReplayTimeout
  repeat' first
    | with_reducible assumption
    | with_reducible apply Kept.ite
    | with_reducible apply Goes.ite
    | with_reducible apply Goes.next
    | with_reducible apply Kept.resend
    | dsimp only
    | split

theorem Kept.takePayload (h : Kept s t) (n : Nat) (f : Nat) (w : Nat) (l : List Nat) :
    Kept s (State.takePayload t n f w l) := by
  unfold State.takePayload
  repeat' first
    | with_reducible assumption
    | with_reducible apply Kept.ite
    | with_reducible apply Kept.withPort
    | with_reducible apply Kept.take
    | dsimp only
    | split
    | (with_reducible apply Kept.parts <;> first | exact rfl | skip)

theorem Goes.execCodeword (h : Kept s t) (port : Nat) (fibre : Nat) (chan : Nat) (symbols : List Nat) :
    Goes s (execCodeword port fibre chan symbols t) := by
  unfold Machine.execCodeword
  repeat' first
    | with_reducible assumption
    | with_reducible apply Kept.ite
    | with_reducible apply Goes.ite
    | with_reducible apply Goes.next
    | with_reducible apply Kept.wrapBy
    | with_reducible apply Kept.bump
    | with_reducible apply Kept.withChan
    | with_reducible apply Kept.satBy
    | with_reducible apply Kept.retireChan
    | with_reducible apply Kept.trigger
    | with_reducible apply Kept.takePayload
    | dsimp only
    | split
    | (with_reducible apply Kept.parts <;> first | exact rfl | skip)

theorem Goes.execCorrectedSymbolWindow (h : Kept s t) (port : Nat) (fibre : Nat) (chan : Nat) :
    Goes s (execCorrectedSymbolWindow port fibre chan t) := by
  unfold Machine.execCorrectedSymbolWindow
  repeat' first
    | with_reducible assumption
    | with_reducible apply Kept.ite
    | with_reducible apply Goes.ite
    | with_reducible apply Goes.next
    | with_reducible apply Kept.withChan
    | with_reducible apply Kept.retireChan
    | with_reducible apply Kept.trigger
    | dsimp only
    | split
    | (with_reducible apply Kept.parts <;> first | exact rfl | skip)

theorem Goes.execLightLost (h : Kept s t) (port : Nat) (loss : LightLoss) :
    Goes s (execLightLost port loss t) := by
  unfold Machine.execLightLost
  repeat' first
    | with_reducible assumption
    | with_reducible apply Kept.ite
    | with_reducible apply Goes.ite
    | with_reducible apply Goes.next
    | with_reducible apply Kept.retireChan
    | with_reducible apply Kept.trigger
    | with_reducible apply Kept.retrainCut
    | with_reducible apply Kept.portDown
    | with_reducible apply Kept.withPort
    | dsimp only
    | split
    | (with_reducible apply Kept.parts <;> first | exact rfl | skip)

theorem Goes.execBridgeLineCheckFail (h : Kept s t) (port : Nat) (bundle : Nat) (lane : Nat) :
    Goes s (execBridgeLineCheckFail port bundle lane t) := by
  unfold Machine.execBridgeLineCheckFail
  repeat' first
    | with_reducible assumption
    | with_reducible apply Kept.ite
    | with_reducible apply Goes.ite
    | with_reducible apply Goes.next
    | with_reducible apply Kept.withPort
    | with_reducible apply Kept.addSpare
    | with_reducible apply Kept.trigger
    | dsimp only
    | split
    | (with_reducible apply Kept.parts <;> first | exact rfl | skip)

theorem Goes.execCombFailure (h : Kept s t) (port : Nat) (linePower : Int) :
    Goes s (execCombFailure port linePower t) := by
  unfold Machine.execCombFailure
  repeat' first
    | with_reducible assumption
    | with_reducible apply Kept.ite
    | with_reducible apply Goes.ite
    | with_reducible apply Goes.next
    | with_reducible apply Kept.withPort
    | with_reducible apply Kept.bump
    | with_reducible apply Kept.record
    | with_reducible apply Kept.trigger
    | with_reducible apply Kept.retrainCut
    | with_reducible apply Kept.portDown
    | with_reducible apply Kept.checkFloor
    | dsimp only
    | split
    | (with_reducible apply Kept.parts <;> first | exact rfl | skip)

theorem Goes.execFastRetrainComplete (h : Kept s t) (port : Nat) (report : RetrainReport) :
    Goes s (execFastRetrainComplete port report t) := by
  unfold Machine.execFastRetrainComplete
  repeat' first
    | with_reducible assumption
    | with_reducible apply Kept.ite
    | with_reducible apply Goes.ite
    | with_reducible apply Goes.next
    | with_reducible apply Kept.report
    | with_reducible apply Kept.retireChan
    | with_reducible apply Kept.remap
    | with_reducible apply Kept.withClocks
    | with_reducible apply Kept.record
    | with_reducible apply Kept.retrainEvent
    | with_reducible apply Kept.enterFault
    | with_reducible apply Kept.portDown
    | with_reducible apply Kept.awaitLoop
    | with_reducible apply Kept.withPort
    | with_reducible apply Kept.ackLane
    | with_reducible apply Kept.wrapBy
    | with_reducible apply Kept.fillLanes
    | with_reducible apply Kept.pump
    | with_reducible apply Kept.trigger
    | refine Kept.foldl ?_ (fun u a hu => ?_)
    | dsimp only
    | split
    | (with_reducible apply Kept.parts <;> first | exact rfl | skip)

theorem Goes.execLoopbackTest (h : Kept s t) (port : Nat) (fieldsFullSet : Bool) :
    Goes s (execLoopbackTest port fieldsFullSet t) := by
  unfold Machine.execLoopbackTest
  repeat' first
    | with_reducible assumption
    | with_reducible apply Kept.ite
    | with_reducible apply Goes.ite
    | with_reducible apply Goes.next
    | with_reducible apply Kept.holdPort
    | with_reducible apply Kept.record
    | with_reducible apply Kept.checkFloor
    | dsimp only
    | split

theorem Kept.setHold (h : Kept s t) (port : Nat) (value : Bool) :
    Kept s (State.setHold t port value) := by
  unfold State.setHold
  repeat' first
    | with_reducible assumption
    | with_reducible apply Kept.ite
    | with_reducible apply Kept.withPort
    | with_reducible apply Kept.holdPort
    | with_reducible apply Kept.toLight
    | dsimp only
    | split
    | (with_reducible apply Kept.parts <;> first | exact rfl | skip)

theorem Goes.execHold (h : Kept s t) (port : Nat) (value : Bool) :
    Goes s (execHold port value t) := by
  unfold Machine.execHold
  repeat' first
    | with_reducible assumption
    | with_reducible apply Kept.ite
    | with_reducible apply Goes.ite
    | with_reducible apply Goes.next
    | with_reducible apply Kept.setHold
    | dsimp only
    | split

theorem Kept.retrainPort (h : Kept s t) (port : Nat) :
    Kept s (State.retrainPort t port) := by
  unfold State.retrainPort
  repeat' first
    | with_reducible assumption
    | with_reducible apply Kept.ite
    | with_reducible apply Kept.closePort
    | with_reducible apply Kept.withPort
    | with_reducible apply Kept.toLight
    | dsimp only
    | split
    | (with_reducible apply Kept.parts <;> first | exact rfl | skip)

theorem Goes.execRetrainGo (h : Kept s t) (port : Nat) :
    Goes s (execRetrainGo port t) := by
  unfold Machine.execRetrainGo
  repeat' first
    | with_reducible assumption
    | with_reducible apply Kept.ite
    | with_reducible apply Goes.ite
    | with_reducible apply Goes.next
    | with_reducible apply Kept.retrainPort
    | dsimp only
    | split

theorem Goes.execFenceGo (h : Kept s t) (port : Nat) :
    Goes s (execFenceGo port t) := by
  unfold Machine.execFenceGo
  repeat' first
    | with_reducible assumption
    | with_reducible apply Kept.ite
    | with_reducible apply Goes.ite
    | with_reducible apply Goes.next
    | with_reducible apply Kept.fence
    | dsimp only
    | split

end Sys2Proof.Machine
end

