-- ==== Sys2Proof/Laws/KeptGlide.lean ====
section
/-!
SUPPORT. What the operations of Machine/Glide.lean keep.
-/
namespace Sys2Proof.Machine

-- Proofs are checked one after another: many at once take more threads than the check allows.
set_option Elab.async false

variable {s t : State}

theorem Kept.readFrames (h : Kept s t) (st : Nat) (addrs : List Nat) (path : ReadPath) :
    Kept s (State.readFrames t st addrs path).1 := by
  induction addrs generalizing t path with
  | nil => exact h
  | cons x r ih =>
    have k := Kept.readFrame h st x path
    unfold State.readFrames
    dsimp only
    split
    · exact k
    · exact ih k _

theorem Kept.reloadW (h : Kept s t) (st : Nat) :
    Kept s (State.reloadW t st) := by
  unfold State.reloadW
  repeat' first
    | with_reducible assumption
    | with_reducible apply Kept.ite
    | with_reducible apply Kept.readFrames
    | with_reducible apply Kept.tileFault
    | with_reducible apply Kept.courseError
    | with_reducible apply Kept.withSt
    | dsimp only
    | split
    | (with_reducible apply Kept.parts <;> first | exact rfl | skip)

theorem Kept.rerunOnCell (h : Kept s t) (st : Nat) :
    Kept s (State.rerunOnCell t st) := by
  unfold State.rerunOnCell
  repeat' first
    | with_reducible assumption
    | with_reducible apply Kept.ite
    | with_reducible apply Kept.reloadW
    | with_reducible apply Kept.withSt
    | dsimp only
    | split
    | (with_reducible apply Kept.parts <;> first | exact rfl | skip)

theorem Kept.barStation (h : Kept s t) (n : Nat) (st : Nat) (cause : Nat) :
    Kept s (State.barStation t n st cause) := by
  unfold State.barStation
  repeat' first
    | with_reducible assumption
    | with_reducible apply Kept.ite
    | with_reducible apply Kept.record
    | with_reducible apply Kept.bump
    | with_reducible apply Kept.withJob
    | with_reducible apply Kept.rerunOnCell
    | with_reducible apply Kept.unbindGlide
    | with_reducible apply Kept.withGlide
    | dsimp only
    | split
    | (with_reducible apply Kept.parts <;> first | exact rfl | skip)

theorem Kept.settleMap (h : Kept s t) (n : Nat) :
    Kept s (State.settleMap t n) := by
  unfold State.settleMap
  repeat' first
    | with_reducible assumption
    | with_reducible apply Kept.ite
    | with_reducible apply Kept.withEngine
    | dsimp only
    | split
    | (with_reducible apply Kept.parts <;> first | exact rfl | skip)

theorem Kept.applyMap (h : Kept s t) (n : Nat) (st : Nat) :
    Kept s (State.applyMap t n st) := by
  unfold State.applyMap
  repeat' first
    | with_reducible assumption
    | with_reducible apply Kept.ite
    | with_reducible apply Kept.withEngine
    | with_reducible apply Kept.settleMap
    | dsimp only
    | split
    | (with_reducible apply Kept.parts <;> first | exact rfl | skip)

theorem Kept.storeMap (h : Kept s t) (n : Nat) (st : Nat) (m : PhaseMap) :
    Kept s (State.storeMap t n st m) := by
  unfold State.storeMap
  repeat' first
    | with_reducible assumption
    | with_reducible apply Kept.ite
    | with_reducible apply Kept.withEngine
    | with_reducible apply Kept.applyMap
    | dsimp only
    | split
    | (with_reducible apply Kept.parts <;> first | exact rfl | skip)

theorem Kept.engineGo (h : Kept s t) (n : Nat) (st : Nat) :
    Kept s (State.engineGo t n st).1 := by
  unfold State.engineGo
  repeat' first
    | with_reducible assumption
    | with_reducible apply Kept.ite
    | with_reducible apply Kept.iteFst
    | with_reducible apply Kept.request
    | with_reducible apply Kept.waitTicket
    | refine Kept.ofFst (by assumption) ?_
    | dsimp only
    | split

theorem Kept.refuseMap (h : Kept s t) (n : Nat) (st : Nat) (cause : Nat) :
    Kept s (State.refuseMap t n st cause) := by
  unfold State.refuseMap
  repeat' first
    | with_reducible assumption
    | with_reducible apply Kept.ite
    | with_reducible apply Kept.barStation
    | with_reducible apply Kept.withEngine
    | dsimp only
    | split
    | (with_reducible apply Kept.parts <;> first | exact rfl | skip)

theorem Kept.glLoad (h : Kept s t) (st : Nat) (cf : Common) (w : Nat) (map : Nat) (path : ReadPath) :
    Kept s (State.glLoad t st cf w map path) := by
  unfold State.glLoad
  repeat' first
    | with_reducible assumption
    | with_reducible apply Kept.ite
    | with_reducible apply Kept.withSt
    | with_reducible apply Kept.issueDone
    | with_reducible apply Kept.engineGo
    | with_reducible apply Kept.readFrames
    | with_reducible apply Kept.awaitReread
    | with_reducible apply Kept.courseError
    | with_reducible apply Kept.storeMap
    | with_reducible apply Kept.issue
    | with_reducible apply Kept.refuseMap
    | refine Kept.ofFst (by assumption) ?_
    | dsimp only
    | split
    | (with_reducible apply Kept.parts <;> first | exact rfl | skip)

theorem Kept.settleLoads (h : Kept s t)  :
    Kept s (State.settleLoads t) := by
  unfold State.settleLoads
  repeat' first
    | with_reducible assumption
    | with_reducible apply Kept.ite
    | with_reducible apply Kept.completeKind
    | refine Kept.foldl ?_ (fun u a hu => ?_)
    | dsimp only
    | split

theorem Goes.execGlLoad (h : Kept s t) (st : Nat) (cf : Common) (w : Nat) (map : Nat) (path : ReadPath) :
    Goes s (execGlLoad st cf w map path t) := by
  unfold Machine.execGlLoad
  repeat' first
    | with_reducible assumption
    | with_reducible apply Kept.ite
    | with_reducible apply Goes.ite
    | with_reducible apply Goes.next
    | refine Kept.gate ?_ _ _ _ (fun u hu => ?_)
    | with_reducible apply Kept.glLoad
    | dsimp only
    | split

theorem Kept.engineTakes (h : Kept s t) (n : Nat) (st : Nat) :
    Kept s (State.engineTakes t n st).1 := by
  unfold State.engineTakes
  repeat' first
    | with_reducible assumption
    | with_reducible apply Kept.ite
    | with_reducible apply Kept.iteFst
    | with_reducible apply Kept.engineGo
    | with_reducible apply Kept.settleMap
    | dsimp only
    | split

theorem Kept.sampled (h : Kept s t) (n : Nat) (st : Nat) (g : GlideW) (h' : HeldRun) (adc : List (List (List Int))) :
    Kept s (State.sampled t n st g h' adc) := by
  unfold State.sampled
  repeat' first
    | with_reducible assumption
    | with_reducible apply Kept.ite
    | with_reducible apply Kept.wrapBy
    | with_reducible apply Kept.satBy
    | with_reducible apply Kept.withEngine
    | refine Kept.foldl ?_ (fun u a hu => ?_)
    | dsimp only
    | split
    | (with_reducible apply Kept.parts <;> first | exact rfl | skip)

theorem Kept.glAgain (h : Kept s t) (st : Nat) (h' : HeldRun) (adc : List (List (List Int))) :
    Kept s (State.glAgain t st h' adc) := by
  unfold State.glAgain
  repeat' first
    | with_reducible assumption
    | with_reducible apply Kept.ite
    | with_reducible apply Kept.engineTakes
    | with_reducible apply Kept.withSt
    | with_reducible apply Kept.sampled
    | dsimp only
    | split
    | (with_reducible apply Kept.parts <;> first | exact rfl | skip)

theorem Kept.glRun (h : Kept s t) (st : Nat) (cf : Common) (i : Nat) (o : Nat) (fmt : Nat) (rnd : Rnd) (adc : List (List (List Int))) (path : ReadPath) (checks : List ArrayFail) :
    Kept s (State.glRun t st cf i o fmt rnd adc path checks) := by
  unfold State.glRun
  repeat' first
    | with_reducible assumption
    | with_reducible apply Kept.ite
    | with_reducible apply Kept.engineTakes
    | with_reducible apply Kept.arraysGo
    | with_reducible apply Kept.readPort
    | with_reducible apply Kept.awaitReread
    | with_reducible apply Kept.courseError
    | with_reducible apply Kept.issue
    | with_reducible apply Kept.withSt
    | with_reducible apply Kept.sampled
    | with_reducible apply Kept.stopOnFail
    | refine Kept.ofFst (by assumption) ?_
    | dsimp only
    | split
    | (with_reducible apply Kept.parts <;> first | exact rfl | skip)

theorem Goes.execGlRun (h : Kept s t) (st : Nat) (cf : Common) (i : Nat) (o : Nat) (fmt : Nat) (rnd : Rnd) (adc : List (List (List Int))) (path : ReadPath) (checks : List ArrayFail) :
    Goes s (execGlRun st cf i o fmt rnd adc path checks t) := by
  unfold Machine.execGlRun
  repeat' first
    | with_reducible assumption
    | with_reducible apply Kept.ite
    | with_reducible apply Goes.ite
    | with_reducible apply Goes.next
    | with_reducible apply Kept.glAgain
    | refine Kept.gate ?_ _ _ _ (fun u hu => ?_)
    | with_reducible apply Kept.glRun
    | dsimp only
    | split
    | (with_reducible apply Kept.parts <;> first | exact rfl | skip)

theorem Kept.countGlFrame (h : Kept s t) (n : Nat) (st : Nat) (h' : HeldRun) :
    Kept s (State.countGlFrame t n st h') := by
  unfold State.countGlFrame
  repeat' first
    | with_reducible assumption
    | with_reducible apply Kept.ite
    | with_reducible apply Kept.wrapBy
    | with_reducible apply Kept.bump
    | with_reducible apply Kept.record
    | with_reducible apply Kept.withEngine
    | dsimp only
    | split
    | (with_reducible apply Kept.parts <;> first | exact rfl | skip)

theorem Kept.glComplete (h : Kept s t) (st : Nat) :
    Kept s (State.glComplete t st) := by
  unfold State.glComplete
  repeat' first
    | with_reducible assumption
    | with_reducible apply Kept.ite
    | with_reducible apply Kept.writePort
    | with_reducible apply Kept.withSt
    | with_reducible apply Kept.countGlFrame
    | with_reducible apply Kept.completeKind
    | dsimp only
    | split
    | (with_reducible apply Kept.parts <;> first | exact rfl | skip)

theorem Goes.execGlRunComplete (h : Kept s t) (run : HostRun) :
    Goes s (execGlRunComplete run t) := by
  unfold Machine.execGlRunComplete
  repeat' first
    | with_reducible assumption
    | with_reducible apply Kept.ite
    | with_reducible apply Goes.ite
    | with_reducible apply Goes.next
    | with_reducible apply Kept.glComplete
    | with_reducible apply Kept.arraysGo
    | with_reducible apply Kept.withSt
    | with_reducible apply Kept.stopOnFail
    | refine Kept.ofFst (by assumption) ?_
    | dsimp only
    | split
    | (with_reducible apply Kept.parts <;> first | exact rfl | skip)

theorem Kept.withSlot (h : Kept s t) (n : Nat) (st : Nat) (f : MapSlot → MapSlot) :
    Kept s (State.withSlot t n st f) := by
  unfold State.withSlot
  repeat' first
    | with_reducible assumption
    | with_reducible apply Kept.ite
    | with_reducible apply Kept.withEngine
    | dsimp only
    | split
    | (with_reducible apply Kept.parts <;> first | exact rfl | skip)

theorem Kept.passWindow (h : Kept s t) (n : Nat) (st : Nat) :
    Kept s (State.passWindow t n st) := by
  unfold State.passWindow
  repeat' first
    | with_reducible assumption
    | with_reducible apply Kept.ite
    | with_reducible apply Kept.withSt
    | dsimp only
    | split
    | (with_reducible apply Kept.parts <;> first | exact rfl | skip)

theorem Goes.execFastWindow (h : Kept s t) (engine st : Nat) (codes : List (List Int)) :
    Goes s (execFastWindow engine st codes t) := by
  unfold Machine.execFastWindow
  repeat' first
    | with_reducible assumption
    | with_reducible apply Kept.ite
    | with_reducible apply Goes.ite
    | with_reducible apply Goes.next
    | with_reducible apply Kept.take
    | with_reducible apply Kept.wrapBy
    | with_reducible apply Kept.withEngine
    | with_reducible apply Kept.withSlot
    | with_reducible apply Kept.passWindow
    | with_reducible apply Kept.bump
    | with_reducible apply Kept.leaveService
    | dsimp only
    | split
    | (with_reducible apply Kept.parts <;> first | exact rfl | skip)

theorem Goes.execDriftWindow (h : Kept s t) (engine st : Nat) :
    Goes s (execDriftWindow engine st t) := by
  unfold Machine.execDriftWindow
  repeat' first
    | with_reducible assumption
    | with_reducible apply Kept.ite
    | with_reducible apply Goes.ite
    | with_reducible apply Goes.next
    | with_reducible apply Kept.withEngine
    | with_reducible apply Kept.withSlot
    | dsimp only
    | split
    | (with_reducible apply Kept.parts <;> first | exact rfl | skip)

theorem Kept.withShadow (h : Kept s t) (n : Nat) (st : Nat) (f : ShadowRec → ShadowRec) :
    Kept s (State.withShadow t n st f) := by
  unfold State.withShadow
  repeat' first
    | with_reducible assumption
    | with_reducible apply Kept.ite
    | with_reducible apply Kept.withEngine
    | dsimp only
    | split
    | (with_reducible apply Kept.parts <;> first | exact rfl | skip)

theorem Kept.judgeWindow (h : Kept s t) (n : Nat) (st : Nat) (w : List ShadowStat) :
    Kept s (State.judgeWindow t n st w) := by
  unfold State.judgeWindow
  repeat' first
    | with_reducible assumption
    | with_reducible apply Kept.ite
    | with_reducible apply Kept.withShadow
    | with_reducible apply Kept.bump
    | with_reducible apply Kept.record
    | with_reducible apply Kept.barStation
    | with_reducible apply Kept.leaveService
    | refine Kept.foldl ?_ (fun u a hu => ?_)
    | dsimp only
    | split
    | (with_reducible apply Kept.parts <;> first | exact rfl | skip)

theorem Goes.execShadowRecompute (h : Kept s t) (run : HostRun) :
    Goes s (execShadowRecompute run t) := by
  unfold Machine.execShadowRecompute
  repeat' first
    | with_reducible assumption
    | with_reducible apply Kept.ite
    | with_reducible apply Goes.ite
    | with_reducible apply Goes.next
    | with_reducible apply Kept.withEngine
    | with_reducible apply Kept.wrapBy
    | with_reducible apply Kept.stopOnFail
    | with_reducible apply Kept.withShadow
    | with_reducible apply Kept.judgeWindow
    | dsimp only
    | split
    | (with_reducible apply Kept.parts <;> first | exact rfl | skip)

theorem Goes.execGlideRecalTrigger (h : Kept s t) (engine : Nat) (code : Nat) :
    Goes s (execGlideRecalTrigger engine code t) := by
  unfold Machine.execGlideRecalTrigger
  repeat' first
    | with_reducible assumption
    | with_reducible apply Kept.ite
    | with_reducible apply Goes.ite
    | with_reducible apply Goes.next
    | with_reducible apply Kept.leaveService
    | dsimp only
    | split

theorem Kept.calibrated (h : Kept s t) (c : GlideCal) :
    Kept s (State.calibrated t c) := by
  unfold State.calibrated
  repeat' first
    | with_reducible assumption
    | with_reducible apply Kept.ite
    | with_reducible apply Kept.withEngine
    | with_reducible apply Kept.bump
    | with_reducible apply Kept.record
    | with_reducible apply Kept.release
    | with_reducible apply Kept.withGlide
    | dsimp only
    | split
    | (with_reducible apply Kept.parts <;> first | exact rfl | skip)

theorem Goes.execRecalibrationComplete (h : Kept s t) (cal : GlideCal) :
    Goes s (execRecalibrationComplete cal t) := by
  unfold Machine.execRecalibrationComplete
  repeat' first
    | with_reducible assumption
    | with_reducible apply Kept.ite
    | with_reducible apply Goes.ite
    | with_reducible apply Goes.next
    | with_reducible apply Kept.calibrated
    | dsimp only
    | split

theorem Goes.execRetrackComplete (h : Kept s t) (engine : Nat) :
    Goes s (execRetrackComplete engine t) := by
  unfold Machine.execRetrackComplete
  repeat' first
    | with_reducible assumption
    | with_reducible apply Kept.ite
    | with_reducible apply Goes.ite
    | with_reducible apply Goes.next
    | with_reducible apply Kept.withEngine
    | with_reducible apply Kept.release
    | with_reducible apply Kept.withGlide
    | with_reducible apply Kept.leaveService
    | dsimp only
    | split
    | (with_reducible apply Kept.parts <;> first | exact rfl | skip)

theorem Goes.execRecalRetry (h : Kept s t) (engine : Nat) :
    Goes s (execRecalRetry engine t) := by
  unfold Machine.execRecalRetry
  repeat' first
    | with_reducible assumption
    | with_reducible apply Kept.ite
    | with_reducible apply Goes.ite
    | with_reducible apply Goes.next
    | with_reducible apply Kept.withEngine
    | with_reducible apply Kept.requestCal
    | dsimp only
    | split
    | (with_reducible apply Kept.parts <;> first | exact rfl | skip)

theorem Goes.execGlideMapSwitch (h : Kept s t) (engine : Nat) :
    Goes s (execGlideMapSwitch engine t) := by
  unfold Machine.execGlideMapSwitch
  repeat' first
    | with_reducible assumption
    | with_reducible apply Kept.ite
    | with_reducible apply Goes.ite
    | with_reducible apply Goes.next
    | with_reducible apply Kept.applyMap
    | dsimp only
    | split
    | (with_reducible apply Kept.parts <;> first | exact rfl | skip)

theorem Goes.execTuningUpdate (h : Kept s t) (engine : Nat) :
    Goes s (execTuningUpdate engine t) := by
  unfold Machine.execTuningUpdate
  repeat' first
    | with_reducible assumption
    | with_reducible apply Kept.ite
    | with_reducible apply Goes.ite
    | with_reducible apply Goes.next
    | with_reducible apply Kept.withEngine
    | dsimp only
    | split
    | (with_reducible apply Kept.parts <;> first | exact rfl | skip)

end Sys2Proof.Machine
end

