-- ==== Sys2Proof/Laws/KeptPatterns.lean ====
section
/-!
SUPPORT. What the operations of Machine/Patterns.lean keep.
-/
namespace Sys2Proof.Machine

-- Proofs are checked one after another: many at once take more threads than the check allows.
set_option Elab.async false

variable {s t : State}

theorem Kept.keepPattern (h : Kept s t) (o : PatternOps) :
    Kept s (State.keepPattern t o).1 := by
  unfold State.keepPattern
  repeat' first
    | with_reducible assumption
    | with_reducible apply Kept.ite
    | with_reducible apply Kept.iteFst
    | with_reducible apply Kept.withCard
    | refine Kept.ofFst (by assumption) ?_
    | dsimp only
    | split
    | (with_reducible apply Kept.parts <;> first | exact rfl | skip)

end Sys2Proof.Machine
end

