-- ==== Sys2Proof/Laws/KeptRequests.lean ====
section
/-!
SUPPORT. What the operations of Machine/Requests.lean keep.
-/
namespace Sys2Proof.Machine

-- Proofs are checked one after another: many at once take more threads than the check allows.
set_option Elab.async false

variable {s t : State}

theorem Kept.closedWindow (h : Kept s t)  :
    Kept s (State.closedWindow t) := by
  unfold State.closedWindow
  repeat' first
    | with_reducible assumption
    | with_reducible apply Kept.ite
    | with_reducible apply Kept.courseError
    | dsimp only
    | split

theorem Kept.signalSlots (h : Kept s t) (id : Nat) (fuel : Nat) :
    Kept s (State.signalSlots t id fuel) := by
  induction fuel generalizing t id with
  | zero => exact h
  | succ fuel ih =>
    unfold State.signalSlots
    repeat' first
      | with_reducible apply ih
      | with_reducible assumption
      | with_reducible apply Kept.ite
      | with_reducible apply Kept.emit
      | refine Kept.foldl ?_ (fun u a hu => ?_)
      | dsimp only
      | split
      | (with_reducible apply Kept.parts <;> first | exact rfl | skip)

theorem Kept.tileWrite (h : Kept s t) (id : Nat) (w : Window) (p : Packet) :
    Kept s (State.tileWrite t id w p).1 := by
  unfold State.tileWrite
  repeat' first
    | with_reducible assumption
    | with_reducible apply Kept.ite
    | with_reducible apply Kept.iteFst
    | with_reducible apply Kept.courseError
    | with_reducible apply Kept.writeMem
    | with_reducible apply Kept.signalSlots
    | dsimp only
    | split
    | (with_reducible apply Kept.parts <;> first | exact rfl | skip)

theorem Kept.memWrite (h : Kept s t) (obj : Nat) (off : Nat) (bytes : List Byte) (bad : List Nat) :
    Kept s (State.memWrite t obj off bytes bad) := by
  unfold State.memWrite
  repeat' first
    | with_reducible assumption
    | with_reducible apply Kept.ite
    | with_reducible apply Kept.writeMem
    | refine Kept.foldl ?_ (fun u a hu => ?_)
    | dsimp only
    | split

theorem Kept.verifyRestored (h : Kept s t) (obj : Nat) (f : Nat) :
    Kept s (State.verifyRestored t obj f).1 := by
  unfold State.verifyRestored
  repeat' first
    | with_reducible assumption
    | with_reducible apply Kept.ite
    | with_reducible apply Kept.iteFst
    | with_reducible apply Kept.readMem
    | with_reducible apply Kept.tileFault
    | refine Kept.ofFst (by assumption) ?_
    | dsimp only
    | split

theorem Kept.verifyObject (h : Kept s t) (obj : Nat) (n : Nat) :
    Kept s (State.verifyObject t obj n).1 := by
  exact Kept.foldlFst h fun u b a hu => Kept.verifyRestored hu _ _

theorem Kept.restoreObject (h : Kept s t) (r : Restore) (obj : Nat) :
    Kept s (State.restoreObject t r obj) := by
  unfold State.restoreObject
  dsimp only
  split
  · exact Kept.parts (Kept.verifyObject h _ _) rfl rfl rfl
  · exact Kept.parts h rfl rfl rfl

theorem Kept.restoreWrite (h : Kept s t) (r : Restore) (p : Packet) :
    Kept s (State.restoreWrite t r p) := by
  unfold State.restoreWrite
  repeat' first
    | with_reducible assumption
    | with_reducible apply Kept.ite
    | with_reducible apply Kept.writeMem
    | with_reducible apply Kept.restoreObject
    | dsimp only
    | split
    | (with_reducible apply Kept.parts <;> first | exact rfl | skip)

theorem Kept.doWrite (h : Kept s t) (p : Packet) :
    Kept s (State.doWrite t p) := by
  unfold State.doWrite
  repeat' first
    | with_reducible assumption
    | with_reducible apply Kept.ite
    | with_reducible apply Kept.restoreWrite
    | with_reducible apply Kept.countDone
    | with_reducible apply Kept.respond
    | with_reducible apply Kept.closedWindow
    | with_reducible apply Kept.memWrite
    | with_reducible apply Kept.tileWrite
    | refine Kept.ofFst (by assumption) ?_
    | dsimp only
    | split
    | (with_reducible apply Kept.parts <;> first | exact rfl | skip)

theorem Kept.doStore (h : Kept s t) (p : Packet) :
    Kept s (State.doStore t p) := by
  unfold State.doStore
  repeat' first
    | with_reducible assumption
    | with_reducible apply Kept.ite
    | with_reducible apply Kept.closedWindow
    | with_reducible apply Kept.countDone
    | with_reducible apply Kept.respond
    | with_reducible apply Kept.writeMem
    | dsimp only
    | split
    | (with_reducible apply Kept.parts <;> first | exact rfl | skip)

theorem Kept.doLoad (h : Kept s t) (p : Packet) :
    Kept s (State.doLoad t p) := by
  unfold State.doLoad
  repeat' first
    | with_reducible assumption
    | with_reducible apply Kept.ite
    | with_reducible apply Kept.closedWindow
    | with_reducible apply Kept.respond
    | with_reducible apply Kept.readMem
    | refine Kept.ofFst (by assumption) ?_
    | dsimp only
    | split
    | (with_reducible apply Kept.parts <;> first | exact rfl | skip)

theorem Kept.atomicAt (h : Kept s t) (a : Nat) (fn : Nat) (wide : Bool) (data : List Byte) :
    Kept s (State.atomicAt t a fn wide data).1 := by
  unfold State.atomicAt
  repeat' first
    | with_reducible assumption
    | with_reducible apply Kept.ite
    | with_reducible apply Kept.iteFst
    | with_reducible apply Kept.readStore
    | with_reducible apply Kept.writePart
    | with_reducible apply Kept.cacheDrop
    | dsimp only
    | split

theorem Kept.markAtomic (h : Kept s t) (c : Coord) (seq : BitVec 16) (old : Nat) (status : Nat) :
    Kept s (State.markAtomic t c seq old status) := by
  unfold State.markAtomic
  repeat' first
    | with_reducible assumption
    | with_reducible apply Kept.ite
    | with_reducible apply Kept.withFabric
    | with_reducible apply Kept.settle
    | dsimp only
    | split
    | (with_reducible apply Kept.parts <;> first | exact rfl | skip)

theorem Kept.answerAtomic (h : Kept s t) (p : Packet) (old : Nat) (status : Nat) :
    Kept s (State.answerAtomic t p old status) := by
  unfold State.answerAtomic
  repeat' first
    | with_reducible assumption
    | with_reducible apply Kept.ite
    | with_reducible apply Kept.respond
    | dsimp only
    | split

theorem Kept.replayAtomic (h : Kept s t) (p : Packet) :
    Kept s (State.replayAtomic t p) := by
  unfold State.replayAtomic
  repeat' first
    | with_reducible assumption
    | with_reducible apply Kept.ite
    | with_reducible apply Kept.bump
    | with_reducible apply Kept.answerAtomic
    | dsimp only
    | split

theorem Kept.applyAtomic (h : Kept s t) (p : Packet) {r : State × Nat × Nat} (e : t.applyAtomic p = some r) :
    Kept s r.1 := by
  unfold State.applyAtomic at e
  split at e
  · cases e
  · dsimp only at e
    generalize (if p.aux.getLsbD 4 = true then 8 else 4) = n at e
    split at e
    · cases e; exact h
    · cases e; exact Kept.atomicAt h _ _ _ _

theorem Kept.doAtomic (h : Kept s t) (p : Packet) : Kept s (t.doAtomic p) := by
  unfold State.doAtomic
  dsimp only
  generalize List.map _ p.constituents = l
  have k : Kept s (List.foldl (fun u (c : Packet × Nat) => State.replayAtomic u c.1)
      (List.foldl (fun u (c : Packet × Nat) => u.seqFault c.1.src c.1.seq.toNat (u.atomState c.1.src).e.toNat) t
        (l.filter fun c => c.2 = 3)) (l.filter fun c => c.2 = 2)) :=
    Kept.foldl (Kept.foldl h fun u a hu => Kept.seqFault hu _ _ _) fun u a hu => Kept.replayAtomic hu _
  split
  · exact k
  · split
    · exact Kept.closedWindow (k)
    · rename_i e
      exact Kept.foldl (Kept.applyAtomic (k) _ e) fun u a hu =>
        Kept.answerAtomic (Kept.countDone (Kept.markAtomic hu _ _ _ _) _) _ _ _

theorem Kept.doRefetch (h : Kept s t) (p : Packet) :
    Kept s (State.doRefetch t p) := by
  unfold State.doRefetch
  repeat' first
    | with_reducible assumption
    | with_reducible apply Kept.ite
    | with_reducible apply Kept.replayAtomic
    | with_reducible apply Kept.seqFault
    | dsimp only
    | split

theorem Kept.doSignal (h : Kept s t) (p : Packet) :
    Kept s (State.doSignal t p) := by
  unfold State.doSignal
  repeat' first
    | with_reducible assumption
    | with_reducible apply Kept.ite
    | with_reducible apply Kept.semCycle
    | with_reducible apply Kept.checkDone
    | dsimp only
    | split
    | (with_reducible apply Kept.parts <;> first | exact rfl | skip)

theorem Kept.doFar (h : Kept s t) (p : Packet) :
    Kept s (State.doFar t p) := by
  unfold State.doFar
  repeat' first
    | with_reducible assumption
    | with_reducible apply Kept.ite
    | with_reducible apply Kept.closedWindow
    | with_reducible apply Kept.countDone
    | with_reducible apply Kept.respond
    | with_reducible apply Kept.readMem
    | with_reducible apply Kept.bump
    | with_reducible apply Kept.writeMem
    | with_reducible apply Kept.atomicAt
    | refine Kept.ofFst (by assumption) ?_
    | dsimp only
    | split
    | (with_reducible apply Kept.parts <;> first | exact rfl | skip)

theorem Kept.takeLocal (h : Kept s t) (p : Packet) :
    Kept s (State.takeLocal t p) := by
  unfold State.takeLocal
  repeat' first
    | with_reducible assumption
    | with_reducible apply Kept.ite
    | with_reducible apply Kept.withFabric
    | dsimp only
    | split
    | (with_reducible apply Kept.parts <;> first | exact rfl | skip)

theorem Kept.perform (h : Kept s t) (p : Packet) :
    Kept s (State.perform t p) := by
  unfold State.perform
  repeat' first
    | with_reducible assumption
    | with_reducible apply Kept.ite
    | with_reducible apply Kept.wrapBy
    | with_reducible apply Kept.doWrite
    | with_reducible apply Kept.doStore
    | with_reducible apply Kept.doLoad
    | with_reducible apply Kept.doAtomic
    | with_reducible apply Kept.doSignal
    | with_reducible apply Kept.doRefetch
    | with_reducible apply Kept.doFar
    | dsimp only
    | split
    | (with_reducible apply Kept.parts <;> first | exact rfl | skip)

theorem Kept.accept (h : Kept s t) (p : Packet) :
    Kept s (State.accept t p) := by
  unfold State.accept
  repeat' first
    | with_reducible assumption
    | with_reducible apply Kept.ite
    | with_reducible apply Kept.takeLocal
    | with_reducible apply Kept.perform
    | with_reducible apply Kept.withFabric
    | with_reducible apply Kept.wrapBy
    | dsimp only
    | split
    | (with_reducible apply Kept.parts <;> first | exact rfl | skip)

theorem Goes.execWrite (h : Kept s t) (p : Packet) :
    Goes s (execWrite p t) := by
  unfold Machine.execWrite
  repeat' first
    | with_reducible assumption
    | with_reducible apply Kept.ite
    | with_reducible apply Goes.ite
    | with_reducible apply Goes.next
    | with_reducible apply Kept.accept
    | dsimp only
    | split
    | (with_reducible apply Kept.parts <;> first | exact rfl | skip)

theorem Goes.execStore (h : Kept s t) (p : Packet) :
    Goes s (execStore p t) := by
  unfold Machine.execStore
  repeat' first
    | with_reducible assumption
    | with_reducible apply Kept.ite
    | with_reducible apply Goes.ite
    | with_reducible apply Goes.next
    | with_reducible apply Kept.accept
    | dsimp only
    | split
    | (with_reducible apply Kept.parts <;> first | exact rfl | skip)

theorem Goes.execLoad (h : Kept s t) (p : Packet) :
    Goes s (execLoad p t) := by
  unfold Machine.execLoad
  repeat' first
    | with_reducible assumption
    | with_reducible apply Kept.ite
    | with_reducible apply Goes.ite
    | with_reducible apply Goes.next
    | with_reducible apply Kept.accept
    | dsimp only
    | split
    | (with_reducible apply Kept.parts <;> first | exact rfl | skip)

theorem Goes.execAtom (h : Kept s t) (p : Packet) (hp : reservedFn (p.aux.toNat % 16) = false) :
    Goes s (Machine.execAtom p t) := by
  unfold Machine.execAtom
  simp only [hp, Bool.false_eq_true, if_false]
  exact Goes.next (Kept.accept h _)

theorem Goes.execAtomF (h : Kept s t) (p : Packet) (hp : reservedFn (p.aux.toNat % 16) = false) :
    Goes s (Machine.execAtomF p t) := by
  unfold Machine.execAtomF
  simp only [hp, Bool.false_eq_true, if_false]
  exact Goes.next (Kept.accept h _)

theorem Goes.execSignal (h : Kept s t) (p : Packet) :
    Goes s (execSignal p t) := by
  unfold Machine.execSignal
  repeat' first
    | with_reducible assumption
    | with_reducible apply Kept.ite
    | with_reducible apply Goes.ite
    | with_reducible apply Goes.next
    | with_reducible apply Kept.accept
    | dsimp only
    | split
    | (with_reducible apply Kept.parts <;> first | exact rfl | skip)

theorem Goes.execRefetch (h : Kept s t) (p : Packet) :
    Goes s (execRefetch p t) := by
  unfold Machine.execRefetch
  repeat' first
    | with_reducible assumption
    | with_reducible apply Kept.ite
    | with_reducible apply Goes.ite
    | with_reducible apply Goes.next
    | with_reducible apply Kept.accept
    | dsimp only
    | split
    | (with_reducible apply Kept.parts <;> first | exact rfl | skip)

theorem Goes.execFar (h : Kept s t) (p : Packet) (hp : reservedEntry p.payload = false) : Goes s (Machine.execFar p t) := by
  unfold Machine.execFar
  simp only [hp, Bool.false_eq_true, if_false]
  exact Goes.next (Kept.accept h _)

theorem Goes.execOrdPacketRelease (h : Kept s t) (src : Coord) :
    Goes s (execOrdPacketRelease src t) := by
  unfold Machine.execOrdPacketRelease
  repeat' first
    | with_reducible assumption
    | with_reducible apply Kept.ite
    | with_reducible apply Goes.ite
    | with_reducible apply Goes.next
    | with_reducible apply Kept.take
    | with_reducible apply Kept.withFabric
    | with_reducible apply Kept.perform
    | dsimp only
    | split
    | (with_reducible apply Kept.parts <;> first | exact rfl | skip)

theorem Goes.execWinRelease (h : Kept s t) (st : Nat) (cf : Common) (first : Nat) (count : Nat) :
    Goes s (execWinRelease st cf first count t) := by
  unfold Machine.execWinRelease
  repeat' first
    | with_reducible assumption
    | with_reducible apply Kept.ite
    | with_reducible apply Goes.ite
    | with_reducible apply Goes.next
    | refine Kept.gate ?_ _ _ _ (fun u hu => ?_)
    | with_reducible apply Kept.issueDone
    | dsimp only
    | split
    | (with_reducible apply Kept.parts <;> first | exact rfl | skip)

end Sys2Proof.Machine
end

