-- ==== Sys2Proof/Laws/KeptDma.lean ====
section
/-!
SUPPORT. What the operations of Machine/Dma.lean keep.
-/
namespace Sys2Proof.Machine

-- Proofs are checked one after another: many at once take more threads than the check allows.
set_option Elab.async false

variable {s t : State}

theorem Kept.markFlight (h : Kept s t)  :
    Kept s (State.markFlight t) := by
  unfold State.markFlight
  repeat' first
    | with_reducible assumption
    | with_reducible apply Kept.ite
    | with_reducible apply Kept.withFabric
    | dsimp only
    | split
    | (with_reducible apply Kept.parts <;> first | exact rfl | skip)

theorem Kept.sendOp (h : Kept s t) (st : Nat) (kind : OpKind) (cmd : Nat) (p : Packet) :
    Kept s (State.sendOp t st kind cmd p) := by
  unfold State.sendOp
  repeat' first
    | with_reducible assumption
    | with_reducible apply Kept.ite
    | with_reducible apply Kept.withFabric
    | with_reducible apply Kept.inject
    | with_reducible apply Kept.markFlight
    | dsimp only
    | split
    | (with_reducible apply Kept.parts <;> first | exact rfl | skip)

theorem Kept.moveAll (h : Kept s t) {count : Nat} {f : State → Nat → State × Bool}
    (hf : ∀ u k, Kept s u → Kept s (f u k).1) : Kept s (moveAll count t f).1 :=
  Kept.foldlFst h fun u b k hu => by
    cases b
    · exact hu
    · exact hf u k hu

theorem Kept.takeFrame (h : Kept s t) (st port n : Nat) (path : ReadPath) (i : Instr) {use : State → List Byte → State}
    (hu : ∀ u f, Kept s u → Kept s (use u f)) : Kept s (t.takeFrame st port n path i use).1 := by
  have k : Kept s (t.readPort st port n path).state := Kept.readPort h _ _ _ _
  unfold State.takeFrame
  dsimp only
  cases (t.readPort st port n path).frame with
  | none => exact Kept.awaitReread k _ _
  | some f =>
    exact Kept.iteFst (hu _ _ k) (Kept.courseError k _ _)

theorem Kept.pumpLocal (h : Kept s t) (st : Nat) :
    Kept s (State.pumpLocal t st) := by
  unfold State.pumpLocal
  repeat' first
    | with_reducible assumption
    | with_reducible apply Kept.ite
    | with_reducible apply Kept.withSt
    | with_reducible apply Kept.markFlight
    | dsimp only
    | split
    | (with_reducible apply Kept.parts <;> first | exact rfl | skip)

theorem Kept.noteWait (h : Kept s t) (st : Nat) (before : Nat) (wants : Bool) :
    Kept s (State.noteWait t st before wants) := by
  unfold State.noteWait
  repeat' first
    | with_reducible assumption
    | with_reducible apply Kept.ite
    | with_reducible apply Kept.withSt
    | dsimp only
    | split
    | (with_reducible apply Kept.parts <;> first | exact rfl | skip)

theorem Kept.issueDma (h : Kept s t) (st : Nat) (cf : Common) (adv : List Advance) (count : Nat) :
    Kept s (State.issueDma t st cf adv count) := by
  unfold State.issueDma
  repeat' first
    | with_reducible assumption
    | with_reducible apply Kept.ite
    | with_reducible apply Kept.issue
    | with_reducible apply Kept.pumpLocal
    | with_reducible apply Kept.noteWait
    | dsimp only
    | split

theorem Kept.rdTiles (h : Kept s t) (st : Nat) (cf : Common) (obj : Nat) (o : Nat) (first : Nat) (count : Nat) (path : ReadPath) :
    Kept s (State.rdTiles t st cf obj o first count path) := by
  unfold State.rdTiles
  repeat' first
    | with_reducible assumption
    | with_reducible apply Kept.ite
    | with_reducible apply Kept.iteFst
    | refine Kept.moveAll ?_ (fun u k hu => ?_)
    | with_reducible apply Kept.readFrame
    | with_reducible apply Kept.awaitReread
    | with_reducible apply Kept.writePort
    | with_reducible apply Kept.issueDma
    | refine Kept.ofFst (by assumption) ?_
    | dsimp only
    | split
    | (with_reducible apply Kept.parts <;> first | exact rfl | skip)

theorem Goes.execRdTiles (h : Kept s t) (st : Nat) (cf : Common) (object : Nat) (o : Nat) (first : Nat) (count : Nat) (path : ReadPath) :
    Goes s (execRdTiles st cf object o first count path t) := by
  unfold Machine.execRdTiles
  repeat' first
    | with_reducible assumption
    | with_reducible apply Kept.ite
    | with_reducible apply Goes.ite
    | with_reducible apply Goes.next
    | refine Kept.gate ?_ _ _ _ (fun u hu => ?_)
    | with_reducible apply Kept.rdTiles
    | dsimp only
    | split

theorem Kept.wrTiles (h : Kept s t) (st : Nat) (cf : Common) (obj : Nat) (i : Nat) (first : Nat) (count : Nat) (path : ReadPath) :
    Kept s (State.wrTiles t st cf obj i first count path) := by
  unfold State.wrTiles
  repeat' first
    | with_reducible assumption
    | with_reducible apply Kept.ite
    | with_reducible apply Kept.iteFst
    | refine Kept.moveAll ?_ (fun u k hu => ?_)
    | refine Kept.takeFrame ?_ _ _ _ _ _ (fun u f hu => ?_)
    | with_reducible apply Kept.writeFrame
    | with_reducible apply Kept.issueDma
    | refine Kept.ofFst (by assumption) ?_
    | dsimp only
    | split

theorem Goes.execWrTiles (h : Kept s t) (st : Nat) (cf : Common) (object : Nat) (i : Nat) (first : Nat) (count : Nat) (path : ReadPath) :
    Goes s (execWrTiles st cf object i first count path t) := by
  unfold Machine.execWrTiles
  repeat' first
    | with_reducible assumption
    | with_reducible apply Kept.ite
    | with_reducible apply Goes.ite
    | with_reducible apply Goes.next
    | refine Kept.gate ?_ _ _ _ (fun u hu => ?_)
    | with_reducible apply Kept.wrTiles
    | dsimp only
    | split

theorem Kept.cpTiles (h : Kept s t) (st : Nat) (cf : Common) (i : Nat) (o : Nat) (count : Nat) (path : ReadPath) :
    Kept s (State.cpTiles t st cf i o count path) := by
  unfold State.cpTiles
  repeat' first
    | with_reducible assumption
    | with_reducible apply Kept.ite
    | with_reducible apply Kept.iteFst
    | refine Kept.moveAll ?_ (fun u k hu => ?_)
    | refine Kept.takeFrame ?_ _ _ _ _ _ (fun u f hu => ?_)
    | with_reducible apply Kept.writePort
    | with_reducible apply Kept.issueDma
    | refine Kept.ofFst (by assumption) ?_
    | dsimp only
    | split

theorem Goes.execCpTiles (h : Kept s t) (st : Nat) (cf : Common) (i : Nat) (o : Nat) (count : Nat) (path : ReadPath) :
    Goes s (execCpTiles st cf i o count path t) := by
  unfold Machine.execCpTiles
  repeat' first
    | with_reducible assumption
    | with_reducible apply Kept.ite
    | with_reducible apply Goes.ite
    | with_reducible apply Goes.next
    | refine Kept.gate ?_ _ _ _ (fun u hu => ?_)
    | with_reducible apply Kept.cpTiles
    | dsimp only
    | split

theorem Kept.pumpSend (h : Kept s t) (st : Nat) (fuel : Nat) :
    Kept s (State.pumpSend t st fuel) := by
  induction fuel generalizing t st with
  | zero => exact h
  | succ fuel ih =>
    unfold State.pumpSend
    repeat' first
      | with_reducible apply ih
      | with_reducible assumption
      | with_reducible apply Kept.ite
      | with_reducible apply Kept.withSt
      | with_reducible apply Kept.sendOp
      | dsimp only
      | split
      | (with_reducible apply Kept.parts <;> first | exact rfl | skip)

theorem Kept.opDone (h : Kept s t) (st : Nat) (id : Nat) :
    Kept s (State.opDone t st id) := by
  unfold State.opDone
  repeat' first
    | with_reducible assumption
    | with_reducible apply Kept.ite
    | with_reducible apply Kept.withSt
    | with_reducible apply Kept.complete
    | dsimp only
    | split
    | (with_reducible apply Kept.parts <;> first | exact rfl | skip)

theorem Kept.cpRemote (h : Kept s t) (st : Nat) (cf : Common) (i : Nat) (rank : RankOp) (window : Nat) (slot : Nat) (count : Nat) (path : ReadPath) :
    Kept s (State.cpRemote t st cf i rank window slot count path) := by
  unfold State.cpRemote
  repeat' first
    | with_reducible assumption
    | with_reducible apply Kept.ite
    | with_reducible apply Kept.iteFst
    | with_reducible apply Kept.courseError
    | refine Kept.moveAll ?_ (fun u k hu => ?_)
    | refine Kept.takeFrame ?_ _ _ _ _ _ (fun u f hu => ?_)
    | with_reducible apply Kept.withSt
    | with_reducible apply Kept.issue
    | with_reducible apply Kept.pumpSend
    | with_reducible apply Kept.noteWait
    | refine Kept.ofFst (by assumption) ?_
    | dsimp only
    | split
    | (with_reducible apply Kept.parts <;> first | exact rfl | skip)

theorem Goes.execCpRemote (h : Kept s t) (st : Nat) (cf : Common) (i : Nat) (rank : RankOp) (window : Nat) (slot : Nat) (count : Nat) (path : ReadPath) :
    Goes s (execCpRemote st cf i rank window slot count path t) := by
  unfold Machine.execCpRemote
  repeat' first
    | with_reducible assumption
    | with_reducible apply Kept.ite
    | with_reducible apply Goes.ite
    | with_reducible apply Goes.next
    | refine Kept.gate ?_ _ _ _ (fun u hu => ?_)
    | with_reducible apply Kept.cpRemote
    | dsimp only
    | split

theorem Goes.execSemRemote (h : Kept s t) (st : Nat) (cf : Common) (rank : RankOp) (station : Nat) (sem : Nat) (count : Nat) :
    Goes s (execSemRemote st cf rank station sem count t) := by
  unfold Machine.execSemRemote
  repeat' first
    | with_reducible assumption
    | with_reducible apply Kept.ite
    | with_reducible apply Goes.ite
    | with_reducible apply Goes.next
    | refine Kept.gate ?_ _ _ _ (fun u hu => ?_)
    | with_reducible apply Kept.courseError
    | with_reducible apply Kept.noteWait
    | with_reducible apply Kept.withSt
    | with_reducible apply Kept.issue
    | with_reducible apply Kept.sendOp
    | dsimp only
    | split
    | (with_reducible apply Kept.parts <;> first | exact rfl | skip)

theorem Kept.withList (h : Kept s t) (id : Nat) (f : OpList → OpList) :
    Kept s (State.withList t id f) := by
  unfold State.withList
  repeat' first
    | with_reducible assumption
    | with_reducible apply Kept.ite
    | with_reducible apply Kept.withFabric
    | dsimp only
    | split
    | (with_reducible apply Kept.parts <;> first | exact rfl | skip)

theorem Kept.closeList (h : Kept s t) (id : Nat) :
    Kept s (State.closeList t id) := by
  unfold State.closeList
  repeat' first
    | with_reducible assumption
    | with_reducible apply Kept.ite
    | with_reducible apply Kept.writeFrame
    | with_reducible apply Kept.withFabric
    | with_reducible apply Kept.opDone
    | dsimp only
    | split
    | (with_reducible apply Kept.parts <;> first | exact rfl | skip)

theorem Kept.pumpLists (h : Kept s t) (st : Nat) (fuel : Nat) :
    Kept s (State.pumpLists t st fuel) := by
  induction fuel generalizing t st with
  | zero => exact h
  | succ fuel ih =>
    unfold State.pumpLists
    repeat' first
      | with_reducible apply ih
      | with_reducible assumption
      | with_reducible apply Kept.ite
      | with_reducible apply Kept.courseError
      | with_reducible apply Kept.withList
      | with_reducible apply Kept.closeList
      | with_reducible apply Kept.send
      | with_reducible apply Kept.withFabric
      | with_reducible apply Kept.wrapBy
      | with_reducible apply Kept.sendOp
      | dsimp only
      | split
      | (with_reducible apply Kept.parts <;> first | exact rfl | skip)

theorem Kept.pumpStation (h : Kept s t) (st : Nat) :
    Kept s (State.pumpStation t st) := by
  unfold State.pumpStation
  repeat' first
    | with_reducible assumption
    | with_reducible apply Kept.ite
    | with_reducible apply Kept.pumpLocal
    | with_reducible apply Kept.pumpSend
    | with_reducible apply Kept.pumpLists
    | with_reducible apply Kept.noteWait
    | dsimp only
    | split

theorem Kept.pumpAll (h : Kept s t)  :
    Kept s (State.pumpAll t) := by
  unfold State.pumpAll
  repeat' first
    | with_reducible assumption
    | with_reducible apply Kept.ite
    | with_reducible apply Kept.pumpStation
    | refine Kept.foldl ?_ (fun u a hu => ?_)
    | dsimp only
    | split

theorem Kept.opLists (h : Kept s t) (st : Nat) (cf : Common) (o : Nat) (count : Nat) (path : ReadPath) :
    Kept s (State.opLists t st cf o count path) := by
  unfold State.opLists
  repeat' first
    | with_reducible assumption
    | with_reducible apply Kept.ite
    | with_reducible apply Kept.iteFst
    | refine Kept.moveAll ?_ (fun u k hu => ?_)
    | with_reducible apply Kept.readPort
    | with_reducible apply Kept.awaitReread
    | with_reducible apply Kept.courseError
    | with_reducible apply Kept.withFabric
    | with_reducible apply Kept.issue
    | with_reducible apply Kept.pumpLists
    | with_reducible apply Kept.noteWait
    | refine Kept.ofFst (by assumption) ?_
    | dsimp only
    | split
    | (with_reducible apply Kept.parts <;> first | exact rfl | skip)

theorem Goes.execOperationList (h : Kept s t) (st : Nat) (cf : Common) (o : Nat) (count : Nat) (path : ReadPath) :
    Goes s (execOperationList st cf o count path t) := by
  unfold Machine.execOperationList
  repeat' first
    | with_reducible assumption
    | with_reducible apply Kept.ite
    | with_reducible apply Goes.ite
    | with_reducible apply Goes.next
    | refine Kept.gate ?_ _ _ _ (fun u hu => ?_)
    | with_reducible apply Kept.opLists
    | dsimp only
    | split

theorem Kept.endFlight (h : Kept s t) (f : FlightOp) :
    Kept s (State.endFlight t f) := by
  unfold State.endFlight
  repeat' first
    | with_reducible assumption
    | with_reducible apply Kept.ite
    | with_reducible apply Kept.withFabric
    | dsimp only
    | split
    | (with_reducible apply Kept.parts <;> first | exact rfl | skip)

end Sys2Proof.Machine
end

