-- ==== Sys2Proof/Laws/KeptUpdate.lean ====
section
/-!
SUPPORT. What the operations of Machine/Update.lean keep.
-/
namespace Sys2Proof.Machine

-- Proofs are checked one after another: many at once take more threads than the check allows.
set_option Elab.async false

variable {s t : State}

theorem Goes.execUpdStep (h : Kept s t) (st : Nat) (cf : Common) (row : Nat) (set : Nat) :
    Goes s (execUpdStep st cf row set t) := by
  unfold Machine.execUpdStep
  repeat' first
    | with_reducible assumption
    | with_reducible apply Kept.ite
    | with_reducible apply Goes.ite
    | with_reducible apply Goes.next
    | refine Kept.gate ?_ _ _ _ (fun u hu => ?_)
    | with_reducible apply Kept.issue
    | with_reducible apply Kept.withSt
    | dsimp only
    | split
    | (with_reducible apply Kept.parts <;> first | exact rfl | skip)

theorem Kept.withUpd (h : Kept s t) (st : Nat) (id : Nat) (f : UpdCmd → UpdCmd) :
    Kept s (State.withUpd t st id f) := by
  unfold State.withUpd
  repeat' first
    | with_reducible assumption
    | with_reducible apply Kept.ite
    | with_reducible apply Kept.withSt
    | dsimp only
    | split
    | (with_reducible apply Kept.parts <;> first | exact rfl | skip)

theorem Kept.readSlot (h : Kept s t) (st : Nat) (a : Nat) (path : ReadPath) :
    Kept s (State.readSlot t st a path).state := by
  unfold State.readSlot
  repeat' first
    | with_reducible assumption
    | with_reducible apply Kept.ite
    | with_reducible apply Kept.readHere
    | with_reducible apply Kept.frameOf
    | dsimp only
    | split

theorem Kept.readSlots (h : Kept s t) (st : Nat) (f : Nat) (c : UpdCmd) (l : List Slot) (path : ReadPath) (acc : List (List Byte)) :
    Kept s (State.readSlots t st f c l path acc).1 := by
  induction l generalizing t path acc with
  | nil => exact h
  | cons x r ih =>
    have k := Kept.readSlot h st (t.frameAddr x.src f) path
    unfold State.readSlots
    dsimp only
    split
    · exact k
    · exact ih (Kept.ite (Kept.withUpd (Kept.tileTransient k _ _) _ _ _) k) _ _

theorem Kept.updFrame (h : Kept s t) (engine : Nat) (st : Nat) (f : Nat) (path : ReadPath) (c : UpdCmd) :
    Kept s (State.updFrame t engine st f path c) := by
  unfold State.updFrame
  repeat' first
    | with_reducible assumption
    | with_reducible apply Kept.ite
    | with_reducible apply Kept.readSlots
    | with_reducible apply Kept.withSt
    | with_reducible apply Kept.tileFault
    | with_reducible apply Kept.withUpd
    | with_reducible apply Kept.courseError
    | with_reducible apply Kept.writeMem
    | with_reducible apply Kept.cacheDrop
    | with_reducible apply Kept.wrapBy
    | refine Kept.foldl ?_ (fun u a hu => ?_)
    | refine Kept.ofFst (by assumption) ?_
    | dsimp only
    | split
    | (with_reducible apply Kept.parts <;> first | exact rfl | skip)

theorem Goes.execUpdFrame (h : Kept s t) (engine : Nat) (st : Nat) (frame : Nat) (path : ReadPath) :
    Goes s (execUpdFrame engine st frame path t) := by
  unfold Machine.execUpdFrame
  repeat' first
    | with_reducible assumption
    | with_reducible apply Kept.ite
    | with_reducible apply Goes.ite
    | with_reducible apply Goes.next
    | with_reducible apply Kept.updFrame
    | dsimp only
    | split
    | (with_reducible apply Kept.parts <;> first | exact rfl | skip)

theorem Goes.execUpdStepComplete (h : Kept s t) (st : Nat) :
    Goes s (execUpdStepComplete st t) := by
  unfold Machine.execUpdStepComplete
  repeat' first
    | with_reducible assumption
    | with_reducible apply Kept.ite
    | with_reducible apply Goes.ite
    | with_reducible apply Goes.next
    | with_reducible apply Kept.withSt
    | with_reducible apply Kept.wrapBy
    | with_reducible apply Kept.opDone
    | refine Kept.foldl ?_ (fun u a hu => ?_)
    | dsimp only
    | split
    | (with_reducible apply Kept.parts <;> first | exact rfl | skip)

end Sys2Proof.Machine
end

