-- ==== Sys2Proof/Laws/KeptPlacer.lean ====
section
/-!
SUPPORT. What the operations of Machine/Placer.lean keep.
-/
namespace Sys2Proof.Machine

-- Proofs are checked one after another: many at once take more threads than the check allows.
set_option Elab.async false

variable {s t : State}

theorem Kept.sendPlacement (h : Kept s t) (event : Nat) (status : Nat) (entries : List (List Byte)) :
    Kept s (State.sendPlacement t event status entries) := by
  unfold State.sendPlacement
  repeat' first
    | with_reducible assumption
    | with_reducible apply Kept.ite
    | with_reducible apply Kept.report
    | dsimp only
    | split

end Sys2Proof.Machine
end

