-- ==== Sys2Proof/Laws/KeptRelay.lean ====
section
/-!
SUPPORT. What the operations of Machine/Relay.lean keep.
-/
namespace Sys2Proof.Machine

-- Proofs are checked one after another: many at once take more threads than the check allows.
set_option Elab.async false

variable {s t : State}

theorem Kept.markSlots (h : Kept s t) (g : Nat) (minus : Bool) :
    Kept s (State.markSlots t g minus) := by
  unfold State.markSlots
  repeat' first
    | with_reducible assumption
    | with_reducible apply Kept.ite
    | with_reducible apply Kept.withRelay
    | dsimp only
    | split
    | (with_reducible apply Kept.parts <;> first | exact rfl | skip)

theorem Kept.withColl (h : Kept s t) (g : Nat) (f : Coll → Coll) :
    Kept s (State.withColl t g f) := by
  unfold State.withColl
  repeat' first
    | with_reducible assumption
    | with_reducible apply Kept.ite
    | with_reducible apply Kept.withRelay
    | dsimp only
    | split
    | (with_reducible apply Kept.parts <;> first | exact rfl | skip)

theorem Kept.sendRing (h : Kept s t) (g : Nat) (minus : Bool) :
    Kept s (State.sendRing t g minus).1 := by
  unfold State.sendRing
  repeat' first
    | with_reducible assumption
    | with_reducible apply Kept.ite
    | with_reducible apply Kept.iteFst
    | with_reducible apply Kept.sendOp
    | with_reducible apply Kept.take
    | with_reducible apply Kept.withRelay
    | with_reducible apply Kept.withColl
    | with_reducible apply Kept.wrapBy
    | with_reducible apply Kept.markSlots
    | refine Kept.ofFst (by assumption) ?_
    | dsimp only
    | split
    | (with_reducible apply Kept.parts <;> first | exact rfl | skip)

theorem Kept.relayFault (h : Kept s t) (g : Nat) (x : Staged) (f : List Byte) :
    Kept s (State.relayFault t g x f) := by
  unfold State.relayFault
  repeat' first
    | with_reducible assumption
    | with_reducible apply Kept.ite
    | with_reducible apply Kept.withColl
    | with_reducible apply Kept.withSt
    | with_reducible apply Kept.tileFault
    | dsimp only
    | split
    | (with_reducible apply Kept.parts <;> first | exact rfl | skip)

theorem Kept.consume (h : Kept s t) (x : Staged) :
    Kept s (State.consume t x) := by
  unfold State.consume
  repeat' first
    | with_reducible assumption
    | with_reducible apply Kept.ite
    | with_reducible apply Kept.withRelay
    | with_reducible apply Kept.inject
    | dsimp only
    | split
    | (with_reducible apply Kept.parts <;> first | exact rfl | skip)

theorem Kept.combinerCheck (h : Kept s t) (g : Nat) (c : Coll) (stage : Nat) (frame : Nat) (fails : Nat) (p : List Byte) (q : List Byte) :
    Kept s (State.combinerCheck t g c stage frame fails p q).1 := by
  unfold State.combinerCheck
  repeat' first
    | with_reducible assumption
    | with_reducible apply Kept.ite
    | with_reducible apply Kept.iteFst
    | with_reducible apply Kept.bump
    | with_reducible apply Kept.record
    | with_reducible apply Kept.addPoints
    | with_reducible apply Kept.satBy
    | with_reducible apply Kept.keepPattern
    | with_reducible apply Kept.withColl
    | with_reducible apply Kept.orderDrain
    | refine Kept.ofFst (by assumption) ?_
    | dsimp only
    | split
    | (with_reducible apply Kept.parts <;> first | exact rfl | skip)

theorem Kept.recvRing (h : Kept s t) (g : Nat) (minus : Bool) (fails : RelayChecks) :
    Kept s (State.recvRing t g minus fails).1 := by
  unfold State.recvRing
  repeat' first
    | with_reducible assumption
    | with_reducible apply Kept.ite
    | with_reducible apply Kept.iteFst
    | with_reducible apply Kept.take
    | with_reducible apply Kept.bump
    | with_reducible apply Kept.relayFault
    | with_reducible apply Kept.tileTransient
    | with_reducible apply Kept.withRelay
    | with_reducible apply Kept.withColl
    | with_reducible apply Kept.wrapBy
    | with_reducible apply Kept.consume
    | with_reducible apply Kept.combinerCheck
    | with_reducible apply Kept.courseError
    | refine Kept.ofFst (by assumption) ?_
    | dsimp only
    | split
    | (with_reducible apply Kept.parts <;> first | exact rfl | skip)

theorem Kept.finishColl (h : Kept s t) (g : Nat) (c : Coll) :
    Kept s (State.finishColl t g c) := by
  unfold State.finishColl
  repeat' first
    | with_reducible assumption
    | with_reducible apply Kept.ite
    | with_reducible apply Kept.writePort
    | with_reducible apply Kept.withColl
    | refine Kept.foldl ?_ (fun u a hu => ?_)
    | dsimp only
    | split
    | (with_reducible apply Kept.parts <;> first | exact rfl | skip)

theorem Kept.nextStage (h : Kept s t) (g : Nat) :
    Kept s (State.nextStage t g).1 := by
  unfold State.nextStage
  repeat' first
    | with_reducible assumption
    | with_reducible apply Kept.ite
    | with_reducible apply Kept.iteFst
    | with_reducible apply Kept.withColl
    | with_reducible apply Kept.finishColl
    | refine Kept.foldl ?_ (fun u a hu => ?_)
    | refine Kept.ofFst (by assumption) ?_
    | dsimp only
    | split
    | (with_reducible apply Kept.parts <;> first | exact rfl | skip)

theorem Kept.pumpColl (h : Kept s t) (g : Nat) (fails : RelayChecks) (fuel : Nat) :
    Kept s (State.pumpColl t g fails fuel) := by
  induction fuel generalizing t g fails with
  | zero => exact h
  | succ fuel ih =>
    unfold State.pumpColl
    repeat' first
      | with_reducible apply ih
      | with_reducible assumption
      | with_reducible apply Kept.ite
      | with_reducible apply Kept.recvRing
      | with_reducible apply Kept.sendRing
      | with_reducible apply Kept.nextStage
      | refine Kept.ofFst (by assumption) ?_
      | dsimp only
      | split
      | (with_reducible apply Kept.parts <;> first | exact rfl | skip)

theorem Kept.pumpGroup (h : Kept s t) (g : Nat) (fails : RelayChecks) :
    Kept s (State.pumpGroup t g fails) := by
  unfold State.pumpGroup
  repeat' first
    | with_reducible assumption
    | with_reducible apply Kept.ite
    | with_reducible apply Kept.pumpColl
    | dsimp only
    | split

theorem Kept.collInputs (h : Kept s t) (st : Nat) (i : Nat) (n : Nat) (path : ReadPath) (ins : Instr) (ok : List Byte → Bool) :
    Kept s (State.collInputs t st i n path ins ok).1 := by
  refine Kept.foldlFst h fun u b k hu => ?_
  cases b with
  | none => exact hu
  | some l =>
    have kr := Kept.readPort hu st i ((t.st st).inPos i + k) (path.shift k)
    dsimp only
    split
    · exact Kept.awaitReread kr _ _
    · exact Kept.iteFst (Kept.courseError kr _ _) (Kept.iteFst (Kept.courseError kr _ _) kr)

theorem Kept.startColl (h : Kept s t) (g : Nat) (c : Coll) (cf : Common) (adv : List Advance) :
    Kept s (State.startColl t g c cf adv) := by
  unfold State.startColl
  repeat' first
    | with_reducible assumption
    | with_reducible apply Kept.ite
    | with_reducible apply Kept.issue
    | with_reducible apply Kept.withSt
    | with_reducible apply Kept.withRelay
    | with_reducible apply Kept.pumpGroup
    | dsimp only
    | split
    | (with_reducible apply Kept.parts <;> first | exact rfl | skip)

theorem Kept.colWork (h : Kept s t) (kind : CollKind) (st : Nat) (cf : Common) (i : Nat) (o : Nat) (count : Nat) (path : ReadPath) (ins : Instr) :
    Kept s (State.colWork t kind st cf i o count path ins) := by
  unfold State.colWork
  repeat' first
    | with_reducible assumption
    | with_reducible apply Kept.ite
    | with_reducible apply Kept.courseError
    | with_reducible apply Kept.collInputs
    | with_reducible apply Kept.startColl
    | refine Kept.ofFst (by assumption) ?_
    | dsimp only
    | split
    | (with_reducible apply Kept.parts <;> first | exact rfl | skip)

theorem Kept.colRs (h : Kept s t) (st : Nat) (cf : Common) (i : Nat) (o : Nat) (count : Nat) (path : ReadPath) :
    Kept s (State.colRs t st cf i o count path) := by
  unfold State.colRs
  repeat' first
    | with_reducible assumption
    | with_reducible apply Kept.ite
    | with_reducible apply Kept.colWork
    | dsimp only
    | split

theorem Kept.colAg (h : Kept s t) (st : Nat) (cf : Common) (i : Nat) (o : Nat) (count : Nat) (path : ReadPath) :
    Kept s (State.colAg t st cf i o count path) := by
  unfold State.colAg
  repeat' first
    | with_reducible assumption
    | with_reducible apply Kept.ite
    | with_reducible apply Kept.colWork
    | dsimp only
    | split

theorem Goes.execColRs (h : Kept s t) (st : Nat) (cf : Common) (i : Nat) (o : Nat) (count : Nat) (path : ReadPath) :
    Goes s (execColRs st cf i o count path t) := by
  unfold Machine.execColRs
  repeat' first
    | with_reducible assumption
    | with_reducible apply Kept.ite
    | with_reducible apply Goes.ite
    | with_reducible apply Goes.next
    | refine Kept.gate ?_ _ _ _ (fun u hu => ?_)
    | with_reducible apply Kept.colRs
    | dsimp only
    | split

theorem Goes.execColAg (h : Kept s t) (st : Nat) (cf : Common) (i : Nat) (o : Nat) (count : Nat) (path : ReadPath) :
    Goes s (execColAg st cf i o count path t) := by
  unfold Machine.execColAg
  repeat' first
    | with_reducible assumption
    | with_reducible apply Kept.ite
    | with_reducible apply Goes.ite
    | with_reducible apply Goes.next
    | refine Kept.gate ?_ _ _ _ (fun u hu => ?_)
    | with_reducible apply Kept.colAg
    | dsimp only
    | split

theorem Kept.digestOf (h : Kept s t) (st : Nat) (obj : Nat) :
    Kept s (State.digestOf t st obj).1 := by
  exact Kept.foldlFst
    (f := fun (p : State × List (List Byte)) f =>
      ((p.1.readMem (p.1.dieOf st) (p.1.unitOf st) (p.1.frameAddr obj f) 32).1,
        p.2 ++ [(p.1.readMem (p.1.dieOf st) (p.1.unitOf st) (p.1.frameAddr obj f) 32).2.bytes]))
    h fun u b f hu => Kept.readMem hu _ _ _ _

theorem Kept.sendTally (h : Kept s t) (g : Nat) (c : Coll) (a : Nat) (step : Nat) (bytes : List Byte) :
    Kept s (State.sendTally t g c a step bytes) := by
  unfold State.sendTally
  repeat' first
    | with_reducible assumption
    | with_reducible apply Kept.ite
    | with_reducible apply Kept.sendOp
    | refine Kept.ofFst (by assumption) ?_
    | dsimp only
    | split

theorem Kept.pumpTally (h : Kept s t) (g : Nat) (fuel : Nat) :
    Kept s (State.pumpTally t g fuel) := by
  induction fuel generalizing t g with
  | zero => exact h
  | succ fuel ih =>
    unfold State.pumpTally
    repeat' first
      | with_reducible apply ih
      | with_reducible assumption
      | with_reducible apply Kept.ite
      | with_reducible apply Kept.withColl
      | with_reducible apply Kept.sendTally
      | with_reducible apply Kept.withRelay
      | refine Kept.ofFst (by assumption) ?_
      | dsimp only
      | split
      | (with_reducible apply Kept.parts <;> first | exact rfl | skip)

theorem Kept.colDigest (h : Kept s t) (st : Nat) (cf : Common) (obj : Nat) :
    Kept s (State.colDigest t st cf obj) := by
  unfold State.colDigest
  repeat' first
    | with_reducible assumption
    | with_reducible apply Kept.ite
    | with_reducible apply Kept.noteWait
    | with_reducible apply Kept.digestOf
    | with_reducible apply Kept.startColl
    | with_reducible apply Kept.sendTally
    | with_reducible apply Kept.pumpTally
    | refine Kept.ofFst (by assumption) ?_
    | dsimp only
    | split
    | (with_reducible apply Kept.parts <;> first | exact rfl | skip)

theorem Goes.execColDigest (h : Kept s t) (st : Nat) (cf : Common) (object : Nat) :
    Goes s (execColDigest st cf object t) := by
  unfold Machine.execColDigest
  repeat' first
    | with_reducible assumption
    | with_reducible apply Kept.ite
    | with_reducible apply Goes.ite
    | with_reducible apply Goes.next
    | refine Kept.gate ?_ _ _ _ (fun u hu => ?_)
    | with_reducible apply Kept.colDigest
    | dsimp only
    | split

theorem Kept.pumpRings (h : Kept s t)  :
    Kept s (State.pumpRings t) := by
  unfold State.pumpRings
  repeat' first
    | with_reducible assumption
    | with_reducible apply Kept.ite
    | with_reducible apply Kept.pumpTally
    | with_reducible apply Kept.pumpGroup
    | refine Kept.foldl ?_ (fun u a hu => ?_)
    | dsimp only
    | split

theorem Kept.opEnded (h : Kept s t) (before : State) :
    Kept s (State.opEnded t before) := by
  unfold State.opEnded
  repeat' first
    | with_reducible assumption
    | with_reducible apply Kept.ite
    | with_reducible apply Kept.pumpAll
    | with_reducible apply Kept.pumpRings
    | dsimp only
    | split

theorem Kept.lagReport (h : Kept s t) (g : Nat) (c : Coll) :
    Kept s (State.lagReport t g c) := by
  unfold State.lagReport
  repeat' first
    | with_reducible assumption
    | with_reducible apply Kept.ite
    | with_reducible apply Kept.withRelay
    | with_reducible apply Kept.bump
    | with_reducible apply Kept.record
    | with_reducible apply Kept.report
    | refine Kept.ofFst (by assumption) ?_
    | dsimp only
    | split
    | (with_reducible apply Kept.parts <;> first | exact rfl | skip)

theorem Kept.digestReport (h : Kept s t) (g : Nat) (c : Coll) :
    Kept s (State.digestReport t g c) := by
  unfold State.digestReport
  repeat' first
    | with_reducible assumption
    | with_reducible apply Kept.ite
    | with_reducible apply Kept.withRelay
    | with_reducible apply Kept.bump
    | with_reducible apply Kept.record
    | with_reducible apply Kept.report
    | refine Kept.foldl ?_ (fun u a hu => ?_)
    | dsimp only
    | split
    | (with_reducible apply Kept.parts <;> first | exact rfl | skip)

theorem Goes.execCollectiveComplete (h : Kept s t) (st : Nat) :
    Goes s (execCollectiveComplete st t) := by
  unfold Machine.execCollectiveComplete
  repeat' first
    | with_reducible assumption
    | with_reducible apply Kept.ite
    | with_reducible apply Goes.ite
    | with_reducible apply Goes.next
    | with_reducible apply Kept.lagReport
    | with_reducible apply Kept.digestReport
    | with_reducible apply Kept.withRelay
    | with_reducible apply Kept.wrapBy
    | with_reducible apply Kept.completeKind
    | dsimp only
    | split
    | (with_reducible apply Kept.parts <;> first | exact rfl | skip)

theorem Goes.execRelay (h : Kept s t) (p : Packet) (checks : RelayChecks) :
    Goes s (execRelay p checks t) := by
  unfold Machine.execRelay
  repeat' first
    | with_reducible assumption
    | with_reducible apply Kept.ite
    | with_reducible apply Goes.ite
    | with_reducible apply Goes.next
    | with_reducible apply Kept.takeLocal
    | with_reducible apply Kept.withRelay
    | with_reducible apply Kept.pumpGroup
    | dsimp only
    | split
    | (with_reducible apply Kept.parts <;> first | exact rfl | skip)

theorem Goes.execRelayTally (h : Kept s t) (p : Packet) :
    Goes s (execRelayTally p t) := by
  unfold Machine.execRelayTally
  repeat' first
    | with_reducible assumption
    | with_reducible apply Kept.ite
    | with_reducible apply Goes.ite
    | with_reducible apply Goes.next
    | with_reducible apply Kept.takeLocal
    | with_reducible apply Kept.take
    | with_reducible apply Kept.inject
    | with_reducible apply Kept.withRelay
    | with_reducible apply Kept.withColl
    | with_reducible apply Kept.pumpTally
    | dsimp only
    | split
    | (with_reducible apply Kept.parts <;> first | exact rfl | skip)

theorem Goes.execRelayAck (h : Kept s t) (p : Packet) :
    Goes s (execRelayAck p t) := by
  unfold Machine.execRelayAck
  repeat' first
    | with_reducible assumption
    | with_reducible apply Kept.ite
    | with_reducible apply Goes.ite
    | with_reducible apply Goes.next
    | with_reducible apply Kept.takeLocal
    | with_reducible apply Kept.endFlight
    | with_reducible apply Kept.markSlots
    | with_reducible apply Kept.pumpGroup
    | with_reducible apply Kept.opEnded
    | dsimp only
    | split
    | (with_reducible apply Kept.parts <;> first | exact rfl | skip)

end Sys2Proof.Machine
end

