-- ==== Sys2Proof/Laws/KeptJobs.lean ====
section
/-!
SUPPORT. What the operations of Machine/Jobs.lean keep.
-/
namespace Sys2Proof.Machine

-- Proofs are checked one after another: many at once take more threads than the check allows.
set_option Elab.async false

variable {s t : State}

theorem Kept.manifest (h : Kept s t) (m : Msg) :
    Kept s (State.manifest t m).1 := by
  unfold State.manifest
  repeat' first
    | with_reducible assumption
    | with_reducible apply Kept.ite
    | with_reducible apply Kept.iteFst
    | refine Kept.ofFst (by assumption) ?_
    | dsimp only
    | split
    | (with_reducible apply Kept.parts <;> first | exact rfl | skip)

theorem Kept.startJob (h : Kept s t) (m : Msg) :
    Kept s (State.startJob t m).1 := by
  unfold State.startJob
  repeat' first
    | with_reducible assumption
    | with_reducible apply Kept.ite
    | with_reducible apply Kept.iteFst
    | with_reducible apply Kept.withJob
    | refine Kept.ofFst (by assumption) ?_
    | dsimp only
    | split
    | (with_reducible apply Kept.parts <;> first | exact rfl | skip)

theorem Kept.abandonTest (h : Kept s t)  :
    Kept s (State.abandonTest t) := by
  unfold State.abandonTest
  repeat' first
    | with_reducible assumption
    | with_reducible apply Kept.ite
    | with_reducible apply Kept.withTest
    | with_reducible apply Kept.record
    | dsimp only
    | split
    | (with_reducible apply Kept.parts <;> first | exact rfl | skip)

theorem Kept.setLodge (h : Kept s t) (k : Nat) :
    Kept s (State.setLodge t k) := by
  unfold State.setLodge
  repeat' first
    | with_reducible assumption
    | with_reducible apply Kept.ite
    | with_reducible apply Kept.withStores
    | with_reducible exact id
    | exact fun w => Memory.erase_wf w _ _
    | dsimp only
    | split
    | (with_reducible apply Kept.parts <;> first | exact rfl | skip)

theorem Kept.fillObject (h : Kept s t) (o : ObjectDesc) :
    Kept s (State.fillObject t o) := by
  unfold State.fillObject
  repeat' first
    | with_reducible assumption
    | with_reducible apply Kept.ite
    | with_reducible apply Kept.fillMem
    | refine Kept.foldl ?_ (fun u a hu => ?_)
    | dsimp only
    | split

theorem Kept.fillObjects (h : Kept s t) (keep : Bool) :
    Kept s (State.fillObjects t keep) := by
  unfold State.fillObjects
  repeat' first
    | with_reducible assumption
    | with_reducible apply Kept.ite
    | with_reducible apply Kept.fillObject
    | refine Kept.foldl ?_ (fun u a hu => ?_)
    | dsimp only
    | split

theorem Kept.bindEngines (h : Kept s t)  :
    Kept s (State.bindEngines t) := by
  unfold State.bindEngines
  repeat' first
    | with_reducible assumption
    | with_reducible apply Kept.ite
    | with_reducible apply Kept.withEngine
    | refine Kept.foldl ?_ (fun u a hu => ?_)
    | dsimp only
    | split
    | (with_reducible apply Kept.parts <;> first | exact rfl | skip)

theorem Kept.leaveStacks (h : Kept s t)  :
    Kept s (State.leaveStacks t) := by
  unfold State.leaveStacks
  repeat' first
    | with_reducible assumption
    | with_reducible apply Kept.ite
    | with_reducible apply Kept.withStores
    | exact id
    | dsimp only
    | split
    | (with_reducible apply Kept.parts <;> first | exact rfl | skip)

theorem Kept.leaveSlices (h : Kept s t)  :
    Kept s (State.leaveSlices t) := by
  unfold State.leaveSlices
  repeat' first
    | with_reducible assumption
    | with_reducible apply Kept.ite
    | with_reducible apply Kept.withStores
    | exact id
    | dsimp only
    | split
    | (with_reducible apply Kept.parts <;> first | exact rfl | skip)

theorem Kept.dropTests (h : Kept s t)  :
    Kept s (State.dropTests t) := by
  unfold State.dropTests
  repeat' first
    | with_reducible assumption
    | with_reducible apply Kept.ite
    | with_reducible apply Kept.withCells
    | dsimp only
    | split
    | (with_reducible apply Kept.parts <;> first | exact rfl | skip)

theorem Kept.takePlacement (h : Kept s t) (p : Placement) :
    Kept s (State.takePlacement t p) := by
  unfold State.takePlacement
  repeat' first
    | with_reducible assumption
    | with_reducible apply Kept.ite
    | with_reducible apply Kept.withJob
    | dsimp only
    | split
    | (with_reducible apply Kept.parts <;> first | exact rfl | skip)

theorem Kept.openStations (h : Kept s t) (j : Job) :
    Kept s (State.openStations t j) := by
  unfold State.openStations
  repeat' first
    | with_reducible assumption
    | with_reducible apply Kept.ite
    | with_reducible apply Kept.withCells
    | dsimp only
    | split
    | (with_reducible apply Kept.parts <;> first | exact rfl | skip)

theorem Kept.openWindows (h : Kept s t) (j : Job) :
    Kept s (State.openWindows t j) := by
  unfold State.openWindows
  repeat' first
    | with_reducible assumption
    | with_reducible apply Kept.ite
    | refine Kept.foldl ?_ (fun u a hu => ?_)
    | dsimp only
    | split
    | (with_reducible apply Kept.parts <;> first | exact rfl | skip)

theorem Kept.toRun (h : Kept s t)  :
    Kept s (State.toRun t) := by
  unfold State.toRun
  repeat' first
    | with_reducible assumption
    | with_reducible apply Kept.ite
    | with_reducible apply Kept.gotoOn
    | exact ⟨DevState.noConfusion, DevState.noConfusion, rfl⟩
    | dsimp only
    | split
    | (with_reducible apply Kept.parts <;> first | exact rfl | skip)

theorem Kept.becomeMember (h : Kept s t)  :
    Kept s (State.becomeMember t) := by
  unfold State.becomeMember
  have k := Kept.toRun h
  dsimp only
  split
  · rename_i hd
    refine Kept.withDev k _ rfl fun _ => ?_
    rcases hd with hd | hd <;> simp [Device.memberOk, DevState.bindable, hd]
  · exact k

theorem Kept.bindJob (h : Kept s t) (j : Job) (p : Placement) :
    Kept s (State.bindJob t j p) := by
  unfold State.bindJob
  repeat' first
    | with_reducible assumption
    | with_reducible apply Kept.ite
    | with_reducible apply Kept.takePlacement
    | with_reducible apply Kept.becomeMember
    | with_reducible apply Kept.openStations
    | with_reducible apply Kept.bindEngines
    | with_reducible apply Kept.fillObjects
    | with_reducible apply Kept.openWindows
    | with_reducible apply Kept.withRelay
    | with_reducible apply Kept.withMgmt
    | dsimp only
    | split
    | (with_reducible apply Kept.parts <;> first | exact rfl | skip)

theorem Goes.execPlacementJobStart (h : Kept s t)  :
    Goes s (execPlacementJobStart t) := by
  unfold Machine.execPlacementJobStart
  repeat' first
    | with_reducible assumption
    | with_reducible apply Kept.ite
    | with_reducible apply Goes.ite
    | with_reducible apply Goes.next
    | with_reducible apply Kept.leaveStacks
    | with_reducible apply Kept.leaveSlices
    | with_reducible apply Kept.dropTests
    | with_reducible apply Kept.bindClusters
    | with_reducible apply Kept.abandonTest
    | with_reducible apply Kept.writeMapNow
    | with_reducible apply Kept.withJob
    | with_reducible apply Kept.sendPlacement
    | with_reducible apply Kept.checkFloor
    | with_reducible apply Kept.setLodge
    | with_reducible apply Kept.bindJob
    | dsimp only
    | split
    | (with_reducible apply Kept.parts <;> first | exact rfl | skip)

theorem Kept.keepTicket (h : Kept s t) (n : Nat) :
    Kept s (State.keepTicket t n) := by
  unfold State.keepTicket
  repeat' first
    | with_reducible assumption
    | with_reducible apply Kept.ite
    | with_reducible apply Kept.withPower
    | with_reducible apply Kept.requestCal
    | dsimp only
    | split
    | (with_reducible apply Kept.parts <;> first | exact rfl | skip)

theorem Kept.replace (h : Kept s t) (st : Nat) (f : StationPlace → StationPlace) :
    Kept s (State.replace t st f) := by
  unfold State.replace
  repeat' first
    | with_reducible assumption
    | with_reducible apply Kept.ite
    | with_reducible apply Kept.withJob
    | dsimp only
    | split
    | (with_reducible apply Kept.parts <;> first | exact rfl | skip)

theorem Kept.toHost (h : Kept s t) (st : Nat) :
    Kept s (State.toHost t st) := by
  unfold State.toHost
  repeat' first
    | with_reducible assumption
    | with_reducible apply Kept.ite
    | with_reducible apply Kept.replace
    | with_reducible apply Kept.rerunOnCell
    | dsimp only
    | split

theorem Goes.execPlacementGlideLeave (h : Kept s t) (engine : Nat) :
    Goes s (execPlacementGlideLeave engine t) := by
  unfold Machine.execPlacementGlideLeave
  repeat' first
    | with_reducible assumption
    | with_reducible apply Kept.ite
    | with_reducible apply Goes.ite
    | with_reducible apply Goes.next
    | with_reducible apply Kept.withGlide
    | with_reducible apply Kept.toHost
    | with_reducible apply Kept.withEngine
    | with_reducible apply Kept.keepTicket
    | with_reducible apply Kept.sendPlacement
    | refine Kept.foldl ?_ (fun u a hu => ?_)
    | dsimp only
    | split
    | (with_reducible apply Kept.parts <;> first | exact rfl | skip)

theorem Kept.loadBack (h : Kept s t) (n : Nat) (st : Nat) :
    Kept s (State.loadBack t n st).1 := by
  unfold State.loadBack
  repeat' first
    | with_reducible assumption
    | with_reducible apply Kept.ite
    | with_reducible apply Kept.iteFst
    | with_reducible apply Kept.glLoad
    | with_reducible apply Kept.readFrames
    | with_reducible apply Kept.withSt
    | with_reducible apply Kept.storeMap
    | refine Kept.ofFst (by assumption) ?_
    | dsimp only
    | split
    | (with_reducible apply Kept.parts <;> first | exact rfl | skip)

theorem Kept.returnStation (h : Kept s t) (ns : List Nat) (st : Nat) :
    Kept s (State.returnStation t ns st).1 := by
  unfold State.returnStation
  repeat' first
    | with_reducible assumption
    | with_reducible apply Kept.ite
    | with_reducible apply Kept.iteFst
    | with_reducible apply Kept.loadBack
    | with_reducible apply Kept.refuseMap
    | with_reducible apply Kept.replace
    | with_reducible apply Kept.withGlide
    | with_reducible apply Kept.withEngine
    | refine Kept.ofFst (by assumption) ?_
    | dsimp only
    | split
    | (with_reducible apply Kept.parts <;> first | exact rfl | skip)

theorem Kept.returnTo (h : Kept s t) (ns : List Nat) :
    Kept s (State.returnTo t ns).1 := by
  unfold State.returnTo
  repeat' first
    | with_reducible assumption
    | with_reducible apply Kept.ite
    | with_reducible apply Kept.iteFst
    | with_reducible apply Kept.returnStation
    | refine Kept.foldl ?_ (fun u a hu => ?_)
    | refine Kept.foldlFst ?_ (fun u b a hu => ?_)
    | refine Kept.ofFst (by assumption) ?_
    | dsimp only
    | split

theorem Goes.execPlacementGlideReturn (h : Kept s t) (engine : Nat) :
    Goes s (execPlacementGlideReturn engine t) := by
  unfold Machine.execPlacementGlideReturn
  repeat' first
    | with_reducible assumption
    | with_reducible apply Kept.ite
    | with_reducible apply Goes.ite
    | with_reducible apply Goes.next
    | with_reducible apply Kept.withGlide
    | with_reducible apply Kept.returnTo
    | with_reducible apply Kept.sendPlacement
    | refine Kept.ofFst (by assumption) ?_
    | dsimp only
    | split
    | (with_reducible apply Kept.parts <;> first | exact rfl | skip)

theorem Kept.setTest (h : Kept s t) (p : Nat) (from_ : RotPhase) (to_ : RotPhase) :
    Kept s (State.setTest t p from_ to_) := by
  unfold State.setTest
  repeat' first
    | with_reducible assumption
    | with_reducible apply Kept.ite
    | with_reducible apply Kept.withCluster
    | dsimp only
    | split
    | (with_reducible apply Kept.parts <;> first | exact rfl | skip)

theorem Kept.verdict (h : Kept s t) (result : Nat) (first : Nat) (second : Option Nat) (jidx : BitVec 32) :
    Kept s (State.verdict t result first second jidx) := by
  unfold State.verdict
  repeat' first
    | with_reducible assumption
    | with_reducible apply Kept.ite
    | with_reducible apply Kept.withCells
    | with_reducible apply Kept.record
    | dsimp only
    | split
    | (with_reducible apply Kept.parts <;> first | exact rfl | skip)

theorem Goes.execPlacementConfirmation (h : Kept s t)  :
    Goes s (execPlacementConfirmation t) := by
  unfold Machine.execPlacementConfirmation
  repeat' first
    | with_reducible assumption
    | with_reducible apply Kept.ite
    | with_reducible apply Goes.ite
    | with_reducible apply Goes.next
    | with_reducible apply Kept.withCells
    | with_reducible apply Kept.setTest
    | with_reducible apply Kept.sendPlacement
    | with_reducible apply Kept.withSt
    | with_reducible apply Kept.verdict
    | with_reducible apply Kept.raiseAndDrain
    | with_reducible apply Kept.markConcern
    | with_reducible apply Kept.withPCell
    | dsimp only
    | split
    | (with_reducible apply Kept.parts <;> first | exact rfl | skip)

theorem Goes.execConfirmationComplete (h : Kept s t) (run : ConfirmRun) (check : ArrayFail) :
    Goes s (execConfirmationComplete run check t) := by
  unfold Machine.execConfirmationComplete
  repeat' first
    | with_reducible assumption
    | with_reducible apply Kept.ite
    | with_reducible apply Goes.ite
    | with_reducible apply Goes.next
    | with_reducible apply Kept.checkEvent
    | with_reducible apply Kept.keepPattern
    | with_reducible apply Kept.withCells
    | with_reducible apply Kept.setTest
    | with_reducible apply Kept.withSt
    | with_reducible apply Kept.verdict
    | with_reducible apply Kept.orderDrain
    | with_reducible apply Kept.raiseAndDrain
    | refine Kept.ofFst (by assumption) ?_
    | dsimp only
    | split
    | (with_reducible apply Kept.parts <;> first | exact rfl | skip)

theorem Goes.execHeartbeat (h : Kept s t)  :
    Goes s (execHeartbeat t) := by
  unfold Machine.execHeartbeat
  repeat' first
    | with_reducible assumption
    | with_reducible apply Kept.ite
    | with_reducible apply Goes.ite
    | with_reducible apply Goes.next
    | with_reducible apply Kept.withMgmt
    | with_reducible apply Kept.report
    | dsimp only
    | split
    | (with_reducible apply Kept.parts <;> first | exact rfl | skip)

end Sys2Proof.Machine
end

