-- ==== Sys2Proof/Laws/KeptRotation.lean ====
section
/-!
SUPPORT. What the operations of Machine/Rotation.lean keep.
-/
namespace Sys2Proof.Machine

-- Proofs are checked one after another: many at once take more threads than the check allows.
set_option Elab.async false

variable {s t : State}

theorem Kept.beginRotation (h : Kept s t) (cluster : Nat) :
    Kept s (State.beginRotation t cluster) := by
  unfold State.beginRotation
  repeat' first
    | with_reducible assumption
    | with_reducible apply Kept.ite
    | with_reducible apply Kept.withCells
    | with_reducible apply Kept.withCluster
    | dsimp only
    | split
    | (with_reducible apply Kept.parts <;> first | exact rfl | skip)

theorem Goes.execRotationDue (h : Kept s t) (cluster : Nat) :
    Goes s (execRotationDue cluster t) := by
  unfold Machine.execRotationDue
  repeat' first
    | with_reducible assumption
    | with_reducible apply Kept.ite
    | with_reducible apply Goes.ite
    | with_reducible apply Goes.next
    | with_reducible apply Kept.beginRotation
    | with_reducible apply Kept.withCells
    | with_reducible apply Kept.withCluster
    | dsimp only
    | split
    | (with_reducible apply Kept.parts <;> first | exact rfl | skip)

theorem Goes.execRotationBoundary (h : Kept s t) (cluster : Nat) :
    Goes s (execRotationBoundary cluster t) := by
  unfold Machine.execRotationBoundary
  repeat' first
    | with_reducible assumption
    | with_reducible apply Kept.ite
    | with_reducible apply Goes.ite
    | with_reducible apply Goes.next
    | with_reducible apply Kept.release
    | with_reducible apply Kept.setPhase
    | with_reducible apply Kept.withCluster
    | dsimp only
    | split
    | (with_reducible apply Kept.parts <;> first | exact rfl | skip)

theorem Goes.execRotationTimeout (h : Kept s t) (cluster : Nat) :
    Goes s (execRotationTimeout cluster t) := by
  unfold Machine.execRotationTimeout
  repeat' first
    | with_reducible assumption
    | with_reducible apply Kept.ite
    | with_reducible apply Goes.ite
    | with_reducible apply Goes.next
    | with_reducible apply Kept.withCluster
    | with_reducible apply Kept.sendPlacement
    | dsimp only
    | split
    | (with_reducible apply Kept.parts <;> first | exact rfl | skip)

theorem Kept.returnAll (h : Kept s t)  :
    Kept s (State.returnAll t).1 := by
  unfold State.returnAll
  repeat' first
    | with_reducible assumption
    | with_reducible apply Kept.ite
    | with_reducible apply Kept.iteFst
    | with_reducible apply Kept.returnTo
    | dsimp only
    | split

theorem Kept.reportRotation (h : Kept s t)  :
    Kept s (State.reportRotation t) := by
  unfold State.reportRotation
  repeat' first
    | with_reducible assumption
    | with_reducible apply Kept.ite
    | with_reducible apply Kept.returnAll
    | with_reducible apply Kept.sendPlacement
    | refine Kept.ofFst (by assumption) ?_
    | dsimp only
    | split

theorem Kept.copyCell (h : Kept s t) (cell : Nat) :
    Kept s (State.copyCell t cell) := by
  unfold State.copyCell
  repeat' first
    | with_reducible assumption
    | with_reducible apply Kept.ite
    | with_reducible apply Kept.granEvents
    | with_reducible apply Kept.withStores
    | with_reducible exact id
    | exact fun w => Memory.restored_wf w _
    | dsimp only
    | split
    | (with_reducible apply Kept.parts <;> first | exact rfl | skip)

theorem Goes.execRotationCopyComplete (h : Kept s t) (cluster : Nat) (writeFault : Bool) :
    Goes s (execRotationCopyComplete cluster writeFault t) := by
  unfold Machine.execRotationCopyComplete
  repeat' first
    | with_reducible assumption
    | with_reducible apply Kept.ite
    | with_reducible apply Goes.ite
    | with_reducible apply Goes.next
    | with_reducible apply Kept.withCluster
    | with_reducible apply Kept.reportRotation
    | with_reducible apply Kept.copyCell
    | dsimp only
    | split
    | (with_reducible apply Kept.parts <;> first | exact rfl | skip)

theorem Kept.selfTestFail (h : Kept s t) (source : Nat) (f : SelfTestFail) :
    Kept s (State.selfTestFail t source f) := by
  unfold State.selfTestFail
  repeat' first
    | with_reducible assumption
    | with_reducible apply Kept.ite
    | with_reducible apply Kept.withTest
    | with_reducible apply Kept.bump
    | with_reducible apply Kept.record
    | with_reducible apply Kept.addSpare
    | dsimp only
    | split
    | (with_reducible apply Kept.parts <;> first | exact rfl | skip)

theorem Kept.cellFaulty (h : Kept s t) (p : Nat) (source : Nat) :
    Kept s (State.cellFaulty t p source) := by
  unfold State.cellFaulty
  repeat' first
    | with_reducible assumption
    | with_reducible apply Kept.ite
    | with_reducible apply Kept.withPCell
    | with_reducible apply Kept.addSpare
    | with_reducible apply Kept.withCluster
    | dsimp only
    | split
    | (with_reducible apply Kept.parts <;> first | exact rfl | skip)

theorem Kept.slotTested (h : Kept s t) (p : Nat) :
    Kept s (State.slotTested t p) := by
  unfold State.slotTested
  repeat' first
    | with_reducible assumption
    | with_reducible apply Kept.ite
    | with_reducible apply Kept.withCells
    | dsimp only
    | split
    | (with_reducible apply Kept.parts <;> first | exact rfl | skip)

theorem Kept.testResult (h : Kept s t) (p : Nat) (passed : Bool) (what : Nat) :
    Kept s (State.testResult t p passed what) := by
  unfold State.testResult
  repeat' first
    | with_reducible assumption
    | with_reducible apply Kept.ite
    | with_reducible apply Kept.record
    | dsimp only
    | split

theorem Goes.execCellTestComplete (h : Kept s t) (pcell : Nat) (failures : List SelfTestFail) (badPatterns : List Nat) :
    Goes s (execCellTestComplete pcell failures badPatterns t) := by
  unfold Machine.execCellTestComplete
  repeat' first
    | with_reducible assumption
    | with_reducible apply Kept.ite
    | with_reducible apply Goes.ite
    | with_reducible apply Goes.next
    | with_reducible apply Kept.selfTestFail
    | with_reducible apply Kept.bump
    | with_reducible apply Kept.testResult
    | with_reducible apply Kept.wrapBy
    | with_reducible apply Kept.withPCell
    | with_reducible apply Kept.withCluster
    | with_reducible apply Kept.slotTested
    | with_reducible apply Kept.cellFaulty
    | with_reducible apply Kept.record
    | with_reducible apply Kept.checkFloor
    | refine Kept.foldl ?_ (fun u a hu => ?_)
    | dsimp only
    | split
    | (with_reducible apply Kept.parts <;> first | exact rfl | skip)

theorem Goes.execInPlaceTestDue (h : Kept s t) (cluster : Nat) :
    Goes s (execInPlaceTestDue cluster t) := by
  unfold Machine.execInPlaceTestDue
  repeat' first
    | with_reducible assumption
    | with_reducible apply Kept.ite
    | with_reducible apply Goes.ite
    | with_reducible apply Goes.next
    | with_reducible apply Kept.withCluster
    | dsimp only
    | split
    | (with_reducible apply Kept.parts <;> first | exact rfl | skip)

theorem Goes.execFullTest (h : Kept s t)  :
    Goes s (execFullTest t) := by
  unfold Machine.execFullTest
  repeat' first
    | with_reducible assumption
    | with_reducible apply Kept.ite
    | with_reducible apply Goes.ite
    | with_reducible apply Goes.next
    | with_reducible apply Kept.startFullTest
    | dsimp only
    | split

theorem Goes.execBucketLeak (h : Kept s t)  :
    Goes s (execBucketLeak t) := by
  unfold Machine.execBucketLeak
  repeat' first
    | with_reducible assumption
    | with_reducible apply Kept.ite
    | with_reducible apply Goes.ite
    | with_reducible apply Goes.next
    | with_reducible apply Kept.withBucket
    | with_reducible apply Kept.setLevel
    | exact fun w => Nat.le_trans (Nat.sub_le _ _) w
    | dsimp only
    | split
    | (with_reducible apply Kept.parts <;> first | exact rfl | skip)

theorem Goes.execWatchRelease (h : Kept s t)  :
    Goes s (execWatchRelease t) := by
  unfold Machine.execWatchRelease
  split
  · dsimp only
    refine Goes.next ?_
    have k : Kept s (t.withNvm fun n => { n with watchRecord := false }) := Kept.withNvm h _ rfl rfl rfl
    cases hb : (t.withNvm fun n => { n with watchRecord := false }).dev.bound
    · exact Kept.goto k .ready (by decide) (Or.inl (by decide)) (Or.inr (Or.inr hb))
    · exact Kept.gotoOn k .run ⟨by decide, by decide, rfl⟩
  · exact Goes.next h

end Sys2Proof.Machine
end

