-- ==== Sys2Proof/Laws/KeptControllers.lean ====
section
/-!
SUPPORT. What the operations of Machine/Controllers.lean keep.
-/
namespace Sys2Proof.Machine

-- Proofs are checked one after another: many at once take more threads than the check allows.
set_option Elab.async false

variable {s t : State}

theorem Kept.withChannel (h : Kept s t) (m : Nat) (pc : Nat) (f : PseudoChannel → PseudoChannel) :
    Kept s (State.withChannel t m pc f) := by
  unfold State.withChannel
  repeat' first
    | with_reducible assumption
    | with_reducible apply Kept.ite
    | with_reducible apply Kept.withStack
    | dsimp only
    | split
    | (with_reducible apply Kept.parts <;> first | exact rfl | skip)

theorem Kept.takeEffect (h : Kept s t) (e : QReq) :
    Kept s (State.takeEffect t e) := by
  unfold State.takeEffect
  repeat' first
    | with_reducible assumption
    | with_reducible apply Kept.ite
    | with_reducible apply Kept.storeBytes
    | with_reducible apply Kept.cacheDrop
    | dsimp only
    | split
    | (with_reducible apply Kept.parts <;> first | exact rfl | skip)

theorem Kept.acceptPart (h : Kept s t) (r : MemReq) :
    Kept s (State.acceptPart t r) := by
  unfold State.acceptPart
  repeat' first
    | with_reducible assumption
    | with_reducible apply Kept.ite
    | with_reducible apply Kept.withStack
    | with_reducible apply Kept.withChannel
    | with_reducible apply Kept.countNarrow
    | with_reducible apply Kept.takeEffect
    | with_reducible apply Kept.burstRequest
    | dsimp only
    | split
    | (with_reducible apply Kept.parts <;> first | exact rfl | skip)

theorem Kept.toControllers (h : Kept s t) (r : MemReq) :
    Kept s (State.toControllers t r) := by
  unfold State.toControllers
  repeat' first
    | with_reducible assumption
    | with_reducible apply Kept.ite
    | with_reducible apply Kept.acceptPart
    | with_reducible apply Kept.badAccess
    | with_reducible apply Kept.withStores
    | refine Kept.foldl ?_ (fun u a hu => ?_)
    | exact id
    | dsimp only
    | split
    | (with_reducible apply Kept.parts <;> first | exact rfl | skip)

theorem Goes.execStackRequest (h : Kept s t) (req : MemReq) :
    Goes s (execStackRequest req t) := by
  unfold Machine.execStackRequest
  repeat' first
    | with_reducible assumption
    | with_reducible apply Kept.ite
    | with_reducible apply Goes.ite
    | with_reducible apply Goes.next
    | with_reducible apply Kept.toControllers
    | dsimp only
    | split

theorem Kept.reply (h : Kept s t) (r : MemReq) (m : MemRead) :
    Kept s (State.reply t r m) := by
  unfold State.reply
  repeat' first
    | with_reducible assumption
    | with_reducible apply Kept.ite
    | with_reducible apply Kept.withStores
    | exact id
    | dsimp only
    | split
    | (with_reducible apply Kept.parts <;> first | exact rfl | skip)

theorem Kept.serve (h : Kept s t) (e : QReq) :
    Kept s (State.serve t e) := by
  unfold State.serve
  repeat' first
    | with_reducible assumption
    | with_reducible apply Kept.ite
    | with_reducible apply Kept.granEvents
    | with_reducible apply Kept.withStores
    | with_reducible apply Kept.countBytes
    | with_reducible apply Kept.reply
    | exact id
    | dsimp only
    | split
    | (with_reducible apply Kept.parts <;> first | exact rfl | skip)

theorem Kept.serveSlice (h : Kept s t) (r : MemReq) :
    Kept s (State.serveSlice t r) := by
  unfold State.serveSlice
  repeat' first
    | with_reducible assumption
    | with_reducible apply Kept.ite
    | with_reducible apply Kept.readStore
    | with_reducible apply Kept.reply
    | with_reducible apply Kept.writeMem
    | with_reducible apply Kept.atomicAt
    | dsimp only
    | split
    | (with_reducible apply Kept.parts <;> first | exact rfl | skip)

theorem Kept.fixLine (h : Kept s t) (line : Nat) :
    Kept s (State.fixLine t line) := by
  unfold State.fixLine
  repeat' first
    | with_reducible assumption
    | with_reducible apply Kept.ite
    | with_reducible apply Kept.withStores
    | refine Kept.foldl ?_ (fun u a hu => ?_)
    | with_reducible exact id
    | exact fun w => Memory.setGranules_wf w _ _ _
    | refine Kept.ofFst (by assumption) ?_
    | dsimp only
    | split
    | (with_reducible apply Kept.parts <;> first | exact rfl | skip)

theorem Kept.scrub (h : Kept s t) (a : Nat) (len : Nat) :
    Kept s (State.scrub t a len) := by
  unfold State.scrub
  repeat' first
    | with_reducible assumption
    | with_reducible apply Kept.ite
    | with_reducible apply Kept.granEvents
    | dsimp only
    | split

theorem Kept.maintain (h : Kept s t) (m : Nat) (pc : Nat) (w : MaintWork) :
    Kept s (State.maintain t m pc w) := by
  unfold State.maintain
  repeat' first
    | with_reducible assumption
    | with_reducible apply Kept.ite
    | with_reducible apply Kept.fixLine
    | with_reducible apply Kept.withStores
    | with_reducible apply Kept.scrub
    | with_reducible apply Kept.withChannel
    | exact id
    | dsimp only
    | split
    | (with_reducible apply Kept.parts <;> first | exact rfl | skip)

theorem Goes.execPseudoChannelCommand (h : Kept s t) (m : Nat) (pc : Nat) (refresh : Option Nat) :
    Goes s (execPseudoChannelCommand m pc refresh t) := by
  unfold Machine.execPseudoChannelCommand
  repeat' first
    | with_reducible assumption
    | with_reducible apply Kept.ite
    | with_reducible apply Goes.ite
    | with_reducible apply Goes.next
    | with_reducible apply Kept.take
    | with_reducible apply Kept.withChannel
    | with_reducible apply Kept.request
    | with_reducible apply Kept.serve
    | with_reducible apply Kept.maintain
    | dsimp only
    | split
    | (with_reducible apply Kept.parts <;> first | exact rfl | skip)

theorem Goes.execStackBurstRelease (h : Kept s t) (m : Nat) :
    Goes s (execStackBurstRelease m t) := by
  unfold Machine.execStackBurstRelease
  repeat' first
    | with_reducible assumption
    | with_reducible apply Kept.ite
    | with_reducible apply Goes.ite
    | with_reducible apply Goes.next
    | with_reducible apply Kept.release
    | with_reducible apply Kept.burstRequest
    | dsimp only
    | split
    | (with_reducible apply Kept.parts <;> first | exact rfl | skip)

theorem Goes.execCorrectionWriteback (h : Kept s t) (m : Nat) (line : Nat) :
    Goes s (execCorrectionWriteback m line t) := by
  unfold Machine.execCorrectionWriteback
  repeat' first
    | with_reducible assumption
    | with_reducible apply Kept.ite
    | with_reducible apply Goes.ite
    | with_reducible apply Goes.next
    | with_reducible apply Kept.fixLine
    | with_reducible apply Kept.withStores
    | exact id
    | dsimp only
    | split
    | (with_reducible apply Kept.parts <;> first | exact rfl | skip)

theorem Goes.execScratchpadWriteback (h : Kept s t) (line : Nat) :
    Goes s (execScratchpadWriteback line t) := by
  unfold Machine.execScratchpadWriteback
  repeat' first
    | with_reducible assumption
    | with_reducible apply Kept.ite
    | with_reducible apply Goes.ite
    | with_reducible apply Goes.next
    | with_reducible apply Kept.fixLine
    | with_reducible apply Kept.withStores
    | exact id
    | dsimp only
    | split
    | (with_reducible apply Kept.parts <;> first | exact rfl | skip)

theorem Kept.miss (h : Kept s t) (r : MemReq) :
    Kept s (State.miss t r) := by
  unfold State.miss
  repeat' first
    | with_reducible assumption
    | with_reducible apply Kept.ite
    | with_reducible apply Kept.withStores
    | with_reducible apply Kept.wrapBy
    | with_reducible apply Kept.acceptPart
    | exact id
    | dsimp only
    | split
    | (with_reducible apply Kept.parts <;> first | exact rfl | skip)

theorem Kept.lodgeRead (h : Kept s t) (r : MemReq) :
    Kept s (State.lodgeRead t r) := by
  unfold State.lodgeRead
  repeat' first
    | with_reducible assumption
    | with_reducible apply Kept.ite
    | with_reducible apply Kept.take
    | with_reducible apply Kept.refetch
    | with_reducible apply Kept.miss
    | with_reducible apply Kept.readUnit
    | with_reducible apply Kept.reply
    | dsimp only
    | split
    | (with_reducible apply Kept.parts <;> first | exact rfl | skip)

theorem Goes.execLodgeRequest (h : Kept s t) (req : MemReq) :
    Goes s (execLodgeRequest req t) := by
  unfold Machine.execLodgeRequest
  repeat' first
    | with_reducible assumption
    | with_reducible apply Kept.ite
    | with_reducible apply Goes.ite
    | with_reducible apply Goes.next
    | with_reducible apply Kept.serveSlice
    | with_reducible apply Kept.toControllers
    | with_reducible apply Kept.lodgeRead
    | with_reducible apply Kept.badAccess
    | with_reducible apply Kept.withStores
    | refine Kept.foldl ?_ (fun u a hu => ?_)
    | exact id
    | dsimp only
    | split
    | (with_reducible apply Kept.parts <;> first | exact rfl | skip)

theorem Goes.execLodgeFillReturn (h : Kept s t) (unit : Nat) :
    Goes s (execLodgeFillReturn unit t) := by
  unfold Machine.execLodgeFillReturn
  repeat' first
    | with_reducible assumption
    | with_reducible apply Kept.ite
    | with_reducible apply Goes.ite
    | with_reducible apply Goes.next
    | with_reducible apply Kept.withStores
    | with_reducible apply Kept.install
    | exact id
    | dsimp only
    | split
    | (with_reducible apply Kept.parts <;> first | exact rfl | skip)

theorem Kept.scrubCached (h : Kept s t) (slice : Nat) (c : CacheLine) :
    Kept s (State.scrubCached t slice c) := by
  unfold State.scrubCached
  repeat' first
    | with_reducible assumption
    | with_reducible apply Kept.ite
    | with_reducible apply Kept.refetch
    | with_reducible apply Kept.fetchUnit
    | with_reducible apply Kept.withCache
    | with_reducible apply Kept.cacheEvents
    | dsimp only
    | split

theorem Goes.execScratchpadScrub (h : Kept s t) (store : ScrubStore) (unit : Nat) (line : Nat) :
    Goes s (execScratchpadScrub store unit line t) := by
  unfold Machine.execScratchpadScrub
  repeat' first
    | with_reducible assumption
    | with_reducible apply Kept.ite
    | with_reducible apply Goes.ite
    | with_reducible apply Goes.next
    | with_reducible apply Kept.scrub
    | with_reducible apply Kept.scrubCached
    | dsimp only
    | split
    | (with_reducible apply Kept.parts <;> first | exact rfl | skip)

theorem Goes.execStackScrub (h : Kept s t) (m : Nat) (unit : Nat) :
    Goes s (execStackScrub m unit t) := by
  unfold Machine.execStackScrub
  repeat' first
    | with_reducible assumption
    | with_reducible apply Kept.ite
    | with_reducible apply Goes.ite
    | with_reducible apply Goes.next
    | with_reducible apply Kept.scrub
    | dsimp only
    | split
    | (with_reducible apply Kept.parts <;> first | exact rfl | skip)

theorem Kept.restoreLine (h : Kept s t) (line : Nat) :
    Kept s (State.restoreLine t line) := by
  unfold State.restoreLine
  repeat' first
    | with_reducible assumption
    | with_reducible apply Kept.ite
    | with_reducible apply Kept.withStores
    | with_reducible exact id
    | exact fun w => Memory.restored_wf w _
    | dsimp only
    | split
    | (with_reducible apply Kept.parts <;> first | exact rfl | skip)

theorem Kept.rewriteRow (h : Kept s t) (m : Nat) (pc : Nat) (bank : Nat) (row : Nat) :
    Kept s (State.rewriteRow t m pc bank row) := by
  unfold State.rewriteRow
  repeat' first
    | with_reducible assumption
    | with_reducible apply Kept.ite
    | with_reducible apply Kept.restoreLine
    | refine Kept.foldl ?_ (fun u a hu => ?_)
    | dsimp only
    | split
    | (with_reducible apply Kept.parts <;> first | exact rfl | skip)

theorem Goes.execRowTest (h : Kept s t) (m : Nat) (pc : Nat) (bank : Nat) (row : Nat) (failingBit : Option Nat) (sparesLeft : Nat) :
    Goes s (execRowTest m pc bank row failingBit sparesLeft t) := by
  unfold Machine.execRowTest
  repeat' first
    | with_reducible assumption
    | with_reducible apply Kept.ite
    | with_reducible apply Goes.ite
    | with_reducible apply Goes.next
    | with_reducible apply Kept.rewriteRow
    | with_reducible apply Kept.withStack
    | with_reducible apply Kept.bump
    | with_reducible apply Kept.record
    | with_reducible apply Kept.addSpare
    | dsimp only
    | split
    | (with_reducible apply Kept.parts <;> first | exact rfl | skip)

theorem Goes.execStrobeTracking (h : Kept s t) (m : Nat) (pc : Nat) (lane : Nat) (step : Int) (limit : Option MarginResult) :
    Goes s (execStrobeTracking m pc lane step limit t) := by
  unfold Machine.execStrobeTracking
  repeat' first
    | with_reducible assumption
    | with_reducible apply Kept.ite
    | with_reducible apply Goes.ite
    | with_reducible apply Goes.next
    | with_reducible apply Kept.withStack
    | with_reducible apply Kept.record
    | dsimp only
    | split
    | (with_reducible apply Kept.parts <;> first | exact rfl | skip)

theorem Kept.marginStack (h : Kept s t) (x : MarginResult) :
    Kept s (State.marginStack t x) := by
  unfold State.marginStack
  repeat' first
    | with_reducible assumption
    | with_reducible apply Kept.ite
    | with_reducible apply Kept.withStack
    | refine Kept.foldl ?_ (fun u a hu => ?_)
    | dsimp only
    | split
    | (with_reducible apply Kept.parts <;> first | exact rfl | skip)

theorem Kept.marginAgain (h : Kept s t) (x : MarginResult) :
    Kept s (State.marginAgain t x) := by
  unfold State.marginAgain
  repeat' first
    | with_reducible assumption
    | with_reducible apply Kept.ite
    | with_reducible apply Kept.marginStack
    | with_reducible apply Kept.withStack
    | with_reducible apply Kept.record
    | dsimp only
    | split
    | (with_reducible apply Kept.parts <;> first | exact rfl | skip)

theorem Goes.execMarginGo (h : Kept s t) (results : List MarginResult) :
    Goes s (execMarginGo results t) := by
  unfold Machine.execMarginGo
  repeat' first
    | with_reducible assumption
    | with_reducible apply Kept.ite
    | with_reducible apply Goes.ite
    | with_reducible apply Goes.next
    | with_reducible apply Kept.marginAgain
    | with_reducible apply Kept.withStores
    | refine Kept.foldl ?_ (fun u a hu => ?_)
    | exact id
    | dsimp only
    | split
    | (with_reducible apply Kept.parts <;> first | exact rfl | skip)

theorem Goes.execStackFailed (h : Kept s t) (m : Nat) (cause : Nat) :
    Goes s (execStackFailed m cause t) := by
  unfold Machine.execStackFailed
  repeat' first
    | with_reducible assumption
    | with_reducible apply Kept.ite
    | with_reducible apply Goes.ite
    | with_reducible apply Goes.next
    | with_reducible apply Kept.withStack
    | with_reducible apply Kept.record
    | with_reducible apply Kept.orderDrain
    | dsimp only
    | split
    | (with_reducible apply Kept.parts <;> first | exact rfl | skip)

end Sys2Proof.Machine
end

