-- ==== Sys2Proof/Laws/KeptTickets.lean ====
section
/-!
SUPPORT. What the operations of Machine/Tickets.lean keep.
-/
namespace Sys2Proof.Machine

-- Proofs are checked one after another: many at once take more threads than the check allows.
set_option Elab.async false

variable {s t : State}

theorem Kept.ticketHere (h : Kept s t) (sts : List Nat) :
    Kept s (State.ticketHere t sts) := by
  unfold State.ticketHere
  repeat' first
    | with_reducible assumption
    | with_reducible apply Kept.ite
    | with_reducible apply Kept.withSt
    | refine Kept.foldl ?_ (fun u a hu => ?_)
    | dsimp only
    | split
    | (with_reducible apply Kept.parts <;> first | exact rfl | skip)

theorem Kept.granted (h : Kept s t) (c : TicketClass) (ballast : List ArrayFail) :
    Kept s (State.granted t c ballast) := by
  unfold State.granted
  repeat' first
    | with_reducible assumption
    | with_reducible apply Kept.ite
    | with_reducible apply Kept.withEngine
    | with_reducible apply Kept.setPhase
    | with_reducible apply Kept.ticketHere
    | with_reducible apply Kept.ballastFails
    | with_reducible apply Kept.withPort
    | dsimp only
    | split
    | (with_reducible apply Kept.parts <;> first | exact rfl | skip)

theorem Goes.execTicketGrant (h : Kept s t) (pool : Nat) (ballast : List ArrayFail) :
    Goes s (execTicketGrant pool ballast t) := by
  unfold Machine.execTicketGrant
  repeat' first
    | with_reducible assumption
    | with_reducible apply Kept.ite
    | with_reducible apply Goes.ite
    | with_reducible apply Goes.next
    | with_reducible apply Kept.withPower
    | with_reducible apply Kept.wrapBy
    | with_reducible apply Kept.granted
    | dsimp only
    | split
    | (with_reducible apply Kept.parts <;> first | exact rfl | skip)

theorem Kept.recallTicket (h : Kept s t) (t' : Ticket) :
    Kept s (State.recallTicket t t') := by
  unfold State.recallTicket
  repeat' first
    | with_reducible assumption
    | with_reducible apply Kept.ite
    | with_reducible apply Kept.setPhase
    | with_reducible apply Kept.withPower
    | with_reducible apply Kept.release
    | with_reducible apply Kept.burstRequest
    | dsimp only
    | split
    | (with_reducible apply Kept.parts <;> first | exact rfl | skip)

theorem Goes.execTicketRecall (h : Kept s t) (pool : Nat) :
    Goes s (execTicketRecall pool t) := by
  unfold Machine.execTicketRecall
  repeat' first
    | with_reducible assumption
    | with_reducible apply Kept.ite
    | with_reducible apply Goes.ite
    | with_reducible apply Goes.next
    | with_reducible apply Kept.withPower
    | with_reducible apply Kept.recallTicket
    | with_reducible apply Kept.wrapBy
    | refine Kept.foldl ?_ (fun u a hu => ?_)
    | dsimp only
    | split
    | (with_reducible apply Kept.parts <;> first | exact rfl | skip)

end Sys2Proof.Machine
end

