-- ==== Sys2Proof/Laws/KeptSensors.lean ====
section
/-!
SUPPORT. What the operations of Machine/Sensors.lean keep.
-/
namespace Sys2Proof.Machine

-- Proofs are checked one after another: many at once take more threads than the check allows.
set_option Elab.async false

variable {s t : State}

theorem Kept.withSensor (h : Kept s t) (i : Nat) (f : Sensor → Sensor) :
    Kept s (State.withSensor t i f) := by
  unfold State.withSensor
  repeat' first
    | with_reducible assumption
    | with_reducible apply Kept.ite
    | with_reducible apply Kept.withThermal
    | dsimp only
    | split
    | (with_reducible apply Kept.parts <;> first | exact rfl | skip)

theorem Kept.suspectEvent (h : Kept s t) (i : Nat) :
    Kept s (State.suspectEvent t i) := by
  unfold State.suspectEvent
  repeat' first
    | with_reducible assumption
    | with_reducible apply Kept.ite
    | with_reducible apply Kept.record
    | dsimp only
    | split

theorem Kept.checkSensor (h : Kept s t) (i : Nat) :
    Kept s (State.checkSensor t i) := by
  unfold State.checkSensor
  repeat' first
    | with_reducible assumption
    | with_reducible apply Kept.ite
    | with_reducible apply Kept.withSensor
    | with_reducible apply Kept.bump
    | with_reducible apply Kept.suspectEvent
    | dsimp only
    | split
    | (with_reducible apply Kept.parts <;> first | exact rfl | skip)

theorem Kept.setPause (h : Kept s t) (die : Nat) (p : Nat) :
    Kept s (State.setPause t die p) := by
  unfold State.setPause
  repeat' first
    | with_reducible assumption
    | with_reducible apply Kept.ite
    | with_reducible apply Kept.withThermal
    | with_reducible apply Kept.record
    | dsimp only
    | split
    | (with_reducible apply Kept.parts <;> first | exact rfl | skip)

theorem Kept.plough (h : Kept s t) (die : Nat) :
    Kept s (State.plough t die) := by
  unfold State.plough
  repeat' first
    | with_reducible assumption
    | with_reducible apply Kept.ite
    | with_reducible apply Kept.setPause
    | dsimp only
    | split

theorem Kept.checkTrip (h : Kept s t) (i : Nat) (before : Int) :
    Kept s (State.checkTrip t i before) := by
  unfold State.checkTrip
  repeat' first
    | with_reducible assumption
    | with_reducible apply Kept.ite
    | with_reducible apply Kept.trip
    | with_reducible apply Kept.record
    | dsimp only
    | split

theorem Kept.classified (h : Kept s t) (i : Nat) :
    Kept s (State.classified t i) := by
  unfold State.classified
  repeat' first
    | with_reducible assumption
    | with_reducible apply Kept.ite
    | with_reducible apply Kept.withCells
    | dsimp only
    | split
    | (with_reducible apply Kept.parts <;> first | exact rfl | skip)

theorem Kept.glideReading (h : Kept s t) (n : Nat) :
    Kept s (State.glideReading t n) := by
  unfold State.glideReading
  repeat' first
    | with_reducible assumption
    | with_reducible apply Kept.ite
    | with_reducible apply Kept.withEngine
    | dsimp only
    | split
    | (with_reducible apply Kept.parts <;> first | exact rfl | skip)

theorem Kept.readSensor (h : Kept s t) (i : Nat) (t' : Int) :
    Kept s (State.readSensor t i t') := by
  unfold State.readSensor
  repeat' first
    | with_reducible assumption
    | with_reducible apply Kept.ite
    | with_reducible apply Kept.withSensor
    | with_reducible apply Kept.checkSensor
    | with_reducible apply Kept.withThermal
    | with_reducible apply Kept.classified
    | with_reducible apply Kept.glideReading
    | with_reducible apply Kept.plough
    | with_reducible apply Kept.checkTrip
    | dsimp only
    | split
    | (with_reducible apply Kept.parts <;> first | exact rfl | skip)

theorem Goes.execSensorReading (h : Kept s t) (sensor : Nat) (t' : Int) :
    Goes s (execSensorReading sensor t' t) := by
  unfold Machine.execSensorReading
  repeat' first
    | with_reducible assumption
    | with_reducible apply Kept.ite
    | with_reducible apply Goes.ite
    | with_reducible apply Goes.next
    | with_reducible apply Kept.readSensor
    | with_reducible apply Kept.withThermal
    | with_reducible apply Kept.plough
    | dsimp only
    | split
    | (with_reducible apply Kept.parts <;> first | exact rfl | skip)

theorem Kept.stepEngine (h : Kept s t) (first : Word) (n : Nat) :
    Kept s (State.stepEngine t first n) := by
  unfold State.stepEngine
  repeat' first
    | with_reducible assumption
    | with_reducible apply Kept.ite
    | with_reducible apply Kept.withCells
    | with_reducible apply Kept.withEngine
    | with_reducible apply Kept.request
    | dsimp only
    | split
    | (with_reducible apply Kept.parts <;> first | exact rfl | skip)

theorem Kept.confirmStep (h : Kept s t) (i : Nat) (first : Word) (change : Int) (l : List Int) :
    Kept s (State.confirmStep t i first change l) := by
  unfold State.confirmStep
  repeat' first
    | with_reducible assumption
    | with_reducible apply Kept.ite
    | with_reducible apply Kept.withThermal
    | with_reducible apply Kept.bump
    | with_reducible apply Kept.record
    | with_reducible apply Kept.revoke
    | with_reducible apply Kept.stepEngine
    | with_reducible apply Kept.requestAgain
    | with_reducible apply Kept.setPause
    | refine Kept.foldl ?_ (fun u a hu => ?_)
    | dsimp only
    | split
    | (with_reducible apply Kept.parts <;> first | exact rfl | skip)

theorem Goes.execStepConfirmation (h : Kept s t) (sensor : Nat) (neighbours : List Int) :
    Goes s (execStepConfirmation sensor neighbours t) := by
  unfold Machine.execStepConfirmation
  repeat' first
    | with_reducible assumption
    | with_reducible apply Kept.ite
    | with_reducible apply Goes.ite
    | with_reducible apply Goes.next
    | with_reducible apply Kept.withThermal
    | with_reducible apply Kept.classified
    | with_reducible apply Kept.confirmStep
    | with_reducible apply Kept.bump
    | with_reducible apply Kept.record
    | with_reducible apply Kept.withSensor
    | dsimp only
    | split
    | (with_reducible apply Kept.parts <;> first | exact rfl | skip)

theorem Goes.execStepEnd (h : Kept s t)  :
    Goes s (execStepEnd t) := by
  unfold Machine.execStepEnd
  repeat' first
    | with_reducible assumption
    | with_reducible apply Kept.ite
    | with_reducible apply Goes.ite
    | with_reducible apply Goes.next
    | with_reducible apply Kept.withThermal
    | with_reducible apply Kept.setPause
    | refine Kept.foldl ?_ (fun u a hu => ?_)
    | dsimp only
    | split
    | (with_reducible apply Kept.parts <;> first | exact rfl | skip)

end Sys2Proof.Machine
end

