-- ==== Sys2Proof/Laws/KeptParts.lean ====
section
/-!
SUPPORT. What the operations of Machine/Parts.lean keep.
-/
namespace Sys2Proof.Machine

-- Proofs are checked one after another: many at once take more threads than the check allows.
set_option Elab.async false

variable {s t : State}

theorem Kept.clusterLost (h : Kept s t) (c : Nat) :
    Kept s (State.clusterLost t c) := by
  unfold State.clusterLost
  repeat' first
    | with_reducible assumption
    | with_reducible apply Kept.ite
    | with_reducible apply Kept.withPCell
    | with_reducible apply Kept.withCluster
    | refine Kept.foldl ?_ (fun u a hu => ?_)
    | dsimp only
    | split
    | (with_reducible apply Kept.parts <;> first | exact rfl | skip)

theorem Kept.sliceLost (h : Kept s t) (i : Nat) :
    Kept s (State.sliceLost t i) := by
  unfold State.sliceLost
  repeat' first
    | with_reducible assumption
    | with_reducible apply Kept.ite
    | with_reducible apply Kept.withStores
    | exact id
    | dsimp only
    | split
    | (with_reducible apply Kept.parts <;> first | exact rfl | skip)

theorem Kept.sliceLeaves (h : Kept s t) (i : Nat) :
    Kept s (State.sliceLeaves t i) := by
  unfold State.sliceLeaves
  repeat' first
    | with_reducible assumption
    | with_reducible apply Kept.ite
    | with_reducible apply Kept.withStores
    | exact id
    | dsimp only
    | split
    | (with_reducible apply Kept.parts <;> first | exact rfl | skip)

theorem Kept.stackLost (h : Kept s t) (m : Nat) :
    Kept s (State.stackLost t m) := by
  unfold State.stackLost
  repeat' first
    | with_reducible assumption
    | with_reducible apply Kept.ite
    | with_reducible apply Kept.withStack
    | dsimp only
    | split
    | (with_reducible apply Kept.parts <;> first | exact rfl | skip)

theorem Kept.engineLost (h : Kept s t) (n : Nat) :
    Kept s (State.engineLost t n) := by
  unfold State.engineLost
  repeat' first
    | with_reducible assumption
    | with_reducible apply Kept.ite
    | with_reducible apply Kept.withEngine
    | dsimp only
    | split
    | (with_reducible apply Kept.parts <;> first | exact rfl | skip)

theorem Kept.portLost (h : Kept s t) (n : Nat) :
    Kept s (State.portLost t n) := by
  unfold State.portLost
  repeat' first
    | with_reducible assumption
    | with_reducible apply Kept.ite
    | with_reducible apply Kept.holdPort
    | dsimp only
    | split

theorem Kept.sensorLost (h : Kept s t) (i : Nat) :
    Kept s (State.sensorLost t i) := by
  unfold State.sensorLost
  repeat' first
    | with_reducible assumption
    | with_reducible apply Kept.ite
    | with_reducible apply Kept.withSensor
    | dsimp only
    | split
    | (with_reducible apply Kept.parts <;> first | exact rfl | skip)

theorem Kept.stopLost (h : Kept s t) (stop : Nat) :
    Kept s (State.stopLost t stop) := by
  unfold State.stopLost
  repeat' first
    | with_reducible assumption
    | with_reducible apply Kept.ite
    | with_reducible apply Kept.clusterLost
    | with_reducible apply Kept.sliceLost
    | with_reducible apply Kept.stackLost
    | with_reducible apply Kept.engineLost
    | refine Kept.foldl ?_ (fun u a hu => ?_)
    | dsimp only
    | split

theorem Kept.coreLost (h : Kept s t)  :
    Kept s (State.coreLost t) := by
  unfold State.coreLost
  repeat' first
    | with_reducible assumption
    | with_reducible apply Kept.ite
    | with_reducible apply Kept.withBoot
    | dsimp only
    | split
    | (with_reducible apply Kept.parts <;> first | exact rfl | skip)

theorem Kept.blockLost (h : Kept s t) (u' : Nat) :
    Kept s (State.blockLost t u') := by
  unfold State.blockLost
  repeat' first
    | with_reducible assumption
    | with_reducible apply Kept.ite
    | with_reducible apply Kept.coreLost
    | with_reducible apply Kept.stopLost
    | with_reducible apply Kept.stackLost
    | with_reducible apply Kept.portLost
    | dsimp only
    | split

theorem Kept.partFails (h : Kept s t) (p : Part) (source : Nat) :
    Kept s (State.partFails t p source) := by
  unfold State.partFails
  repeat' first
    | with_reducible assumption
    | with_reducible apply Kept.ite
    | with_reducible apply Kept.cellFaulty
    | with_reducible apply Kept.clusterLost
    | with_reducible apply Kept.addSpare
    | with_reducible apply Kept.stopLost
    | with_reducible apply Kept.stackLost
    | with_reducible apply Kept.portLost
    | with_reducible apply Kept.engineLost
    | with_reducible apply Kept.sliceLost
    | with_reducible apply Kept.sliceLeaves
    | with_reducible apply Kept.coreLost
    | with_reducible apply Kept.enterFault
    | with_reducible apply Kept.orderDrain
    | dsimp only
    | split
    | (with_reducible apply Kept.parts <;> first | exact rfl | skip)

end Sys2Proof.Machine
end

