-- ==== Sys2Proof/Laws/KeptWrites.lean ====
section
/-!
SUPPORT. What the operations of Machine/Writes.lean keep.
-/
namespace Sys2Proof.Machine

-- Proofs are checked one after another: many at once take more threads than the check allows.
set_option Elab.async false

variable {s t : State}

theorem Kept.drainHold (h : Kept s t)  :
    Kept s (State.drainHold t) := by
  unfold State.drainHold
  repeat' first
    | with_reducible assumption
    | with_reducible apply Kept.ite
    | with_reducible apply Kept.withDev
    | with_reducible apply Kept.orderDrain
    | exact rfl
    | exact id
    | dsimp only
    | split
    | (with_reducible apply Kept.parts <;> first | exact rfl | skip)

theorem Kept.drainRelease (h : Kept s t)  :
    Kept s (State.drainRelease t) := by
  unfold State.drainRelease
  repeat' first
    | with_reducible assumption
    | with_reducible apply Kept.ite
    | with_reducible apply Kept.withDev
    | with_reducible apply Kept.leaveDrain
    | exact rfl
    | exact id
    | dsimp only
    | split
    | (with_reducible apply Kept.parts <;> first | exact rfl | skip)

theorem Goes.execDrainGo (h : Kept s t)  :
    Goes s (execDrainGo t) := by
  unfold Machine.execDrainGo
  repeat' first
    | with_reducible assumption
    | with_reducible apply Kept.ite
    | with_reducible apply Goes.ite
    | with_reducible apply Goes.next
    | with_reducible apply Kept.drainHold
    | dsimp only
    | split

theorem Goes.execDrainRelease (h : Kept s t)  :
    Goes s (execDrainRelease t) := by
  unfold Machine.execDrainRelease
  repeat' first
    | with_reducible assumption
    | with_reducible apply Kept.ite
    | with_reducible apply Goes.ite
    | with_reducible apply Goes.next
    | with_reducible apply Kept.drainRelease
    | dsimp only
    | split

theorem Goes.execPowerdown (h : Kept s t)  :
    Goes s (execPowerdown t) := by
  unfold Machine.execPowerdown
  repeat' first
    | with_reducible assumption
    | with_reducible apply Kept.ite
    | with_reducible apply Goes.ite
    | with_reducible apply Goes.next
    | with_reducible apply Kept.orderDrain
    | dsimp only
    | split

theorem Kept.writeCtl (h : Kept s t) (v : Word) :
    Kept s (State.writeCtl t v) := by
  unfold State.writeCtl
  repeat' first
    | with_reducible assumption
    | with_reducible apply Kept.ite
    | with_reducible apply Kept.drainHold
    | with_reducible apply Kept.drainRelease
    | with_reducible apply Kept.orderDrain
    | dsimp only
    | split

theorem Kept.writeTel (h : Kept s t) (v : Word) :
    Kept s (State.writeTel t v) := by
  unfold State.writeTel
  repeat' first
    | with_reducible assumption
    | with_reducible apply Kept.ite
    | with_reducible apply Kept.withMgmt
    | dsimp only
    | split
    | (with_reducible apply Kept.parts <;> first | exact rfl | skip)

theorem Kept.writeMgt (h : Kept s t) (o : Nat) (v : Word) :
    Kept s (State.writeMgt t o v) := by
  unfold State.writeMgt
  repeat' first
    | with_reducible assumption
    | with_reducible apply Kept.ite
    | with_reducible apply Kept.writeCtl
    | with_reducible apply Kept.withMgmt
    | with_reducible apply Kept.writeTel
    | dsimp only
    | split
    | (with_reducible apply Kept.parts <;> first | exact rfl | skip)

theorem Kept.selectEntry (h : Kept s t) (j : BitVec 32) :
    Kept s (State.selectEntry t j) := by
  unfold State.selectEntry
  repeat' first
    | with_reducible assumption
    | with_reducible apply Kept.ite
    | with_reducible apply Kept.withCard
    | dsimp only
    | split
    | (with_reducible apply Kept.parts <;> first | exact rfl | skip)

theorem Goes.execJrnlSelWrite (h : Kept s t) (value : Word) :
    Goes s (execJrnlSelWrite value t) := by
  unfold Machine.execJrnlSelWrite
  repeat' first
    | with_reducible assumption
    | with_reducible apply Kept.ite
    | with_reducible apply Goes.ite
    | with_reducible apply Goes.next
    | with_reducible apply Kept.selectEntry
    | dsimp only
    | split

theorem Kept.writeBucket (h : Kept s t) (v : Word) :
    Kept s (State.writeBucket t v) := by
  unfold State.writeBucket
  repeat' first
    | with_reducible assumption
    | with_reducible apply Kept.ite
    | with_reducible apply Kept.withBucket
    | dsimp only
    | split
    | (with_reducible apply Kept.parts <;> first | exact rfl | skip)

theorem Goes.execBucketCtlWrite (h : Kept s t) (value : Word) :
    Goes s (execBucketCtlWrite value t) := by
  unfold Machine.execBucketCtlWrite
  repeat' first
    | with_reducible assumption
    | with_reducible apply Kept.ite
    | with_reducible apply Goes.ite
    | with_reducible apply Goes.next
    | with_reducible apply Kept.writeBucket
    | dsimp only
    | split

theorem Kept.writeHlt (h : Kept s t) (o : Nat) (v : Word) :
    Kept s (State.writeHlt t o v) := by
  unfold State.writeHlt
  repeat' first
    | with_reducible assumption
    | with_reducible apply Kept.ite
    | with_reducible apply Kept.selectEntry
    | with_reducible apply Kept.writeBucket
    | with_reducible apply Kept.withMgmt
    | dsimp only
    | split
    | (with_reducible apply Kept.parts <;> first | exact rfl | skip)

theorem Kept.writeBudget (h : Kept s t) (i : Nat) (v : Word) :
    Kept s (State.writeBudget t i v) := by
  unfold State.writeBudget
  repeat' first
    | with_reducible assumption
    | with_reducible apply Kept.ite
    | with_reducible apply Kept.withPower
    | with_reducible apply Kept.enforceLimit
    | with_reducible apply Kept.growBursts
    | with_reducible apply Kept.bump
    | with_reducible apply Kept.record
    | dsimp only
    | split
    | (with_reducible apply Kept.parts <;> first | exact rfl | skip)

theorem Goes.execPoolBudgetWrite (h : Kept s t) (pool : Nat) (value : Word) :
    Goes s (execPoolBudgetWrite pool value t) := by
  unfold Machine.execPoolBudgetWrite
  repeat' first
    | with_reducible assumption
    | with_reducible apply Kept.ite
    | with_reducible apply Goes.ite
    | with_reducible apply Goes.next
    | with_reducible apply Kept.writeBudget
    | dsimp only
    | split

theorem Kept.writeLimit (h : Kept s t) (w : Nat) :
    Kept s (State.writeLimit t w) := by
  unfold State.writeLimit
  repeat' first
    | with_reducible assumption
    | with_reducible apply Kept.ite
    | with_reducible apply Kept.withPower
    | with_reducible apply Kept.enforceLimit
    | with_reducible apply Kept.growBursts
    | dsimp only
    | split
    | (with_reducible apply Kept.parts <;> first | exact rfl | skip)

theorem Kept.writePwrCtl (h : Kept s t) (v : Word) :
    Kept s (State.writePwrCtl t v) := by
  unfold State.writePwrCtl
  repeat' first
    | with_reducible assumption
    | with_reducible apply Kept.ite
    | with_reducible apply Kept.writeLimit
    | with_reducible apply Kept.withPower
    | dsimp only
    | split
    | (with_reducible apply Kept.parts <;> first | exact rfl | skip)

theorem Goes.execLimitWWrite (h : Kept s t) (value : Word) :
    Goes s (execLimitWWrite value t) := by
  unfold Machine.execLimitWWrite
  repeat' first
    | with_reducible assumption
    | with_reducible apply Kept.ite
    | with_reducible apply Goes.ite
    | with_reducible apply Goes.next
    | with_reducible apply Kept.writePwrCtl
    | dsimp only
    | split

theorem Kept.writePwr (h : Kept s t) (o : Nat) (v : Word) :
    Kept s (State.writePwr t o v) := by
  unfold State.writePwr
  repeat' first
    | with_reducible assumption
    | with_reducible apply Kept.ite
    | with_reducible apply Kept.writePwrCtl
    | with_reducible apply Kept.writeBudget
    | dsimp only
    | split

theorem Kept.writeLnk (h : Kept s t) (o : Nat) (v : Word) :
    Kept s (State.writeLnk t o v) := by
  unfold State.writeLnk
  repeat' first
    | with_reducible assumption
    | with_reducible apply Kept.ite
    | with_reducible apply Kept.setHold
    | with_reducible apply Kept.retrainPort
    | dsimp only
    | split

theorem Kept.writeMem' (h : Kept s t) (o : Nat) (v : Word) :
    Kept s (State.writeMem' t o v) := by
  unfold State.writeMem'
  repeat' first
    | with_reducible assumption
    | with_reducible apply Kept.ite
    | with_reducible apply Kept.withStores
    | exact id
    | dsimp only
    | split
    | (with_reducible apply Kept.parts <;> first | exact rfl | skip)

theorem Kept.writeGld (h : Kept s t) (o : Nat) (v : Word) :
    Kept s (State.writeGld t o v) := by
  unfold State.writeGld
  repeat' first
    | with_reducible assumption
    | with_reducible apply Kept.ite
    | with_reducible apply Kept.withGlide
    | dsimp only
    | split
    | (with_reducible apply Kept.parts <;> first | exact rfl | skip)

theorem Kept.writeCel (h : Kept s t) (o : Nat) (v : Word) :
    Kept s (State.writeCel t o v) := by
  unfold State.writeCel
  repeat' first
    | with_reducible assumption
    | with_reducible apply Kept.ite
    | with_reducible apply Kept.withCells
    | with_reducible apply Kept.startFullTest
    | dsimp only
    | split
    | (with_reducible apply Kept.parts <;> first | exact rfl | skip)

theorem Kept.writeFab (h : Kept s t) (o : Nat) (v : Word) :
    Kept s (State.writeFab t o v) := by
  unfold State.writeFab
  repeat' first
    | with_reducible assumption
    | with_reducible apply Kept.ite
    | with_reducible apply Kept.fence
    | dsimp only
    | split

theorem Kept.writeRly (h : Kept s t) (o : Nat) (v : Word) :
    Kept s (State.writeRly t o v) := by
  unfold State.writeRly
  repeat' first
    | with_reducible assumption
    | with_reducible apply Kept.ite
    | with_reducible apply Kept.withRelay
    | dsimp only
    | split
    | (with_reducible apply Kept.parts <;> first | exact rfl | skip)

theorem Kept.testGo (h : Kept s t)  :
    Kept s (State.testGo t) := by
  unfold State.testGo
  repeat' first
    | with_reducible assumption
    | with_reducible apply Kept.ite
    | with_reducible apply Kept.withTest
    | dsimp only
    | split
    | (with_reducible apply Kept.parts <;> first | exact rfl | skip)

theorem Kept.writeTstCtl (h : Kept s t) (v : Word) :
    Kept s (State.writeTstCtl t v) := by
  unfold State.writeTstCtl
  repeat' first
    | with_reducible assumption
    | with_reducible apply Kept.ite
    | with_reducible apply Kept.withTest
    | with_reducible apply Kept.testGo
    | dsimp only
    | split
    | (with_reducible apply Kept.parts <;> first | exact rfl | skip)

theorem Goes.execTstGo (h : Kept s t) (target : Nat) :
    Goes s (execTstGo target t) := by
  unfold Machine.execTstGo
  repeat' first
    | with_reducible assumption
    | with_reducible apply Kept.ite
    | with_reducible apply Goes.ite
    | with_reducible apply Goes.next
    | with_reducible apply Kept.writeTstCtl
    | dsimp only
    | split

theorem Kept.demandFail (h : Kept s t) (f : SelfTestFail) :
    Kept s (State.demandFail t f) := by
  unfold State.demandFail
  repeat' first
    | with_reducible assumption
    | with_reducible apply Kept.ite
    | with_reducible apply Kept.selfTestFail
    | with_reducible apply Kept.partFails
    | dsimp only
    | split

theorem Goes.execOnDemandTestEnd (h : Kept s t) (failures : List SelfTestFail) :
    Goes s (execOnDemandTestEnd failures t) := by
  unfold Machine.execOnDemandTestEnd
  repeat' first
    | with_reducible assumption
    | with_reducible apply Kept.ite
    | with_reducible apply Goes.ite
    | with_reducible apply Goes.next
    | with_reducible apply Kept.demandFail
    | with_reducible apply Kept.withTest
    | with_reducible apply Kept.wrapBy
    | with_reducible apply Kept.record
    | with_reducible apply Kept.checkFloor
    | refine Kept.foldl ?_ (fun u a hu => ?_)
    | dsimp only
    | split
    | (with_reducible apply Kept.parts <;> first | exact rfl | skip)

theorem Kept.writeTst (h : Kept s t) (o : Nat) (v : Word) :
    Kept s (State.writeTst t o v) := by
  unfold State.writeTst
  repeat' first
    | with_reducible assumption
    | with_reducible apply Kept.ite
    | with_reducible apply Kept.writeTstCtl
    | dsimp only
    | split

theorem Kept.writeImg (h : Kept s t) (o : Nat) (v : Word) :
    Kept s (State.writeImg t o v) := by
  unfold State.writeImg
  repeat' first
    | with_reducible assumption
    | with_reducible apply Kept.ite
    | with_reducible apply Kept.withNvm
    | exact rfl
    | dsimp only
    | split
    | (with_reducible apply Kept.parts <;> first | exact rfl | skip)

theorem Kept.clearSat (h : Kept s t) (off : Nat) (v : Word) :
    Kept s (State.clearSat t off v) := by
  unfold State.clearSat
  split
  · exact h.trans ⟨rfl, rfl, rfl, DevState.onward_refl _, id, id,
      fun x => ⟨x.mem, satOk_put x.sat _ _ (by simp [bits]), x.level, x.member⟩⟩
  · exact h

theorem Kept.writeAt (h : Kept s t) (off : Nat) (v : Word) :
    Kept s (State.writeAt t off v) := by
  unfold State.writeAt
  repeat' first
    | with_reducible assumption
    | with_reducible apply Kept.ite
    | with_reducible apply Kept.clearSat
    | with_reducible apply Kept.writeMgt
    | with_reducible apply Kept.writeHlt
    | with_reducible apply Kept.writePwr
    | with_reducible apply Kept.writeLnk
    | with_reducible apply Kept.writeMem'
    | with_reducible apply Kept.writeGld
    | with_reducible apply Kept.writeCel
    | with_reducible apply Kept.writeFab
    | with_reducible apply Kept.writeRly
    | with_reducible apply Kept.writeTst
    | with_reducible apply Kept.writeImg
    | dsimp only
    | split
    | (with_reducible apply Kept.parts <;> first | exact rfl | skip)

theorem Kept.regWrite (h : Kept s t) (off : Nat) (v : Word) :
    Kept s (State.regWrite t off v).1 := by
  unfold State.regWrite
  repeat' first
    | with_reducible assumption
    | with_reducible apply Kept.ite
    | with_reducible apply Kept.iteFst
    | with_reducible apply Kept.bump
    | with_reducible apply Kept.writeAt
    | dsimp only
    | split

theorem Goes.execSatCounterClear (h : Kept s t) (offset : Nat) (value : Word) :
    Goes s (execSatCounterClear offset value t) := by
  unfold Machine.execSatCounterClear
  repeat' first
    | with_reducible assumption
    | with_reducible apply Kept.ite
    | with_reducible apply Goes.ite
    | with_reducible apply Goes.next
    | with_reducible apply Kept.clearSat
    | dsimp only
    | split

theorem Goes.execRegisterWrite (h : Kept s t) (offset : Nat) (bytes : Nat) (value : Word) :
    Goes s (execRegisterWrite offset bytes value t) := by
  unfold Machine.execRegisterWrite
  repeat' first
    | with_reducible assumption
    | with_reducible apply Kept.ite
    | with_reducible apply Goes.ite
    | with_reducible apply Goes.next
    | with_reducible apply Kept.bump
    | with_reducible apply Kept.regWrite
    | dsimp only
    | split

theorem Goes.execCapacityMapWrite (h : Kept s t)  :
    Goes s (execCapacityMapWrite t) := by
  unfold Machine.execCapacityMapWrite
  repeat' first
    | with_reducible assumption
    | with_reducible apply Kept.ite
    | with_reducible apply Goes.ite
    | with_reducible apply Goes.next
    | with_reducible apply Kept.writeMapNow
    | dsimp only
    | split
    | (with_reducible apply Kept.parts <;> first | exact rfl | skip)

theorem Kept.flushFails (h : Kept s t)  :
    Kept s (State.flushFails t) := by
  unfold State.flushFails
  repeat' first
    | with_reducible assumption
    | with_reducible apply Kept.ite
    | with_reducible apply Kept.setEvent
    | with_reducible apply Kept.withCard
    | dsimp only
    | split
    | (with_reducible apply Kept.parts <;> first | exact rfl | skip)

theorem Goes.execJournalFlush (h : Kept s t) (writeOk : Bool) :
    Goes s (execJournalFlush writeOk t) := by
  unfold Machine.execJournalFlush
  repeat' first
    | with_reducible assumption
    | with_reducible apply Kept.ite
    | with_reducible apply Goes.ite
    | with_reducible apply Goes.next
    | with_reducible apply Kept.flush
    | with_reducible apply Kept.flushFails
    | dsimp only
    | split

end Sys2Proof.Machine
end

