-- ==== Sys2Proof/Laws/KeptBoot.lean ====
section
/-!
SUPPORT. What the operations of Machine/Boot.lean keep.
-/
namespace Sys2Proof.Machine

-- Proofs are checked one after another: many at once take more threads than the check allows.
set_option Elab.async false

variable {s t : State}

theorem Kept.applySpare (h : Kept s t) (e : SpareEntry) :
    Kept s (State.applySpare t e) := by
  unfold State.applySpare
  repeat' first
    | with_reducible assumption
    | with_reducible apply Kept.ite
    | with_reducible apply Kept.withPort
    | with_reducible apply Kept.withPCell
    | with_reducible apply Kept.sliceLost
    | with_reducible apply Kept.sensorLost
    | with_reducible apply Kept.clusterLost
    | with_reducible apply Kept.engineLost
    | with_reducible apply Kept.blockLost
    | dsimp only
    | split
    | (with_reducible apply Kept.parts <;> first | exact rfl | skip)

theorem Kept.readSpare (h : Kept s t) (i : Nat) :
    Kept s (State.readSpare t i) := by
  unfold State.readSpare
  repeat' first
    | with_reducible assumption
    | with_reducible apply Kept.ite
    | with_reducible apply Kept.bump
    | with_reducible apply Kept.record
    | with_reducible apply Kept.applySpare
    | dsimp only
    | split
    | (with_reducible apply Kept.parts <;> first | exact rfl | skip)

theorem Kept.bootTestFail (h : Kept s t) (f : SelfTestFail) :
    Kept s (State.bootTestFail t f) := by
  unfold State.bootTestFail
  repeat' first
    | with_reducible assumption
    | with_reducible apply Kept.ite
    | with_reducible apply Kept.selfTestFail
    | with_reducible apply Kept.partFails
    | dsimp only
    | split

theorem Kept.analogEvent (h : Kept s t) (k : Nat) (die : Nat) :
    Kept s (State.analogEvent t k die) := by
  unfold State.analogEvent
  repeat' first
    | with_reducible assumption
    | with_reducible apply Kept.ite
    | with_reducible apply Kept.record
    | dsimp only
    | split

theorem Kept.analogFails (h : Kept s t) (a : AnalogFail) :
    Kept s (State.analogFails t a) := by
  unfold State.analogFails
  repeat' first
    | with_reducible assumption
    | with_reducible apply Kept.ite
    | with_reducible apply Kept.analogEvent
    | with_reducible apply Kept.enterFault
    | with_reducible apply Kept.withClocks
    | with_reducible apply Kept.sensorLost
    | with_reducible apply Kept.addSpare
    | with_reducible apply Kept.engineLost
    | with_reducible apply Kept.retireChan
    | with_reducible apply Kept.withPort
    | with_reducible apply Kept.portLost
    | dsimp only
    | split
    | (with_reducible apply Kept.parts <;> first | exact rfl | skip)

theorem Kept.laneLost (h : Kept s t) (r : LaneReport) :
    Kept s (State.laneLost t r) := by
  unfold State.laneLost
  repeat' first
    | with_reducible assumption
    | with_reducible apply Kept.ite
    | with_reducible apply Kept.portLost
    | with_reducible apply Kept.clusterLost
    | with_reducible apply Kept.addSpare
    | with_reducible apply Kept.engineLost
    | dsimp only
    | split

theorem Kept.laneFails (h : Kept s t) (r : LaneReport) :
    Kept s (State.laneFails t r) := by
  unfold State.laneFails
  repeat' first
    | with_reducible assumption
    | with_reducible apply Kept.ite
    | with_reducible apply Kept.record
    | with_reducible apply Kept.addSpare
    | with_reducible apply Kept.withPort
    | with_reducible apply Kept.laneLost
    | with_reducible apply Kept.enterFault
    | dsimp only
    | split
    | (with_reducible apply Kept.parts <;> first | exact rfl | skip)

theorem Kept.rowFails (h : Kept s t) (m : Nat) (r : RowFail) :
    Kept s (State.rowFails t m r) := by
  unfold State.rowFails
  repeat' first
    | with_reducible assumption
    | with_reducible apply Kept.ite
    | with_reducible apply Kept.withStack
    | with_reducible apply Kept.record
    | with_reducible apply Kept.bump
    | with_reducible apply Kept.stackLost
    | dsimp only
    | split
    | (with_reducible apply Kept.parts <;> first | exact rfl | skip)

theorem Kept.hardRepairs (h : Kept s t) (m : Nat) :
    Kept s (State.hardRepairs t m) := by
  unfold State.hardRepairs
  repeat' first
    | with_reducible assumption
    | with_reducible apply Kept.ite
    | with_reducible apply Kept.withNvm
    | with_reducible apply Kept.bump
    | refine Kept.foldl ?_ (fun u a hu => ?_)
    | exact rfl
    | dsimp only
    | split
    | (with_reducible apply Kept.parts <;> first | exact rfl | skip)

theorem Kept.bringStack (h : Kept s t) (x : MarginResult) :
    Kept s (State.bringStack t x) := by
  unfold State.bringStack
  repeat' first
    | with_reducible assumption
    | with_reducible apply Kept.ite
    | with_reducible apply Kept.hardRepairs
    | with_reducible apply Kept.marginStack
    | with_reducible apply Kept.stackLost
    | with_reducible apply Kept.withStack
    | with_reducible apply Kept.record
    | with_reducible apply Kept.rowFails
    | with_reducible apply Kept.addSpare
    | refine Kept.foldl ?_ (fun u a hu => ?_)
    | dsimp only
    | split
    | (with_reducible apply Kept.parts <;> first | exact rfl | skip)

theorem Kept.silentStacks (h : Kept s t)  :
    Kept s (State.silentStacks t) := by
  unfold State.silentStacks
  repeat' first
    | with_reducible assumption
    | with_reducible apply Kept.ite
    | with_reducible apply Kept.withStack
    | with_reducible apply Kept.stackLost
    | refine Kept.foldl ?_ (fun u a hu => ?_)
    | dsimp only
    | split
    | (with_reducible apply Kept.parts <;> first | exact rfl | skip)

theorem Kept.readStraps (h : Kept s t) (x : StrapSample) :
    Kept s (State.readStraps t x) := by
  unfold State.readStraps
  repeat' first
    | with_reducible assumption
    | with_reducible apply Kept.ite
    | with_reducible apply Kept.withLinks
    | with_reducible apply Kept.record
    | with_reducible apply Kept.holdPort
    | refine Kept.foldl ?_ (fun u a hu => ?_)
    | dsimp only
    | split
    | (with_reducible apply Kept.parts <;> first | exact rfl | skip)

theorem Kept.bootOrders (h : Kept s t)  :
    Kept s (State.bootOrders t) := by
  unfold State.bootOrders
  repeat' first
    | with_reducible assumption
    | with_reducible apply Kept.ite
    | with_reducible apply Kept.withDev
    | with_reducible apply Kept.gotoOn
    | with_reducible apply Kept.completeDrain
    | exact rfl
    | exact id
    | exact ⟨DevState.noConfusion, DevState.noConfusion, rfl⟩
    | dsimp only
    | split
    | (with_reducible apply Kept.parts <;> first | exact rfl | skip)

theorem Kept.endBoot (h : Kept s t)  :
    Kept s (State.endBoot t) := by
  unfold State.endBoot
  dsimp only
  refine Kept.bootOrders (Kept.record ?_ _ _ _)
  split
  · exact h
  · rename_i hm
    have hb : t.dev.mode.bindable = false := by
      rw [show t.dev.mode = .boot from Decidable.not_not.mp hm]; rfl
    exact Kept.ite (Kept.enterBenched h (Or.inl hb)) (Kept.ite (Kept.enterWatch h _)
      (Kept.goto h .ready (by decide) (Or.inl (by decide)) (Or.inr (Or.inl hb))))

theorem Kept.beginStep (h : Kept s t) (k : Nat) :
    Kept s (State.beginStep t k) := by
  unfold State.beginStep
  repeat' first
    | with_reducible assumption
    | with_reducible apply Kept.ite
    | with_reducible apply Kept.withBoot
    | with_reducible apply Kept.toLight
    | with_reducible apply Kept.withEngine
    | with_reducible apply Kept.requestCal
    | with_reducible apply Kept.advancePort
    | with_reducible apply Kept.readStraps
    | refine Kept.foldl ?_ (fun u a hu => ?_)
    | dsimp only
    | split
    | (with_reducible apply Kept.parts <;> first | exact rfl | skip)

theorem Kept.uncalibrated (h : Kept s t)  :
    Kept s (State.uncalibrated t) := by
  unfold State.uncalibrated
  repeat' first
    | with_reducible assumption
    | with_reducible apply Kept.ite
    | with_reducible apply Kept.withEngine
    | with_reducible apply Kept.release
    | refine Kept.foldl ?_ (fun u a hu => ?_)
    | dsimp only
    | split
    | (with_reducible apply Kept.parts <;> first | exact rfl | skip)

theorem Kept.stepWork (h : Kept s t) (k : Nat) (r : StepReport) :
    Kept s (State.stepWork t k r) := by
  unfold State.stepWork
  repeat' first
    | with_reducible assumption
    | with_reducible apply Kept.ite
    | with_reducible apply Kept.applySpare
    | with_reducible apply Kept.readSpare
    | with_reducible apply Kept.withClocks
    | with_reducible apply Kept.bootImage
    | with_reducible apply Kept.analogFails
    | with_reducible apply Kept.bootTestFail
    | with_reducible apply Kept.laneFails
    | with_reducible apply Kept.bringStack
    | with_reducible apply Kept.silentStacks
    | with_reducible apply Kept.withEngine
    | with_reducible apply Kept.calibrated
    | with_reducible apply Kept.uncalibrated
    | with_reducible apply Kept.bindClusters
    | with_reducible apply Kept.writeMapNow
    | refine Kept.foldl ?_ (fun u a hu => ?_)
    | dsimp only
    | split
    | (with_reducible apply Kept.parts <;> first | exact rfl | skip)

theorem Kept.stepDone (h : Kept s t) (k : Nat) :
    Kept s (State.stepDone t k) := by
  unfold State.stepDone
  repeat' first
    | with_reducible assumption
    | with_reducible apply Kept.ite
    | with_reducible apply Kept.withBoot
    | with_reducible apply Kept.endBoot
    | with_reducible apply Kept.beginStep
    | dsimp only
    | split
    | (with_reducible apply Kept.parts <;> first | exact rfl | skip)

theorem Goes.execColdStartStepEnd (h : Kept s t) (report : StepReport) :
    Goes s (execColdStartStepEnd report t) := by
  unfold Machine.execColdStartStepEnd
  repeat' first
    | with_reducible assumption
    | with_reducible apply Kept.ite
    | with_reducible apply Goes.ite
    | with_reducible apply Goes.next
    | with_reducible apply Kept.withBoot
    | with_reducible apply Kept.stepWork
    | with_reducible apply Kept.report
    | with_reducible apply Kept.stepDone
    | dsimp only
    | split

theorem Goes.execColdStartStepLimit (h : Kept s t) :
    Goes s (execColdStartStepLimit t) := by
  unfold Machine.execColdStartStepLimit
  repeat' first
    | with_reducible assumption
    | with_reducible apply Kept.ite
    | with_reducible apply Goes.ite
    | with_reducible apply Goes.next
    | with_reducible apply Kept.withBoot
    | with_reducible apply Kept.uncalibrated
    | with_reducible apply Kept.beginStep
    | with_reducible apply Kept.enterFault
    | dsimp only
    | split
    | (with_reducible apply Kept.parts <;> first | exact rfl | skip)

end Sys2Proof.Machine
end

