-- ==== Sys2Proof/Laws/KeptSlices.lean ====
section
/-!
SUPPORT. What the operations of Machine/Slices.lean keep.
-/
namespace Sys2Proof.Machine

-- Proofs are checked one after another: many at once take more threads than the check allows.
set_option Elab.async false

variable {s t : State}

theorem Kept.loadTable (h : Kept s t) (t' : SliceTable) :
    Kept s (State.loadTable t t') := by
  unfold State.loadTable
  repeat' first
    | with_reducible assumption
    | with_reducible apply Kept.ite
    | with_reducible apply Kept.withFabric
    | with_reducible apply Kept.fence
    | with_reducible apply Kept.record
    | with_reducible apply Kept.clearTable
    | refine Kept.foldl ?_ (fun u a hu => ?_)
    | dsimp only
    | split
    | (with_reducible apply Kept.parts <;> first | exact rfl | skip)

theorem Kept.sliceTable (h : Kept s t) (m : Msg) :
    Kept s (State.sliceTable t m).1 := by
  unfold State.sliceTable
  repeat' first
    | with_reducible assumption
    | with_reducible apply Kept.ite
    | with_reducible apply Kept.iteFst
    | with_reducible apply Kept.loadTable
    | with_reducible apply Kept.withFabric
    | with_reducible apply Kept.record
    | refine Kept.ofFst (by assumption) ?_
    | dsimp only
    | split
    | (with_reducible apply Kept.parts <;> first | exact rfl | skip)

end Sys2Proof.Machine
end

