-- ==== Sys2Proof/Laws/KeptSigned.lean ====
section
/-!
SUPPORT. What the operations of Machine/Signed.lean keep.
-/
namespace Sys2Proof.Machine

-- Proofs are checked one after another: many at once take more threads than the check allows.
set_option Elab.async false

variable {s t : State}

theorem Kept.debugUnlock (h : Kept s t) (scope : Nat) (slot : Nat) :
    Kept s (State.debugUnlock t scope slot) := by
  unfold State.debugUnlock
  repeat' first
    | with_reducible assumption
    | with_reducible apply Kept.ite
    | with_reducible apply Kept.withMgmt
    | with_reducible apply Kept.record
    | with_reducible apply Kept.withPins
    | with_reducible apply Kept.withDev
    | with_reducible apply Kept.orderDrain
    | exact rfl
    | exact id
    | dsimp only
    | split
    | (with_reducible apply Kept.parts <;> first | exact rfl | skip)

theorem Kept.sgEffect (h : Kept s t) (b : List Byte) :
    Kept s (State.sgEffect t b) := by
  unfold State.sgEffect
  repeat' first
    | with_reducible assumption
    | with_reducible apply Kept.ite
    | with_reducible apply Kept.withMgmt
    | with_reducible apply Kept.withNvm
    | with_reducible apply Kept.debugUnlock
    | exact rfl
    | dsimp only
    | split
    | (with_reducible apply Kept.parts <;> first | exact rfl | skip)

theorem Kept.signed (h : Kept s t) (m : Msg) :
    Kept s (State.signed t m).1 := by
  unfold State.signed
  repeat' first
    | with_reducible assumption
    | with_reducible apply Kept.ite
    | with_reducible apply Kept.iteFst
    | with_reducible apply Kept.withMgmt
    | with_reducible apply Kept.sgEffect
    | with_reducible apply Kept.bump
    | with_reducible apply Kept.newNonce
    | refine Kept.ofFst (by assumption) ?_
    | dsimp only
    | split
    | (with_reducible apply Kept.parts <;> first | exact rfl | skip)

theorem Kept.pack (h : Kept s t) (m : Msg) :
    Kept s (State.pack t m).1 := by
  unfold State.pack
  repeat' first
    | with_reducible assumption
    | with_reducible apply Kept.ite
    | with_reducible apply Kept.iteFst
    | with_reducible apply Kept.record
    | with_reducible apply Kept.setEvent
    | with_reducible apply Kept.withNvm
    | with_reducible apply Kept.withTest
    | with_reducible apply Kept.bump
    | exact rfl
    | dsimp only
    | split
    | (with_reducible apply Kept.parts <;> first | exact rfl | skip)

theorem Kept.withCopy (h : Kept s t) (copy : Nat) (b : List Byte) :
    Kept s (State.withCopy t copy b) := by
  unfold State.withCopy
  repeat' first
    | with_reducible assumption
    | with_reducible apply Kept.ite
    | with_reducible apply Kept.withNvm
    | exact rfl
    | dsimp only
    | split
    | (with_reducible apply Kept.parts <;> first | exact rfl | skip)

theorem Kept.image (h : Kept s t) (m : Msg) :
    Kept s (State.image t m).1 := by
  unfold State.image
  repeat' first
    | with_reducible assumption
    | with_reducible apply Kept.ite
    | with_reducible apply Kept.iteFst
    | with_reducible apply Kept.setEvent
    | with_reducible apply Kept.withCopy
    | refine Kept.ofFst (by assumption) ?_
    | dsimp only
    | split

end Sys2Proof.Machine
end

