-- ==== Sys2Proof/Laws/KeptMessages.lean ====
section
/-!
SUPPORT. What the operations of Machine/Messages.lean keep.
-/
namespace Sys2Proof.Machine

-- Proofs are checked one after another: many at once take more threads than the check allows.
set_option Elab.async false

variable {s t : State}

theorem Kept.regReads (h : Kept s t) (m : Msg) :
    Kept s (State.regReads t m).1 := by
  unfold State.regReads
  repeat' first
    | with_reducible assumption
    | with_reducible apply Kept.ite
    | with_reducible apply Kept.iteFst
    | with_reducible apply Kept.regRead
    | refine Kept.foldl ?_ (fun u a hu => ?_)
    | refine Kept.foldlFst ?_ (fun u b a hu => ?_)
    | refine Kept.ofFst (by assumption) ?_
    | dsimp only
    | split

theorem Kept.regWrites (h : Kept s t) (m : Msg) :
    Kept s (State.regWrites t m).1 := by
  unfold State.regWrites
  repeat' first
    | with_reducible assumption
    | with_reducible apply Kept.ite
    | with_reducible apply Kept.iteFst
    | with_reducible apply Kept.regWrite
    | refine Kept.foldl ?_ (fun u a hu => ?_)
    | refine Kept.foldlFst ?_ (fun u b a hu => ?_)
    | refine Kept.ofFst (by assumption) ?_
    | dsimp only
    | split

theorem Kept.drainMsg (h : Kept s t) (m : Msg) :
    Kept s (State.drainMsg t m).1 := by
  unfold State.drainMsg
  repeat' first
    | with_reducible assumption
    | with_reducible apply Kept.ite
    | with_reducible apply Kept.iteFst
    | with_reducible apply Kept.drainHold
    | with_reducible apply Kept.orderDrain
    | refine Kept.ofFst (by assumption) ?_
    | dsimp only
    | split
    | (with_reducible apply Kept.parts <;> first | exact rfl | skip)

theorem Kept.releaseMsg (h : Kept s t) (m : Msg) :
    Kept s (State.releaseMsg t m).1 := by
  unfold State.releaseMsg
  repeat' first
    | with_reducible assumption
    | with_reducible apply Kept.ite
    | with_reducible apply Kept.iteFst
    | with_reducible apply Kept.drainRelease
    | refine Kept.ofFst (by assumption) ?_
    | dsimp only
    | split

theorem Kept.fenceMsg (h : Kept s t) (m : Msg) :
    Kept s (State.fenceMsg t m).1 := by
  unfold State.fenceMsg
  repeat' first
    | with_reducible assumption
    | with_reducible apply Kept.ite
    | with_reducible apply Kept.iteFst
    | with_reducible apply Kept.fence
    | refine Kept.foldl ?_ (fun u a hu => ?_)
    | refine Kept.ofFst (by assumption) ?_
    | dsimp only
    | split

theorem Kept.suspectNotice (h : Kept s t) (m : Msg) :
    Kept s (State.suspectNotice t m).1 := by
  unfold State.suspectNotice
  repeat' first
    | with_reducible assumption
    | with_reducible apply Kept.ite
    | with_reducible apply Kept.iteFst
    | with_reducible apply Kept.record
    | with_reducible apply Kept.bump
    | with_reducible apply Kept.raiseHigh
    | with_reducible apply Kept.testAgain
    | refine Kept.ofFst (by assumption) ?_
    | dsimp only
    | split

theorem Kept.act (h : Kept s t) (mtype : Nat) (m : Msg) :
    Kept s (State.act t mtype m).1 := by
  unfold State.act
  repeat' first
    | with_reducible assumption
    | with_reducible apply Kept.ite
    | with_reducible apply Kept.iteFst
    | with_reducible apply Kept.regReads
    | with_reducible apply Kept.regWrites
    | with_reducible apply Kept.sliceTable
    | with_reducible apply Kept.manifest
    | with_reducible apply Kept.startJob
    | with_reducible apply Kept.drainMsg
    | with_reducible apply Kept.releaseMsg
    | with_reducible apply Kept.fenceMsg
    | with_reducible apply Kept.suspectNotice
    | with_reducible apply Kept.pack
    | with_reducible apply Kept.image
    | with_reducible apply Kept.signed
    | refine Kept.ofFst (by assumption) ?_
    | dsimp only
    | split
    | (with_reducible apply Kept.parts <;> first | exact rfl | skip)

theorem Kept.answer (h : Kept s t) (c : Chunk) (status : Nat) (body : List Byte) :
    Kept s (State.answer t c status body) := by
  unfold State.answer
  repeat' first
    | with_reducible assumption
    | with_reducible apply Kept.ite
    | with_reducible apply Kept.withMgmt
    | with_reducible apply Kept.sendChunkOf
    | dsimp only
    | split
    | (with_reducible apply Kept.parts <;> first | exact rfl | skip)

theorem Kept.dropPartial (h : Kept s t) (r : Route) :
    Kept s (State.dropPartial t r) := by
  unfold State.dropPartial
  repeat' first
    | with_reducible assumption
    | with_reducible apply Kept.ite
    | with_reducible apply Kept.withMgmt
    | dsimp only
    | split
    | (with_reducible apply Kept.parts <;> first | exact rfl | skip)

theorem Kept.program (h : Kept s t) (p : Partial) :
    Kept s (State.program t p) := by
  unfold State.program
  repeat' first
    | with_reducible assumption
    | with_reducible apply Kept.ite
    | with_reducible apply Kept.withCopy
    | refine Kept.foldl ?_ (fun u a hu => ?_)
    | dsimp only
    | split

theorem Kept.place_ (h : Kept s t) (c : Chunk) :
    Kept s (State.place_ t c) := by
  unfold State.place_
  repeat' first
    | with_reducible assumption
    | with_reducible apply Kept.ite
    | with_reducible apply Kept.dropPartial
    | with_reducible apply Kept.act
    | with_reducible apply Kept.answer
    | with_reducible apply Kept.withMgmt
    | with_reducible apply Kept.program
    | refine Kept.ofFst (by assumption) ?_
    | dsimp only
    | split
    | (with_reducible apply Kept.parts <;> first | exact rfl | skip)

theorem Kept.receiveChunk (h : Kept s t) (c : Chunk) :
    Kept s (State.receiveChunk t c) := by
  unfold State.receiveChunk
  repeat' first
    | with_reducible assumption
    | with_reducible apply Kept.ite
    | with_reducible apply Kept.wrapBy
    | with_reducible apply Kept.sendChunkOf
    | with_reducible apply Kept.answer
    | with_reducible apply Kept.dropPartial
    | with_reducible apply Kept.place_
    | dsimp only
    | split
    | (with_reducible apply Kept.parts <;> first | exact rfl | skip)

theorem Kept.responded (h : Kept s t) (mseq : BitVec 32) (off : Nat) :
    Kept s (State.responded t mseq off) := by
  unfold State.responded
  repeat' first
    | with_reducible assumption
    | with_reducible apply Kept.ite
    | with_reducible apply Kept.withMgmt
    | with_reducible apply Kept.wrapBy
    | dsimp only
    | split
    | (with_reducible apply Kept.parts <;> first | exact rfl | skip)

theorem Kept.receive (h : Kept s t) (src : Option Coord) (b : List Byte) :
    Kept s (State.receive t src b) := by
  unfold State.receive
  repeat' first
    | with_reducible assumption
    | with_reducible apply Kept.ite
    | with_reducible apply Kept.responded
    | with_reducible apply Kept.receiveChunk
    | dsimp only
    | split
    | (with_reducible apply Kept.parts <;> first | exact rfl | skip)

theorem Kept.receiveMsg (h : Kept s t) (mtype : Nat) (m : Msg) :
    Kept s (State.receiveMsg t mtype m) := by
  unfold State.receiveMsg
  repeat' first
    | with_reducible assumption
    | with_reducible apply Kept.ite
    | with_reducible apply Kept.receiveChunk
    | refine Kept.foldl ?_ (fun u a hu => ?_)
    | dsimp only
    | split

theorem Goes.execRegRead (h : Kept s t) (m : Msg) :
    Goes s (execRegRead m t) := by
  unfold Machine.execRegRead
  repeat' first
    | with_reducible assumption
    | with_reducible apply Kept.ite
    | with_reducible apply Goes.ite
    | with_reducible apply Goes.next
    | with_reducible apply Kept.receiveMsg
    | dsimp only
    | split

theorem Goes.execRegWrite (h : Kept s t) (m : Msg) :
    Goes s (execRegWrite m t) := by
  unfold Machine.execRegWrite
  repeat' first
    | with_reducible assumption
    | with_reducible apply Kept.ite
    | with_reducible apply Goes.ite
    | with_reducible apply Goes.next
    | with_reducible apply Kept.receiveMsg
    | dsimp only
    | split

theorem Goes.execSliceTable (h : Kept s t) (m : Msg) :
    Goes s (execSliceTable m t) := by
  unfold Machine.execSliceTable
  repeat' first
    | with_reducible assumption
    | with_reducible apply Kept.ite
    | with_reducible apply Goes.ite
    | with_reducible apply Goes.next
    | with_reducible apply Kept.receiveMsg
    | dsimp only
    | split

theorem Goes.execManifest (h : Kept s t) (m : Msg) :
    Goes s (execManifest m t) := by
  unfold Machine.execManifest
  repeat' first
    | with_reducible assumption
    | with_reducible apply Kept.ite
    | with_reducible apply Goes.ite
    | with_reducible apply Goes.next
    | with_reducible apply Kept.receiveMsg
    | dsimp only
    | split

theorem Goes.execStart (h : Kept s t) (m : Msg) :
    Goes s (execStart m t) := by
  unfold Machine.execStart
  repeat' first
    | with_reducible assumption
    | with_reducible apply Kept.ite
    | with_reducible apply Goes.ite
    | with_reducible apply Goes.next
    | with_reducible apply Kept.receiveMsg
    | dsimp only
    | split

theorem Goes.execDrain (h : Kept s t) (m : Msg) :
    Goes s (execDrain m t) := by
  unfold Machine.execDrain
  repeat' first
    | with_reducible assumption
    | with_reducible apply Kept.ite
    | with_reducible apply Goes.ite
    | with_reducible apply Goes.next
    | with_reducible apply Kept.receiveMsg
    | dsimp only
    | split

theorem Goes.execMsgDrainRelease (h : Kept s t) (m : Msg) :
    Goes s (execMsgDrainRelease m t) := by
  unfold Machine.execMsgDrainRelease
  repeat' first
    | with_reducible assumption
    | with_reducible apply Kept.ite
    | with_reducible apply Goes.ite
    | with_reducible apply Goes.next
    | with_reducible apply Kept.receiveMsg
    | dsimp only
    | split

theorem Goes.execFence (h : Kept s t) (m : Msg) :
    Goes s (execFence m t) := by
  unfold Machine.execFence
  repeat' first
    | with_reducible assumption
    | with_reducible apply Kept.ite
    | with_reducible apply Goes.ite
    | with_reducible apply Goes.next
    | with_reducible apply Kept.receiveMsg
    | dsimp only
    | split

theorem Goes.execSuspect (h : Kept s t) (m : Msg) :
    Goes s (execSuspect m t) := by
  unfold Machine.execSuspect
  repeat' first
    | with_reducible assumption
    | with_reducible apply Kept.ite
    | with_reducible apply Goes.ite
    | with_reducible apply Goes.next
    | with_reducible apply Kept.receiveMsg
    | dsimp only
    | split

theorem Goes.execPack (h : Kept s t) (m : Msg) :
    Goes s (execPack m t) := by
  unfold Machine.execPack
  repeat' first
    | with_reducible assumption
    | with_reducible apply Kept.ite
    | with_reducible apply Goes.ite
    | with_reducible apply Goes.next
    | with_reducible apply Kept.receiveMsg
    | dsimp only
    | split

theorem Goes.execImage (h : Kept s t) (m : Msg) :
    Goes s (execImage m t) := by
  unfold Machine.execImage
  repeat' first
    | with_reducible assumption
    | with_reducible apply Kept.ite
    | with_reducible apply Goes.ite
    | with_reducible apply Goes.next
    | with_reducible apply Kept.receiveMsg
    | dsimp only
    | split

theorem Goes.execClearBench (h : Kept s t) (m : Msg) :
    Goes s (execClearBench m t) := by
  unfold Machine.execClearBench
  repeat' first
    | with_reducible assumption
    | with_reducible apply Kept.ite
    | with_reducible apply Goes.ite
    | with_reducible apply Goes.next
    | with_reducible apply Kept.receiveMsg
    | dsimp only
    | split

theorem Goes.execClearSparemap (h : Kept s t) (m : Msg) :
    Goes s (execClearSparemap m t) := by
  unfold Machine.execClearSparemap
  repeat' first
    | with_reducible assumption
    | with_reducible apply Kept.ite
    | with_reducible apply Goes.ite
    | with_reducible apply Goes.next
    | with_reducible apply Kept.receiveMsg
    | dsimp only
    | split

theorem Goes.execRaiseMinSvn (h : Kept s t) (m : Msg) :
    Goes s (execRaiseMinSvn m t) := by
  unfold Machine.execRaiseMinSvn
  repeat' first
    | with_reducible assumption
    | with_reducible apply Kept.ite
    | with_reducible apply Goes.ite
    | with_reducible apply Goes.next
    | with_reducible apply Kept.receiveMsg
    | dsimp only
    | split

theorem Goes.execDebugUnlock (h : Kept s t) (m : Msg) :
    Goes s (execDebugUnlock m t) := by
  unfold Machine.execDebugUnlock
  repeat' first
    | with_reducible assumption
    | with_reducible apply Kept.ite
    | with_reducible apply Goes.ite
    | with_reducible apply Goes.next
    | with_reducible apply Kept.receiveMsg
    | dsimp only
    | split

theorem Goes.execMessageResponse (h : Kept s t) (mseq : BitVec 32) (chunkOff : Nat) :
    Goes s (execMessageResponse mseq chunkOff t) := by
  unfold Machine.execMessageResponse
  repeat' first
    | with_reducible assumption
    | with_reducible apply Kept.ite
    | with_reducible apply Goes.ite
    | with_reducible apply Goes.next
    | with_reducible apply Kept.responded
    | dsimp only
    | split

theorem Goes.execMessageResendTimeout (h : Kept s t) (mseq : BitVec 32) (chunkOff : Nat) :
    Goes s (execMessageResendTimeout mseq chunkOff t) := by
  unfold Machine.execMessageResendTimeout
  repeat' first
    | with_reducible assumption
    | with_reducible apply Kept.ite
    | with_reducible apply Goes.ite
    | with_reducible apply Goes.next
    | with_reducible apply Kept.withMgmt
    | with_reducible apply Kept.bump
    | with_reducible apply Kept.wrapBy
    | with_reducible apply Kept.sendChunkOf
    | refine Kept.foldl ?_ (fun u a hu => ?_)
    | dsimp only
    | split
    | (with_reducible apply Kept.parts <;> first | exact rfl | skip)

theorem Goes.execPartialMessageTimeout (h : Kept s t) (route : Route) :
    Goes s (execPartialMessageTimeout route t) := by
  unfold Machine.execPartialMessageTimeout
  repeat' first
    | with_reducible assumption
    | with_reducible apply Kept.ite
    | with_reducible apply Goes.ite
    | with_reducible apply Goes.next
    | with_reducible apply Kept.dropPartial
    | dsimp only
    | split

theorem Goes.execTelemetry (h : Kept s t)  :
    Goes s (execTelemetry t) := by
  unfold Machine.execTelemetry
  repeat' first
    | with_reducible assumption
    | with_reducible apply Kept.ite
    | with_reducible apply Goes.ite
    | with_reducible apply Goes.next
    | with_reducible apply Kept.withMgmt
    | with_reducible apply Kept.send
    | dsimp only
    | split
    | (with_reducible apply Kept.parts <;> first | exact rfl | skip)

theorem Kept.deliverMgt (h : Kept s t) (p : Packet) :
    Kept s (State.deliverMgt t p) := by
  unfold State.deliverMgt
  repeat' first
    | with_reducible assumption
    | with_reducible apply Kept.ite
    | with_reducible apply Kept.takeLocal
    | with_reducible apply Kept.receive
    | dsimp only
    | split

theorem Goes.execMgtPacket (h : Kept s t) (port : Nat) (p : Packet) :
    Goes s (execMgtPacket port p t) := by
  unfold Machine.execMgtPacket
  repeat' first
    | with_reducible assumption
    | with_reducible apply Kept.ite
    | with_reducible apply Goes.ite
    | with_reducible apply Goes.next
    | with_reducible apply Kept.deliverMgt
    | with_reducible apply Kept.noteFixed
    | with_reducible apply Kept.wrapBy
    | with_reducible apply Kept.headerFail
    | with_reducible apply Kept.routeMgt
    | dsimp only
    | split

end Sys2Proof.Machine
end

