-- ==== Sys2Proof/Laws/KeptI3c.lean ====
section
/-!
SUPPORT. What the operations of Machine/I3c.lean keep.
-/
namespace Sys2Proof.Machine

-- Proofs are checked one after another: many at once take more threads than the check allows.
set_option Elab.async false

variable {s t : State}

theorem Kept.drive (h : Kept s t) (l : List Byte) :
    Kept s (State.drive t l) := by
  unfold State.drive
  repeat' first
    | with_reducible assumption
    | with_reducible apply Kept.ite
    | with_reducible apply Kept.withI3c
    | dsimp only
    | split
    | (with_reducible apply Kept.parts <;> first | exact rfl | skip)

theorem Goes.execEntdaa (h : Kept s t) (addr : BitVec 7) :
    Goes s (execEntdaa addr t) := by
  unfold Machine.execEntdaa
  repeat' first
    | with_reducible assumption
    | with_reducible apply Kept.ite
    | with_reducible apply Goes.ite
    | with_reducible apply Goes.next
    | with_reducible apply Kept.withI3c
    | with_reducible apply Kept.drive
    | dsimp only
    | split
    | (with_reducible apply Kept.parts <;> first | exact rfl | skip)

theorem Goes.execRstdaa (h : Kept s t)  :
    Goes s (execRstdaa t) := by
  unfold Machine.execRstdaa
  repeat' first
    | with_reducible assumption
    | with_reducible apply Kept.ite
    | with_reducible apply Goes.ite
    | with_reducible apply Goes.next
    | with_reducible apply Kept.withI3c
    | dsimp only
    | split
    | (with_reducible apply Kept.parts <;> first | exact rfl | skip)

theorem Goes.execEnec (h : Kept s t)  :
    Goes s (execEnec t) := by
  unfold Machine.execEnec
  repeat' first
    | with_reducible assumption
    | with_reducible apply Kept.ite
    | with_reducible apply Goes.ite
    | with_reducible apply Goes.next
    | with_reducible apply Kept.withI3c
    | dsimp only
    | split
    | (with_reducible apply Kept.parts <;> first | exact rfl | skip)

theorem Goes.execDisec (h : Kept s t)  :
    Goes s (execDisec t) := by
  unfold Machine.execDisec
  repeat' first
    | with_reducible assumption
    | with_reducible apply Kept.ite
    | with_reducible apply Goes.ite
    | with_reducible apply Goes.next
    | with_reducible apply Kept.withI3c
    | dsimp only
    | split
    | (with_reducible apply Kept.parts <;> first | exact rfl | skip)

theorem Goes.execGetpid (h : Kept s t)  :
    Goes s (execGetpid t) := by
  unfold Machine.execGetpid
  repeat' first
    | with_reducible assumption
    | with_reducible apply Kept.ite
    | with_reducible apply Goes.ite
    | with_reducible apply Goes.next
    | with_reducible apply Kept.drive
    | dsimp only
    | split

theorem Goes.execGetbcr (h : Kept s t)  :
    Goes s (execGetbcr t) := by
  unfold Machine.execGetbcr
  repeat' first
    | with_reducible assumption
    | with_reducible apply Kept.ite
    | with_reducible apply Goes.ite
    | with_reducible apply Goes.next
    | with_reducible apply Kept.drive
    | dsimp only
    | split

theorem Goes.execGetdcr (h : Kept s t)  :
    Goes s (execGetdcr t) := by
  unfold Machine.execGetdcr
  repeat' first
    | with_reducible assumption
    | with_reducible apply Kept.ite
    | with_reducible apply Goes.ite
    | with_reducible apply Goes.next
    | with_reducible apply Kept.drive
    | dsimp only
    | split

theorem Goes.execGetstatus (h : Kept s t)  :
    Goes s (execGetstatus t) := by
  unfold Machine.execGetstatus
  repeat' first
    | with_reducible assumption
    | with_reducible apply Kept.ite
    | with_reducible apply Goes.ite
    | with_reducible apply Goes.next
    | with_reducible apply Kept.drive
    | dsimp only
    | split
    | (with_reducible apply Kept.parts <;> first | exact rfl | skip)

theorem Kept.i3cWrite (h : Kept s t) (f : List Byte) :
    Kept s (State.i3cWrite t f) := by
  unfold State.i3cWrite
  repeat' first
    | with_reducible assumption
    | with_reducible apply Kept.ite
    | with_reducible apply Kept.regWrite
    | with_reducible apply Kept.withI3c
    | refine Kept.ofFst (by assumption) ?_
    | dsimp only
    | split
    | (with_reducible apply Kept.parts <;> first | exact rfl | skip)

theorem Kept.takeInbox (h : Kept s t)  :
    Kept s (State.takeInbox t) := by
  unfold State.takeInbox
  repeat' first
    | with_reducible assumption
    | with_reducible apply Kept.ite
    | with_reducible apply Kept.withI3c
    | with_reducible apply Kept.receive
    | with_reducible apply Kept.take
    | dsimp only
    | split
    | (with_reducible apply Kept.parts <;> first | exact rfl | skip)

theorem Kept.i3cAppend (h : Kept s t) (f : List Byte) :
    Kept s (State.i3cAppend t f) := by
  unfold State.i3cAppend
  repeat' first
    | with_reducible assumption
    | with_reducible apply Kept.ite
    | with_reducible apply Kept.withI3c
    | with_reducible apply Kept.takeInbox
    | dsimp only
    | split
    | (with_reducible apply Kept.parts <;> first | exact rfl | skip)

theorem Kept.i3cFrame (h : Kept s t) (f : List Byte) :
    Kept s (State.i3cFrame t f) := by
  unfold State.i3cFrame
  repeat' first
    | with_reducible assumption
    | with_reducible apply Kept.ite
    | with_reducible apply Kept.bump
    | with_reducible apply Kept.i3cWrite
    | with_reducible apply Kept.withI3c
    | with_reducible apply Kept.i3cAppend
    | with_reducible apply Kept.dropPartial
    | dsimp only
    | split
    | (with_reducible apply Kept.parts <;> first | exact rfl | skip)

theorem Goes.execI3cRegisterWrite (h : Kept s t) (frame : List Byte) :
    Goes s (execI3cRegisterWrite frame t) := by
  unfold Machine.execI3cRegisterWrite
  repeat' first
    | with_reducible assumption
    | with_reducible apply Kept.ite
    | with_reducible apply Goes.ite
    | with_reducible apply Goes.next
    | with_reducible apply Kept.i3cFrame
    | dsimp only
    | split

theorem Goes.execI3cSetReadPointer (h : Kept s t) (frame : List Byte) :
    Goes s (execI3cSetReadPointer frame t) := by
  unfold Machine.execI3cSetReadPointer
  repeat' first
    | with_reducible assumption
    | with_reducible apply Kept.ite
    | with_reducible apply Goes.ite
    | with_reducible apply Goes.next
    | with_reducible apply Kept.i3cFrame
    | dsimp only
    | split

theorem Goes.execI3cMailboxAppend (h : Kept s t) (frame : List Byte) :
    Goes s (execI3cMailboxAppend frame t) := by
  unfold Machine.execI3cMailboxAppend
  repeat' first
    | with_reducible assumption
    | with_reducible apply Kept.ite
    | with_reducible apply Goes.ite
    | with_reducible apply Goes.next
    | with_reducible apply Kept.i3cFrame
    | dsimp only
    | split

theorem Goes.execI3cMailboxDiscard (h : Kept s t) (frame : List Byte) :
    Goes s (execI3cMailboxDiscard frame t) := by
  unfold Machine.execI3cMailboxDiscard
  repeat' first
    | with_reducible assumption
    | with_reducible apply Kept.ite
    | with_reducible apply Goes.ite
    | with_reducible apply Goes.next
    | with_reducible apply Kept.i3cFrame
    | dsimp only
    | split

theorem Goes.execI3cSelectOutbound (h : Kept s t) (frame : List Byte) :
    Goes s (execI3cSelectOutbound frame t) := by
  unfold Machine.execI3cSelectOutbound
  repeat' first
    | with_reducible assumption
    | with_reducible apply Kept.ite
    | with_reducible apply Goes.ite
    | with_reducible apply Goes.next
    | with_reducible apply Kept.i3cFrame
    | dsimp only
    | split

theorem Goes.execI3cPrivateRead (h : Kept s t)  :
    Goes s (execI3cPrivateRead t) := by
  unfold Machine.execI3cPrivateRead
  repeat' first
    | with_reducible assumption
    | with_reducible apply Kept.ite
    | with_reducible apply Goes.ite
    | with_reducible apply Goes.next
    | with_reducible apply Kept.drive
    | with_reducible apply Kept.regRead
    | with_reducible apply Kept.withI3c
    | with_reducible apply Kept.take
    | refine Kept.ofFst (by assumption) ?_
    | dsimp only
    | split
    | (with_reducible apply Kept.parts <;> first | exact rfl | skip)

end Sys2Proof.Machine
end

