-- ==== Sys2Proof/Laws/KeptLimits.lean ====
section
/-!
SUPPORT. What the operations of Machine/Limits.lean keep.
-/
namespace Sys2Proof.Machine

-- Proofs are checked one after another: many at once take more threads than the check allows.
set_option Elab.async false

variable {s t : State}

theorem Kept.undefineObject (h : Kept s t) (obj : Nat) :
    Kept s (State.undefineObject t obj) := by
  unfold State.undefineObject
  repeat' first
    | with_reducible assumption
    | with_reducible apply Kept.ite
    | with_reducible apply Kept.fillMem
    | refine Kept.foldl ?_ (fun u a hu => ?_)
    | dsimp only
    | split
    | (with_reducible apply Kept.parts <;> first | exact rfl | skip)

theorem Kept.abandonConfirmation (h : Kept s t)  :
    Kept s (State.abandonConfirmation t) := by
  unfold State.abandonConfirmation
  repeat' first
    | with_reducible assumption
    | with_reducible apply Kept.ite
    | with_reducible apply Kept.withCells
    | with_reducible apply Kept.setTest
    | with_reducible apply Kept.verdict
    | with_reducible apply Kept.withPCell
    | dsimp only
    | split
    | (with_reducible apply Kept.parts <;> first | exact rfl | skip)

theorem Kept.dropTickets (h : Kept s t)  :
    Kept s (State.dropTickets t) := by
  unfold State.dropTickets
  repeat' first
    | with_reducible assumption
    | with_reducible apply Kept.ite
    | with_reducible apply Kept.withPower
    | dsimp only
    | split

theorem Goes.execDrainLimit (h : Kept s t)  :
    Goes s (execDrainLimit t) := by
  unfold Machine.execDrainLimit
  repeat' first
    | with_reducible assumption
    | with_reducible apply Kept.ite
    | with_reducible apply Goes.ite
    | with_reducible apply Goes.next
    | with_reducible apply Kept.abandonConfirmation
    | with_reducible apply Kept.undefineObject
    | with_reducible apply Kept.withDev
    | with_reducible apply Kept.record
    | with_reducible apply Kept.dropTickets
    | with_reducible apply Kept.completeDrain
    | refine Kept.foldl ?_ (fun u a hu => ?_)
    | exact rfl
    | exact id
    | dsimp only
    | split
    | (with_reducible apply Kept.parts <;> first | exact rfl | skip)

end Sys2Proof.Machine
end

