-- ==== Sys2Proof/Laws/KeptResponses.lean ====
section
/-!
SUPPORT. What the operations of Machine/Responses.lean keep.
-/
namespace Sys2Proof.Machine

-- Proofs are checked one after another: many at once take more threads than the check allows.
set_option Elab.async false

variable {s t : State}

theorem Kept.entryReply (h : Kept s t) (f : FlightOp) (id : Nat) (row : Nat) (reply : List Byte) :
    Kept s (State.entryReply t f id row reply) := by
  unfold State.entryReply
  repeat' first
    | with_reducible assumption
    | with_reducible apply Kept.ite
    | with_reducible apply Kept.endFlight
    | with_reducible apply Kept.withList
    | with_reducible apply Kept.reply
    | with_reducible apply Kept.closeList
    | with_reducible apply Kept.opEnded
    | dsimp only
    | split
    | (with_reducible apply Kept.parts <;> first | exact rfl | skip)

theorem Goes.execDmaTransactionComplete (h : Kept s t) (st : Nat) :
    Goes s (execDmaTransactionComplete st t) := by
  unfold Machine.execDmaTransactionComplete
  repeat' first
    | with_reducible assumption
    | with_reducible apply Kept.ite
    | with_reducible apply Goes.ite
    | with_reducible apply Goes.next
    | with_reducible apply Kept.withSt
    | with_reducible apply Kept.complete
    | with_reducible apply Kept.opEnded
    | dsimp only
    | split
    | (with_reducible apply Kept.parts <;> first | exact rfl | skip)

theorem Goes.execAck (h : Kept s t) (p : Packet) :
    Goes s (execAck p t) := by
  unfold Machine.execAck
  repeat' first
    | with_reducible assumption
    | with_reducible apply Kept.ite
    | with_reducible apply Goes.ite
    | with_reducible apply Goes.next
    | with_reducible apply Kept.takeLocal
    | with_reducible apply Kept.endFlight
    | with_reducible apply Kept.opDone
    | with_reducible apply Kept.opEnded
    | with_reducible apply Kept.entryReply
    | dsimp only
    | split
    | (with_reducible apply Kept.parts <;> first | exact rfl | skip)

theorem Goes.execData (h : Kept s t) (p : Packet) :
    Goes s (execData p t) := by
  unfold Machine.execData
  repeat' first
    | with_reducible assumption
    | with_reducible apply Kept.ite
    | with_reducible apply Goes.ite
    | with_reducible apply Goes.next
    | with_reducible apply Kept.takeLocal
    | with_reducible apply Kept.withCombines
    | with_reducible apply Kept.forward
    | with_reducible apply Kept.entryReply
    | with_reducible apply Kept.take
    | refine Kept.foldl ?_ (fun u a hu => ?_)
    | dsimp only
    | split
    | (with_reducible apply Kept.parts <;> first | exact rfl | skip)

theorem Goes.execResult (h : Kept s t) (p : Packet) :
    Goes s (execResult p t) := by
  unfold Machine.execResult
  repeat' first
    | with_reducible assumption
    | with_reducible apply Kept.ite
    | with_reducible apply Goes.ite
    | with_reducible apply Goes.next
    | with_reducible apply Kept.takeLocal
    | with_reducible apply Kept.entryReply
    | with_reducible apply Kept.take
    | with_reducible apply Kept.withFabric
    | with_reducible apply Kept.bump
    | with_reducible apply Kept.inject
    | with_reducible apply Kept.headerFail
    | dsimp only
    | split
    | (with_reducible apply Kept.parts <;> first | exact rfl | skip)

theorem Goes.execFarRsp (h : Kept s t) (p : Packet) :
    Goes s (execFarRsp p t) := by
  unfold Machine.execFarRsp
  repeat' first
    | with_reducible assumption
    | with_reducible apply Kept.ite
    | with_reducible apply Goes.ite
    | with_reducible apply Goes.next
    | with_reducible apply Kept.takeLocal
    | with_reducible apply Kept.entryReply
    | dsimp only
    | split
    | (with_reducible apply Kept.parts <;> first | exact rfl | skip)

end Sys2Proof.Machine
end

