-- ==== Sys2Proof/Laws/KeptRereads.lean ====
section
/-!
SUPPORT. What the operations of Machine/Rereads.lean keep.
-/
namespace Sys2Proof.Machine

-- Proofs are checked one after another: many at once take more threads than the check allows.
set_option Elab.async false

variable {s t : State}

theorem Kept.proceed (h : Kept s t) (i : Instr) (path : ReadPath) :
    Kept s (State.proceed t i path) := by
  unfold State.proceed
  repeat' first
    | with_reducible assumption
    | with_reducible apply Kept.ite
    | with_reducible apply Kept.mmRun
    | with_reducible apply Kept.vecOp
    | with_reducible apply Kept.glLoad
    | with_reducible apply Kept.glRun
    | with_reducible apply Kept.cpTiles
    | with_reducible apply Kept.opLists
    | with_reducible apply Kept.cpRemote
    | with_reducible apply Kept.colRs
    | with_reducible apply Kept.colAg
    | with_reducible apply Kept.rdTiles
    | with_reducible apply Kept.wrTiles
    | dsimp only
    | split
    | (with_reducible apply Kept.parts <;> first | exact rfl | skip)

theorem Goes.execTileCrcReread (h : Kept s t) (st : Nat) (path : ReadPath) :
    Goes s (execTileCrcReread st path t) := by
  unfold Machine.execTileCrcReread
  repeat' first
    | with_reducible assumption
    | with_reducible apply Kept.ite
    | with_reducible apply Goes.ite
    | with_reducible apply Goes.next
    | with_reducible apply Kept.withSt
    | with_reducible apply Kept.readFrame
    | with_reducible apply Kept.tileTransient
    | with_reducible apply Kept.proceed
    | with_reducible apply Kept.tileFault
    | refine Kept.ofFst (by assumption) ?_
    | dsimp only
    | split
    | (with_reducible apply Kept.parts <;> first | exact rfl | skip)

end Sys2Proof.Machine
end

