-- ==== Sys2Proof/Laws/Storage.lean ====
section
/-!
SUPPORT. Bytes stored are the bytes read (R204, R205), a signed frame verifies (R56, R57), and what a write of memory does.
-/
namespace Sys2Proof.Machine

-- Proofs are checked one after another: many at once take more threads than the check allows.
set_option Elab.async false

/-! ### Byte strings -/

@[simp] theorem natLe_length (k n : Nat) : (natLe k n).length = k := by
  induction k generalizing n with
  | zero => rfl
  | succ k ih => simp [natLe, ih]

theorem leNat_natLe (k n : Nat) : leNat (natLe k n) = n % 256 ^ k := by
  induction k generalizing n with
  | zero => simp [natLe, leNat, Nat.mod_one]
  | succ k ih =>
    simp only [natLe, leNat, ih, BitVec.toNat_ofNat]
    have : (256 : Nat) ^ (k + 1) = 256 * 256 ^ k := by rw [Nat.pow_succ, Nat.mul_comm]
    rw [this, Nat.mod_mul]

theorem natLe_leNat (l : List Byte) : natLe l.length (leNat l) = l := by
  induction l with
  | nil => rfl
  | cons b r ih =>
    have h := b.isLt
    have h1 : (b.toNat + 256 * leNat r) / 256 = leNat r := by omega
    have h2 : BitVec.ofNat 8 (b.toNat + 256 * leNat r) = b := by
      apply BitVec.eq_of_toNat_eq; simp only [BitVec.toNat_ofNat]; omega
    simp only [List.length_cons, natLe, leNat, h1, h2, ih]

theorem splice_length {l b : List Byte} {off : Nat} (h : off + b.length ≤ l.length) : (splice l off b).length = l.length := by
  simp only [splice, List.length_append, List.length_take, List.length_drop]; omega

theorem sub_splice {l b : List Byte} {off : Nat} (h : off + b.length ≤ l.length) : sub (splice l off b) off b.length = b := by
  have h1 : (l.take off).length = off := by simp only [List.length_take]; omega
  unfold sub splice
  rw [List.append_assoc, List.drop_append_of_le_length (by omega), List.drop_eq_nil_of_le (by omega), List.nil_append,
    List.take_left']
  rfl

theorem splice_splice {l b c : List Byte} {off : Nat} (h : off + b.length ≤ l.length) (e : c.length = b.length) :
    splice (splice l off b) off c = splice l off c := by
  have h1 : (l.take off).length = off := by simp only [List.length_take]; omega
  unfold splice
  have h2 : (l.take off ++ b ++ l.drop (off + b.length)).take off = l.take off := by
    rw [List.append_assoc, List.take_append_of_le_length (by omega), List.take_of_length_le (by omega : (l.take off).length ≤ off)]
  have h3 : (l.take off ++ b ++ l.drop (off + b.length)).drop (off + c.length) = l.drop (off + c.length) := by
    rw [List.drop_append, List.drop_eq_nil_of_le (by simp only [List.length_append]; omega), List.nil_append, List.drop_drop]
    congr 1
    simp only [List.length_append]; omega
  rw [h2, h3]

theorem splice_whole {l b : List Byte} (h : l.length = b.length) : splice l 0 b = b := by
  simp [splice, List.drop_eq_nil_of_le (Nat.le_of_eq h)]

/-! ### Cells -/

theorem expand_zero {a n : Nat} {l : List Host.Cell} (h : ∀ c ∈ l, a < c.1) : expand a (n + 1) l = 0 :: expand (a + 1) n l := by
  cases l with
  | nil => rfl
  | cons c r =>
    have : c.1 ≠ a := by have := h c (List.mem_cons_self ..); omega
    simp [expand, this]

theorem cellsOf_above (a : Nat) (b : List Byte) : ∀ c ∈ cellsOf a b, a ≤ c.1 := by
  induction b generalizing a with
  | nil => simp [cellsOf]
  | cons v r ih =>
    intro c h
    have := ih (a + 1) c
    by_cases hv : v = 0
    · simp only [cellsOf, hv, if_true] at h; have := this h; omega
    · simp only [cellsOf, hv, if_false, List.mem_cons] at h
      rcases h with h | h
      · subst h; exact Nat.le_refl _
      · have := this h; omega

theorem expand_cellsOf (a : Nat) (b : List Byte) {r : List Host.Cell} (h : ∀ c ∈ r, a + b.length ≤ c.1) :
    expand a b.length (cellsOf a b ++ r) = b := by
  induction b generalizing a with
  | nil => cases r <;> rfl
  | cons v t ih =>
    simp only [List.length_cons] at h
    have ih' := ih (a + 1) (fun c hc => by have := h c hc; omega)
    by_cases hv : v = 0
    · simp only [cellsOf, hv, if_true, List.length_cons]
      rw [expand_zero (fun c hc => ?_), ih']
      rcases List.mem_append.mp hc with hc | hc
      · exact cellsOf_above (a + 1) t c hc
      · have := h c hc; omega
    · simp only [cellsOf, hv, if_false, List.length_cons, List.cons_append, expand, if_true, ih']

/-- Bytes set are the bytes there. -/
theorem cellsAt_set (l : List Host.Cell) (a : Nat) (b : List Byte) : cellsAt (cellsSet l a b) a b.length = b := by
  have e : cellsFrom a (cellsSet l a b) = cellsOf a b ++ cellsFrom (a + b.length) l := by
    unfold cellsFrom cellsSet cellsBelow cellsFrom
    rw [List.filter_append, List.filter_append, List.filter_filter, List.filter_filter]
    have h1 : (l.filter fun c => decide (a ≤ c.1) && decide (c.1 < a)) = [] := by
      rw [List.filter_eq_nil_iff]; intro c _; simp only [Bool.and_eq_true, decide_eq_true_eq]; omega
    have h2 : (cellsOf a b).filter (fun c => decide (a ≤ c.1)) = cellsOf a b := by
      rw [List.filter_eq_self]; intro c hc; simpa using cellsOf_above a b c hc
    have h3 : (l.filter fun c => decide (a ≤ c.1) && decide (a + b.length ≤ c.1)) = l.filter fun c => decide (a + b.length ≤ c.1) := by
      apply List.filter_congr; intro c _
      by_cases h : a + b.length ≤ c.1
      · simp [h, Nat.le_trans (Nat.le_add_right a b.length) h]
      · simp [h]
    rw [h1, h2, h3, List.nil_append]
  unfold cellsAt
  rw [e]
  refine expand_cellsOf a b fun c hc => ?_
  simpa [cellsFrom] using (List.mem_filter.mp hc).2

theorem cellsFrom_above {l : List Host.Cell} {a b : Nat} (h : a ≤ b) : cellsFrom b (cellsFrom a l) = cellsFrom b l := by
  unfold cellsFrom
  rw [List.filter_filter]
  apply List.filter_congr
  intro c _
  by_cases hb : b ≤ c.1
  · simp [hb, Nat.le_trans h hb]
  · simp [hb]

/-- The bytes at an address, one by one. -/
theorem cellsAt_map {l : List Host.Cell} (w : cellsOk 0 l = true) (a n : Nat) :
    cellsAt l a n = (List.range n).map fun i => lookD l (a + i) 0 := by
  induction n generalizing a with
  | zero => unfold cellsAt; cases cellsFrom a l <;> rfl
  | succ n ih =>
    have hL : cellsOk a (cellsFrom a l) = true :=
      cellsOk_raise (cellsOk_filter _ w) fun c hc => by simpa [cellsFrom] using (List.mem_filter.mp hc).2
    have one := cellsAt_one w a
    have tail : (List.range n).map (fun i => lookD l (a + (i + 1)) 0) = expand (a + 1) n (cellsFrom (a + 1) (cellsFrom a l)) := by
      rw [cellsFrom_above (Nat.le_succ a)]
      have := ih (a + 1)
      unfold cellsAt at this
      rw [this]
      apply List.map_congr_left
      intro i _
      congr 1
      omega
    rw [List.range_succ_eq_map, List.map_cons, List.map_map]
    have e : ((fun i => lookD l (a + i) 0) ∘ Nat.succ) = fun i => lookD l (a + (i + 1)) 0 := rfl
    rw [e, tail, show lookD l (a + 0) 0 = (cellsAt l a 1).headD 0 from one.symm]
    unfold cellsAt
    generalize cellsFrom a l = L at hL
    cases L with
    | nil => rfl
    | cons c r =>
      simp only [cellsOk, Bool.and_eq_true, decide_eq_true_eq] at hL
      have hr : ∀ d ∈ r, c.1 + 1 ≤ d.1 := by
        intro d hd
        have := hL.2
        clear ih one tail e
        generalize c.1 + 1 = k at this
        clear hL
        induction r generalizing k with
        | nil => cases hd
        | cons x t ih =>
          simp only [cellsOk, Bool.and_eq_true, decide_eq_true_eq] at this
          rcases List.mem_cons.mp hd with h | h
          · subst h; exact this.1.1
          · have := ih h (x.1 + 1) this.2; omega
      by_cases hc : c.1 = a
      · have : cellsFrom (a + 1) (c :: r) = r := by
          unfold cellsFrom
          rw [List.filter_cons_of_neg (by simp [hc]), List.filter_eq_self]
          intro d hd; have := hr d hd; simp; omega
        rw [this]
        simp [expand, hc]
      · have : cellsFrom (a + 1) (c :: r) = c :: r := by
          unfold cellsFrom
          rw [List.filter_eq_self]
          intro d hd
          rcases List.mem_cons.mp hd with h | h
          · subst h; simp; omega
          · have := hr d h; simp; omega
        rw [this]
        simp [expand, hc]

/-! ### Z72 (R204, R205) -/

theorem zPar_lt (l : List Nat) (h : ∀ x ∈ l, x < 256) (d : Nat) : zPar l d < 256 := by
  induction l generalizing d with
  | nil => exact Nat.zero_lt_succ _
  | cons x r ih =>
    have h1 : (if d % 2 = 1 then x else 0) < 2 ^ 8 := by
      split
      · exact h x (List.mem_cons_self ..)
      · decide
    exact Nat.xor_lt_two_pow h1 (ih (fun y hy => h y (List.mem_cons_of_mem _ hy)) (d / 2))

theorem zPar_columns_lt (d : Nat) : zPar zColumns d < 256 := zPar_lt _ (by decide) d

/-- A granule with its own check bits reads clean. -/
theorem zDecode_zCheck (d : Nat) : zDecode d (zCheck d) = (.clean, d) := by
  have h := zPar_columns_lt d
  have e : (zCheck d).toNat = zPar zColumns d ^^^ 0x0F := by
    unfold zCheck
    rw [BitVec.toNat_ofNat]
    exact Nat.mod_eq_of_lt (Nat.xor_lt_two_pow (n := 8) h (by decide))
  have z : (zCheck d).toNat ^^^ zPar zColumns d ^^^ 0x0F = 0 := by
    rw [e, Nat.xor_comm (zPar zColumns d) 0x0F, Nat.xor_assoc 0x0F, Nat.xor_self, Nat.xor_zero, Nat.xor_self]
  unfold zDecode
  simp only [z, if_true]

/-! ### Whole granules written (R204) -/

/-- The check bits of whole granules. -/
def checksOf (b : List Byte) : List Byte := (List.range (b.length / 8)).map fun i => zCheck (granWord b i)

theorem granSpan_aligned {a len : Nat} (ha : a % 8 = 0) (hl : len % 8 = 0) : granSpan a len = (a / 8, len / 8) := by
  unfold granSpan
  congr 1
  omega

theorem readGranules_length (m : Memory) (g n : Nat) : (m.readGranules g n).2.length = 8 * n := by
  unfold Memory.readGranules
  simp only [List.flatMap_map, List.length_flatMap, natLe_length]
  rw [show (fun _ : Nat => 8) = Function.const Nat 8 from rfl, List.map_const]
  simp [Nat.mul_comm]

theorem Memory.write_aligned (m : Memory) {a : Nat} {b : List Byte} (ha : a % 8 = 0) (hl : b.length % 8 = 0) (hb : b ≠ []) :
    m.write a b [] = (m.setGranules (a / 8) b (checksOf b), []) := by
  unfold Memory.write
  simp only [granSpan_aligned ha hl, ha]
  have h1 : splice (m.readGranules (a / 8) (b.length / 8)).2 0 b = b := splice_whole (by rw [readGranules_length]; omega)
  have hw : ∀ i, i < b.length / 8 → wholeIn a b.length (a / 8 + i) = true := by
    intro i hi; simp only [wholeIn, Bool.and_eq_true, decide_eq_true_eq]; omega
  rw [h1]
  have he : b.isEmpty = false := by cases b with
    | nil => exact absurd rfl hb
    | cons _ _ => rfl
  have hp : ((List.range (b.length / 8)).filter fun i => !wholeIn a b.length (a / 8 + i)) = [] := by
    rw [List.filter_eq_nil_iff]; intro i hi; rw [hw i (List.mem_range.mp hi)]; decide
  rw [hp, he]
  simp only [Bool.false_eq_true, if_false, List.map_nil, checksOf]
  congr 2
  apply List.map_congr_left
  intro i hi
  simp [checkFor, hw i (List.mem_range.mp hi)]

theorem checksOf_length (b : List Byte) : (checksOf b).length = b.length / 8 := by simp [checksOf]

theorem granWord_le (b : List Byte) {i : Nat} (h : 8 * i + 8 ≤ b.length) : natLe 8 (granWord b i) = sub b (8 * i) 8 := by
  have e : (sub b (8 * i) 8).length = 8 := by simp [sub]; omega
  have := natLe_leNat (sub b (8 * i) 8)
  rw [e] at this
  exact this

theorem flatMap_sub (b : List Byte) (n : Nat) (h : b.length = 8 * n) : ((List.range n).flatMap fun i => sub b (8 * i) 8) = b := by
  induction n generalizing b with
  | zero =>
    have : b = [] := by cases b with
      | nil => rfl
      | cons _ _ => simp at h
    simp [this]
  | succ n ih =>
    rw [List.range_succ_eq_map, List.flatMap_cons, List.flatMap_map]
    have hd : (b.drop 8).length = 8 * n := by simp only [List.length_drop]; omega
    have := ih (b.drop 8) hd
    have e : ((List.range n).flatMap fun i => sub b (8 * i.succ) 8) = (List.range n).flatMap fun i => sub (b.drop 8) (8 * i) 8 := by
      congr 1; funext i
      simp only [sub, List.drop_drop]
      congr 2; omega
    rw [e, this]
    simp [sub]

/-- Whole granules written are read as they were written, without an error. -/
theorem Memory.read_write (m : Memory) {a : Nat} {b : List Byte} (ha : a % 8 = 0) (hl : b.length % 8 = 0) (hb : b ≠ []) :
    (m.write a b []).1.read a b.length = (List.replicate (b.length / 8) .clean, b) := by
  rw [Memory.write_aligned m ha hl hb]
  have ha8 : 8 * (a / 8) = a := by omega
  have hl8 : 8 * (b.length / 8) = b.length := by omega
  have hz : (m.setGranules (a / 8) b (checksOf b)).readGranules (a / 8) (b.length / 8) = (List.replicate (b.length / 8) .clean, b) := by
    unfold Memory.readGranules Memory.setGranules
    simp only [ha8, hl8]
    rw [cellsAt_set, ← checksOf_length b, cellsAt_set, checksOf_length]
    have e : ((List.range (b.length / 8)).map fun i => zDecode (granWord b i) ((checksOf b).getD i 0)) =
        (List.range (b.length / 8)).map fun i => (.clean, granWord b i) := by
      apply List.map_congr_left
      intro i hi
      have hi := List.mem_range.mp hi
      have : (checksOf b).getD i 0 = zCheck (granWord b i) := by simp [checksOf, hi]
      rw [this, zDecode_zCheck]
    rw [e]
    congr 1
    · rw [List.map_map]
      have : ((fun x : ZRead × Nat => x.1) ∘ fun i => ((.clean, granWord b i) : ZRead × Nat)) = fun _ => ZRead.clean := rfl
      rw [this]; simp [List.map_const']
    · rw [List.flatMap_map]
      have e2 : ((List.range (b.length / 8)).flatMap fun i => natLe 8 (granWord b i)) = (List.range (b.length / 8)).flatMap fun i => sub b (8 * i) 8 := by
        rw [List.flatMap_def, List.flatMap_def]
        congr 1
        apply List.map_congr_left
        intro i hi
        have hi := List.mem_range.mp hi
        exact granWord_le b (by omega)
      rw [e2]
      exact flatMap_sub b _ hl8.symm
  unfold Memory.read
  simp only [granSpan_aligned ha hl, hz, ha, sub, List.drop_zero]
  simp

/-- Each of the granules that were written reads clean. -/
theorem setGranules_clean {m : Memory} (w : m.wf = true) {a : Nat} {b : List Byte} (hl : b.length % 8 = 0) {g : Nat}
    (h1 : a / 8 ≤ g) (h2 : g < a / 8 + b.length / 8) : ((m.setGranules (a / 8) b (checksOf b)).readGranules g 1).1 = [.clean] := by
  have hw := (Memory.wf_iff _).mp (Memory.setGranules_wf w (a / 8) b (checksOf b))
  have hd : cellsAt (m.setGranules (a / 8) b (checksOf b)).data (8 * g) (8 * 1) = sub b (8 * (g - a / 8)) 8 := by
    rw [cellsAt_map hw.1]
    apply List.ext_getElem
    · simp [sub]; omega
    · intro i hi _
      simp at hi
      have : lookD (m.setGranules (a / 8) b (checksOf b)).data (8 * g + i) 0 = b.getD (8 * g + i - 8 * (a / 8)) 0 :=
        lookD_cellsSet_in _ _ _ _ (by omega) (by omega)
      simp only [List.getElem_map, List.getElem_range, this, sub, List.getElem_take, List.getElem_drop]
      have e : 8 * g + i - 8 * (a / 8) = 8 * (g - a / 8) + i := by omega
      rw [e, List.getD_eq_getElem?_getD, List.getElem?_eq_getElem (by omega)]
      rfl
  have hc : cellsAt (m.setGranules (a / 8) b (checksOf b)).check g 1 = [zCheck (granWord b (g - a / 8))] := by
    rw [cellsAt_map hw.2]
    have : lookD (m.setGranules (a / 8) b (checksOf b)).check (g + 0) 0 = (checksOf b).getD (g + 0 - a / 8) 0 :=
      lookD_cellsSet_in _ _ _ _ (by omega) (by rw [checksOf_length]; omega)
    simp only [List.range_one, List.map_cons, List.map_nil, this]
    have hi : g - a / 8 < b.length / 8 := by omega
    simp [checksOf, hi]
  unfold Memory.readGranules
  rw [hd, hc]
  have : granWord (sub b (8 * (g - a / 8)) 8) 0 = granWord b (g - a / 8) := by
    unfold granWord sub
    simp only [Nat.mul_zero, List.drop_zero, List.take_take]
    rfl
  simp [this, zDecode_zCheck]

/-! ### Signed frames (R56, R57) -/

theorem signFrame_length {f : List Byte} (h : f.length = frameBytes) : (signFrame f).length = frameBytes := by
  unfold signFrame
  rw [splice_length (by rw [natLe_length, h]; decide), h]

/-- A signed frame verifies. -/
theorem crcOk_signFrame {f : List Byte} (h : f.length = frameBytes) : crcOk (signFrame f) = true := by
  have hb : 0x1C + (natLe 4 (frameCrc f).toNat).length ≤ f.length := by rw [natLe_length, h]; decide
  have hs := signFrame_length h
  have h1 : fld (signFrame f) 0x1C 4 = (frameCrc f).toNat := by
    have := sub_splice hb
    rw [natLe_length] at this
    unfold fld signFrame
    rw [this, leNat_natLe]
    exact Nat.mod_eq_of_lt (frameCrc f).isLt
  have whole : ∀ g : List Byte, g.length = frameBytes → sub g 0 0x10A0 = g := by
    intro g hg
    simp only [sub, List.drop_zero]
    exact List.take_of_length_le (by rw [hg]; decide)
  have h2 : frameCrc (signFrame f) = frameCrc f := by
    conv => lhs; unfold frameCrc
    rw [whole _ hs]
    conv => lhs; unfold signFrame
    rw [splice_splice hb (by simp)]
    conv => rhs; unfold frameCrc
    rw [whole _ h]
  unfold crcOk
  rw [hs, h1, h2]
  simp

/-! ### What a write of whole granules does (R204, R205, R215, R222) -/

/-- Whole granules written into a cache line read nothing of it. -/
theorem CacheLine.write_whole (c : CacheLine) {off : Nat} {b : List Byte} (bad : List Nat) (h1 : off % 8 = 0)
    (h2 : b.length % 8 = 0) : (c.write off b bad).2 = [] := by
  unfold CacheLine.write
  simp only [List.map_eq_nil_iff, List.filter_eq_nil_iff, granSpan, wholeIn]
  intro i _ h
  simp only [Bool.and_eq_true, Bool.not_eq_true', Bool.and_eq_false_iff, decide_eq_false_iff_not] at h
  have h3 := of_decide_eq_true h.1.1
  have h4 := of_decide_eq_true h.1.2
  have h5 := h.2
  omega

theorem sub_length_mod {b : List Byte} {i n : Nat} (hb : b.length % 8 = 0) (hi : i % 8 = 0) (hn : n % 8 = 0) :
    (sub b i n).length % 8 = 0 := by
  simp only [sub, List.length_take, List.length_drop]
  omega

/-- What a write of whole granules does to the copies that the Lodge holds: it changes nothing else. -/
theorem State.cacheWrite_eq (s : State) {a : Nat} {b : List Byte} (bad : List Nat) (ha : a % 8 = 0) (hb : b.length % 8 = 0) :
    s.cacheWrite a b bad =
      { s with stores := { s.stores with cache := (s.cacheWrite a b bad).stores.cache, fills := (s.cacheWrite a b bad).stores.fills } } := by
  have fold : ∀ (f : State → Nat → State) (hf : ∀ t u, ∃ c, f t u = { t with stores := { t.stores with cache := c } }) (l : List Nat) (t : State),
      ∃ c, l.foldl f t = { t with stores := { t.stores with cache := c } } := by
    intro f hf l
    induction l with
    | nil => intro t; exact ⟨_, rfl⟩
    | cons x r ih =>
      intro t
      obtain ⟨c, hc⟩ := hf t x
      obtain ⟨d, hd⟩ := ih (f t x)
      rw [List.foldl_cons, hd, hc]
      exact ⟨d, rfl⟩
  have mark : ∀ (t : State) (us : List Nat), (∃ c, t = { s with stores := { s.stores with cache := c } }) →
      ∃ c f, t.markFills us = { s with stores := { s.stores with cache := c, fills := f } } := by
    rintro _ us ⟨c, rfl⟩
    exact ⟨_, _, rfl⟩
  have h : ∃ c f, s.cacheWrite a b bad = { s with stores := { s.stores with cache := c, fills := f } } := by
    unfold State.cacheWrite
    dsimp only
    split
    · exact ⟨_, _, rfl⟩
    · refine mark _ _ (fold _ (fun t u => ?_) _ s)
      split
      · exact ⟨_, rfl⟩
      · rw [CacheLine.write_whole _ _ (by omega) (sub_length_mod hb (by omega) (by omega))]
        exact ⟨_, rfl⟩
  obtain ⟨c, f, e⟩ := h
  rw [e]

theorem State.countBytes_eq (s : State) (p : Place) (off n : Nat) :
    s.countBytes p off n = { s with wrap := (s.countBytes p off n).wrap } := by
  unfold State.countBytes
  split <;> rfl

theorem State.countNarrow_eq (s : State) (p : Place) (a len n : Nat) :
    s.countNarrow p a len n = { s with wrap := (s.countNarrow p a len n).wrap } := by
  unfold State.countNarrow
  split
  · exact State.countBytes_eq ..
  · rfl

/-- What of the stores decides where an address lies. -/
theorem State.place_congr {s t : State} (h1 : t.serviceList = s.serviceList) (h2 : t.stores.lodgeSp = s.stores.lodgeSp)
    (h3 : t.stores.lodgeOos = s.stores.lodgeOos) (a : Nat) : t.place a = s.place a := by
  unfold State.place
  rw [h1, h2, h3]

/-- A write of whole granules to one place: its bytes, their check bits, and nothing else but the copies that the Lodge holds, the
corrections that waited and the counts of stack traffic. -/
theorem State.writePart_eq {s : State} {a : Nat} {b : List Byte} (die unit : Nat) (hp : (s.place a).isSome = true)
    (ha : a % 8 = 0) (hl : b.length % 8 = 0) (hb : b ≠ []) : ∃ c d x y q, s.writePart die unit a b [] = { s with
      stores := { s.stores with mem := s.stores.mem.setGranules (a / 8) b (checksOf b), cache := c, fills := d, stackFix := x, padFix := y }
      wrap := q } := by
  obtain ⟨p, hp⟩ := Option.isSome_iff_exists.mp hp
  have e1 : ∃ q, s.noteWrite p a b.length [] = { s with wrap := q } := by
    unfold State.noteWrite
    simp only [List.filter_nil, List.isEmpty_nil, if_true, State.granEvents, List.foldl_nil]
    rw [State.countNarrow_eq, State.countBytes_eq]
    exact ⟨_, rfl⟩
  obtain ⟨q, e1⟩ := e1
  unfold State.writePart
  rw [hp]
  dsimp only
  rw [Memory.write_aligned _ ha hl hb, e1]
  unfold State.storeBytes
  dsimp only
  rw [State.cacheWrite_eq _ _ ha hl]
  simp only [State.withStores, Memory.write_aligned _ ha hl hb]
  exact ⟨_, _, _, _, _, rfl⟩

theorem cellsOf_append (a : Nat) (b c : List Byte) : cellsOf a (b ++ c) = cellsOf a b ++ cellsOf (a + b.length) c := by
  induction b generalizing a with
  | nil => rfl
  | cons v r ih =>
    have e : a + 1 + r.length = a + (r.length + 1) := by omega
    by_cases hv : v = 0
    · simp only [List.cons_append, cellsOf, hv, if_true, ih, List.length_cons, e]
    · simp only [List.cons_append, cellsOf, hv, if_false, ih, List.length_cons, e]

/-- Bytes set after bytes set before them are set as one. -/
theorem cellsSet_append (l : List Host.Cell) (a : Nat) (b c : List Byte) :
    cellsSet (cellsSet l a b) (a + b.length) c = cellsSet l a (b ++ c) := by
  have h1 : cellsBelow (a + b.length) (cellsSet l a b) = cellsBelow a l ++ cellsOf a b := by
    unfold cellsSet cellsBelow cellsFrom
    rw [List.filter_append, List.filter_append, List.filter_filter, List.filter_filter]
    have e1 : (l.filter fun x => decide (x.1 < a + b.length) && decide (x.1 < a)) = l.filter fun x => decide (x.1 < a) :=
      List.filter_congr fun x _ => by by_cases h : x.1 < a <;> simp [h]; omega
    have e2 : (cellsOf a b).filter (fun x => decide (x.1 < a + b.length)) = cellsOf a b :=
      List.filter_eq_self.mpr fun x hx => by simpa using cellsOf_below a b x hx
    have e3 : (l.filter fun x => decide (x.1 < a + b.length) && decide (a + b.length ≤ x.1)) = [] :=
      List.filter_eq_nil_iff.mpr fun x _ => by simp only [Bool.and_eq_true, decide_eq_true_eq]; omega
    rw [e1, e2, e3, List.append_nil]
  have h2 : cellsFrom (a + b.length + c.length) (cellsSet l a b) = cellsFrom (a + b.length + c.length) l := by
    unfold cellsSet cellsBelow cellsFrom
    rw [List.filter_append, List.filter_append, List.filter_filter, List.filter_filter]
    have e1 : (l.filter fun x => decide (a + b.length + c.length ≤ x.1) && decide (x.1 < a)) = [] :=
      List.filter_eq_nil_iff.mpr fun x _ => by simp only [Bool.and_eq_true, decide_eq_true_eq]; omega
    have e2 : (cellsOf a b).filter (fun x => decide (a + b.length + c.length ≤ x.1)) = [] :=
      List.filter_eq_nil_iff.mpr fun x hx => by have := cellsOf_below a b x hx; simp; omega
    have e3 : (l.filter fun x => decide (a + b.length + c.length ≤ x.1) && decide (a + b.length ≤ x.1)) =
        l.filter fun x => decide (a + b.length + c.length ≤ x.1) :=
      List.filter_congr fun x _ => by by_cases h : a + b.length + c.length ≤ x.1 <;> simp [h]; omega
    rw [e1, e2, e3, List.nil_append, List.nil_append]
  have h3 : a + (b ++ c).length = a + b.length + c.length := by rw [List.length_append]; omega
  show cellsBelow (a + b.length) (cellsSet l a b) ++ cellsOf (a + b.length) c ++
    cellsFrom (a + b.length + c.length) (cellsSet l a b) = cellsBelow a l ++ cellsOf a (b ++ c) ++ cellsFrom (a + (b ++ c).length) l
  rw [h1, h2, h3, cellsOf_append, List.append_assoc (cellsBelow a l)]

theorem checksOf_append {b c : List Byte} (h : b.length % 8 = 0) : checksOf (b ++ c) = checksOf b ++ checksOf c := by
  have e : (b ++ c).length / 8 = b.length / 8 + c.length / 8 := by rw [List.length_append]; omega
  unfold checksOf
  rw [e, List.range_add, List.map_append, List.map_map]
  congr 1
  · apply List.map_congr_left
    intro i hi
    have hi := List.mem_range.mp hi
    unfold granWord sub
    rw [List.drop_append_of_le_length (by omega), List.take_append_of_le_length (by rw [List.length_drop]; omega)]
  · apply List.map_congr_left
    intro i _
    show zCheck (granWord (b ++ c) (b.length / 8 + i)) = _
    unfold granWord sub
    have : 8 * (b.length / 8 + i) = b.length + 8 * i := by omega
    rw [this, ← List.drop_drop, List.drop_left]

/-- Whole granules set after whole granules are set as one. -/
theorem Memory.setGranules_append (m : Memory) {a : Nat} {b c : List Byte} (ha : a % 8 = 0) (hb : b.length % 8 = 0) :
    (m.setGranules (a / 8) b (checksOf b)).setGranules ((a + b.length) / 8) c (checksOf c) =
      m.setGranules (a / 8) (b ++ c) (checksOf (b ++ c)) := by
  unfold Memory.setGranules
  have h1 : 8 * (a / 8) = a := by omega
  have h2 : 8 * ((a + b.length) / 8) = a + b.length := by omega
  have h3 : (a + b.length) / 8 = a / 8 + (checksOf b).length := by rw [checksOf_length]; omega
  refine congr (congrArg Memory.mk ?_) ?_
  · rw [h1, h2]; exact cellsSet_append ..
  · rw [h3, checksOf_append hb]; exact cellsSet_append ..

/-- A write of whole granules to mapped memory, in one region of the map or across into the next: its bytes, their check bits, and
nothing else but the copies that the Lodge holds, the corrections that waited and the counts of stack traffic. -/
theorem State.writeMem_eq {s : State} {a : Nat} {b : List Byte} (die unit : Nat) (hp : s.mapped a b.length)
    (ha : a % 8 = 0) (hl : b.length % 8 = 0) (hb : b ≠ []) : ∃ c d x y q, s.writeMem die unit a b [] = { s with
      stores := { s.stores with mem := s.stores.mem.setGranules (a / 8) b (checksOf b), cache := c, fills := d, stackFix := x, padFix := y }
      wrap := q } := by
  have hn : 0 < b.length := List.length_pos_iff.mpr hb
  unfold State.writeMem
  dsimp only
  split
  · exact State.writePart_eq die unit (hp a (Nat.le_refl _) (by omega)) ha hl hb
  · rename_i hk
    have hk1 : regionCut a b.length % 8 = 0 ∧ 0 < regionCut a b.length ∧ regionCut a b.length < b.length := by
      unfold regionCut at hk ⊢
      omega
    generalize regionCut a b.length = k at hk1
    have l1 : (b.take k).length = k := by rw [List.length_take]; omega
    have l2 : (b.drop k).length = b.length - k := List.length_drop
    obtain ⟨c, d, x, y, q, e⟩ := State.writePart_eq (s := s) (a := a) (b := b.take k) die unit (hp a (Nat.le_refl _) (by omega)) ha
      (by omega) (by intro h; rw [h] at l1; simp at l1; omega)
    simp only [List.filter_nil, List.map_nil]
    rw [e]
    obtain ⟨c', d', x', y', q', e'⟩ := State.writePart_eq (s := { s with
        stores := { s.stores with mem := s.stores.mem.setGranules (a / 8) (b.take k) (checksOf (b.take k)), cache := c, fills := d, stackFix := x, padFix := y }
        wrap := q }) (a := a + k) (b := b.drop k) die unit
      ((congrArg Option.isSome (State.place_congr (s := s) rfl rfl rfl (a + k))).trans (hp (a + k) (by omega) (by omega)))
      (by omega) (by omega)
      (by intro h; rw [h] at l2; simp at l2; omega)
    rw [e']
    have := Memory.setGranules_append s.stores.mem (b := b.take k) (c := b.drop k) ha (by omega)
    rw [List.take_append_drop, l1] at this
    rw [← this]
    exact ⟨_, _, _, _, _, rfl⟩

theorem State.writeMem_wrote {s : State} {a : Nat} {b : List Byte} (die unit : Nat) (hp : s.mapped a b.length)
    (ha : a % 8 = 0) (hl : b.length % 8 = 0) (hb : b ≠ []) (w : s.stores.mem.wf = true) :
    Wrote s (s.writeMem die unit a b []) a b := by
  obtain ⟨c, d, x, y, q, e⟩ := State.writeMem_eq die unit hp ha hl hb
  rw [e]
  have ha8 : 8 * (a / 8) = a := by omega
  have hw : (s.stores.mem.setGranules (a / 8) b (checksOf b)).wf = true := Memory.setGranules_wf w _ _ _
  constructor
  · show cellsAt (cellsSet s.stores.mem.data (8 * (a / 8)) b) a b.length = b
    rw [ha8, cellsAt_set]
  · intro g h1 h2
    have hg : g - a / 8 < b.length / 8 := by omega
    exact setGranules_clean w hl h1 (by omega)
  · intro x hx
    show Memory.byte (s.stores.mem.setGranules (a / 8) b (checksOf b)) x = s.stores.mem.byte x
    rw [Memory.byte_eq hw, Memory.byte_eq w]
    show lookD (cellsSet s.stores.mem.data (8 * (a / 8)) b) x 0 = _
    rw [ha8]
    exact lookD_cellsSet_out _ _ _ _ hx
  · rfl
  · intro z hz
    cases z <;> first | rfl | exact absurd (by decide) hz

/-! ### A frame read where it was written (R57) -/

theorem granEvents_clean (s : State) (pass : Option Nat) (l : List (Nat × ZRead)) (h : ∀ z ∈ l, z.2 = .clean) :
    s.granEvents pass l = s := by
  induction l with
  | nil => rfl
  | cons z r ih =>
    have hz := h z (List.mem_cons_self ..)
    have : (match s.place (8 * z.1) with
        | some p => s.granEvent pass (8 * z.1) p z.2
        | none => s) = s := by
      split
      · rw [hz]; rfl
      · rfl
    exact (congrArg (fun t : State => t.granEvents pass r) this).trans (ih fun y hy => h y (List.mem_cons_of_mem _ hy))

/-- The granules of a read lie where memory is, on no failed stack, and are clean. -/
def State.sound (s : State) (a n : Nat) : Prop :=
  ∀ z ∈ s.granReads a n, z.2 = .clean ∧ (s.place (8 * z.1)).isSome = true ∧ s.deadGran z.1 = false

/-- What a sound read notes: the traffic of a stack, and nothing else. -/
theorem State.noteRead_sound {s : State} {a n : Nat} (die unit : Nat) (h : s.sound a n) :
    ∃ w, s.noteRead die unit a n none (s.granReads a n) = { s with wrap := w } := by
  unfold State.noteRead
  have h1 : (s.granReads a n).find? (fun z => (s.place (8 * z.1)).isNone) = none := by
    rw [List.find?_eq_none]
    intro z hz
    have := (h z hz).2.1
    rw [Option.isSome_iff_exists] at this
    obtain ⟨p, hp⟩ := this
    simp [hp]
  simp only [h1]
  rw [granEvents_clean s none _ fun z hz => (h z (List.mem_filter.mp hz).1).1]
  split
  · exact ⟨_, State.countBytes_eq s _ _ _⟩
  · exact ⟨_, rfl⟩

/-- A sound read of bytes that no stack holds changes nothing. -/
theorem State.noteRead_below {s : State} {a n : Nat} (die unit : Nat) (h : s.sound a n) (hp : ∀ l, s.place a ≠ some (.stack l)) :
    s.noteRead die unit a n none (s.granReads a n) = s := by
  unfold State.noteRead
  have h1 : (s.granReads a n).find? (fun z => (s.place (8 * z.1)).isNone) = none := by
    rw [List.find?_eq_none]
    intro z hz
    have := (h z hz).2.1
    rw [Option.isSome_iff_exists] at this
    obtain ⟨p, hp⟩ := this
    simp [hp]
  simp only [h1]
  rw [granEvents_clean s none _ fun z hz => (h z (List.mem_filter.mp hz).1).1]
  split
  · rename_i p e
    cases p with
    | stack l => exact absurd e (hp l)
    | _ => rfl
  · rfl

/-- A frame whose read is sound, which the Lodge caches no copy of, and whose CRC holds verifies; the state is that which the read
notes. -/
theorem reads_noted {s : State} {a : Nat} {f : List Byte} (st : Nat) (hs : s.sound a frameBytes)
    (hr : (s.stores.mem.read a frameBytes).2 = f) (hc : crcOk f = true) (hw : inWindow a = false) (hl : s.lodgeCaches a = false) :
    Reads s st a f (s.noteRead (s.dieOf st) (s.unitOf st) a frameBytes none (s.granReads a frameBytes)) := by
  have hb : ∀ g, s.granBad (s.granReads a frameBytes) g = false := by
    intro g
    unfold State.granBad
    rw [List.any_eq_false]
    intro z hz
    rw [(hs z hz).1, (hs z hz).2.2]
    simp [ZRead.bad]
  have hn : ∀ (t : State) (p : Place), t.countNarrow p a frameBytes 1 = t := by
    intro t p
    unfold State.countNarrow narrow frameBytes
    simp
  unfold Reads State.readFrame State.readMem State.readHere State.readStore State.frameOf
  have hf : ∀ l : List Nat, l.filter (fun _ => false) = [] := fun l => by simp
  simp only [hl, hr, hw, hb, hn, hf, hc, Bool.false_eq_true, if_false]
  rw [if_pos ⟨rfl, by decide, trivial⟩]
  split <;> rfl

/-- A frame of the Lodge or below whose read is sound and whose CRC holds verifies, and the read records nothing. -/
theorem reads_clean {s : State} {a : Nat} {f : List Byte} (st : Nat) (hs : s.sound a frameBytes)
    (hr : (s.stores.mem.read a frameBytes).2 = f) (hc : crcOk f = true) (hw : inWindow a = false)
    (hp : ∀ l, s.place a ≠ some (.stack l)) : Reads s st a f s := by
  have hl : s.lodgeCaches a = false := by
    unfold State.lodgeCaches
    split
    · rename_i l e; exact absurd e (hp l)
    · simp
  have := reads_noted st hs hr hc hw hl
  rw [State.noteRead_below _ _ hs hp] at this
  exact this

/-- Where the Lodge caches none of it, the read of a frame changes nothing but a count of stack traffic. -/
theorem reads_counted {s : State} {a : Nat} {f : List Byte} (st : Nat) (hs : s.sound a frameBytes)
    (hr : (s.stores.mem.read a frameBytes).2 = f) (hc : crcOk f = true) (hw : inWindow a = false) (hl : s.lodgeCaches a = false) :
    ∃ w, Reads s st a f { s with wrap := w } := by
  obtain ⟨w, hn⟩ := State.noteRead_sound (s.dieOf st) (s.unitOf st) hs
  have h := reads_noted st hs hr hc hw hl
  rw [hn] at h
  exact ⟨w, h⟩

/-- A read of whole granules, none of a scratchpad, that memory finds clean is sound where every byte has a live place. -/
theorem State.sound_of {s : State} {a n : Nat} {b : List Byte} (hr : s.stores.mem.read a n = (List.replicate (n / 8) .clean, b))
    (ha : a % 8 = 0) (hn : n % 8 = 0) (hs : ∀ c o, s.place a ≠ some (.scratch c o))
    (hp : ∀ g, a / 8 ≤ g → g < a / 8 + n / 8 → (s.place (8 * g)).isSome = true ∧ s.deadGran g = false) : s.sound a n := by
  have hg : s.readSpan a n = (a / 8, n / 8) := by
    unfold State.readSpan
    split
    · rename_i c o e; exact absurd e (hs c o)
    · exact granSpan_aligned ha hn
  have hz : (s.stores.mem.readGranules (a / 8) (n / 8)).1 = List.replicate (n / 8) .clean := by
    have := congrArg Prod.fst hr
    unfold Memory.read at this
    simpa only [granSpan_aligned ha hn] using this
  intro z hm
  unfold State.granReads at hm
  rw [hg] at hm
  simp only [hz] at hm
  obtain ⟨i, hi, rfl⟩ := List.mem_map.mp hm
  have hi := List.mem_range.mp hi
  refine ⟨?_, hp _ (by omega) (by omega)⟩
  rw [List.getD_eq_getElem?_getD, List.getElem?_replicate]
  split <;> rfl

/-- What is read of whole granules depends on their cells alone. -/
theorem Memory.read_congr {m m' : Memory} (w : m.wf = true) (w' : m'.wf = true) {a n : Nat} (ha : a % 8 = 0) (hn : n % 8 = 0)
    (hd : ∀ x, a ≤ x → x < a + n → lookD m'.data x 0 = lookD m.data x 0)
    (hk : ∀ x, a / 8 ≤ x → x < a / 8 + n / 8 → lookD m'.check x 0 = lookD m.check x 0) : m'.read a n = m.read a n := by
  have w := (Memory.wf_iff _).mp w
  have w' := (Memory.wf_iff _).mp w'
  unfold Memory.read
  simp only [granSpan_aligned ha hn]
  unfold Memory.readGranules
  rw [cellsAt_map w.1, cellsAt_map w.2, cellsAt_map w'.1, cellsAt_map w'.2]
  have e1 : ((List.range (8 * (n / 8))).map fun i => lookD m'.data (8 * (a / 8) + i) 0) =
      (List.range (8 * (n / 8))).map fun i => lookD m.data (8 * (a / 8) + i) 0 := by
    apply List.map_congr_left
    intro i hi
    have := List.mem_range.mp hi
    exact hd _ (by omega) (by omega)
  have e2 : ((List.range (n / 8)).map fun i => lookD m'.check (a / 8 + i) 0) =
      (List.range (n / 8)).map fun i => lookD m.check (a / 8 + i) 0 := by
    apply List.map_congr_left
    intro i hi
    have := List.mem_range.mp hi
    exact hk _ (by omega) (by omega)
  rw [e1, e2]

/-- A write of whole granules leaves every other granule as it reads. -/
theorem Memory.read_other {m : Memory} (w : m.wf = true) {a n b : Nat} {f : List Byte} (ha : a % 8 = 0) (hn : n % 8 = 0)
    (hb : b % 8 = 0) (hf : f.length % 8 = 0) (hz : f ≠ []) (h : a + n ≤ b ∨ b + f.length ≤ a) :
    (m.write b f []).1.read a n = m.read a n := by
  have w' := Memory.write_wf w b f []
  rw [Memory.write_aligned m hb hf hz] at w' ⊢
  refine Memory.read_congr w w' ha hn (fun x h1 h2 => ?_) fun x h1 h2 => ?_
  · exact lookD_cellsSet_out _ _ _ _ (by omega)
  · exact lookD_cellsSet_out _ _ _ _ (by rw [checksOf_length]; omega)

/-- Frames laid one after another from an address on. -/
def laid (m : Memory) (a : Nat) : List (List Byte) → Memory
  | [] => m
  | f :: r => laid (m.write a f []).1 (a + frameBytes) r

theorem crcOk_length {f : List Byte} (h : crcOk f = true) : f.length = frameBytes := by
  unfold crcOk at h
  simp only [Bool.and_eq_true, decide_eq_true_eq] at h
  exact h.1

theorem frame_nonempty {f : List Byte} (h : crcOk f = true) : f ≠ [] := by
  intro e; have := crcOk_length h; rw [e] at this; cases this

theorem laid_wf {m : Memory} (w : m.wf = true) (a : Nat) (fs : List (List Byte)) : (laid m a fs).wf = true := by
  induction fs generalizing m a with
  | nil => exact w
  | cons f r ih => exact ih (Memory.write_wf w a f []) _

theorem laid_below {m : Memory} (w : m.wf = true) {a c : Nat} {fs : List (List Byte)} (h : ∀ f ∈ fs, crcOk f = true)
    (ha : a % 8 = 0) (hc : c % 8 = 0) (hl : c + frameBytes ≤ a) : (laid m a fs).read c frameBytes = m.read c frameBytes := by
  induction fs generalizing m a with
  | nil => rfl
  | cons f r ih =>
    have hf := h f (List.mem_cons_self ..)
    rw [laid, ih (Memory.write_wf w a f []) (fun g hg => h g (List.mem_cons_of_mem _ hg)) (by unfold frameBytes; omega) (by omega),
      Memory.read_other w hc rfl ha (by rw [crcOk_length hf]; rfl) (frame_nonempty hf) (.inl hl)]

theorem laid_read {m : Memory} (w : m.wf = true) {a : Nat} {fs : List (List Byte)} (h : ∀ f ∈ fs, crcOk f = true)
    (ha : a % 8 = 0) {k : Nat} {f : List Byte} (e : fs[k]? = some f) :
    (laid m a fs).read (a + frameBytes * k) frameBytes = (List.replicate (frameBytes / 8) .clean, f) := by
  induction fs generalizing m a k with
  | nil => cases e
  | cons g r ih =>
    have hg := h g (List.mem_cons_self ..)
    have hr : ∀ f ∈ r, crcOk f = true := fun f hf => h f (List.mem_cons_of_mem _ hf)
    have ha' : (a + frameBytes) % 8 = 0 := by unfold frameBytes; omega
    cases k with
    | zero =>
      cases e
      have hl := crcOk_length hg
      rw [laid, Nat.mul_zero, Nat.add_zero, laid_below (Memory.write_wf w a _ []) hr ha' ha (Nat.le_refl _), ← hl]
      exact Memory.read_write m ha (by rw [hl]; rfl) (frame_nonempty hg)
    | succ k =>
      have : a + frameBytes * (k + 1) = a + frameBytes + frameBytes * k := by rw [Nat.mul_succ]; omega
      rw [laid, this]
      exact ih (Memory.write_wf w a g []) hr ha' e

/-- Frames that verify one by one are read one after another. -/
theorem readFrames_clean {s : State} (st : Nat) (l : List (Nat × List Byte)) (h : ∀ x ∈ l, Reads s st x.1 x.2 s) :
    s.readFrames st (l.map (·.1)) .clean = (s, some (l.map (·.2))) := by
  induction l with
  | nil => rfl
  | cons x r ih =>
    have hx : s.readFrame st x.1 .clean = { state := s, frame := some x.2 } := h x (List.mem_cons_self ..)
    rw [List.map_cons, State.readFrames]
    simp only [hx, ReadPath.shift, ih fun y hy => h y (List.mem_cons_of_mem _ hy)]
    rfl

end Sys2Proof.Machine
end

