-- ==== Sys2Proof/Tests/States.lean ====
section
/-!
SUPPORT. Small states and frames that the tests and the witnesses use: one station of each kind, a frame of one row, and a
memory that holds it.
-/
namespace Sys2Proof.Tests

-- Proofs are checked one after another: many at once take more threads than the check allows.
set_option Elab.async false

open Machine

/-- Reset, but in a given device state. -/
def inMode (m : DevState) : State := { State.reset with dev := { mode := m } }

/-- A tile frame with a header, its elements zero. -/
def frame (h : Hdr) : List Byte := signFrame (hdrBytes h ++ List.replicate 4228 0)

theorem frame_ok (h : Hdr) : crcOk (frame h) = true := by
  refine crcOk_signFrame ?_
  simp only [hdrBytes, List.length_append, natLe_length, List.length_replicate, frameBytes]

/-- One row of 32 elements in a format. -/
def tile (fmt : Nat) : List Byte := frame { fmt := fmt, rows := 1, cols := 32 }

/-- Where stream k of the tests lies: in the buffer of cluster 0, 64 KiB apart. -/
def streamBase (k : Nat) : Nat := bufferBase + 65536 * k

/-- The stations of the tests: station k has the k-th kind, input port 0 on stream 0 and output port 0 on stream 1. -/
def kindsOf : List Kind := [.matrix, .vector, .glide, .update, .copy, .collective, .reader, .writer, .window]

def station (k : Nat) (kind : Kind) (params : KindParams) : StationDesc :=
  { id := k, kind := kind, nSem := 2, inPorts := [0], outPorts := [1], signals := [some { station := 0, sem := 0 }], params := params }

def testCourse (params : KindParams) : Course :=
  { stations := (List.range 9).map fun k => station k (kindsOf.getD k .matrix) params
    streams := [{ id := 0, level := 0, depth := 2, producer := 9 }, { id := 1, level := 0, depth := 2, producer := 0 }]
    objects := [{ id := 0, level := 0, frames := 1 }, { id := 1, level := 0, frames := 65 }] }

def testPlacement : Placement :=
  { stations := (List.range 4).map fun k => (k, { cell := some k })
    streams := [(0, { base := streamBase 0 }), (1, { base := streamBase 1 })]
    objects := [(0, { base := streamBase 0 }), (1, { base := streamBase 2 })] }

def testJob (params : KindParams) : Job :=
  { course := testCourse params, placement := testPlacement, phase := .started, replyTo := .i3c }

/-- The header of `tile`. -/
def row32 (fmt : Nat) : Hdr := { fmt := fmt, rows := 1, cols := 32 }

/-- A member in RUN whose Course has started, with semaphore 0 of each station at 1; a frame with a header lies at the start of
stream 0. -/
def member (h : Hdr) (params : KindParams) : State :=
  { State.reset with
    dev := { mode := .run, bound := true }
    job := some (testJob params)
    cells := { stations := (List.range 9).map fun k => (k, { sems := [1, 0] }) }
    stores := { mem := (({} : Memory).write (streamBase 0) (frame h) []).1 } }

/-- A cluster buffer address. -/
theorem place_buffer {s : State} (h : s.serviceList = []) {a : Nat} (h1 : bufferBase ≤ a) (h2 : a < bufferBase + 2 ^ 30) :
    ∃ c o, s.place a = some (.buffer c o) := by
  unfold State.place
  rw [h]
  simp only [List.length_nil, Nat.not_lt_zero, if_false]
  rw [if_neg (by unfold lodgeBase bufferBase at *; omega), if_pos ⟨h1, h2⟩]
  exact ⟨_, _, rfl⟩

/-- An address of the stacks in service. -/
theorem place_stack {s : State} {a n : Nat} (h : s.serviceList.length = n) (h1 : a / stackUnit < n) : (s.place a).isSome = true := by
  unfold State.place
  rw [if_pos (by omega)]
  rfl

theorem mapped_buffer {s : State} (h : s.serviceList = []) {a : Nat} (h1 : bufferBase ≤ a) (h2 : a + frameBytes ≤ bufferBase + 2 ^ 30) :
    s.mapped a frameBytes := by
  intro x hx hy
  obtain ⟨c, o, e⟩ := place_buffer h (a := x) (by omega) (by omega)
  rw [e]
  rfl

/-- A frame that a cluster buffer holds clean reads as it is, and the read changes nothing. -/
theorem reads_buffer {s : State} {a : Nat} {f : List Byte} (st : Nat) (hs : s.serviceList = []) (hc : crcOk f = true) (ha : a % 8 = 0)
    (hr : s.stores.mem.read a frameBytes = (List.replicate (frameBytes / 8) .clean, f)) (h1 : bufferBase ≤ a)
    (h2 : a + frameBytes ≤ bufferBase + 2 ^ 30) : Reads s st a f s := by
  have hp := place_buffer hs h1 (by unfold frameBytes at h2; omega)
  refine reads_clean st (State.sound_of hr ha (by decide) ?_ ?_) (by rw [hr]) hc ?_ ?_
  · obtain ⟨c, o, e⟩ := hp
    intro c' o' e'
    rw [e] at e'
    cases e'
  · intro g h3 h4
    obtain ⟨c, o, e⟩ := place_buffer hs (a := 8 * g) (by unfold bufferBase at *; omega) (by unfold frameBytes at *; omega)
    unfold State.deadGran
    rw [e]
    exact ⟨rfl, rfl⟩
  · unfold inWindow
    have : ¬windowBase ≤ a := by unfold windowBase bufferBase frameBytes at *; omega
    simp [this]
  · obtain ⟨c, o, e⟩ := hp
    intro l e'
    rw [e] at e'
    cases e'

/-- The frame of stream 0 reads as it was written, whatever else the state holds. -/
theorem reads_frame {s : State} {h : Hdr} (st : Nat) (hs : s.serviceList = [])
    (e : s.stores.mem = (({} : Memory).write (streamBase 0) (frame h) []).1) : Reads s st (streamBase 0) (frame h) s := by
  have hl := crcOk_length (frame_ok h)
  refine reads_buffer st hs (frame_ok h) (by decide) ?_ (by decide) (by decide)
  rw [e, ← hl]
  exact Memory.read_write _ (by decide) (by rw [hl]; rfl) (frame_nonempty (frame_ok h))

theorem member_memory_wf (h : Hdr) (params : KindParams) : (member h params).stores.mem.wf = true := Memory.write_wf rfl _ _ _

/-- A message on I3C, and one from the fabric. -/
def msg (body : List Byte) : Msg := { route := .i3c, mseq := 1, jobId := 0, body := body }
def fabricMsg (body : List Byte) : Msg := { route := .fabric 5 false, mseq := 1, jobId := 0, body := body }

/-- A packet with an operation code. -/
def pkt (opc : Byte) : Packet := { opc := opc, dst := 0, src := 1, sliceId := 1 }

/-! ### A small Course: a vector station, a Glide station and a window -/

def smallCourse : Course :=
  { stations :=
      [{ station 0 .vector { slots := 2 } with signals := [some { station := 2, sem := 1 }] },
        { station 1 .glide { enobFloor := 0, rows := 4, cols := 4 } with inPorts := [0, 0, 0], nSem := 3 },
        { station 2 .window { windowId := 5 } with inPorts := [], outPorts := [0], semInit := [(1, 3)] }]
    streams := [{ id := 0, level := 0, depth := 2, producer := 2, consumers := [0, 1] }, { id := 1, level := 0, depth := 2, producer := 0, consumers := [0] }]
    objects := [{ id := 0, level := 3, frames := 1 }] }

/-- An object that no level can hold. -/
def hugeCourse : Course := { smallCourse with objects := [{ id := 0, level := 3, frames := 2 ^ 40 }] }

def smallJob (c : Course) : Job := { course := c, jobId := 9, replyTo := .i3c, seed := 4, startStep := 11 }

def twoDevices : SliceTable :=
  { sliceId := 1, gen := 1, origin := 0, shape := (2, 1, 1), closed := (false, false, false), spread := false, farmem := false, gondolas := [] }

/-- A device with twelve stacks and engine 0 in service, and an admitted Course. -/
def admitted (m : DevState) (c : Course) : State :=
  let s := { inMode m with
    stores := { State.reset.stores with stackSet := (List.range 12).map fun k => (k, { state := 2 }) }
    glide := { State.reset.glide with engines := [(0, { state := 1 })] } }.bindClusters
  { s with job := some (smallJob c), fabric := { s.fabric with table := some twoDevices } }

/-- The job bound: station 0 on cell 5, station 1 on engine 0 with host cell 6. -/
def boundJob (ph : JobPhase) : Job :=
  { smallJob smallCourse with phase := ph, placement := { stations := [(0, { cell := some 5 }), (1, { place := 1, unit := 0, cell := some 6 })] } }

def bound (ph : JobPhase) : State :=
  let s := admitted .run smallCourse
  { s with dev := { mode := .run, bound := true }, job := some (boundJob ph), cells := { s.cells with stations := [(0, {}), (1, {})] } }

def noSpare (s : State) : State :=
  { s with cells := { s.cells with clusters := s.cells.clusters.map fun k => (k.1, { k.2 with spare := none }) } }

def atPt (n : Nat) (s : State) : State := { s with pt := BitVec.ofNat 64 n }

end Sys2Proof.Tests
end

