-- ==== Sys2Proof/WellFormed.lean ====
section
/-!
DEFINITION. Which commands are well formed: every operand lies in the range that the manual gives the unit, the field or
the frame that it names. The meanings are total and do not rest on these checks.
-/
namespace Sys2Proof

/-! ### The units of the device (Table - Dies of the ZH40-1536, R16, R387) -/

def isDie (d : Nat) : Bool := decide (d < 0x28)
def isStack (m : Nat) : Bool := decide (m < 12)
def isEngine (n : Nat) : Bool := decide (n < 4)
def isPort (n : Nat) : Bool := decide (n < 7)
def isCell (l : Nat) : Bool := decide (l < 2048)
def isPhysicalCell (p : Nat) : Bool := decide (p < 2176)
def isCluster (c : Nat) : Bool := decide (c < 128)
def isSensor (i : Nat) : Bool := decide (i < 488)

/-- A pool's number is its die's index. -/
def isPool (i : Nat) : Bool := isDie i

/-- N_STATIONS is at most 4,096 (R41). -/
def isStation (i : Nat) : Bool := decide (i < 4096)

/-- A torus port has 9 fibres, the service port 5 (R250), each of 18 channels. -/
def isFibre (port f : Nat) : Bool := isPort port && decide (f < if port = 6 then 5 else 9)
def isChannel (port f w : Nat) : Bool := isFibre port f && decide (w < 18)

/-- A torus port has 128 logical lanes, the service port 64 (R260). -/
def isLane (port lane : Nat) : Bool := isPort port && decide (lane < if port = 6 then 64 else 128)

/-! ### Fields of a command word (R72, R73) -/

def isPortIndex (i : Nat) : Bool := decide (i < 8)
def isSemaphore (i : Nat) : Bool := decide (i < 64)
def isSignalSlot (i : Nat) : Bool := decide (i < 12)
def isAcc (i : Nat) : Bool := decide (i < 8)
def isByte (n : Nat) : Bool := decide (n < 256)
def isCount (n : Nat) : Bool := decide (1 ≤ n) && decide (n < 65536)
def isObject (n : Nat) : Bool := decide (n < 65536)

/-- The fields W_SEM and S_SLOT. -/
def Common.wf (c : Common) : Bool := isSemaphore c.wSem && isSignalSlot c.sSlot

/-! ### Packets, frames and requests -/

/-- A payload is at most 4,096 bytes, and a granule marked lies in it (R284, R331). -/
def Packet.wf (p : Packet) : Bool :=
  decide (p.payload.length ≤ 4096) && (p.badGranules.all fun g => decide (8 * g < p.payload.length)) &&
  p.fixedBits.all fun g => decide (8 * g.1 < p.payload.length) && decide (g.2 < 72)

/-- A request lies in the 48-bit local address space, a write brings its bytes (R202, R211). -/
def MemReq.wf (r : MemReq) : Bool :=
  decide (r.addr + r.len ≤ 2 ^ 48) && match r.kind with
    | .write => decide (r.data.length = r.len)
    | _ => true

/-- A body is shorter than TOTAL can say (R441). -/
def Msg.wf (m : Msg) : Bool := decide (m.body.length < 2 ^ 32)

/-- A check names a pass of one of the four arrays of its cell (R83, R100). -/
def ArrayFail.wf (f : ArrayFail) : Bool := decide (f.array < 4) && isByte f.column

def checkWf (c : List ArrayFail) : Bool := c.all ArrayFail.wf

/-- A pseudo-channel has 36 data lanes (R228). -/
def LaneMargin.wf (r : LaneMargin) : Bool := decide (r.pc < 64) && decide (r.lane < 36)

def MarginResult.wf (r : MarginResult) : Bool :=
  isStack r.stack && decide (r.worstPc < 64) && r.lanes.all LaneMargin.wf &&
    r.repaired.all fun x => decide (x.1 < 64) && decide (x.2 < 36)

def SelfTestFail.wf (f : SelfTestFail) : Bool := isDie f.die && isByte f.test

/-- The well-formed commands. -/
def Instr.wf (i : Instr) : Bool :=
  match i with
  | .resetAssert => true
  | .standbyPowerLost => true
  | .standbyEntry _ => true
  | .pwrEnAssert => true
  | .pgoodAssert => true
  | .pgoodTimeout => true
  | .pgoodLost => true
  | .drainReqPinAssert => true
  | .drainReqPinDeassert => true
  | .pwrLimitAssert => true
  | .pwrLimitRelease => true
  | .rootPllLoss _ => true
  | .clockLoss die => isDie die
  | .lockstepMismatch _ => true
  | .tripComparator die comp => isDie die && decide (comp < 2)
  | .coldStartStepEnd r => r.selfTest.all SelfTestFail.wf && r.stackSet.all MarginResult.wf && r.glide.all fun g => isEngine g.engine
  | .coldStartStepLimit => true
  | .drained => true
  | .drainLimit => true
  | .nop st cf => isStation st && cf.wf
  | .semWait st cf sem count => isStation st && cf.wf && isSemaphore sem && isCount count
  | .semSignal st cf slot count => isStation st && cf.wf && isSignalSlot slot && isCount count
  | .loop st cf count => isStation st && cf.wf && decide (1 ≤ count) && decide (count < 2 ^ 32)
  | .endLoop st cf => isStation st && cf.wf
  | .halt st cf => isStation st && cf.wf
  | .step st cf => isStation st && cf.wf
  | .semRemote st cf _ target sem count => isStation st && cf.wf && isStation target && isSemaphore sem && isCount count
  | .mmClear st cf acc => isStation st && cf.wf && isAcc acc
  | .mmRun st cf a b acc _ check => isStation st && cf.wf && isPortIndex a && isPortIndex b && isAcc acc && checkWf check
  | .mmRunCommit st => isStation st
  | .arrayRepeat st check => isStation st && checkWf check
  | .mmDrain st cf o acc fmt _ _ => isStation st && cf.wf && isPortIndex o && isAcc acc && isByte fmt
  | .vecOp st cf _ a b o fmt _ _ _ => isStation st && cf.wf && isPortIndex a && isPortIndex b && isPortIndex o && isByte fmt
  | .glLoad st cf w map _ => isStation st && cf.wf && isObject w && isObject map
  | .glRun st cf i o fmt _ _ _ check => isStation st && cf.wf && isPortIndex i && isPortIndex o && isByte fmt && checkWf check
  | .glRunComplete run => isStation run.unit && checkWf run.checks
  | .updStep st cf row set => isStation st && cf.wf && decide (row < 1048576) && decide (set < 65536)
  | .updFrame m st frame _ => isStack m && isStation st && decide (frame < 2 ^ 32)
  | .updStepComplete st => isStation st
  | .cpTiles st cf i o count _ => isStation st && cf.wf && isPortIndex i && isPortIndex o && isCount count
  | .operationList st cf o count _ => isStation st && cf.wf && isPortIndex o && isCount count
  | .cpRemote st cf i _ window slot count _ =>
    isStation st && cf.wf && isPortIndex i && decide (window < 65536) && decide (slot < 2 ^ 22) && isCount count
  | .colRs st cf i o count _ => isStation st && cf.wf && isPortIndex i && isPortIndex o && isCount count
  | .colAg st cf i o count _ => isStation st && cf.wf && isPortIndex i && isPortIndex o && isCount count
  | .colDigest st cf object => isStation st && cf.wf && isObject object
  | .collectiveComplete st => isStation st
  | .rdTiles st cf object o first count _ =>
    isStation st && cf.wf && isObject object && isPortIndex o && decide (first < 2 ^ 32) && isCount count
  | .wrTiles st cf object i first count _ =>
    isStation st && cf.wf && isObject object && isPortIndex i && decide (first < 2 ^ 32) && isCount count
  | .winRelease st cf first count => isStation st && cf.wf && decide (first < 2 ^ 22) && isCount count
  | .signalArrival _ _ => true
  | .watchdog st => isStation st
  | .tileCrcReread st _ => isStation st
  | .ticketGrant pool ballast => isPool pool && checkWf ballast
  | .rampDownStart cell ballast => isCell cell && checkWf ballast
  | .rampDownComplete cell => isCell cell
  | .ticketRecall pool => isPool pool
  | .stackBurstRelease m => isStack m
  | .manifest m => m.wf
  | .placementJobStart => true
  | .placementConfirmation => true
  | .placementGlideLeave n => isEngine n
  | .placementGlideReturn n => isEngine n
  | .rotationDue c => isCluster c
  | .rotationBoundary c => isCluster c
  | .rotationTimeout c => isCluster c
  | .rotationCopyComplete c _ => isCluster c
  | .cellTestComplete p fails _ => isPhysicalCell p && fails.all SelfTestFail.wf
  | .inPlaceTestDue c => isCluster c
  | .fullTest => true
  | .confirmationComplete _ check => check.wf
  | .bucketLeak => true
  | .watchRelease => true
  | .heartbeat => true
  | .telemetry => true
  | .fastWindow n st _ => isEngine n && isStation st
  | .driftWindow n st => isEngine n && isStation st
  | .shadowRecompute run => isEngine run.unit && checkWf run.checks
  | .glideRecalTrigger n code => isEngine n && isByte code
  | .recalibrationComplete cal => isEngine cal.engine
  | .retrackComplete n => isEngine n
  | .recalRetry n => isEngine n
  | .glideMapSwitch n => isEngine n
  | .tuningUpdate n => isEngine n
  | .stackRequest r => r.wf
  | .correctionWriteback m _ => isStack m
  | .scratchpadWriteback _ => true
  | .lodgeRequest r => r.wf
  | .lodgeFillReturn _ => true
  | .scratchpadScrub _ _ _ => true
  | .stackScrub m _ => isStack m
  | .rowTest m pc bank _ bit _ => isStack m && decide (pc < 64) && decide (bank < 16) && bit.all fun b => decide (b < 128)
  | .strobeTracking m pc _ _ limit => isStack m && decide (pc < 64) && limit.all MarginResult.wf
  | .marginGo rs => rs.all MarginResult.wf
  | .stackFailed m cause => isStack m && isByte cause
  | .dmaTransactionComplete st => isStation st
  | .lightDetected n fibres => fibres.all (isFibre n)
  | .trainingWord n f w _ _ => isChannel n f w
  | .marginTest n rs dark => rs.all (fun r => isChannel n r.fibre r.chan) && dark.all (isFibre n)
  | .trainingLimit n => isPort n
  | .linkFrame n lane frame => isLane n lane && decide (frame.length = 264)
  | .linkRetryRequest n lane a => isLane n lane && decide (a < 4096)
  | .replayTimeout n lane => isLane n lane
  | .correctedSymbolWindow n f w => isChannel n f w
  | .lightLost n loss => match loss with
    | .channel f w => isChannel n f w
    | .allFibres => isPort n
  | .bridgeLineCheckFail n bundle lane => isPort n && decide (bundle < if n = 6 then 2 else 3) && decide (lane < 68)
  | .combFailure n _ => isPort n
  | .fastRetrainComplete n r => isPort n && r.badRings.all fun x => isChannel n x.1 x.2
  | .loopbackTest n _ => isPort n
  | .hold n _ => isPort n
  | .retrainGo n => isPort n
  | .packetArrival n p => isPort n && p.wf
  | .write p => p.wf
  | .store p => p.wf
  | .load p => p.wf
  | .atom p => p.wf
  | .atomF p => p.wf
  | .signal p => p.wf
  | .refetch p => p.wf
  | .far p => p.wf
  | .relay p _ => p.wf
  | .relayTally p => p.wf
  | .ack p => p.wf
  | .data p => p.wf
  | .result p => p.wf
  | .farRsp p => p.wf
  | .relayAck p => p.wf
  | .mgtPacket n p => isPort n && p.wf
  | .ordPacketRelease _ => true
  | .combineEntryClose n e => isPort n && decide (e < 64)
  | .sensorReading i _ => isSensor i
  | .stepConfirmation i ns => isSensor i && decide (ns.length ≤ 3)
  | .stepEnd => true
  | .regRead m => m.wf
  | .regWrite m => m.wf
  | .sliceTable m => m.wf
  | .start m => m.wf
  | .drain m => m.wf
  | .msgDrainRelease m => m.wf
  | .fence m => m.wf
  | .suspect m => m.wf
  | .pack m => m.wf
  | .image m => m.wf
  | .clearBench m => m.wf
  | .clearSparemap m => m.wf
  | .raiseMinSvn m => m.wf
  | .debugUnlock m => m.wf
  | .messageResponse _ _ => true
  | .messageResendTimeout _ _ => true
  | .partialMessageTimeout _ => true
  | .entdaa _ => true
  | .rstdaa => true
  | .enec => true
  | .disec => true
  | .getpid => true
  | .getbcr => true
  | .getdcr => true
  | .getstatus => true
  | .i3cRegisterWrite f => decide (0 < f.length)
  | .i3cSetReadPointer f => decide (0 < f.length)
  | .i3cPrivateRead => true
  | .i3cMailboxAppend f => decide (0 < f.length)
  | .i3cMailboxDiscard f => decide (0 < f.length)
  | .i3cSelectOutbound f => decide (0 < f.length)
  | .drainGo => true
  | .drainRelease => true
  | .powerdown => true
  | .fenceGo n => isPort n
  | .tstGo t => decide (t < 16)
  | .onDemandTestEnd fails => fails.all SelfTestFail.wf
  | .jrnlSelWrite _ => true
  | .bucketCtlWrite _ => true
  | .poolBudgetWrite i _ => isPool i
  | .limitWWrite _ => true
  | .satCounterClear off _ => decide (off % 8 = 0) && decide (off < 2 ^ 24)
  | .registerWrite off bytes _ => decide (bytes = 4 ∨ bytes = 8) && decide (off % bytes = 0) && decide (off < 2 ^ 24)
  | .capacityMapWrite => true
  | .journalFlush _ => true
  | .referenceClockLoss => true
  | .poweredTimeTick => true
  | .codeword n f w symbols => isChannel n f w && decide (symbols.length = 136) && symbols.all fun x => decide (x < 1024)
  | .pseudoChannelCommand m pc refresh => isStack m && decide (pc < 64) && refresh.all fun b => decide (b < 16)
  | .creditReturn n vc _ => isPort n && decide (vc < 24)

end Sys2Proof
end

