-- ==== Sys2Proof/Tests/Slice0.lean ====
section
/-!
SUPPORT. The tests of the model: ill-formed commands that `Instr.wf` refuses, one for each check, with well-formed ones beside
them; and the worked examples of the spec, whose expected results are the spec's own numbers.
-/
namespace Sys2Proof.Tests

-- Proofs are checked one after another: many at once take more threads than the check allows.
set_option Elab.async false

open Machine

/-! ### Well-formed and ill-formed commands -/

/-- A packet whose payload is longer than 4,096 bytes, and one that marks a granule that it lacks. -/
def longPkt : Packet := { pkt 0x01 with payload := List.replicate 4097 0 }
def markedPkt : Packet := { pkt 0x01 with badGranules := [0] }

/-- A request that runs out of the address space, and a write without its bytes. -/
def farReq : MemReq := { id := 0, kind := .read, addr := 2 ^ 48 - 32, len := 64 }
def emptyReq : MemReq := { id := 0, kind := .write, addr := 0, len := 64 }

def badFail : ArrayFail := { array := 4, row := 0, kBlock := 0, pass := 0 }
def badColumn : ArrayFail := { array := 0, row := 0, kBlock := 0, pass := 0, column := 256 }

/-- A self-test failure outside the 40 dies, and one with a test number beyond a byte. -/
def badDie : SelfTestFail := { test := 1, die := 0x28, unit := 0, part := .core }
def badTest : SelfTestFail := { test := 256, die := 0, unit := 0, part := .core }

theorem test_wf_refuses_units : [Instr.clockLoss 0x28, .stackBurstRelease 12, .shadowRecompute { unit := 4 }, .trainingLimit 7, .rampDownStart 2048 [],
    .cellTestComplete 2176 [] [], .rotationDue 128, .sensorReading 488 0, .ticketRecall 0x28, .watchdog 4096].all (!·.wf) = true := by decide

theorem test_wf_refuses_link_units : [Instr.lightDetected 6 [5], .lightDetected 0 [9], .correctedSymbolWindow 0 0 18, .replayTimeout 0 128,
    .replayTimeout 6 64, .bridgeLineCheckFail 6 2 0, .bridgeLineCheckFail 0 3 0, .bridgeLineCheckFail 0 0 68,
    .lightLost 7 .allFibres, .lightLost 0 (.channel 9 0), .linkRetryRequest 0 0 4096, .combineEntryClose 0 64, .creditReturn 0 24 1].all
      (!·.wf) = true := by decide

theorem test_wf_refuses_fields : [Instr.nop 0 { wSem := 64 }, .nop 0 { sSlot := 12 }, .semWait 0 {} 64 1, .semWait 0 {} 0 0,
    .semWait 0 {} 0 65536, .semSignal 0 {} 12 1, .loop 0 {} 0, .loop 0 {} (2 ^ 32), .mmClear 0 {} 8,
    .mmRun 0 {} 8 0 0 .clean [], .mmRun 0 {} 0 0 0 .clean [badFail], .mmRun 0 {} 0 0 0 .clean [badColumn],
    .mmDrain 0 {} 0 0 256 .nearest false, .colDigest 0 {} 65536, .updStep 0 {} 1048576 0, .updStep 0 {} 0 65536].all
      (!·.wf) = true := by decide

theorem test_wf_refuses_windows : [Instr.updFrame 0 0 (2 ^ 32) .clean, .cpTiles 0 {} 0 8 1 .clean,
    .cpRemote 0 {} 0 ⟨false, 0⟩ 65536 0 1 .clean, .cpRemote 0 {} 0 ⟨false, 0⟩ 0 (2 ^ 22) 1 .clean,
    .rdTiles 0 {} 0 0 (2 ^ 32) 1 .clean, .wrTiles 0 {} 0 0 (2 ^ 32) 1 .clean, .winRelease 0 {} (2 ^ 22) 1,
    .semRemote 0 {} ⟨false, 0⟩ 4096 0 1].all (!·.wf) = true := by decide

theorem test_wf_refuses_observations : [Instr.tripComparator 0 2, .coldStartStepEnd { selfTest := [badDie] },
    .coldStartStepEnd { selfTest := [badTest] }, .coldStartStepEnd { stackSet := [{ stack := 12 }] },
    .marginGo [{ stack := 0, worstPc := 64 }], .marginGo [{ stack := 0, repaired := [(0, 36)] }], .coldStartStepEnd { glide := [⟨4, 0⟩] }, .rowTest 0 64 0 0 none 0, .rowTest 0 0 16 0 none 0,
    .rowTest 0 0 0 0 (some 128) 0, .stackFailed 0 256, .glideRecalTrigger 0 256, .stepConfirmation 0 [1, 2, 3, 4],
    .fastRetrainComplete 0 { badRings := [(9, 0)] }, .marginTest 0 [⟨0, 18, []⟩] [], .marginTest 0 [] [9], .pseudoChannelCommand 0 64 none, .pseudoChannelCommand 0 0 (some 16),
    .confirmationComplete .passes badFail, .onDemandTestEnd [badTest]].all (!·.wf) = true := by decide

theorem test_wf_refuses_frames : [Instr.linkFrame 0 0 [], .codeword 0 0 0 [], .codeword 0 0 0 (List.replicate 136 1024),
    .i3cRegisterWrite [], .i3cSetReadPointer [], .i3cMailboxAppend [], .i3cMailboxDiscard [], .i3cSelectOutbound []].all (!·.wf) = true := by decide +kernel

theorem test_wf_refuses_registers : [Instr.tstGo 16, .satCounterClear 4 0, .satCounterClear (2 ^ 24) 0, .registerWrite 0 2 0,
    .registerWrite 4 8 0, .registerWrite (2 ^ 24) 4 0, .poolBudgetWrite 0x28 0, .stackRequest farReq, .stackRequest emptyReq,
    .write markedPkt].all (!·.wf) = true := by decide

theorem test_wf_refuses_long : Instr.wf (.write longPkt) = false ∧ Instr.wf (.mgtPacket 0 longPkt) = false := by decide +kernel

theorem test_wf_refuses_long_message (b : List Byte) (h : 2 ^ 32 ≤ b.length) : Instr.wf (.regRead (msg b)) = false :=
  decide_eq_false (Nat.not_lt.mpr h)

theorem test_wf_accepts : [Instr.clockLoss 0x27, .stackBurstRelease 11, .shadowRecompute { unit := 3 }, .cellTestComplete 2175 [] [], .watchdog 4095,
    .lightDetected 6 [4], .correctedSymbolWindow 0 8 17, .replayTimeout 0 127, .replayTimeout 6 63, .semWait 0 {} 63 65535,
    .semSignal 0 {} 11 1, .loop 0 {} (2 ^ 32 - 1), .mmClear 0 {} 7, .winRelease 0 {} (2 ^ 22 - 1) 1, .rowTest 11 63 15 0 (some 127) 0,
    .tstGo 15, .registerWrite 4 4 0, .write (pkt 0x01), .codeword 0 0 0 (List.replicate 136 1023)].all (·.wf) = true := by decide +kernel

/-! ### The step over its queue -/

/-- An empty queue idles (log 1). -/
theorem test_step_idles : step State.reset = .next State.reset := rfl

/-- The front of the queue runs first, on the queue's rest: the clock's tick adds one to PT and leaves the second tick waiting. -/
theorem test_step_takes_front : ∃ t, step { State.reset with pending := [.poweredTimeTick, .poweredTimeTick] } = .next t ∧
    t.pt = 1 ∧ t.pending = [.poweredTimeTick] := ⟨_, rfl, by decide, rfl⟩

/-! ### Check values -/

/-- The bytes "123456789". -/
def nine : List Byte := [0x31, 0x32, 0x33, 0x34, 0x35, 0x36, 0x37, 0x38, 0x39]

/-- R56, R259 and R452. -/
theorem test_crc32c : crc32c nine = 0xE3069283 := by decide +kernel
theorem test_crc32 : crc32 nine = 0xCBF43926 := by decide +kernel
theorem test_crc8 : crc8 nine = 0xF4 := by decide +kernel

/-- The example of Z72: check bits, bit 1 lost, and bits 0 and 1 lost (07_memory.md). -/
theorem test_z72_check : zCheck 0x8000000000000003 = 0x8C := by decide +kernel
theorem test_z72_corrects : zDecode 0x8000000000000001 0x8C = (.corrected 1, 0x8000000000000003) := by decide +kernel
theorem test_z72_poisons : (zDecode 0x8000000000000000 0x8C).1.bad = true := by decide +kernel

/-! ### Numbers (the example of R140) -/

def blockA : List Machine.Num := [.fin (mkRat 1003125 10000) false, .fin (mkRat (-33125) 10000) false]

theorem test_e4m3_block : encBlock .e4m3 blockA [.nearest, .nearest] 0 = ([0x7D], [0x7D, 0xD5]) := by decide +kernel
theorem test_e4m3_stochastic : encBlock .e4m3 (blockA.take 1) [.stochastic 0x3C000000] 0 = ([0x7D], [0x7D]) ∧
    encBlock .e4m3 (blockA.take 1) [.stochastic 0xC0000000] 0 = ([0x7D], [0x7C]) := by decide +kernel
theorem test_zb8_block : encBlock .zb8 blockA [.nearest, .nearest] 0 = ([0xCB, 0xF8], [127, 0xFC]) := by decide +kernel
theorem test_e4m3_decode : Fmt.elem .e4m3 0x7D = ⟨13, 14, .none⟩ := by decide +kernel

/-- The momentum example's rounding to BF16 under RND 0b00: 0.4977 goes to 0.498046875, the encoding 0x3EFF. -/
theorem test_bf16_rounds : bf16.encode (.fin (mkRat 4977 10000) false) .nearest = 0x3EFF ∧
    bf16.decode 0x3EFF = .fin (mkRat 498046875 1000000000) false := by decide +kernel

/-! ### Places and routes -/

/-- The address example of R208 and R209. -/
theorem test_stack_place : (let (m, q) := interleave (List.range 12) 0x12345680; unitLoc m q 0x80) =
    { stack := 10, pc := 21, bank := 12, row := 24, byte := 384 } := by decide +kernel

/-- The distance example of R152 and R153. -/
theorem test_distances : (distClass 0x2E 0x9B, distClass 0x2E 0xC7, distClass 0x2E relaySite, distClass 0x2E 0) = (0, 1, 1, 2) := by decide +kernel
theorem test_distance_register : (celDist 374 >>> (14 : Nat)) &&& 3 = 1 := by decide +kernel

/-- The strap example of 16_pins_package.md, and the first packet of the CP_REMOTE example of R285. -/
theorem test_coordinate : coordOf 12 40 7 = 0x07A0C := by decide

def remotePkt : Packet :=
  { opc := 0x01, dst := coordOf 6 4 3, src := coordOf 5 4 3, sliceId := 0x0123, windowId := 3, offset := 0x2140, len := 4096, tag := 0x0042 }

theorem test_header_bytes : remotePkt.headerBytes =
    [0x01, 0x00, 0x00, 0xFF, 0x06, 0x31, 0x00, 0x05, 0x31, 0x00, 0x23, 0x01, 0x03, 0x00, 0x40, 0x21, 0x00, 0x00, 0x00, 0x00, 0x00, 0x10] ++
      [0x00, 0x00, 0x42, 0x00, 0x00, 0x00, 0x00, 0x00] := by decide +kernel

/-- The folded ring of the example of R341. -/
theorem test_ring_folds : ringOrder 4 false = [0, 2, 3, 1] ∧ ringOrder 4 true = [0, 1, 2, 3] := by decide

/-! ### Counters, power and engines -/

/-- A SAT counter stops at its limit and shows it in bit 63 (the example of R12). -/
theorem test_sat_saturates : satAdd 0xFFFFFFFFFFFE 5 = (0x8000FFFFFFFFFFFF, true) ∧ satAdd 0x8000FFFFFFFFFFFF 1 = (0x8000FFFFFFFFFFFF, false) := by
  decide

/-- LIMIT_W 3,000 with every budget at its maximum and every port UP (the example of R395). -/
def limited : Power := { State.reset.power with limitW := 3000, limitActive := true, portUnits := List.range 7 }

theorem test_limit_budgets : (limBudget limited (dieCompute 0), limBudget limited (dieStack 0), ticketable limited (dieStack 0)) = (429, 114, 54) := by
  decide +kernel
theorem test_burst_k : burstK limited 0 = 2 ∧ ticketable limited (dieCompute 0) / 3 = 63 := by decide +kernel

/-- The Class D example of R186: 25 min, 0.8 °C of excursion, Δ not negative; published as 0x6C. -/
theorem test_class_d : publish (enobD 1500 (mkRat 8 10) 0) = 0x6C := by decide +kernel

/-- The output example of R181: the codes 301, 299, 303 and 300 of four samples at s = 0.75 and RMAX = 2.0. -/
theorem test_adc_output : engineVector { special := false, w := [], rmax := 2 } 1 4 (some [mkRat 3 4, mkRat (-1) 2, 0, mkRat 3 16])
    [[301, 299, 303, 300]] = [some (mkRat 881103515625 1000000000000)] := by decide +kernel

end Sys2Proof.Tests
end

