-- ==== Sys2Proof/Tests/Witness1.lean ====
section
/-!
SUPPORT. Concrete states and operands that meet the hypotheses of the obligations: device states, drains, messages, registers.
-/
namespace Sys2Proof.Tests

-- Proofs are checked one after another: many at once take more threads than the check allows.
set_option Elab.async false

open Machine

/-! ### The whole block -/

theorem witness_CommandsGoOn_atomic : reservedFn ((pkt 0x04).aux.toNat % 16) = false ∧
    reservedFn (({ pkt 0x04 with aux := 6 } : Packet).aux.toNat % 16) = false := by decide

theorem witness_CommandsGoOn_far : reservedEntry (natLe 64 1) = false := by decide

theorem witness_StepKeepsSafe : Safe State.reset := ⟨by decide, by decide, by decide, by decide⟩

theorem witness_ReservedStops : 6 < ({ pkt 0x04 with aux := 7 } : Packet).aux.toNat % 16 ∧ reservedEntry (List.replicate 64 0xFF) = true := by
  decide

theorem witness_ColdStart (k : Nat) (h : k = 2 ∨ k = 7 ∨ k = 10 ∨ k = 11) :
    ({ inMode .boot with boot := { step := k } } : State).dev.mode = .boot ∧
    ({ inMode .boot with boot := { step := k } } : State).boot.step = k ∧ (k = 2 ∨ k = 7 ∨ k = 10 ∨ k = 11) := ⟨rfl, rfl, h⟩

theorem witness_ColdStart_straps :
    let s : State := { inMode .boot with boot := { step := 9 } }
    s.dev.mode = .boot ∧ s.boot.step = 9 ∧ s.strapsOk {} = true := by decide

theorem witness_ColdStart_benched :
    let s : State := { inMode .boot with boot := { step := 11 } }
    s.dev.mode = .boot ∧ s.boot.step = 11 ∧ s.bindClusters.belowFloor = true ∧ s.pins.drainReq = false ∧ s.dev.mgtHold = false ∧
    s.dev.debugHold = false ∧ s.dev.bootDrain = 0 ∧ s.nvm.benchRecord = false := by decide +kernel

/-! ### Supplies, pins and clocks -/

theorem witness_StandbyBeginsBoot : (inMode .off).dev.mode = .off ∧ (inMode .off).nvm.journal = [] ∧
    ([{ code := 0x86, die := 0 }] : List JEntry).getLast? = some { code := 0x86, die := 0 } := by decide

theorem witness_SupplySequence :
    let s : State := { inMode .standby with pins := { pwrEn := true }, pt := 10000000 }
    (inMode .standby).dev.mode = .standby ∧ (inMode .standby).pins.pwrEn = false ∧ (inMode .standby).pins.pwrEnSpent = false ∧
    s.dev.mode = .standby ∧ s.pins.pwrEn = true ∧ s.pins.pgood = false ∧ s.pt.toNat - s.pins.pwrEnSince.toNat ≤ 10000000 ∧
    10000000 ≤ s.pt.toNat - s.pins.pwrEnSince.toNat := by decide

theorem witness_FaultEntries :
    let s : State := { inMode .run with pins := { pwrEn := true }, clocks := { pllLock := true, suspended := [1] } }
    edge s.dev.mode .fault = true ∧ s.clocks.pllLock = true ∧ s.pins.pwrEn = true ∧ s.clocks.suspended.contains (0x15 - 0x15) = false := by
  decide

theorem witness_FaultEntries_limit :
    let s : State := { inMode .boot with boot := { step := 1 }, pt := 1000000 }
    s.dev.mode = .boot ∧ stepLimit s.boot.step ≤ s.pt.toNat - s.boot.stepSince.toNat ∧ s.boot.step ≠ 7 ∧ s.boot.step ≠ 9 ∧
    s.boot.step ≠ 10 := by decide

theorem witness_LimitsPassed (k : Nat) (h : k = 7 ∨ k = 9 ∨ k = 10) :
    let s : State := { inMode .boot with boot := { step := k }, pt := 400000000 }
    s.dev.mode = .boot ∧ stepLimit s.boot.step ≤ s.pt.toNat - s.boot.stepSince.toNat ∧ (s.boot.step = 7 ∨ s.boot.step = 9 ∨ s.boot.step = 10) := by
  rcases h with rfl | rfl | rfl <;> decide

theorem witness_LimitsPassed_straps :
    let s (x : StrapSample) : State := { inMode .boot with boot := { step := 9, straps := x }, pt := 400000000 }
    (s {}).strapsOk (s {}).boot.straps = true ∧ (s { par1 := false }).strapsOk (s { par1 := false }).boot.straps = false := by decide

theorem witness_OutputsDriven :
    let s : State := { inMode .standby with pins := { pwrEn := true }, pt := 5 }
    s.dev.mode = .standby ∧ s.pins.pwrEn = true ∧ s.pt.toNat - s.pins.pwrEnSince.toNat ≤ 10000000 := by decide

theorem witness_TripNeedsTwo :
    let s : State := { inMode .ready with thermal := { comparators := [(1, 0)] } }
    s.armed = true ∧ s.thermal.trip = false ∧ (1, 1) ∉ s.thermal.comparators ∧ (1, 0) ∈ s.thermal.comparators ∧
    edge s.dev.mode .fault = true ∧ ∀ x ∈ s.thermal.comparators, x.1 ≠ 2 := by decide

theorem witness_ClockRows : (inMode .standby).dev.mode = .standby ∧ edge (inMode .ready).dev.mode .fault = true ∧
    (inMode .ready).dev.mode ≠ .off := by decide

/-! ### Drains -/

theorem witness_DrainOrders : (member (row32 1) {}).dev.mode.running = true ∧ (member (row32 1) {}).dev.bound = true ∧
    Fresh (member (row32 1) {}) 0x13 (msg [2]) ∧ (2 : Byte).toNat < 3 := by unfold Fresh; decide

theorem witness_DrainReasonsAdd : (inMode .drain).dev.mode = .drain ∧ (inMode .drain).dev.drained = false := by decide

theorem witness_DrainReleases :
    let s : State := { State.reset with dev := { mode := .drain, drained := true, reasons := 3 } }
    s.dev.mode = .drain ∧ s.dev.drained = true ∧ s.dev.bound = false ∧ s.dev.debugHold = false ∧ s.dev.reasons &&& 0x54 = 0 ∧
    s.nvm.watchRecord = false ∧ s.dev.mgtHold = false ∧ s.pins.drainReq = false ∧ Fresh s 0x14 (msg []) := by unfold Fresh; decide

theorem witness_DrainedEndsMembership (mgt : Bool) :
    let s : State := { State.reset with dev := { mode := .drain, bound := true, reasons := if mgt then 1 else 16, mgtHold := mgt } }
    s.dev.mode = .drain ∧ s.dev.drained = false ∧ s.isDrained = true ∧ s.dev.reasons &&& 0x44 = 0 ∧
    (if mgt then s.orderInForce = true ∧ s.dev.reasons &&& 0x10 = 0 else s.dev.reasons &&& 0x10 ≠ 0) := by
  cases mgt <;> decide

theorem witness_DrainLimitAborts :
    let s : State := { State.reset with
      dev := { mode := .drain, bound := true, reasons := 1 }, pt := 20000000, cells := { stations := [(0, { outstanding := [{ kind := .mm }] })] } }
    s.dev.mode = .drain ∧ s.dev.drained = false ∧ 20000000 ≤ s.pt.toNat - s.dev.drainStart.toNat ∧ s.isDrained = false := by decide

/-! ### Requests to the device -/

theorem witness_RegReadAnswers :
    let s := State.reset
    let u := s.wrapBy oMsgIn 1
    let f : BitVec 64 → Word := fun o => if o = 0x10 then 0x11 else 0x3D
    Fresh s 0x01 (msg (natLe 8 0x10 ++ natLe 8 0x28)) ∧
    (∀ o ∈ [(0x10 : BitVec 64), 0x28], o.toNat % 8 = 0 ∧ u.regAt o.toNat = some (f o)) ∧
    Fresh s 0x01 (msg (natLe 8 4)) ∧ (4 : BitVec 64).toNat % 8 ≠ 0 ∧ u.regAt 0xFFFFF8 = none := by
  refine ⟨by unfold Fresh; decide, ?_, by unfold Fresh; decide, by decide, by decide +kernel⟩
  intro o ho
  rcases List.mem_cons.mp ho with rfl | ho
  · exact ⟨by decide, by decide +kernel⟩
  · rw [List.mem_singleton.mp ho]
    exact ⟨by decide, by decide +kernel⟩

theorem witness_RegWriteAnswers : Fresh State.reset 0x02 (msg (natLe 8 0x28 ++ natLe 8 0x3F)) ∧ Fresh State.reset 0x02 (msg (natLe 8 1 ++ natLe 8 0)) ∧
    (1 : BitVec 64).toNat % 8 ≠ 0 := by unfold Fresh; decide

theorem witness_SliceTableLoads (refused : Bool) :
    let s := inMode (if refused then .run else .ready)
    let m := fabricMsg (natLe 8 1 ++ List.replicate 136 0)
    Fresh s 0x10 m ∧ m.route ≠ .i3c ∧ m.body.length = 144 ∧ (if refused then s.tableCause m.body ≠ 0 else s.tableCause m.body = 0) := by
  cases refused <;> (unfold Fresh; decide +kernel)

theorem witness_FencesPorts : Fresh State.reset 0x15 (fabricMsg [0x7F]) ∧ (fabricMsg [0x7F]).route ≠ .i3c ∧ (0x7F : Byte).toNat < 128 ∧
    6 ∉ State.reset.fabric.fenced ∧ (0x7F : Byte).toNat.testBit 6 = true := by unfold Fresh; decide

theorem witness_SuspectRaises : Fresh (inMode .run) 0x16 (msg (natLe 7 0)) ∧ (msg (natLe 7 0)).body.length = 7 ∧
    (inMode .run).nvm.level.toNat < (inMode .run).bucket.high.toNat * 256 := by unfold Fresh; decide

theorem witness_PackReplaces : Fresh (inMode .run) 0x20 (msg [0]) ∧ (inMode .run).packCause (msg [0]).body ≠ 0 := by unfold Fresh; decide +kernel

theorem witness_ImageWritesOtherCopy :
    let m := msg (natLe 8 0 ++ [1, 2, 3])
    Fresh State.reset 0x21 m ∧ State.reset.dev.mode ≠ .boot ∧ imageHeadOk m.body = true ∧ State.reset.img.booted.toNat ≠ fld m.body 0 1 := by
  unfold Fresh; decide

theorem witness_SignedCommands : Fresh State.reset 0x22 (msg (natLe 8 1)) ∧ State.reset.sgCause (msg (natLe 8 1)).body ≠ 0 := by
  unfold Fresh; decide +kernel

/-! ### Messages of the device and the I3C target -/

def waits : OutMsg := { dest := .i3c, mtype := 0x43, mseq := 7, acked := true, sends := 7 }

theorem witness_MessageTimers :
    let s (n : Nat) : State := { inMode .ready with
      mgmt := { waiting := [{ waits with sends := n }], partials := [{ route := .i3c, mtype := 1, mseq := 3, total := 9 }] }, pt := 100000000 }
    (∀ n ∈ [7, 8], (s n).dev.mode ≠ .off ∧
      ((s n).mgmt.waiting.find? fun x => decide (x.mseq = 7) && decide (x.chunkOff = 0)) = some { waits with sends := n } ∧
      200000 ≤ (s n).pt.toNat - ({ waits with sends := n } : OutMsg).sentPt.toNat) ∧
    { route := .i3c, mtype := 1, mseq := 3, total := 9 } ∈ (s 7).mgmt.partials ∧ 100000000 ≤ (s 7).pt.toNat - 0 := by decide

theorem witness_TelemetryGoes :
    let s : State := { inMode .ready with mgmt := { telMs := 1 }, pt := 100000 }
    s.mgmt.telMs ≠ 0 ∧ s.dev.mode ≠ .off ∧ s.mgmt.telMs.toNat * 100000 ≤ s.pt.toNat - s.mgmt.telLast.toNat := by decide

theorem witness_I3cTarget :
    let s (sel : Nat) : State :=
      { State.reset with mgmt := { i3c := { addrValid := true, selected := sel, readPtr := 0x28, outbox := [1] } } }
    State.reset.dev.mode ≠ .off ∧ State.reset.mgmt.i3c.addrValid = false ∧ (∀ sel ∈ [1, 2, 3], (s sel).dev.mode ≠ .off ∧
      (s sel).mgmt.i3c.addrValid = true ∧ (s sel).mgmt.i3c.selected = sel) ∧ (s 2).mgmt.i3c.readPtr % 8 = 0 ∧
    (s 2).regAt (s 2).mgmt.i3c.readPtr = some 0x3D ∧ (s 2).blockUp (s 2).mgmt.i3c.readPtr = true ∧
    (s 1).mgmt.i3c.inbox.length + 31 < 32 ∧ (1 : Byte) ≠ crc8 [] := by decide +kernel

/-! ### Registers -/

theorem witness_RegisterWrites : (inMode .ready).dev.mode ≠ .off ∧ (inMode .ready).regAt 0xFFFFF8 = none := by decide +kernel

theorem witness_SatCounters :
    let s : State := { inMode .ready with boot := { done := [3] } }
    bits (0 : Word).toNat 62 48 = 0 ∧ bits (0x8000FFFFFFFFFFFF : Word).toNat 62 48 = 0 ∧ (0x8000FFFFFFFFFFFF : Word).getLsbD 63 = true ∧
    (0xFFFFFFFFFFFE : Word).getLsbD 63 = false ∧ (0xFFFFFFFFFFFE : Word).toNat + 0 < 0xFFFFFFFFFFFF ∧
    0xFFFFFFFFFFFF ≤ (0xFFFFFFFFFFFE : Word).toNat + 1 ∧ (satAdd 0xFFFFFFFFFFFE 1).2 = true ∧ s.dev.mode ≠ .off ∧
    satOffsets.contains 0x021000 = true ∧ s.blockUp 0x021000 = true := by decide +kernel

theorem witness_JournalSelect (bad : Bool) :
    let e : JEntry := { code := 0x86, die := 0, crcBad := bad }
    let s : State := { inMode .ready with card := { buffer := [e] } }
    s.dev.mode ≠ .off ∧ (s.card.buffer ++ s.nvm.journal).find? (·.jidx = 0) = some e ∧ e.crcBad = bad ∧
    (s.card.buffer ++ s.nvm.journal).find? (·.jidx = 1) = none := by cases bad <;> decide

theorem witness_BucketControl : (inMode .ready).dev.mode ≠ .off ∧
    (inMode .ready).bucket.low.toNat < (inMode .ready).bucket.high.toNat := by decide

theorem witness_PoolBudgets :
    let s : State := { inMode .ready with boot := { done := [3] } }
    s.blockUp 0x020000 = true ∧ budgetOk s.power 1 (maxBudget 1) = true ∧ budgetOk s.power 1 (maxBudget 1 + 1) = false := by decide +kernel

theorem witness_LimitPin :
    let s : State := { inMode .ready with power := { limitActive := true } }
    (inMode .ready).dev.mode ≠ .off ∧ (inMode .ready).power.limitActive = false ∧ s.power.limitActive = true := by decide

/-- A device above its floor whose self-test runs. -/
theorem witness_SelfTestEnds : let s : State := { admitted .ready smallCourse with test := { running := true } }
    s.test.running = true ∧ s.belowFloor = false := by decide +kernel

theorem witness_MapTestsJournal :
    let s : State := { inMode .ready with card := { flushDue := true }, test := { running := true } }
    (inMode .run).dev.mode ≠ .off ∧ (inMode .run).dev.mode ≠ .standby ∧ s.dev.mode = .ready ∧ s.dev.bound = false ∧ s.test.running = true ∧
    s.card.flushDue = true ∧ ¬ (((inMode .run).dev.mode = .ready ∨ (inMode .run).dev.mode = .watch) ∧ (inMode .run).dev.bound = false) := by decide

end Sys2Proof.Tests
end

