-- ==== Sys2Proof/Tests/Witness2.lean ====
section
/-!
SUPPORT. Concrete states and operands that meet the hypotheses of the obligations: the sequencer, the arrays, the vector unit,
and the Glide stations and engines.
-/
namespace Sys2Proof.Tests

-- Proofs are checked one after another: many at once take more threads than the check allows.
set_option Elab.async false

open Machine

/-! ### The sequencer -/

/-- A member, one station of which has changed. -/
def memberSt (st : Nat) (f : StationRt → StationRt) (fmt : Nat := 1) (params : KindParams := {}) : State :=
  (member (row32 fmt) params).withSt st f

theorem witness_SequencerWork : Ready (member (row32 1) {}) 0 { we := true, wSem := 0, se := true } anyKind := by
  unfold Ready; decide +kernel

theorem witness_EndLoopPasses (left : Nat) : let s := memberSt 0 fun r => { r with loops := [(1, left)] }
    Ready s 0 {} anyKind ∧ (s.st 0).loops = [(1, left)] := ⟨⟨rfl, fun h => by cases h⟩, rfl⟩

theorem witness_SemWaitTakes : let s := member (row32 1) {}
    Ready s 0 {} anyKind ∧ 1 ≤ (s.st 0).sem 0 ∧ (s.st 0).sem 0 < 2 := by unfold Ready; decide +kernel

theorem witness_HaltEndsStream : let s := member (row32 1) {}
    Ready s 0 {} anyKind ∧ (1, ({ sems := [1, 0] } : StationRt)) ∈ s.cells.stations ∧ ({ sems := [1, 0] } : StationRt).finished = false := by
  unfold Ready; decide +kernel

theorem witness_HaltEndsCourse :
    let m := member (row32 1) {}
    let s : State := { m with cells := { stations := [(0, {}), (1, { halted := true })] } }
    Ready s 0 {} anyKind ∧ ({} : Common).se = false ∧ (s.st 0).outstanding = [] ∧
    (put s.cells.stations 0 { halted := true }).all (fun p => p.2.finished) = true ∧ s.cells.signals = [] ∧
    ∀ p ∈ s.cells.semFiles, p.2.queue = [] := by unfold Ready; decide +kernel

/-! ### The arrays and the vector unit -/

/-- A member whose cell k runs its arrays. -/
def running (k : Nat) (s : State) : State := { s with cells := { s.cells with arrays := [(k, .running)] } }

/-- A check that finds its sums different. -/
def badCheck : ArrayFail := { array := 0, row := 0, kBlock := 0, pass := 0, cObs := 1 }

theorem witness_MatrixIssues :
    let s := running 0 (member (row32 1) {})
    let f := frame (row32 1)
    Ready s 0 {} isMatrix ∧ (s.st 0).accBusy 0 = false ∧ s.cellOf 0 = some 0 ∧ s.arrayPhase 0 = .running ∧ (s.st 0).pendingMm.length < 2 ∧
    Reads s 0 (s.inAddr 0 0) f s ∧ seqOk f ((s.st 0).inPos 0) = true ∧ (mmRunBank f f ((s.st 0).bankOf 0)).isSome = true ∧
    failsOf [] = [] ∧ failsOf [badCheck, badCheck] = [badCheck, badCheck] :=
  ⟨by unfold Ready; decide +kernel, by decide, by decide, by decide, by decide, reads_frame 0 rfl rfl, by decide +kernel,
    by decide +kernel, rfl, by decide⟩

/-- A bank with a granule that is uncorrectable. -/
theorem witness_BankReads : let s := member (row32 1) {}
    ({ ue := [(0, 3)] } : Bank).ue = [(0, 3)] ∧ s.nvm.level.toNat + 512 < s.bucket.high.toNat * 256 ∧ s.bucket.high.toNat ≤ 64 := by decide

theorem witness_ArraysAskFirst : let s := member (row32 1) {}
    Ready s 0 {} isMatrix ∧ s.cellOf 0 = some 0 ∧ s.arrayPhase 0 = .idle ∧ (s.st 0).pendingMm.length < 2 := by unfold Ready; decide +kernel

theorem witness_ProductShape :
    (mmRunBank (frame { row32 1 with tflags := 1 }) (frame { row32 1 with tflags := 2 }) {}).isSome = true ∧
    bit (hdrOf (frame { row32 1 with tflags := 1 })).tflags 2 = false ∧ bit (hdrOf (frame { row32 1 with tflags := 1 })).tflags 0 = true ∧
    bit (hdrOf (frame { row32 1 with tflags := 2 })).tflags 1 = true := by decide +kernel

/-- A command outstanding, with its number. -/
def out (kind : OutKind) (id open_ : Nat) : Outst := { kind := kind, id := id, signal := some 0, open_ := open_ }

theorem witness_CommitAndRepeat :
    let p : PendingMm := { acc := 0, bank := {}, instr := .mmRunCommit 0 }
    let f := badCheck
    let s := memberSt 0 fun r => { r with pendingMm := [p], outstanding := [out .mm 4 0], nextId := 5 }
    let t := memberSt 0 fun r => { r with failed := some (.mmRunCommit 0, f) }
    (Open s 0 ∧ (s.st 0).failed = none ∧ (s.st 0).pendingMm = [p] ∧ (s.st 0).firstOf .mm = some 0 ∧
      (s.st 0).outstanding[0]? = some (out .mm 4 0)) ∧
    (t.st 0).failed = some (.mmRunCommit 0, f) ∧ t.cellOf 0 = some 0 ∧ (t.st 0).confirming = false ∧ (t.st 0).pendingMm = [] ∧
    t.nvm.level.toNat + 256 < t.bucket.high.toNat * 256 ∧ t.bucket.high.toNat ≤ 64 ∧ failsOf [] = [] ∧ failsOf [f] = [f] := by
  unfold Open; decide +kernel

theorem witness_DrainWritesFrame :
    let s := memberSt 0 fun r => { r with banks := [(0, { shape := some (1, 1), elems := [.finite false 1 0] })] }
    Ready s 0 {} isMatrix ∧ (s.st 0).accBusy 0 = false ∧ s.mapped (s.outAddr 0 0) frameBytes ∧ s.outAddr 0 0 % 8 = 0 ∧
    s.stores.mem.wf = true ∧
    (drainFrame (lookD (s.st 0).banks 0 {}) 0x12 .nearest 0 (s.outStream 0 0) ((s.st 0).outPos 0 % 2 ^ 32) (s.st 0).stepNo.toNat s.seed).isSome =
      true := by
  exact ⟨by unfold Ready; decide +kernel, by decide, mapped_buffer rfl (by decide +kernel) (by decide +kernel), by decide +kernel,
    member_memory_wf (row32 1) {}, by decide +kernel⟩

theorem witness_VectorWritesFrame :
    let s := member (row32 1) {}
    let f := frame (row32 1)
    Ready s 1 {} isVector ∧ s.mapped (s.outAddr 1 0) frameBytes ∧ s.outAddr 1 0 % 8 = 0 ∧ s.stores.mem.wf = true ∧
    Reads s 1 (s.inAddr 1 0) f s ∧ seqOk f ((s.st 1).inPos 0) = true ∧ vecTwo .add = true ∧ vecTwo .scale = false ∧
    (vecFrame .add f (some f) 0 0x12 .nearest 1 (s.outStream 1 0) 0 0 s.seed).isSome = true ∧
    (vecFrame .scale f none 0 0x12 .nearest 1 (s.outStream 1 0) 0 0 s.seed).isSome = true :=
  ⟨by unfold Ready; decide +kernel, mapped_buffer rfl (by decide +kernel) (by decide +kernel), by decide +kernel,
    member_memory_wf (row32 1) {}, reads_frame 1 rfl rfl,
    by decide +kernel, rfl, rfl, by decide +kernel, by decide +kernel⟩

theorem witness_RampDown :
    let s (p : ArrayPhase) : State := { member (row32 1) {} with cells := { arrays := [(0, p)] } }
    let t : State := { s .rampDown with power := { queue := [{ cls := .arrayBurst 0, claims := claimsOf (.arrayBurst 0) }] } }
    (s .running).arrayPhase 0 = .running ∧ failsOf [] = [] ∧ failsOf [badCheck] ≠ [] ∧ (s .rampDown).arrayPhase 0 = .rampDown ∧
    (s .rampDown).power.queue.any (·.cls = .arrayBurst 0) = false ∧ t.arrayPhase 0 = .rampDown ∧
    t.power.queue.any (·.cls = .arrayBurst 0) = true := by decide

/-! ### Glide stations -/

/-- A Glide station of 1 × 32 and the headers of its W frame and of its x frame. -/
def glideP : KindParams := { rows := 1, cols := 32, samples := 1 }
def wHdr : Hdr := { fmt := 1, rows := 64, cols := 64 }
def xHdr : Hdr := { fmt := 1, rows := 1, cols := 64 }

/-- The member's Glide station 2 is on engine 1, which holds its ticket and serves the station's map. -/
def onEngine (s : State) : State :=
  { s with
    job := some { testJob glideP with placement := { testPlacement with stations := put testPlacement.stations 2 { place := 1, unit := 1, cell := some 2 } } }
    power := { held := [{ cls := .glideUser 1, claims := claimsOf (.glideUser 1) }] }, pt := 1000
    glide := { engines := [(1, { state := 1, stations := [2], applied := some 2, resident := true })] } }

theorem witness_GlideLoads : let s := member wHdr glideP
    Ready s 2 {} isGlide ∧ (s.st 2).held = [] ∧
    s.readFrames 2 (s.objectAddrs 0 1) .clean = (s, some [frame wHdr]) ∧ tiles64 (s.paramsOf 2).rows * tiles64 (s.paramsOf 2).cols = 1 ∧
    wFmt (frame wHdr) = some .int8 ∧ s.engineOf 2 = none :=
  ⟨by unfold Ready; decide +kernel, by decide, readFrames_clean 2 [(streamBase 0, frame wHdr)] (by
    intro x hx; rw [List.mem_singleton.mp hx]; exact reads_frame 2 rfl rfl), by decide, by decide +kernel, by decide +kernel⟩

/-- The frames of a map lie at object 1. -/
def withMap (s : State) (ms : List (List Byte)) : State := { s with stores := { s.stores with mem := laid s.stores.mem (streamBase 2) ms } }

theorem reads_map (s : State) (ms : List (List Byte)) (hs : s.serviceList = []) (hw : s.stores.mem.wf = true)
    (h : ∀ f ∈ ms, crcOk f = true) (k : Nat) (f : List Byte) (e : ms[k]? = some f) (hk : k < 65) :
    Reads (withMap s ms) 2 (streamBase 2 + frameBytes * k) f (withMap s ms) := by
  have hf : f ∈ ms := List.mem_of_getElem? e
  exact reads_buffer 2 hs (h f hf) (by unfold streamBase bufferBase frameBytes; omega) (laid_read hw h (by decide) e)
    (by unfold streamBase; omega) (by unfold streamBase frameBytes; omega)

/-- The frame of stream 0 is read beside the map's. -/
theorem reads_under (s : State) (ms : List (List Byte)) (h : Hdr) (hs : s.serviceList = []) (hw : s.stores.mem.wf = true)
    (e : s.stores.mem = (({} : Memory).write (streamBase 0) (frame h) []).1) (hm : ∀ f ∈ ms, crcOk f = true) :
    Reads (withMap s ms) 2 (streamBase 0) (frame h) (withMap s ms) := by
  have hl := crcOk_length (frame_ok h)
  refine reads_buffer 2 hs (frame_ok h) (by decide) ?_ (by decide) (by decide)
  have := laid_below (a := streamBase 2) (c := streamBase 0) hw hm (by decide) (by decide) (by decide)
  refine this.trans ?_
  rw [e, ← hl]
  exact Memory.read_write _ (by decide) (by rw [hl]; rfl) (frame_nonempty (frame_ok h))

/-- A RAW frame that begins with these bytes. -/
def rawFrame (b : List Byte) : List Byte :=
  signFrame (hdrBytes { fmt := 0x30, rows := 64, cols := 64 } ++ List.replicate 132 0 ++ b ++ List.replicate (4096 - b.length) 0)

/-- The first bytes of a phase map of 1 × 32 for the test's W frame: its fields, with RMAX 2. -/
def mapHead : List Byte :=
  natLe 4 0x474C4D50 ++ natLe 2 1 ++ natLe 2 1 ++ natLe 2 32 ++ natLe 2 0 ++ natLe 4 (wDigest [frame wHdr]) ++ natLe 4 0 ++ natLe 4 0x40000000

def testMap : List (List Byte) := rawFrame mapHead :: List.replicate 64 (rawFrame [])

theorem rawFrame_ok {b : List Byte} (h : b.length ≤ 4096) : crcOk (rawFrame b) = true := by
  refine crcOk_signFrame ?_
  simp only [hdrBytes, List.length_append, natLe_length, List.length_replicate, frameBytes]
  omega
theorem sub_splice_past {l b : List Byte} {off i : Nat} (n : Nat) (h : off + b.length ≤ l.length) (hi : off + b.length ≤ i) :
    sub (splice l off b) i n = sub l i n := by
  have h1 : (l.take off ++ b).length = off + b.length := by simp only [List.length_append, List.length_take]; omega
  unfold sub splice
  rw [List.drop_append, List.drop_eq_nil_of_le (by omega), List.nil_append, List.drop_drop, h1]
  congr 2
  omega

theorem sub_append {a b : List Byte} {i n : Nat} (h : i + n ≤ a.length) : sub (a ++ b) i n = sub a i n := by
  unfold sub
  rw [List.drop_append_of_le_length (by omega), List.take_append_of_le_length (by rw [List.length_drop]; omega)]

/-- The payload of a RAW frame. -/
theorem rawFrame_payload {b : List Byte} (h : b.length ≤ 4096) : sub (rawFrame b) 0xA0 4096 = b ++ List.replicate (4096 - b.length) 0 := by
  unfold rawFrame signFrame
  have hl : (hdrBytes { fmt := 0x30, rows := 64, cols := 64 } ++ List.replicate 132 (0 : Byte)).length = 160 := by
    simp only [hdrBytes, List.length_append, natLe_length, List.length_replicate]
  rw [sub_splice_past _ (by rw [natLe_length, List.append_assoc, List.length_append, hl]; omega) (by rw [natLe_length]; decide)]
  unfold sub
  rw [List.append_assoc, List.drop_left' hl, List.take_of_length_le]
  simp only [List.length_append, List.length_replicate]
  omega

theorem mapHead_length : mapHead.length = 24 := by unfold mapHead; simp only [List.length_append, natLe_length]

theorem testMap_bytes : mapBytes testMap = mapHead ++ List.replicate 266216 0 := by
  unfold mapBytes testMap
  rw [List.flatMap_cons, rawFrame_payload (by rw [mapHead_length]; decide), mapHead_length]
  have : ∀ n, (List.replicate n (rawFrame [])).flatMap (fun f => sub f 0xA0 4096) = List.replicate (4096 * n) 0 := by
    intro n
    induction n with
    | zero => rfl
    | succ n ih =>
      rw [List.replicate_succ, List.flatMap_cons, ih, rawFrame_payload (by decide), List.nil_append, List.replicate_append_replicate]
      congr 1
      simp; omega
  rw [this, List.append_assoc, List.replicate_append_replicate]

theorem allZero_replicate (n i k : Nat) : allZero (sub (List.replicate n 0) i k) = true ∧ allZero ((List.replicate n 0).drop i) = true := by
  unfold allZero sub
  rw [List.drop_replicate, List.take_replicate]
  simp only [List.all_replicate]
  constructor <;> split <;> rfl

theorem testMap_passes : mapCause testMap [frame wHdr] 1 32 = 0 := by
  have h1 : testMap.any (fun f => (hdrOf f).fmt != 0x30) = false := by decide +kernel
  have h2 : ∀ i n, i + n ≤ 24 → sub (mapHead ++ List.replicate 266216 0) i n = sub mapHead i n := fun i n h => sub_append (by rw [mapHead_length]; exact h)
  have h3 : allZero (sub (mapHead ++ List.replicate 266216 0) 0x18 40) = true := by
    unfold sub
    rw [List.drop_left' mapHead_length]
    exact (allZero_replicate _ 0 40).1
  have h4 : allZero ((mapHead ++ List.replicate 266216 0).drop 0x40240) = true := by
    rw [List.drop_append, mapHead_length, List.drop_eq_nil_of_le (by rw [mapHead_length]; decide), List.nil_append]
    exact (allZero_replicate _ _ 0).2
  have h5 : leNat (sub mapHead 12 4) = wDigest [frame wHdr] := by
    have : sub mapHead 12 4 = natLe 4 (wDigest [frame wHdr]) := by
      unfold mapHead sub
      simp only [List.append_assoc]
      rfl
    rw [this, leNat_natLe]
    exact Nat.mod_eq_of_lt (BitVec.isLt _)
  have h6 : leNat (sub mapHead 0 4) = 0x474C4D50 ∧ leNat (sub mapHead 4 2) = 1 ∧ leNat (sub mapHead 6 2) = 1 ∧ leNat (sub mapHead 8 2) = 32 ∧
     allZero (sub mapHead 10 2) = true ∧ leNat (sub mapHead 20 4) = 0x40000000 := by decide +kernel
  have h7 : fp32.decode 0x40000000 = .fin 2 false := by decide +kernel
  obtain ⟨a, b, c, d, e, f⟩ := h6
  unfold mapCause
  simp only [testMap_bytes, h1, h3, h4, fld, mapRmax, rmaxOk, h2 0 4 (by decide), h2 4 2 (by decide), h2 6 2 (by decide), h2 8 2 (by decide),
    h2 0xA 2 (by decide), h2 0xC 4 (by decide), h2 0x14 4 (by decide), h5, a, b, c, d, e, f, h7]
  have h8 : (0 : Rat) < 2 := by decide +kernel
  simp [h8]

/-- The member's Glide station 2 on an engine that has applied a station's map, or none. -/
def loading (applied : Option Nat) : State :=
  let s := onEngine (member wHdr glideP)
  { s with glide := { engines := [(1, { state := 1, stations := [2], applied := applied, resident := true })] } }

theorem testMap_ok : ∀ f ∈ testMap, crcOk f = true := by
  intro f hf
  rcases List.mem_cons.mp hf with rfl | hf
  · exact rawFrame_ok (by rw [mapHead_length]; decide)
  · rw [List.eq_of_mem_replicate hf]; exact rawFrame_ok (by decide)

/-- The W object and a map of 65 frames are read from objects 0 and 1, whatever the map's frames hold. -/
theorem reads_objects (s : State) (ms : List (List Byte)) (hs : s.serviceList = [])
    (e : s.stores.mem = (({} : Memory).write (streamBase 0) (frame wHdr) []).1) (h0 : s.frameAddr 0 0 = streamBase 0)
    (h1 : ∀ k, s.frameAddr 1 k = streamBase 2 + frameBytes * k) (hm : ∀ f ∈ ms, crcOk f = true) (hl : ms.length = 65) :
    (withMap s ms).readFrames 2 (s.objectAddrs 0 1) .clean = (withMap s ms, some [frame wHdr]) ∧
    (withMap s ms).readFrames 2 (s.objectAddrs 1 65) .clean = (withMap s ms, some ms) := by
  have hw : s.stores.mem.wf = true := by rw [e]; exact member_memory_wf wHdr glideP
  constructor
  · have : s.objectAddrs 0 1 = [streamBase 0] := by simp [State.objectAddrs, h0]
    rw [this]
    refine readFrames_clean 2 [(streamBase 0, frame wHdr)] fun x hx => ?_
    rw [List.mem_singleton.mp hx]
    exact reads_under s _ wHdr hs hw e hm
  · have ha : s.objectAddrs 1 65 = ((List.range 65).map fun k => (streamBase 2 + frameBytes * k, ms.getD k [])).map (·.1) := by
      unfold State.objectAddrs
      rw [List.map_map]
      exact List.map_congr_left fun k _ => h1 k
    have hb : ms = ((List.range 65).map fun k => (streamBase 2 + frameBytes * k, ms.getD k [])).map (·.2) := by
      apply List.ext_getElem
      · simp [hl]
      · intro k h1 h2
        simp [List.getElem?_eq_getElem h1]
    have := readFrames_clean (s := withMap s ms) 2 ((List.range 65).map fun k => (streamBase 2 + frameBytes * k, ms.getD k [])) (fun x hx => by
      obtain ⟨k, hk, rfl⟩ := List.mem_map.mp hx
      have hk := List.mem_range.mp hk
      refine reads_map s ms hs hw hm k (ms.getD k []) ?_ hk
      rw [List.getD_eq_getElem?_getD, List.getElem?_eq_getElem (by omega)]
      rfl)
    rw [← hb, ← ha] at this
    exact this

theorem loads_map (applied : Option Nat) (ms : List (List Byte)) (hm : ∀ f ∈ ms, crcOk f = true) (hl : ms.length = 65) :
    let s := withMap (loading applied) ms
    Ready s 2 {} isGlide ∧ (s.st 2).held = [] ∧ s.engineOf 2 = some 1 ∧ s.holds (.glideUser 1) = true ∧
    s.readFrames 2 (s.objectAddrs 0 1) .clean = (s, some [frame wHdr]) ∧ wFmt (frame wHdr) = some .int8 ∧
    s.readFrames 2 (s.objectAddrs 1 65) .clean = (s, some ms) := by
  have := reads_objects (loading applied) ms rfl rfl rfl (fun _ => rfl) hm hl
  exact ⟨⟨rfl, fun h => by cases h⟩, rfl, rfl, rfl, this.1, by decide +kernel, this.2⟩

/-- A map that step 2 of R177 accepts and one that it refuses, on engines that have applied no map, this station's and another's. -/
theorem witness_GlideLoadsEngine (applied : Option Nat) (h : applied = none ∨ applied = some 2 ∨ applied = some 3) :
    let s (ms : List (List Byte)) := withMap (loading applied) ms
    let bad := List.replicate 65 (tile 1)
    let ok (ms : List (List Byte)) : Prop := Ready (s ms) 2 {} isGlide ∧ ((s ms).st 2).held = [] ∧ (s ms).engineOf 2 = some 1 ∧
      (s ms).holds (.glideUser 1) = true ∧ (s ms).readFrames 2 ((s ms).objectAddrs 0 1) .clean = ((s ms), some [frame wHdr]) ∧
      wFmt (frame wHdr) = some .int8 ∧ (s ms).readFrames 2 ((s ms).objectAddrs 1 65) .clean = ((s ms), some ms)
    (ok testMap ∧ mapCause testMap [frame wHdr] 1 32 = 0 ∧ ((s testMap).engine 1).applied = applied) ∧
    (ok bad ∧ mapCause bad [frame wHdr] 1 32 ≠ 0) ∧ (applied = none ∨ applied = some 2 ∨ applied ≠ none ∧ applied ≠ some 2) := by
  refine ⟨⟨loads_map applied _ testMap_ok rfl, testMap_passes, rfl⟩, ⟨loads_map applied _ ?_ rfl, by decide +kernel⟩, ?_⟩
  · intro f hf
    rw [List.eq_of_mem_replicate hf]; exact frame_ok _
  · rcases h with rfl | rfl | rfl <;> decide

/-- The decoded W of a station. -/
def testW : GlideW := decodeW .int8 [frame wHdr] 1 32 0

/-- The Glide station's W is loaded, and it holds results and outstanding commands. -/
def loadedGlide (s : State) (held : List HeldRun := []) (outs : List Outst := []) : State :=
  s.withSt 2 fun r => { r with glW := some testW, held := held, outstanding := outs }

theorem witness_GlideRuns :
    let c : State := loadedGlide { member xHdr glideP with cells := { (member xHdr glideP).cells with arrays := [(2, .running)] } }
    let e : State := loadedGlide (onEngine (member xHdr glideP))
    let f := frame xHdr
    (Ready c 2 {} isGlide ∧ (c.st 2).glW = some testW ∧ c.cellOf 2 = some 2 ∧ (c.st 2).held.length < 2 ∧ Reads c 2 (c.inAddr 2 0) f c ∧
      seqOk f ((c.st 2).inPos 0) = true ∧ c.engineOf 2 = none ∧ c.arrayPhase 2 = .running ∧ (c.st 2).discarded = none) ∧
    (Ready e 2 {} isGlide ∧ (e.st 2).glW = some testW ∧ e.cellOf 2 = some 2 ∧ (e.st 2).held.length < 2 ∧ Reads e 2 (e.inAddr 2 0) f e ∧
      e.engineOf 2 = some 1 ∧ e.engineReady 1 2 = true ∧ e.mapStale 1 = false ∧ (e.st 2).discarded = none) ∧
    (glShape f 0x12 1 32).isSome = true ∧ failsOf [] = [] ∧ failsOf [badCheck] = [badCheck] :=
  ⟨⟨by unfold Ready; decide +kernel, rfl, by decide, by decide, reads_frame 2 rfl rfl, by decide +kernel, by decide, by decide, rfl⟩,
    ⟨by unfold Ready; decide +kernel, rfl, by decide, by decide, reads_frame 2 rfl rfl, by decide, by decide, by decide, rfl⟩,
    by decide +kernel, rfl, by decide⟩

/-- A result that a Glide station holds, its checks in. -/
def heldRun (engine : Option Nat) : HeldRun :=
  { instr := .glRun 2 {} 0 0 0x12 .nearest [] .clean [], engine := engine, xframe := frame xHdr, ys := [[some 0]], posOut := 0, step := 0
    pt := 0, windowPassed := true, readings := (List.range 32).map fun i => (416 + i, 2) }

/-- The station holds a result: sampled on its engine, or computed on its host cell, or moved there and not yet run. -/
theorem witness_GlideCompletes :
    let o : Outst := { kind := .glide, adv := [{ out := true, port := 0, count := 1 }] }
    let m := member xHdr glideP
    let c := loadedGlide m [heldRun none] [o]
    let w := loadedGlide { m with cells := { m.cells with arrays := [(2, .running)] } } [{ heldRun none with issued := false }] [o]
    let e := loadedGlide (onEngine m) [heldRun (some 1)] [o]
    let ok (s : State) (h : HeldRun) : Prop := Open s 2 ∧ (s.st 2).held = [h] ∧ s.cellOf 2 = some 2 ∧ (s.st 2).failed = none ∧
      (s.glFrame 2 h).isSome = true ∧ (s.glFrame 2 h).map (·.1) = some 0 ∧ (s.st 2).firstOf .glide = some 0 ∧
      (s.st 2).outstanding[0]? = some o ∧ s.mapped (s.slotAddr (s.outStream 2 0) h.posOut) frameBytes ∧
      s.slotAddr (s.outStream 2 0) h.posOut % 8 = 0
    ok c (heldRun none) ∧ (heldRun none).issued = true ∧ ok w { heldRun none with issued := false } ∧ w.arrayPhase 2 = .running ∧
    failsOf [] = [] ∧ failsOf [badCheck] = [badCheck] ∧ ok e (heldRun (some 1)) ∧ (heldRun (some 1)).ready = true :=
  ⟨⟨by unfold Open; decide +kernel, rfl, by decide, by decide, by decide +kernel, by decide +kernel, by decide, by decide,
      mapped_buffer rfl (by decide +kernel) (by decide +kernel), by decide +kernel⟩, rfl,
    ⟨by unfold Open; decide +kernel, rfl, by decide, by decide, by decide +kernel, by decide +kernel, by decide, by decide,
      mapped_buffer rfl (by decide +kernel) (by decide +kernel), by decide +kernel⟩, by decide, rfl, by decide,
    ⟨by unfold Open; decide +kernel, rfl, by decide, by decide, by decide +kernel, by decide +kernel, by decide, by decide,
      mapped_buffer rfl (by decide +kernel) (by decide +kernel), by decide +kernel⟩, by decide +kernel⟩

/-! ### Glide engines -/

/-- An engine in service for the loaded station 2, whose map is its only one. -/
def inService : Engine := { state := 1, stations := [2], applied := some 2, slots := [{ station := 2 }], resident := true }

def engineAs (e : Engine) : State :=
  { loadedGlide (onEngine (member xHdr glideP)) with glide := { engines := [(1, e)] }, pt := 400000000000 }

/-- The pilot vectors of W all zero: every exact product is zero, a code of 0 agrees with it and a code of 500 does not. -/
theorem witness_FastWindows :
    let m : MapSlot := { station := 2, pilots := 31 }
    let full := engineAs { inService with slots := [m] }
    let codes (n : Nat) (c : Int) : List (List Int) := List.replicate n [c]
    let mean (n : Nat) (c : Int) := enobOf (pilotMean testW (full.paramsOf 2).rows (windowSamples 0 (full.paramsOf 2).rows (codes n c)))
    (full.engine 1).applied = some 2 ∧ (full.engine 1).slots.find? (·.station = 2) = some m ∧ (full.st 2).glW = some testW ∧
    (full.engine 1).state = 1 ∧ (full.engine 1).pilotNext = 0 ∧ m.pilots + (codes 0 0).length < 32 ∧ 32 ≤ m.pilots + (codes 1 0).length ∧
    full.fastFloor 1 2 ≤ mean 1 0 ∧ ¬ full.fastFloor 1 2 ≤ mean 1 500 ∧ (codes 256 0).length = 256 ∧ full.fastFloor 1 2 ≤ mean 256 0 :=
  ⟨by decide, by decide, rfl, by decide, by decide, by decide, by decide, by decide +kernel, by decide +kernel, List.length_replicate ..,
    by decide +kernel⟩

/-- A balanced engine that has applied the map of station 3; station 2 has a GL_RUN ready. -/
def twoStations : State :=
  let s := engineAs { inService with stations := [2, 3], slots := [{ station := 2 }, { station := 3 }], applied := some 3, resident := false }
  { s with job := s.job.map fun j => { j with course := { j.course with commands := [0x31 <<< 120] } } }

theorem witness_DriftWindow :
    let m : MapSlot := { station := 2, driftWindows := 4096 }
    let s := engineAs { inService with slots := [m] }
    (s.engine 1).applied = some 2 ∧ (s.engine 1).slots.find? (·.station = 2) = some m ∧ (s.st 2).glW = some testW ∧
    (s.engine 1).state = 1 ∧ 4096 ≤ m.driftWindows := ⟨by decide, by decide, rfl, by decide, by decide⟩

theorem witness_GlideMapSwitch :
    (twoStations.engine 1).state = 1 ∧ (twoStations.engine 1).mode = 1 ∧ twoStations.switchDue 1 = true ∧ twoStations.nextStation 1 = some 2 := by
  decide +kernel

theorem witness_RecalRetry : let s : State := { engineAs { inService with state := 5 } with power := {} }
    (s.engine 1).state = 5 ∧ 360000000000 ≤ s.pt.toNat - (s.engine 1).failSince.toNat ∧ s.calTicket 1 = false := by decide +kernel

theorem witness_ShadowRecompute :
    let f : ShadowFrame := { station := 2, step := 0, gw := testW, xframe := frame xHdr, ys := [] }
    let s := engineAs { inService with shadows := [f] }
    (s.engine 1).shadows = [f] ∧ (s.st f.station).failed = none ∧ s.cellOf f.station = some 2 ∧ failsOf [] = [] ∧
    (s.engine 1).stations.contains f.station = true ∧ (lookD (s.engine 1).shadowRecs f.station {}).window.length < 15 ∧
    failsOf [badCheck] = [badCheck] := ⟨rfl, rfl, by decide, rfl, by decide, by decide, by decide⟩

/-- Engine 1 holds its calibration ticket. -/
def calibrating (e : Engine) : State := { engineAs e with power := { held := [{ cls := .glideCal 1, claims := claimsOf (.glideCal 1) }] } }

theorem witness_EngineLeavesAndReturns :
    let old : State := { engineAs { inService with calPt := 0 } with pt := 40000000000000 }
    let back := calibrating { inService with state := 4, stations := [] }
    (∃ c ∈ List.range 16, old.triggerHolds 1 c = true) ∧ (old.engine 1).state = 1 ∧
    (back.engine 1).state = 4 ∧ back.calTicket 1 = true ∧ ∀ st ∈ (back.engine 1).stations ++ (back.engine 1).moved, back.forecastOk 1 st = true := by
  decide +kernel

theorem witness_Recalibration :
    let s := calibrating { inService with state := 3 }
    (s.engine 1).state = 3 ∧ s.calTicket 1 = true ∧ s.thermal.stepActive = false ∧
    verifyOk (s.engine 1) 0 = false ∧ verifyOk (s.engine 1) (20 * 2 ^ 20) = true := by decide +kernel

/-! ### Stations that move to their host cell and back -/

/-- Station 2 is on its engine, or on its host cell with its engine back in service; it has loaded object 0 with the map of object 1. -/
def leavingEngine : State := loadedGlide (loading (some 2)) [heldRun (some 1)] []
def withLoad (s : State) : State := s.withSt 2 fun r => { r with glLoad := some (0, 1) }
def awayFrom (returning : List Nat) : State :=
  let s := withLoad (loadedGlide (member wHdr glideP))
  { s with glide := { engines := [(1, { state := 1, moved := [2] })], returning := returning }, cap := { s.cap with engines := 2 } }

theorem readFrames_fails {s : State} {st a : Nat} {l : List Nat} {path : ReadPath} (h : (s.readFrame st a path).frame = none) :
    (s.readFrames st (a :: l) path).2 = none := by
  unfold State.readFrames
  simp only [h]

/-- The station's W lies where no memory is. -/
def lostW : State :=
  let g := withLoad leavingEngine
  { g with job := g.job.map fun j => { j with placement := { j.placement with objects := [(0, { base := 0 })] } } }

theorem lostW_fails : ∃ v, (lostW.replace 2 hostPlace).readFrames 2 ((lostW.replace 2 hostPlace).objectAddrs 0 1) .clean = (v, none) := by
  have h : (lostW.replace 2 hostPlace).objectAddrs 0 1 = [0] := by decide +kernel
  have hf : ((lostW.replace 2 hostPlace).readFrame 2 0 .clean).frame.isNone = true := by decide +kernel
  have := readFrames_fails (l := []) (Option.isNone_iff_eq_none.mp hf)
  rw [h]
  generalize (lostW.replace 2 hostPlace).readFrames 2 [0] .clean = x at this ⊢
  exact ⟨x.1, by rw [← this]⟩

/-- A station without a GL_LOAD, one whose W reads, and one whose W lies where no memory is. -/
theorem witness_ToHostCell :
    let s := leavingEngine
    let g := withLoad leavingEngine
    let b := lostW
    let w (x : State) := x.replace 2 hostPlace
    (s.job.isSome = true ∧ (s.st 2).glLoad = none ∧ (s.st 2).glW = some testW) ∧
    ((g.st 2).glLoad = some (0, 1) ∧ (w g).readFrames 2 ((w g).objectAddrs 0 1) .clean = (w g, some [frame wHdr]) ∧
      wFmt (frame wHdr) = some .int8) ∧
    ((b.st 2).glLoad = some (0, 1) ∧ (∃ v, (w b).readFrames 2 ((w b).objectAddrs 0 1) .clean = (v, none)) ∧ b.dev.bound = true ∧
      b.dev.mode.running = true) := by
  refine ⟨⟨rfl, rfl, rfl⟩, ⟨rfl, ?_, by decide +kernel⟩, rfl, lostW_fails, rfl, rfl⟩
  exact readFrames_clean 2 [(streamBase 0, frame wHdr)] fun x hx => by
    rw [List.mem_singleton.mp hx]
    exact reads_frame 2 rfl rfl

/-- The engine is back, and station 2 may return to it with a map. -/
def OnHost (ms : List (List Byte)) : Prop :=
  let s := withMap (awayFrom [1, 3]) ms
  let u := withMap (awayFrom [3]) ms
  let x : PlaceIn := { course := (awayFrom [3]).course, lodgeSp := 0, map := (awayFrom [3]).cap }
  s.glide.returning = [1, 3] ∧ s.placerFree = true ∧ s.glide.leaving = [] ∧ (s.engine 1).state = 1 ∧ s.dev.bound = true ∧
  s.cap.engines.getLsbD 1 = true ∧ s.movedStations = [2] ∧ s.job.isSome = true ∧ (s.st 2).glLoad = some (0, 1) ∧
  u = { s with glide := { s.glide with returning := [3] } } ∧
  (x.engineRoom s.enginesTaken 1 (s.paramsOf 2) && decide ((s.paramsOf 2).enobFloor ≤ x.predEnob 1 (s.paramsOf 2))) = true ∧
  u.readFrames 2 (s.objectAddrs 0 1) .clean = (u, some [frame wHdr]) ∧ u.readFrames 2 (s.objectAddrs 1 65) .clean = (u, some ms)

/-- A map that the engine accepts, and one that it refuses. -/
theorem witness_EngineReturnsMap :
    let bad := List.replicate 65 (tile 1)
    (OnHost testMap ∧ mapCause testMap [frame wHdr] 1 32 = 0) ∧ (OnHost bad ∧ mapCause bad [frame wHdr] 1 32 ≠ 0) ∧ wFmt (frame wHdr) = some .int8 := by
  have hx : (awayFrom [1, 3]).movedStations = [2] := by decide +kernel
  have hr := (by decide +kernel : let x : PlaceIn := { course := (awayFrom [3]).course, lodgeSp := 0, map := (awayFrom [3]).cap }
    (x.engineRoom (awayFrom [1, 3]).enginesTaken 1 ((awayFrom [1, 3]).paramsOf 2) &&
      decide (((awayFrom [1, 3]).paramsOf 2).enobFloor ≤ x.predEnob 1 ((awayFrom [1, 3]).paramsOf 2))) = true)
  have hb : ∀ f ∈ List.replicate 65 (tile 1), crcOk f = true := fun f hf => by rw [List.eq_of_mem_replicate hf]; exact frame_ok _
  have h (ms : List (List Byte)) (hm : ∀ f ∈ ms, crcOk f = true) (hl : ms.length = 65) :=
    reads_objects (awayFrom [3]) ms rfl rfl rfl (fun _ => rfl) hm hl
  have k (ms : List (List Byte)) (hm : ∀ f ∈ ms, crcOk f = true) (hl : ms.length = 65) :=
    (⟨rfl, rfl, rfl, rfl, rfl, (by decide : (awayFrom [1, 3]).cap.engines.getLsbD 1 = true), hx, rfl, rfl, rfl, hr, (h ms hm hl).1, (h ms hm hl).2⟩ : OnHost ms)
  exact ⟨⟨k _ testMap_ok rfl, testMap_passes⟩, ⟨k _ hb rfl, by decide +kernel⟩, by decide +kernel⟩

end Sys2Proof.Tests
end

