-- ==== Sys2Proof/Tests/Witness3.lean ====
section
/-!
SUPPORT. Concrete states and operands that meet the hypotheses of the obligations: signals and waits, DMA and the fabric's
commands, updates, tickets, jobs, and the placer's events.
-/
namespace Sys2Proof.Tests

-- Proofs are checked one after another: many at once take more threads than the check allows.
set_option Elab.async false

open Machine

/-! ### Signals, waits and windows -/

/-- A member with a window station of four slots. -/
def plain : State := member (row32 1) { memMode := false, slots := 4, windowId := 3 }

def sigTo (st count : Nat) : SignalMsg := { station := st, sem := 1, count := count }
def withSignal (m : SignalMsg) (s : State) : State := { s with cells := { s.cells with signals := [m] } }
def withFile (f : SemFile) (s : State) : State := { s with cells := { s.cells with semFiles := [(1, f)] } }
def waitOn (since : Word) : WaitSt := { sem := 1, count := 2, since := since, whole := true, signal := some 0 }

/-- Cell 1 is the one that its cluster's rotation copies. -/
def copyingCell (s : State) : State :=
  { s with cells := { s.cells with clusters := [(0, { slots := [0, 1], rotation := some { due := 1, phase := .copying } })] } }

theorem witness_SignalsArrive :
    let s := withSignal (sigTo 1 2) plain
    let w (r : WaitSt) := s.withSt 1 fun q => { q with waiting := some r }
    let above := withSignal (sigTo 1 65536) plain
    let held := copyingCell s
    (s.cells.signals[0]? = some (sigTo 1 2) ∧ (sigTo 1 2).src = none ∧ (s.desc 1).isSome = true ∧ (s.st 1).stopped = false ∧
      (s.st 1).finished = false ∧ s.cells.semFiles = [] ∧ s.cellOf 1 = some 1 ∧ s.copying 1 = false ∧ (s.st 1).sem 1 + 2 ≤ 65535 ∧
      (s.st 1).waiting = none) ∧
    (∀ r ∈ [waitOn 0, { waitOn 0 with whole := false }, { waitOn 0 with count := 3 }], ((w r).st 1).waiting = some r ∧
      ((w r).st 1).halted = false ∧ (w r).cells.signals[0]? = some (sigTo 1 2) ∧ (w r).copying 1 = false ∧
      (r.count ≤ (setGrow ((w r).st 1).sems 1 0 (((w r).st 1).sem 1 + 2)).getD r.sem 0 ↔ r.count = 2)) ∧
    (above.cells.signals[0]? = some (sigTo 1 65536) ∧ above.job.isSome = true ∧ above.dev.bound = true ∧ 65535 < (above.st 1).sem 1 + 65536) ∧
    (held.cellOf 1 = some 1 ∧ held.copying 1 = true ∧ held.cells.signals[0]? = some (sigTo 1 2)) := by decide +kernel

/-- Files as the second clause has them: a queue of at most 64, below 8 and above; and two signals of one cycle that overflow. -/
theorem witness_SignalCycles :
    let s (n : Nat) := withFile { applied := 8, queue := List.replicate n (sigTo 1 1) } (withSignal (sigTo 1 2) plain)
    let above : State := { plain with cells := { plain.cells with signals := [sigTo 1 65535, sigTo 1 1] } }
    (∀ n ∈ [7, 8, 64], (s n).cells.semFiles = [(1, { applied := 8, queue := List.replicate n (sigTo 1 1) })] ∧ (s n).cells.signals = [sigTo 1 2] ∧
      (s n).copying 1 = false ∧ (s n).cellOf 1 = some 1 ∧ ((s n).semFile 1).queue.length ≤ 64 ∧ (s n).dev.bound = true ∧
      ∀ p ∈ (s n).cells.semFiles, p.2.applied ≤ 8 ∧ p.2.queue.length ≤ 64) ∧
    (above.cells.semFiles = [] ∧ above.cells.signals = [sigTo 1 65535, sigTo 1 1] ∧ (above.desc 1).isSome = true ∧ (above.st 1).stopped = false ∧
      above.cellOf 1 = some 1 ∧ above.copying 1 = false ∧ above.job.isSome = true ∧ above.dev.bound = true ∧ (above.st 1).sem 1 + 65535 ≤ 65535 ∧
      65535 < (above.st 1).sem 1 + 65535 + 1) := by decide +kernel

theorem witness_WatchdogEnds :
    let s : State := { plain.withSt 1 fun r => { r with waiting := some (waitOn 0) } with pt := 600000000 }
    let t : State := { plain.withSt 1 fun r => { r with ticketSince := some 0 } with pt := 600000000 }
    let early : State := { plain.withSt 1 fun r => { r with waiting := some (waitOn 0) } with pt := 99999 }
    let o : State := { plain.withSt 1 fun r => { r with opSince := some 0 } with pt := 600000000 }
    let late (s : State) (x : Word) : Prop := s.course.watchdogMs * 100000 ≤ s.pt.toNat - x.toNat
    ((s.st 1).stopped = false ∧ s.dev.bound = true ∧ s.job.isSome = true) ∧ (o.st 1).opSince = some 0 ∧ late o 0 ∧
    (s.st 1).waiting = some (waitOn 0) ∧ late s 0 ∧ (t.st 1).ticketSince = some 0 ∧ late t 0 ∧
    (early.st 1).waiting = some (waitOn 0) ∧ (early.st 1).ticketSince = none ∧ (early.st 1).opSince = none ∧ ¬ late early 0 := by decide +kernel

theorem witness_SecondRead :
    let i : Instr := .vecOp 1 {} .add 0 0 0 0x12 .nearest 0 .clean
    let s := plain.withSt 1 fun r => { r with crcWait := some i, crcFrame := (streamBase 0, 0, 0) }
    let c := s.withSt 1 fun r => { r with crcWait := none }
    (s.st 1).stopped = false ∧ (s.st 1).crcWait = some i ∧ s.nvm.levelOk = true ∧
    Reads c 1 (s.st 1).crcFrame.1 (frame (row32 1)) c ∧ s.nvm.level.toNat + 256 < s.bucket.high.toNat * 256 ∧ s.bucket.high.toNat ≤ 64 ∧
    s.dev.bound = true ∧ ReadPath.damaged 1 ≠ .damaged 0 :=
  ⟨by decide, rfl, by decide, reads_frame 1 rfl rfl, by decide, by decide, rfl, by decide⟩

/-! ### DMA and the fabric's commands -/

theorem witness_DmaMoves :
    let a : List (Nat × Nat × Nat) := [(0, streamBase 0, streamBase 1)]
    (Ready plain 6 {} isReader ∧ plain.frameAddr 0 0 = streamBase 0 ∧ plain.slotAddr (plain.outStream 6 0) 0 = streamBase 1 ∧
      ∃ v, Copied 6 (fun _ _ => true) (fun k f => restamp f 1 (k % 2 ^ 32)) a plain v) ∧
    (Ready plain 7 {} isWriter ∧ plain.slotAddr (plain.inStream 7 0) 0 = streamBase 0 ∧ plain.frameAddr 1 0 = streamBase 2 ∧
      ∃ v, Copied 7 (fun k f => seqOk f (0 + k)) (fun k f => restamp f 1 k) [(0, streamBase 0, streamBase 2)] plain v) ∧
    (Ready plain 4 {} isCopy ∧ ∃ v, Copied 4 (fun k f => seqOk f (0 + k)) (fun k f => restamp f 1 (k % 2 ^ 32)) a plain v) :=
  ⟨⟨by unfold Ready; decide +kernel, by decide +kernel, by decide +kernel,
      ⟨_, frame (row32 1), plain, reads_frame 6 rfl rfl, rfl, mapped_buffer rfl (by decide) (by decide), by decide, rfl⟩⟩,
    ⟨by unfold Ready; decide +kernel, by decide +kernel, by decide +kernel,
      ⟨_, frame (row32 1), plain, reads_frame 7 rfl rfl, by decide +kernel, mapped_buffer rfl (by decide) (by decide), by decide, rfl⟩⟩,
    ⟨by unfold Ready; decide +kernel, ⟨_, frame (row32 1), plain, reads_frame 4 rfl rfl, by decide +kernel, mapped_buffer rfl (by decide) (by decide), by decide, rfl⟩⟩⟩

/-- A DMA command outstanding. -/
def dmaOut (n : Nat) : Outst := { kind := .dma, open_ := n, signal := some 0, adv := [{ out := true, port := 0, count := 1 }] }

theorem witness_DmaEnds :
    let s (n : Nat) := plain.withSt 4 fun r => { r with outstanding := [dmaOut n] }
    ∀ n ∈ [1, 2], Open (s n) 4 ∧ (s n).waiters = [] ∧ (s n).inFlight < 32767 ∧
      (s n |>.st 4).outstanding.findIdx? (fun o => o.kind = .dma && o.remoteTo.isNone && decide (o.todo < o.open_)) = some 0 ∧
      ((s n).st 4).outstanding[0]? = some (dmaOut n) := by unfold Open; decide +kernel

/-- A command of 100 frames, of whose 200 transactions 8 wait for the context's room. -/
theorem witness_DmaWaits :
    let o : Outst := { dmaOut 200 with todo := 8 }
    let s := plain.withSt 4 fun r => { r with outstanding := [o] }
    let x := s.withSt 4 fun r => { r with outstanding := updAt r.outstanding 0 fun o => { o with open_ := o.open_ - 1 } }
    (s.st 4).stopped = false ∧ (s.st 4).sendQ = [] ∧ s.nextList 4 = none ∧ s.relay.cmds = [] ∧
    (s.st 4).outstanding.findIdx? (fun o => o.kind = .dma && o.remoteTo.isNone && decide (o.todo < o.open_)) = some 0 ∧
    (s.st 4).outstanding[0]? = some o ∧ 0 < o.todo ∧ o.todo + 1 < o.open_ ∧ (s.st 4).outstanding.length = 1 ∧ x.waiters = [4] ∧
    0 < min o.todo (x.opRoom 4) := by decide +kernel

/-- A device that knows its slice. -/
def inSlice (s : State) : State := { s with fabric := { s.fabric with table := some twoDevices }, config := { s.config with extentX := 4 } }

/-- Every operation is in flight: a station's command has all the transactions that there are. -/
def allTaken (s : State) : State := s.withSt 6 fun r => { r with outstanding := [dmaOut 32768] }

theorem witness_SemRemoteWaits : let s := allTaken (inSlice plain)
    Ready s 4 {} anyKind ∧ s.resolveRank { rel := false, rank := 1 } = some 1 ∧ (s.st 4).clearFor 1 = true ∧ 32768 ≤ s.inFlight :=
  ⟨by unfold Ready; decide +kernel, by decide +kernel, by decide, by decide⟩

theorem witness_SemRemoteFences :
    let s := (inSlice plain).withSt 4 fun r => { r with outstanding := [{ dmaOut 2 with remoteTo := some 2 }] }
    Ready s 4 {} anyKind ∧ s.resolveRank { rel := false, rank := 1 } = some 1 ∧ (s.st 4).clearFor 1 = false :=
  ⟨by unfold Ready; decide +kernel, by decide +kernel, by decide⟩

theorem witness_SemRemoteSends : let s := inSlice plain
    Ready s 4 {} anyKind ∧ (∃ dst, s.resolveRank { rel := false, rank := 1 } = some dst ∧ (s.st 4).clearFor dst = true) ∧ s.inFlight < 32768 ∧
    s.resolveRank { rel := false, rank := 9 } = none :=
  ⟨by unfold Ready; decide +kernel, ⟨1, by decide +kernel, by decide +kernel⟩, by decide, by decide +kernel⟩

theorem witness_WindowsRearmed :
    let s : State := { plain with windows := [(3, { station := 8, slots := [(0, { signalled := true })] }), (4, { station := 7 })] }
    Ready s 8 {} (· == .window) ∧ (look s.windows 3).isSome = true ∧ (look s.windows 4).isSome = true := by unfold Ready; decide +kernel

theorem witness_RemoteCopyLeaves : let s := inSlice plain
    Ready s 4 {} isCopy ∧ s.resolveRank { rel := false, rank := 1 } = some 1 ∧
    (∃ d, s.windowDesc 3 = some d ∧ d.params.memMode = false ∧ 1 < d.params.slots) ∧ (s.st 4).sendQ = [] ∧ Reads s 4 (s.inAddr 4 0) (frame (row32 1)) s ∧
    seqOk (frame (row32 1)) ((s.st 4).inPos 0) = true :=
  ⟨by unfold Ready; decide +kernel, by decide +kernel, ⟨_, rfl, by decide, by decide⟩, by decide, reads_frame 4 rfl rfl, by decide +kernel⟩

/-- There is room for both its packets, the first and, once that is sent, the second. -/
theorem witness_RemoteCopyRoom :
    let s := inSlice plain
    let q (k : Nat) (b : List Byte) : Packet :=
      { opc := 0x01, dst := 1, src := 0, sliceId := 0, windowId := 3, offset := BitVec.ofNat 48 (4256 + k), payload := b }
    let x := s.withSt 4 fun _ =>
      { (s.st 4).issued [{ kind := .dma, open_ := 2, remoteTo := some 1 }] with sendQ := [(0, q 0 (List.replicate 4096 0)), (0, q 4096 (List.replicate 160 0))] }
    0 < x.opRoom 4 ∧ 0 < (x.sendOp 4 .dmaRemote 0 (q 0 (List.replicate 4096 0))).opRoom 4 := by decide +kernel

/-- A frame of one operation entry: a signal to a rank. -/
def entryFrame (rank offset : Nat) : List Byte :=
  signFrame (hdrBytes { fmt := 0x30, rows := 1, cols := 64 } ++ List.replicate 132 0 ++
    padTo 4096 (natLe 1 1 ++ natLe 1 0 ++ natLe 1 4 ++ natLe 1 0 ++ natLe 4 rank ++ natLe 2 5 ++ natLe 6 0 ++ natLe 6 offset))

theorem entryFrame_ok (rank offset : Nat) : crcOk (entryFrame rank offset) = true := by
  refine crcOk_signFrame ?_
  have : (padTo 4096 (natLe 1 1 ++ natLe 1 0 ++ natLe 1 4 ++ natLe 1 0 ++ natLe 4 rank ++ natLe 2 5 ++ natLe 6 0 ++ natLe 6 offset)).length = 4096 := by
    rw [padTo, List.length_append, List.length_take, List.length_replicate]; omega
  simp only [hdrBytes, List.length_append, natLe_length, List.length_replicate, this, frameBytes]

/-- The copy station's input port 7 holds that frame. -/
def listed (rank offset : Nat) : State :=
  let s := inSlice plain
  { s with
    job := s.job.map fun j => { j with course := { j.course with
      stations := j.course.stations.map fun d => if d.id = 4 then { d with inPorts := List.replicate 8 0 } else d } }
    stores := { mem := (({} : Memory).write (streamBase 0) (entryFrame rank offset) []).1 } }

theorem reads_listed (rank offset : Nat) : Reads (listed rank offset) 4 (streamBase 0) (entryFrame rank offset) (listed rank offset) := by
  have hl := crcOk_length (entryFrame_ok rank offset)
  refine reads_buffer 4 rfl (entryFrame_ok rank offset) (by decide) ?_ (by decide) (by decide)
  have := Memory.read_write {} (a := streamBase 0) (b := entryFrame rank offset) (by decide) (by rw [hl]; rfl) (frame_nonempty (entryFrame_ok _ _))
  rw [hl] at this
  exact this

theorem witness_OperationLists :
    let base (rank off : Nat) : Prop := let s := listed rank off
      Ready s 4 {} isCopy ∧ s.fabric.lists = [] ∧ s.stores.mem.wf = true ∧ (s.st 4).outstanding = [] ∧
      Reads s 4 (s.inAddr 4 7) (entryFrame rank off) s ∧ seqOk (entryFrame rank off) ((s.st 4).inPos 7) = true ∧
      isOpList (entryFrame rank off) = true ∧ (hdrOf (entryFrame rank off)).rows = 1
    base 1 0 ∧ base 0 8 :=
  ⟨⟨by unfold Ready; decide +kernel, rfl, Memory.write_wf rfl _ _ _, by decide, reads_listed 1 0, by decide +kernel, by decide +kernel, by decide +kernel⟩,
    ⟨by unfold Ready; decide +kernel, rfl, Memory.write_wf rfl _ _ _, by decide, reads_listed 0 8, by decide +kernel, by decide +kernel, by decide +kernel⟩⟩

theorem witness_OperationEntries : let e (rank off : Nat) := sub (entryFrame rank off) 0xA0 64
    ((listed 0 8).checkEntry (e 0 8) = .status 2 ∧ (listed 0 8).mapped ((listed 0 8).outAddr 4 0) frameBytes ∧
      (listed 0 8).outAddr 4 0 % 8 = 0) ∧
    ((listed 1 0).checkEntry (e 1 0) = .send 1 ∧ (listed 1 0).maySend ((listed 1 0).entryPacket (e 1 0) 1) = true) ∧
    (listed 9 0).checkEntry (e 9 0) = .rankRange :=
  ⟨⟨by decide +kernel, mapped_buffer rfl (by decide +kernel) (by decide +kernel), by decide +kernel⟩, by decide +kernel, by decide +kernel⟩

/-! ### Parameter updates -/

/-- A coefficient row and a set row of one stream of parameters: object 0 is read and object 1 written. -/
def coefRow : List Byte := natLe 0x58 0 ++ natLe 4 0x3F800000 ++ natLe 36 0
def slotRow (a b fmt : Nat) : List Byte := natLe 2 a ++ natLe 2 b ++ natLe 4 fmt
def setRow : List Byte := natLe 4 0 ++ natLe 4 0 ++ natLe 8 1 ++ slotRow 0 1 0x12 ++ natLe 24 0 ++ slotRow 0 0xFFFF 0x12

def updHdr : Hdr := row32 0x12

/-- The update station's member: the objects lie in stack 2. -/
def updating : State :=
  let s := member updHdr {}
  { s with
    job := s.job.map fun j => { j with
      course := { j.course with rows := [coefRow, setRow] }, serviceList := [2]
      placement := { j.placement with objects := [(0, { base := 0 }), (1, { base := 65536 })] } }
    stores := { mem := (({} : Memory).write 0 (frame updHdr) []).1, lodgeSp := 16 } }

def updCmd (retry : List (Nat × Nat)) (todo : List Nat) : UpdCmd := { id := 7, row := 0, set := 1, todo := todo, step := 0, objects := [0, 1], retry := retry }
def withUpdate (c : UpdCmd) (s : State) : State :=
  s.withSt 3 fun r => { r with upd := r.upd ++ [c], outstanding := r.outstanding ++ [{ kind := .upd, id := 7, open_ := 1, signal := some 0 }] }

theorem witness_UpdateIssues :
    let two := withUpdate (updCmd [] []) (withUpdate (updCmd [] [0]) updating)
    (Ready updating 3 {} (· == .update) ∧ (updating.st 3).upd.length < 2) ∧ Ready two 3 {} (· == .update) ∧ 2 ≤ (two.st 3).upd.length := by
  unfold Ready; decide +kernel

theorem witness_UpdateEnds :
    let s := withUpdate (updCmd [] []) updating
    Open s 3 ∧ (s.st 3).upd.find? (fun c => c.todo.isEmpty) = some (updCmd [] []) ∧ (s.st 3).indexOf 7 = some 0 ∧
    ((s.st 3).outstanding[0]?.map (·.open_)) = some 1 ∧ s.serviceList.Nodup := by unfold Open; decide +kernel

/-- The state in which an update reads: nothing but the frame's cells differs from the member's. -/
def updReading (retry : List (Nat × Nat)) : State := withUpdate (updCmd retry [0]) updating

/-- With no cache portion a slot is read as any frame is. -/
theorem readSlot_uncached {s : State} {st a : Nat} (path : ReadPath) (h : s.lodgeCaches a = false) :
    s.readSlot st a path = s.readFrame st a path := by
  unfold State.readSlot State.readFrame State.readMem
  rw [h]
  rfl

theorem reads_updating (retry : List (Nat × Nat)) (w : Table Word) :
    ∃ w', ({ updReading retry with wrap := w } : State).readSlot 3 0 .clean =
      { state := { updReading retry with wrap := w' }, frame := some (frame updHdr) } := by
  have hl := crcOk_length (frame_ok updHdr)
  have hc : ({ updReading retry with wrap := w } : State).lodgeCaches 0 = false := rfl
  have hr := Memory.read_write {} (a := 0) (b := frame updHdr) (by decide) (by rw [hl]; rfl) (frame_nonempty (frame_ok updHdr))
  rw [hl] at hr
  have hp : ∀ g < 532, ((updReading []).place (8 * g)).isSome = true ∧ (updReading []).deadGran g = false := by decide +kernel
  obtain ⟨w', h⟩ := reads_counted (s := { updReading retry with wrap := w }) (a := 0) (f := frame updHdr) 3
    (State.sound_of (n := frameBytes) hr (by decide) (by decide) (fun c o e => by cases e) fun g h1 h2 => hp g (by unfold frameBytes at h2; omega))
    (congrArg Prod.snd hr) (frame_ok updHdr) (by decide) hc
  exact ⟨w', (readSlot_uncached .clean hc).trans h⟩

theorem readSlots_two {s u v : State} {st f : Nat} {c : UpdCmd} {x y : Slot} {b d : List Byte} (hc : c.retry = [])
    (h : s.readSlot st (s.frameAddr x.src f) .clean = { state := u, frame := some b })
    (g : u.readSlot st (u.frameAddr y.src f) .clean = { state := v, frame := some d }) :
    s.readSlots st f c [x, y] .clean [] = (v, some [b, d]) := by
  simp [State.readSlots, ReadPath.shift, hc, h, g]

theorem witness_UpdateFrames :
    let s := updReading []
    let x := setOf (s.row 1)
    let fs := [frame updHdr, frame updHdr]
    s.updTarget 3 2 0 = some (updCmd [] [0]) ∧ s.stores.mem.wf = true ∧ (∃ v, s.readSlots 3 0 (updCmd [] [0]) x.used .clean [] = (v, some fs)) ∧
    sharedShape ((List.zip x.used fs).map fun p => slotFrame p.1 p.2 0) = some (1, 32) ∧ fitsSlots x 1 32 = true := by
  refine ⟨by decide +kernel, Memory.write_wf rfl _ _ _, ?_, by decide +kernel, by decide +kernel⟩
  have h : (setOf ((updReading []).row 1)).used = [{ src := 0, dst := 1, fmt := 0x12 }, { src := 0, dst := 0xFFFF, fmt := 0x12 }] := by
    decide +kernel
  obtain ⟨w, hv⟩ := reads_updating [] (updReading []).wrap
  obtain ⟨w', hw⟩ := reads_updating [] w
  exact ⟨_, by rw [h]; exact readSlots_two (x := { src := 0, dst := 1, fmt := 0x12 }) (y := { src := 0, dst := 0xFFFF, fmt := 0x12 }) rfl hv hw⟩

/-- The engine reads again a frame whose first read failed, and it verifies. -/
theorem witness_UpdateTransients :
    let c := updCmd [(0, 0)] [0]
    let s := updReading c.retry
    let x : Slot := { src := 0, dst := 1, fmt := 0x12 }
    (0, s.frameAddr x.src 0) ∈ c.retry ∧ ∃ w, s.readSlot 3 (s.frameAddr x.src 0) .clean =
        { state := { s with wrap := w }, frame := some (frame updHdr) } ∧
      ({ s with wrap := w } : State).nvm.level.toNat + 256 < ({ s with wrap := w } : State).bucket.high.toNat * 256 ∧
      ({ s with wrap := w } : State).bucket.high.toNat ≤ 64 := by
  obtain ⟨w, h⟩ := reads_updating [(0, 0)] (updReading [(0, 0)]).wrap
  have h1 : (updReading []).nvm.level.toNat + 256 < (updReading []).bucket.high.toNat * 256 ∧ (updReading []).bucket.high.toNat ≤ 64 := by decide
  exact ⟨by decide, w, h, h1⟩

theorem witness_UpdateFramesDisjoint :
    let s := updReading []
    let fs := [frame updHdr, frame updHdr]
    let outs := updFrames (coefOf (s.row 0)) (setOf (s.row 1)) fs 1 32 0 3 0 s.seed
    (∀ o ∈ outs, s.mapped (s.frameAddr o.1.dst 0) 4256 ∧ s.frameAddr o.1.dst 0 % 8 = 0 ∧ o.2.length = 4256) ∧ outs.length = 1 := by
  have h : ∀ o ∈ updFrames (coefOf ((updReading []).row 0)) (setOf ((updReading []).row 1)) [frame updHdr, frame updHdr] 1 32 0 3 0
      (updReading []).seed, (updReading []).frameAddr o.1.dst 0 = 65536 ∧ o.2.length = 4256 := by decide +kernel
  refine ⟨fun o ho => ?_, by decide +kernel⟩
  obtain ⟨h1, h2⟩ := h o ho
  rw [h1]
  refine ⟨fun y h3 h4 => place_stack (s := updReading []) (n := 1) rfl ?_, by decide, h2⟩
  rw [Nat.div_eq_of_lt (by unfold stackUnit; omega)]
  decide

/-- The frames that do not verify: memory lists nothing. -/
def updBroken (retry : List (Nat × Nat)) : State := { updReading retry with stores := {} }

/-- A slot read over a damaged path gives no frame, and its address is kept. -/
theorem readSlots_damaged (s : State) (st f : Nat) (c : UpdCmd) (x : Slot) (r : List Slot) :
    (s.readSlots st f c (x :: r) (.damaged 0) []).2 = none ∧
    ((s.readSlots st f c (x :: r) (.damaged 0) []).1.st st).crcFrame.1 = s.frameAddr x.src f := by
  have h : ∀ (t : State) (m : MemRead) (a : Nat), (t.frameOf m st a (.damaged 0)).frame = none ∧
      ((t.frameOf m st a (.damaged 0)).state.st st).crcFrame.1 = a := by
    intro t m a
    unfold State.frameOf
    rw [if_neg (fun h => h.2.1 rfl)]
    exact ⟨rfl, by rw [State.st_withSt]⟩
  unfold State.readSlots State.readSlot
  simp only [(h _ _ _).1]
  exact ⟨trivial, (h _ _ _).2⟩

theorem witness_UpdateFramesFail :
    let x := setOf (updating.row 1)
    let v (l : List (Nat × Nat)) := (updBroken l).readSlots 3 0 (updCmd l [0]) x.used (.damaged 0) []
    (updBroken []).updTarget 3 2 0 = some (updCmd [] [0]) ∧ (updBroken [(0, 0)]).updTarget 3 2 0 = some (updCmd [(0, 0)] [0]) ∧
    (v []).2 = none ∧ (0, ((v []).1.st 3).crcFrame.1) ∉ (updCmd [] [0]).retry ∧ (v [(0, 0)]).2 = none ∧
    (0, ((v [(0, 0)]).1.st 3).crcFrame.1) ∈ (updCmd [(0, 0)] [0]).retry ∧ (updBroken []).dev.bound = true ∧ (updBroken [(0, 0)]).nvm.levelOk = true ∧
    (updBroken []).stores.mem.wf = true := by
  have h : (setOf (updating.row 1)).used = [{ src := 0, dst := 1, fmt := 0x12 }, { src := 0, dst := 0xFFFF, fmt := 0x12 }] := by
    decide +kernel
  refine ⟨by decide +kernel, by decide +kernel, ?_, by decide, ?_, ?_, by decide, by decide, by decide⟩
  · rw [h]; exact (readSlots_damaged ..).1
  · rw [h]; exact (readSlots_damaged ..).1
  · rw [h, (readSlots_damaged ..).2]; decide

/-! ### Tickets -/

def arrayFail : ArrayFail := { array := 1, row := 2, kBlock := 3, pass := 0, cObs := 7 }

def ticket (c : TicketClass) (o : Nat := 0) : Ticket := { cls := c, claims := claimsOf c, order := o }
def tickets (queue held : List Ticket) : State := { plain with power := { plain.power with queue := queue, held := held }, pt := 5000 }

theorem witness_TicketGrants :
    let ok (pool : Nat) (k : Ticket) : Prop := let s := tickets [k] []
      headOf s.grantable pool = some k ∧ atHeads s.grantable k = true ∧ fits s.power k = true ∧ s.thermal.stepActive = false
    (∃ p ∈ List.range 32, ok p (ticket (.arrayBurst 0))) ∧ (∃ p ∈ List.range 32, ok p (ticket (.glideUser 0))) ∧
    (∃ p ∈ List.range 32, ok p (ticket (.stackBurst 1 2))) ∧ (∃ p ∈ List.range 32, ok p (ticket (.link 2))) ∧
    (∃ p ∈ List.range 32, ok p (ticket (.glideCal 0))) ∧ failsOf [] = [] ∧ failsOf [arrayFail] ≠ [] := by decide +kernel

theorem witness_TicketWaits : let s := tickets [ticket (.arrayBurst 5)] (List.replicate 300 (ticket (.arrayBurst 1)))
    ∃ p ∈ List.range 32, headOf s.grantable p = some (ticket (.arrayBurst 5)) ∧ fits s.power (ticket (.arrayBurst 5)) = false := by decide +kernel

theorem witness_TicketRecalls :
    let s := tickets [ticket (.stackBurst 1 2)] ((List.range 12).map fun k => ticket (.stackBurst k 8))
    let old : State := { s with power := { s.power with headSince := (List.range 64).map fun k => (k, 0) } }
    ∃ p ∈ List.range 32, (headOf s.grantable p).isSome = true ∧ (headOf old.grantable p).isSome = true ∧
      2000 ≤ old.pt.toNat - (lookD old.power.headSince p old.pt).toNat ∧ s.pt.toNat - (lookD s.power.headSince p s.pt).toNat < 2000 := by
  decide +kernel

/-- Stack 1's controller holds nine bulk reads of pseudo-channel 0. -/
def busyStack (s : State) : State :=
  { s with stores := { s.stores with stackSet := [(1, { channels := [(0, {
      bulkRd := List.replicate 9 { req := { id := 0, kind := .read, addr := 0, len := 32, data := [] }, order := 0 } })] })] } }

theorem witness_StackBurstReleases :
    let mine (k : Ticket) : Bool := match k.cls with
      | .stackBurst n _ => n = 1
      | _ => false
    let idle := tickets [] [ticket (.stackBurst 1 2)]
    let busy := busyStack idle
    plain.power.held.find? mine = none ∧ idle.power.held.find? mine = some (ticket (.stackBurst 1 2)) ∧
    (idle.stack 1).channels.all (fun c => decide (c.2.load < 8)) = true ∧ (busy.stack 1).channels.all (fun c => decide (c.2.load < 8)) = false ∧
    2 < burstK busy.power 1 := by decide +kernel

/-! ### Jobs -/

/-- A job's message from the fabric. -/
def jobMsg (id : Nat) : Msg := { fabricMsg [] with jobId := id }

theorem witness_ManifestTaken :
    let ready : State := { inMode .ready with fabric := { State.reset.fabric with table := some twoDevices } }
    let m := fabricMsg []
    Fresh ready 0x11 m ∧ Fresh ready 0x11 (msg []) ∧ (m.route ≠ .i3c ∧ (ready.dev.mode = .ready ∨ ready.dev.mode = .watch) ∧
      ready.dev.bound = false ∧ ready.fabric.table.isSome = true) ∧ ready.job.any (fun j => decide (j.phase = .admitted)) = false ∧
    manifestOk m.jobId m.body = false ∧ (admitted .ready smallCourse).job.any (fun j => decide (j.phase = .admitted)) = true := by
  unfold Fresh; decide +kernel

/-- An image of one vector station whose stream is a HALT, its CRC not yet in place. -/
def imageParts : List Byte :=
  natLe 4 0x45535243 ++ natLe 2 1 ++ natLe 2 0 ++ natLe 4 128 ++ natLe 4 0 ++ natLe 8 272 ++ natLe 8 7 ++ natLe 4 1 ++ natLe 12 0 ++ natLe 8 128 ++
    natLe 8 0 ++ natLe 8 0 ++ natLe 8 0 ++ natLe 8 256 ++ natLe 8 256 ++ natLe 4 0 ++ natLe 28 0 ++
    (natLe 2 0 ++ natLe 1 2 ++ natLe 1 0 ++ natLe 1 1 ++ natLe 3 0 ++ natLe 4 0 ++ natLe 4 1 ++ List.replicate 32 0xFF ++
      (List.replicate 12 (natLe 4 0xFFFF0000)).flatten ++ (List.replicate 4 (natLe 4 0xFF000000)).flatten ++ natLe 16 0) ++
    natLe 16 (0x05 * 2 ^ 120)

def testImage : List Byte := splice imageParts 0x7C (natLe 4 (crc32c imageParts).toNat)

theorem testImage_crc : fld testImage 0x7C 4 = (crc32c (splice testImage 0x7C (natLe 4 0))).toNat := by
  have h1 : splice testImage 0x7C (natLe 4 0) = imageParts :=
    (splice_splice (l := imageParts) (b := natLe 4 (crc32c imageParts).toNat) (c := natLe 4 0) (off := 0x7C)
      (by rw [natLe_length]; decide +kernel) (by rw [natLe_length, natLe_length])).trans (by decide +kernel)
  have h2 : sub testImage 0x7C 4 = natLe 4 (crc32c imageParts).toNat := by
    have := sub_splice (l := imageParts) (b := natLe 4 (crc32c imageParts).toNat) (off := 0x7C) (by rw [natLe_length]; decide +kernel)
    rw [natLe_length] at this
    exact this
  rw [h1, fld, h2, leNat_natLe]
  exact Nat.mod_eq_of_lt (crc32c imageParts).isLt

theorem testImage_ok : imageOk testImage = true := by
  unfold imageOk
  simp only [Bool.and_eq_true, decide_eq_true_eq]
  exact ⟨⟨⟨⟨⟨⟨by decide +kernel, by decide +kernel⟩, by decide +kernel⟩, by decide +kernel⟩, testImage_crc⟩, by decide +kernel⟩,
    by decide +kernel⟩

theorem testImage_admitted : admission testImage (List.replicate 16 { axes := 0, weight := 0 }) 0 = .ok (courseFrom testImage) := by
  unfold admission
  have h1 : ¬ (fld testImage 4 2 ≠ 1 ∨ fld testImage 6 2 ≠ 0) := by decide +kernel
  have h2 : reservedOk testImage = true := by decide +kernel
  have h3 : descriptorsOk testImage (courseFrom testImage) (List.replicate 16 { axes := 0, weight := 0 }) = true := by decide +kernel
  have h4 : opcodesOk (courseFrom testImage) = true := by decide +kernel
  have h5 : capacityOk (courseFrom testImage) 0 = true := by decide +kernel
  have h6 : reproOk (courseFrom testImage) = true := by decide +kernel
  have h7 : writersOk (courseFrom testImage) = true := by decide +kernel
  simp only [testImage_ok, h1, h2, h3, h4, h5, h6, h7, Bool.not_true, Bool.false_eq_true, if_false]

/-- A manifest for job 9 with an image and no restore list. -/
def manifestHead (n : Nat) : List Byte :=
  natLe 4 0x4D4E4654 ++ natLe 2 1 ++ natLe 2 0 ++ natLe 8 9 ++ natLe 8 4 ++ natLe 4 11 ++ natLe 4 0 ++ natLe 8 n ++ natLe 24 0 ++ natLe 128 0
def manifestOf (image : List Byte) : List Byte := manifestHead image.length ++ image

theorem witness_ManifestAdmitted :
    let m : Msg := { jobMsg 9 with body := manifestOf testImage }
    let b := m.body
    manifestOk m.jobId b = true ∧ admission (sub b 0xC0 (fld b 0x20 8)) (groupsOf b) (fld b 0x1C 1) = .ok (courseFrom testImage) ∧ restoresOf b = [] := by
  refine ⟨by decide +kernel, ?_, by decide +kernel⟩
  have h1 : groupsOf (manifestOf testImage) = List.replicate 16 { axes := 0, weight := 0 } := by decide +kernel
  have h2 : fld (manifestOf testImage) 0x1C 1 = 0 := by decide +kernel
  have h3 : fld (manifestOf testImage) 0x20 8 = testImage.length := by decide +kernel
  have h4 : sub (manifestOf testImage) 0xC0 testImage.length = testImage := by
    unfold sub manifestOf
    rw [show (0xC0 : Nat) = (manifestHead testImage.length).length from by decide +kernel, List.drop_left, List.take_length]
  simp only [h1, h2, h3, h4]
  exact testImage_admitted

theorem witness_ManifestRefused :
    let b := manifestOf []
    manifestOk 9 b = true ∧ (match admission (sub b 0xC0 (fld b 0x20 8)) (groupsOf b) (fld b 0x1C 1) with
      | .error e => decide (e = 1)
      | .ok _ => false) = true := by decide +kernel

theorem witness_StartLetsIssue :
    Fresh (bound .bound) 0x12 (jobMsg 9) ∧ (bound .bound).job = some (boundJob .bound) ∧ (bound .bound).dev.bound = true ∧
    (boundJob .bound).jobId = (jobMsg 9).jobId ∧ (boundJob .bound).phase = .bound ∧ Fresh (bound .bound) 0x12 (msg []) := by
  unfold Fresh; decide +kernel

theorem witness_JobStarts :
    let small := admitted .ready smallCourse
    let huge := admitted .ready hugeCourse
    let bare : State := { inMode .ready with job := some (smallJob smallCourse) }
    let start (s : State) (c : Course) : Prop :=
      s.job = some (smallJob c) ∧ s.dev.mode = .ready ∧ s.dev.bound = false ∧ s.placerIdle = true
    start small smallCourse ∧ start huge hugeCourse ∧ start bare smallCourse := by decide +kernel

theorem witness_JobBelowFloor : ({ inMode .ready with job := some (smallJob smallCourse) } : State).leaveStacks.leaveSlices.dropTests.bindClusters.belowFloor =
    true := by decide +kernel

theorem witness_JobAboveFloor : (admitted .ready smallCourse).leaveStacks.leaveSlices.dropTests.bindClusters.belowFloor = false := by decide +kernel

/-- A capacity map on which the small Course is placed, and the huge one is not. -/
theorem witness_JobPlaced :
    let m : CapMap := { ranks := [(0, 16), (1, 16)], stackSet := 4095, engines := 1 }
    (match PlaceIn.place { course := smallCourse, lodgeSp := 0, map := m } with
      | .ok p => decide ((lookD p.pl.objects 0 {}).base % 8 = 0)
      | .error _ => false) = true ∧ smallCourse.objects.map (·.frames) = [1] ∧
    (PlaceIn.place { course := hugeCourse, lodgeSp := 0, map := m }).toOption.isSome = false := by decide +kernel

/-! ### The placer at run -/

/-- Station 0 waits for its confirmation. -/
def failing (s : State) : State :=
  let s := s.withSt 0 fun r => { r with failed := some (.mmRunCommit 0, arrayFail), confirming := true }
  { s with cells := { s.cells with placeQueue := [0, 1] } }

theorem witness_ConfirmationPlaced :
    let s := failing (bound .started)
    let t := failing (noSpare (bound .started))
    (s.cells.placeQueue = [0, 1] ∧ s.cells.confirmation = none ∧ (s.st 0).failed = some (.mmRunCommit 0, arrayFail) ∧ s.cellOf 0 = some 5 ∧
      (s.secondCell (5 / 16)).isSome = true) ∧
    (t.cells.placeQueue = [0, 1] ∧ t.cells.confirmation = none ∧ (t.st 0).failed = some (.mmRunCommit 0, arrayFail) ∧ t.cellOf 0 = some 5 ∧
      t.secondCell (5 / 16) = none ∧ t.dev.mode.running = true ∧ t.dev.bound = true) := by decide +kernel

/-- The spare of cluster 0, which is the second cell, is under test, or its test stands aside. -/
def testing (p : RotPhase) (s : State) : State := s.withCluster 0 fun c => { c with rotation := some { due := 16, phase := p } }

theorem witness_ConfirmationInterrupts :
    let s := testing .testing (failing (bound .started))
    s.cells.placeQueue = [0, 1] ∧ s.cells.confirmation = none ∧ (s.st 0).failed = some (.mmRunCommit 0, arrayFail) ∧ s.cellOf 0 = some 5 ∧
    s.secondCell (5 / 16) = some 16 ∧ (s.cluster (16 / 17)).rotation = some { due := 16, phase := .testing } := by decide +kernel

theorem witness_ConfirmationEnds :
    let k : Confirmation := { station := 0, firstCell := 5, secondCell := some 16, fail := arrayFail }
    let s : State := testing .suspended { bound .started with cells := { (bound .started).cells with confirmation := some k } }
    s.cells.confirmation = some k ∧ k.secondCell = some 16 ∧ s.dev.mode.running = true ∧ s.dev.bound = true ∧
    (s.cluster (16 / 17)).rotation = some { due := 16, phase := .suspended } := by decide +kernel

/-- Engine 0 as given, about to leave or to return. -/
def leaving (e : Engine) : State :=
  { bound .started with glide := { (bound .started).glide with engines := [(0, e)], leaving := [0, 2] } }
def returning (e : Engine) (engines : BitVec 4) : State :=
  { bound .started with
    glide := { (bound .started).glide with engines := [(0, e)], returning := [0, 2] }, cap := { (bound .started).cap with engines := engines } }

theorem witness_EngineLeaves :
    let s := leaving { state := 2, stations := [1] }
    let t : State := { s with power := { s.power with held := [ticket (.glideUser 0)] } }
    (s.glide.leaving = [0, 2] ∧ s.placerFree = true ∧ (s.engine 0).state = 2 ∧ s.holds (.glideUser 0) = false ∧ s.calTicket 0 = false ∧
      s.job.isSome = true ∧ s.dev.bound = true) ∧ t.placerFree = true ∧ t.holds (.glideUser 0) = true := by decide +kernel

theorem witness_EngineReturns :
    let gone := returning { state := 2 } 1
    let unlisted := returning { state := 1 } 0
    let alone := returning { state := 1 } 1
    let moved := returning { state := 1, moved := [1] } 1
    let ok (s : State) : Prop := s.glide.returning = [0, 2] ∧ s.placerFree = true ∧ s.glide.leaving = [] ∧ s.dev.bound = true ∧ s.job.isSome = true
    ok gone ∧ ok unlisted ∧ ok alone ∧ ok moved ∧ (gone.engine 0).state ≠ 1 ∧ (unlisted.engine 0).state = 1 ∧
    unlisted.cap.engines.getLsbD 0 = false ∧ alone.cap.engines.getLsbD 0 = true ∧ alone.movedStations = [] ∧ moved.movedStations = [1] ∧
    (moved.st 1).glLoad = none := by decide +kernel

end Sys2Proof.Tests
end

