-- ==== Sys2Proof/Tests/Witness4.lean ====
section
/-!
SUPPORT. Concrete states and operands that meet the hypotheses of the obligations: rotation and cell tests, the bucket, what goes
by the clock, the stacks' controllers and the Lodge.
-/
namespace Sys2Proof.Tests

-- Proofs are checked one after another: many at once take more threads than the check allows.
set_option Elab.async false

open Machine

/-! ### Rotation and cell tests -/

/-- The same device without a job. -/
def unboundReady (s : State) : State := { s with dev := { mode := .ready }, job := none }

/-- Cluster 0 rotates. -/
def rotates (r : Rotation) (s : State) : State := s.withCluster 0 fun c => { c with rotation := some r }
def rot (due : Nat) (phase : RotPhase) (retries : Nat := 0) (inPlace : Bool := false) : Rotation :=
  { due := due, phase := phase, retries := retries, inPlace := inPlace }

/-- Cluster 0's turn has come. -/
def turning : State :=
  { bound .started with pt := 600000000000, cells := { (bound .started).cells with rotEn := true, intervalS := 1 } }

/-- Rotations that wait for the placer. -/
def dueNow (q : List Nat) (s : State) : State := { s with cells := { s.cells with dueQueue := q } }

/-- Its turn has come, or it is queued; first in line, or behind cluster 3; with no turn, with no spare, and waiting to be retried. -/
theorem witness_RotationsBegin :
    let s := turning
    let t := atPt 200000000 (rotates (rot 5 .retrying) (bound .started))
    let idle := bound .started
    let first (s : State) : Prop := s.placerIdle = true ∧ ∀ x ∈ s.cells.dueQueue.head?, x = 0
    let ready (s : State) : Prop := s.dev.bound = true ∧ s.dev.mode = .run ∧ (s.cluster 0).rotation = none
    (∀ q ∈ [[], [0], [0, 4]], let u := dueNow q s
      ready u ∧ (u.cluster 0).spare.isSome = true ∧ (0 ∈ q ∨ u.turnOf 0 = true) ∧ first u ∧ (u.dueSlot 0 (u.cluster 0).slots).isSome = true) ∧
    (∀ q ∈ [[3, 0], [3]], let u := dueNow q s
      ready u ∧ (u.cluster 0).spare.isSome = true ∧ (0 ∈ q ∨ u.turnOf 0 = true) ∧ ¬ first u) ∧
    (ready idle ∧ 0 ∉ idle.cells.dueQueue ∧ idle.turnOf 0 = false) ∧ (ready (noSpare s) ∧ ((noSpare s).cluster 0).spare = none) ∧
    ((t.cluster 0).rotation = some (rot 5 .retrying) ∧ 100000000 ≤ t.pt.toNat - (rot 5 .retrying).since.toNat) := by decide +kernel

theorem witness_RotationBoundaries :
    let s := rotates (rot 5 .waiting) (bound .started)
    let busy := rotates (rot 5 .waiting) ((bound .started).withSt 0 fun r => { r with outstanding := [{ kind := .mm, open_ := 1 }] })
    let x : ShadowFrame := { station := 0, step := 0, gw := { special := false, w := [], rmax := 1 }, xframe := [], ys := [] }
    let shaded : State := { s with glide := { s.glide with engines := [(0, { shadows := [x] })] } }
    let quiet (s : State) := (s.cells.stations.all fun p => s.cellOf p.1 != some 5 || p.2.atBoundary) && !s.shadowWaits 5
    ((s.cluster 0).rotation = some (rot 5 .waiting) ∧ s.cellAt 0 5 = some 5 ∧ quiet s = true) ∧
    ((busy.cluster 0).rotation = some (rot 5 .waiting) ∧ busy.cellAt 0 5 = some 5 ∧ quiet busy = false) ∧
    ((shaded.cluster 0).rotation = some (rot 5 .waiting) ∧ shaded.cellAt 0 5 = some 5 ∧ quiet shaded = false) := by decide +kernel

theorem witness_RotationTimeouts :
    let s (pt n : Nat) := atPt pt (rotates (rot 5 .waiting n) (bound .started))
    (∀ n ∈ [0, 7, 8], ((s 100000 n).cluster 0).rotation = some (rot 5 .waiting n) ∧
      100000 ≤ (s 100000 n).pt.toNat - (rot 5 .waiting n).since.toNat) ∧ (rot 5 .waiting 7).retries < 8 ∧ 8 ≤ (rot 5 .waiting 8).retries ∧
    (s 100000 8).dev.bound = true ∧ (s 100000 8).job.isSome = true ∧ (s 99999 0).pt.toNat - (rot 5 .waiting).since.toNat < 100000 := by
  decide +kernel

/-- A granule written, one of whose bytes then lost its bits; the lines that wait for a write-back. -/
def flippedBy (v : Byte) (a : Nat) (s : State) : State :=
  let m := (({} : Memory).write a [v, 2, 3, 4, 5, 6, 7, 8] []).1
  { s with stores := { s.stores with
    stackFix := [64], padFix := [scratchBase / 64], mem := { m with data := m.data.filter fun c => c.1 != a } } }

/-- A granule with one wrong bit, and one with two. -/
def isCorrected (l : List ZRead) : Bool := match l with
  | [.corrected _] => true
  | _ => false
def isUncorrectable (l : List ZRead) : Bool := match l with
  | [.uncorrectable _] => true
  | _ => false

theorem witness_CellCopied :
    let g := (scratchBase + 5 * 2 ^ 21) / 8
    let m (v : Byte) := (flippedBy v (scratchBase + 5 * 2 ^ 21) (bound .started)).stores.mem
    (m 1).wf = true ∧ isCorrected ((m 1).readGranules g 1).1 = true ∧ (m 3).wf = true ∧ isUncorrectable ((m 3).readGranules g 1).1 = true ∧
    (((({} : Memory).write (8 * g) [1, 2, 3, 4, 5, 6, 7, 8] []).1).readGranules g 1).1 = [.clean] := by decide +kernel

theorem witness_CopyEnds : let s := rotates (rot 5 .copying) (bound .started)
    (s.cluster 0).rotation = some (rot 5 .copying) ∧ (s.cluster 0).spare = some 16 ∧ s.movedStations = [] ∧ s.cellAt 0 5 = some 5 ∧
    s.dev.bound = true ∧ s.job.isSome = true := by decide +kernel

theorem witness_CellTestEnds :
    let s := rotates (rot 5 .testing) (bound .started)
    let bad : List SelfTestFail := [{ test := 0, die := 0, unit := 0, part := .cell 5, repaired := false }]
    (s.cluster (5 / 17)).rotation = some (rot 5 .testing) ∧ (rot 5 .testing).due = 5 % 17 ∧ s.dev.bound = true ∧
    (bad.all (·.repaired) && ([] : List Nat).isEmpty) = false ∧ ((([] : List SelfTestFail).all (·.repaired)) && ([] : List Nat).isEmpty) = true ∧
    ∀ l ∈ [[5], [5, 40]], ({ s with cells := { s.cells with fullTest := some l } } : State).cells.fullTest = some l := by decide +kernel

theorem witness_TestsBegin :
    let s := unboundReady turning
    s.dev.bound = false ∧ s.dev.mode = .ready ∧ (s.cluster 0).rotation = none ∧ s.inPlaceDue 0 = true ∧
    (s.dueSlot 0 (s.goodSlots 0)).isSome = true ∧ s.dev.mode.running = true ∧ (inMode .boot).dev.mode.running = false := by decide +kernel

/-! ### The bucket and WATCH -/

theorem witness_BucketLeaks :
    let s := atPt 4000000000000 { inMode .ready with nvm := { State.reset.nvm with level := 300 } }
    let due := s.bucket.leakH.toNat * 360000000000 / 256
    s.dev.mode ≠ .off ∧ due ≤ s.pt.toNat - s.bucket.leakSince.toNat ∧ s.nvm.level ≠ 0 ∧
    (inMode .ready).pt.toNat - (inMode .ready).bucket.leakSince.toNat < due := by decide +kernel

theorem witness_WatchReleases :
    let s := atPt 26000000000000 { inMode .watch with
      cells := { State.reset.cells with fullTestPassed := true }, bucket := { State.reset.bucket with belowLowSince := some 0 } }
    s.dev.mode = .watch ∧ s.cells.fullTestPassed = true ∧ s.bucket.belowLowSince = some 0 ∧
    s.bucket.releaseH.toNat * 360000000000 ≤ s.pt.toNat - (0 : Word).toNat ∧ (inMode .watch).cells.fullTestPassed = false := by decide +kernel

theorem witness_SuspectRaises_fabric : let m := fabricMsg (natLe 7 0)
    Fresh (inMode .run) 0x16 m ∧ m.body.length = 7 ∧ (inMode .run).nvm.level.toNat < (inMode .run).bucket.high.toNat * 256 := by
  unfold Fresh; decide +kernel

/-! ### What goes by the clock -/

theorem witness_MessageTimers_fabric :
    let c (sends : Nat) : OutMsg := { dest := .fabric 5 false, mtype := 0x40, mseq := 3, chunkOff := 0, sends := sends }
    let s (sends : Nat) : State := { inMode .run with mgmt := { State.reset.mgmt with waiting := [c sends] }, pt := 200000 }
    let p : Partial := { route := .i3c, mseq := 1, mtype := 0x10, total := 4, chunks := [], lastPt := 0 }
    let t : State := { inMode .run with mgmt := { State.reset.mgmt with partials := [p] }, pt := 100000000 }
    (inMode .run).dev.mode ≠ .off ∧
    (∀ n ∈ [1, 8], ((s n).mgmt.waiting.find? fun x => decide (x.mseq = (c n).mseq) && decide (x.chunkOff = (c n).chunkOff)) = some (c n) ∧
      200000 ≤ (s n).pt.toNat - (c n).sentPt.toNat) ∧
    p ∈ t.mgmt.partials ∧ 100000000 ≤ t.pt.toNat - p.lastPt.toNat := by decide +kernel

theorem witness_TelemetryAndHeartbeat :
    let s := atPt 100000000 { bound .started with mgmt := { State.reset.mgmt with telMs := 1000 } }
    s.mgmt.telMs ≠ 0 ∧ s.dev.mode ≠ .off ∧ s.mgmt.telMs.toNat * 100000 ≤ s.pt.toNat - s.mgmt.telLast.toNat ∧ s.dev.bound = true ∧
    s.job.isSome = true ∧ s.mgmt.hbMs.toNat * 100000 ≤ s.pt.toNat - s.mgmt.hbLast.toNat := by decide +kernel

/-! ### The stacks' controllers -/

def memReq (a len : Nat) (k : ReqKind) (d : List Byte := []) : MemReq := { id := 4, kind := k, addr := a, len := len, data := d }

/-- A member with twelve stacks. -/
def stacked : State := { bound .started with job := some { boundJob .started with serviceList := List.range 12 } }

/-- Where address 4096 lies. -/
def at4096 : StackLoc := (stacked.stackLoc 4096).getD { stack := 0, pc := 0, bank := 0, row := 0, byte := 0 }

def queued (f : PseudoChannel → PseudoChannel) : State := stacked.withChannel at4096.stack at4096.pc f
def bulk (n : Nat) : List QReq := (List.range n).map fun k => { req := memReq (4096 + 65536 * 12 * k) 128 .read, order := k }

/-- A channel that holds 8 requests. -/
def eightHeld : State := queued fun c => { c with bulkRd := bulk 7 }

theorem witness_RequestsQueue :
    let r := memReq 4096 128 .read
    let w := memReq 4096 128 .write (List.replicate 128 7)
    let a := memReq 4096 8 (.atomic 0 true) (natLe 16 1)
    let far := memReq 0x018000000000 32 .read
    let win := memReq windowBase 32 .read
    (∀ q ∈ [r, w, a], q.len ≠ 0 ∧ partsOf q = [q] ∧ stacked.stackLoc q.addr = some at4096 ∧ stacked.roomFor [q] = true ∧ q.addr % 8 = 0 ∧
      q.data.length % 8 = 0) ∧ stacked.stores.mem.wf = true ∧
    (queued fun c => { c with bulkRd := bulk 64 }).roomFor (partsOf r) = false ∧
    (0 < burstK stacked.power at4096.stack ∧ (eightHeld.channel at4096.stack at4096.pc).load = 7) ∧
    (((flippedBy 1 4096 stacked).queued a 0).reads.all (fun x => x.2.1.bad == false) = true ∧
      ((flippedBy 3 4096 stacked).queued a 0).reads.any (fun x => x.2.1.bad) = true ∧ (flippedBy 3 4096 stacked).stores.mem.wf = true) ∧
    (∀ q ∈ [far, win], partsOf q = [q] ∧ stacked.stackLoc q.addr = none) ∧ inWindow far.addr = false ∧ inWindow win.addr = true := by
  decide +kernel

/-- A read, a write and an atomic that wait in the channel, and what the channel chooses a CK_M later. -/
def qRead (waited : Nat) : QReq := { req := memReq 4096 128 .read, order := 0, waited := waited }
def qWrite (waited : Nat) : QReq := { req := memReq 4096 128 .write (List.replicate 128 7), order := 3, waited := waited }
def qAtomic (waited : Nat) : QReq := { req := memReq 4096 8 (.atomic 0 true) (natLe 16 1), order := 0, waited := waited }
def picked (s : State) : Option Pick :=
  let c := s.aged at4096.stack at4096.pc
  c.choose (fun b => c.heldBank = some b) s.stackLoc
def slow (s : State) : Bool := decide ((s.aged at4096.stack at4096.pc).recent.sum < s.commandRate at4096.stack)

def servesRead : State := queued fun c => { c with bulkRd := [qRead 0] }
def servesWrite : State := queued fun c => { c with bulkWr := [qWrite 0], writeDrain := true }
def servesAtomic : State := queued fun c => { c with narrow := [qAtomic 0] }
def rateSpent : State := queued fun c => { c with bulkRd := [qRead 0], recent := [1, 2, 1] }
def chooses (s : State) (p : Option Pick) : Bool := slow s && picked s == p

theorem witness_ChannelServes : chooses servesRead (some (.request .bulkRd (qRead 1))) = true := by decide +kernel

/-- A write that drains, and an atomic. -/
theorem witness_ChannelServes_others : (chooses servesWrite (some (.request .bulkWr (qWrite 1))) &&
    chooses servesAtomic (some (.request .narrow (qAtomic 1)))) = true := by decide +kernel

/-- The place of what is served, and no fill that waits for it. -/
theorem witness_ChannelServes_place : servesRead.stackLoc 4096 = some at4096 ∧ servesRead.stores.fills = [] := by decide +kernel

/-- A channel whose rate is spent, and one that holds nothing. -/
theorem witness_ChannelServes_idle : (decide (rateSpent.commandRate at4096.stack ≤ (rateSpent.aged at4096.stack at4096.pc).recent.sum) &&
    picked (atPt 0 stacked) == none) = true := by decide +kernel

theorem witness_ChannelMaintains :
    let fix : State := { stacked with stores := { stacked.stores with stackFix := [64] } }
    let scrub := atPt 360000000000 stacked
    let test := stacked.withStack at4096.stack fun k => { k with testQueue := [(at4096.pc, 1, 2)] }
    let chosen (s : State) (w : MaintWork) : Prop := slow s = true ∧ picked s = some (.maint { work := w, waited := 1 })
    chosen fix (.writeBack 64) ∧ (match picked scrub with
      | some (.maint { work := .scrub _, waited := 1 }) => true
      | _ => false) = true ∧ slow scrub = true ∧ chosen test (.rowTest 1 2) := by decide +kernel

/-! ### The Lodge -/

def padPortions (n : Nat) (s : State) : State := { s with stores := { s.stores with lodgeSp := n } }
def lodgeLine (u : Nat) : CacheLine :=
  { unit := u, bytes := List.replicate 256 3, checks := (List.range 32).map fun i => zCheck (granWord (List.replicate 256 3) i) }
def cached (s : State) : State := { s with stores := { s.stores with cache := [(s.homeSlice 4096, [lodgeLine 77, lodgeLine 16])] } }

theorem witness_LodgeRequests :
    let r := memReq 4096 64 .read
    let pad := padPortions 4 stacked
    let held := padPortions 4 (cached stacked)
    (memReq lodgeBase 16 .read).len ≠ 0 ∧ (match pad.place lodgeBase with
      | some (.lodge _ _) => true
      | _ => false) = true ∧
    (match pad.place r.addr with
      | some (.stack _) => true
      | _ => false) = true ∧ pad.stores.lodgeSp ≠ 16 ∧ (padPortions 16 stacked).stores.lodgeSp = 16 ∧ unitParts r = [r] ∧
    (pad.cacheOf (pad.homeSlice r.addr)).find? (·.unit = 16) = none ∧ pad.roomFor [{ id := r.id, kind := .read, addr := 4096, len := 256 }] = true ∧
    (held.cacheOf (held.homeSlice r.addr)).find? (·.unit = 16) = some (lodgeLine 16) ∧ (lodgeLine 16).read.1.all (· == .clean) = true ∧
    held.stores.fills = [] := by decide +kernel

/-- A line of the cache with a granule of two wrong bits. -/
def badLine : CacheLine := { lodgeLine 16 with bytes := 0 :: List.replicate 255 3 }

/-- Writes to a scratchpad portion, a line that is uncorrectable, and reads of addresses with no place. -/
theorem witness_LodgeWrites :
    let w := memReq lodgeBase 16 .write (List.replicate 16 9)
    let pad := padPortions 4 stacked
    let r := memReq 4096 64 .read
    let bad : State := { pad with stores := { pad.stores with cache := [(pad.homeSlice 4096, [badLine])] } }
    (w.len ≠ 0 ∧ (∀ x < 16, (pad.place (lodgeBase + x)).isSome = true) ∧ w.addr % 8 = 0 ∧ w.data.length % 8 = 0 ∧ pad.stores.mem.wf = true) ∧
    ((bad.cacheOf (bad.homeSlice r.addr)).find? (·.unit = 16) = some badLine ∧
      ((badLine.read.1.drop (granSpan (r.addr % 256) r.len).1).take (granSpan (r.addr % 256) r.len).2).any (·.bad) = true) ∧
    ∀ a ∈ [0x018000000000, windowBase], pad.place a = none := by decide +kernel

def fill (marked : Bool) : Fill :=
  { unit := 16, bytes := (lodgeLine 16).bytes, checks := (lodgeLine 16).checks, marked := marked, returned := true, req := 9, addr := 4100, len := 20 }

theorem witness_FillsReturn : ∀ m ∈ [false, true],
    let s : State := { stacked with stores := { stacked.stores with fills := [fill m] } }
    s.stores.fills.find? (fun f => f.unit = 16 && f.returned) = some (fill m) ∧ stacked.stores.fills.find? (fun f => f.unit = 16 && f.returned) = none := by
  decide +kernel

def flipped (a : Nat) : State := flippedBy 1 a stacked

theorem witness_LinesWrittenBack :
    let s := flipped 4096
    let t := flipped scratchBase
    (s.stores.mem.wf = true ∧ s.stores.stackFix.contains 64 = true ∧ (s.stackLoc (64 * 64)).any (fun l => l.stack = at4096.stack) = true ∧
      (match (s.stores.mem.readGranules 512 1).1 with
        | [.corrected _] => true
        | _ => false) = true ∧ s.stores.stackFix.contains 65 = false) ∧
    (t.stores.mem.wf = true ∧ t.stores.padFix.contains (scratchBase / 64) = true ∧
      (match (t.stores.mem.readGranules (scratchBase / 8) 1).1 with
        | [.corrected _] => true
        | _ => false) = true) := by decide +kernel

theorem witness_Scrubs :
    let whole : State := { stacked with stores := { stacked.stores with
      mem := ((({} : Memory).write 4096 (List.replicate 256 1) []).1.write scratchBase (List.replicate 64 1) []).1 } }
    let waits (a : Nat) (n : Nat) : Prop := let s := padPortions n (flipped a)
      s.serviceList.length ≤ 12 ∧ isCorrected (s.stores.mem.readGranules (a / 8) 1).1 = true
    let last := 0x022000000000 + 2 ^ 21 * 2047 + 64 * 32767
    (waits scratchBase 0 ∧ waits last 0 ∧ waits bufferBase 0 ∧ waits (bufferBase + 2 ^ 23 * 127 + 64 * 131071) 0 ∧
      waits (lodgeBase + 2 ^ 24 * 63) 1 ∧ (padPortions 1 stacked).stores.lodgeOos.getLsbD 63 = false) ∧
    (∀ z ∈ (whole.stores.mem.read scratchBase 64).1, z = .clean) ∧ (∀ z ∈ (whole.stores.mem.read 4096 256).1, z = .clean) ∧
    (whole.stackLoc (256 * 16)).map (·.stack) = some at4096.stack ∧ (whole.stack at4096.stack).state = 2 ∧
    ((whole.withStack at4096.stack fun k => { k with state := 3 }).stack at4096.stack).state = 3 := by decide +kernel

/-- Lines of a slice's cache portion, the first clean and the second uncorrectable. -/
theorem witness_ScrubsCache :
    let s : State := padPortions 4 { stacked with stores := { stacked.stores with cache := [(3, [lodgeLine 16, badLine])] } }
    let line (k : Nat) := (4 * 2 ^ 20 + 256 * k) / 64
    (∀ k ∈ [0, 1], s.stores.lodgeSp * 2 ^ 20 ≤ 64 * line k) ∧
    (s.cacheOf 3)[(64 * line 0 - s.stores.lodgeSp * 2 ^ 20) / 256]? = some (lodgeLine 16) ∧ (lodgeLine 16).read.1.all (· == .clean) = true ∧
    (s.cacheOf 3)[(64 * line 1 - s.stores.lodgeSp * 2 ^ 20) / 256]? = some badLine ∧ badLine.read.1.any (·.bad) = true := by decide +kernel

/-! ### Stacks and their rows -/

def stackAs (f : Stack → Stack) (s : State) : State := s.withStack 0 f

theorem witness_RowsTested :
    let s := stackAs (fun k => { k with testQueue := [(0, 1, 2)], pprLeft := 5 }) stacked
    let late := stackAs (fun k => { k with state := 3 }) s
    let m (v : Byte) := (flippedBy v ((s.rowUnit 0 0 1 2 3).getD 0) stacked).stores.mem
    let g := (s.rowUnit 0 0 1 2 3).getD 0 / 8
    (s.stack 0).state = 2 ∧ (late.stack 0).state = 3 ∧ (s.stack 0).testQueue.contains (0, 1, 2) = true ∧
    (s.stack 0).testQueue.contains (0, 1, 3) = false ∧ (s.rowUnit 0 0 1 2 3).isSome = true ∧
    (m 1).wf = true ∧ isCorrected ((m 1).readGranules g 1).1 = true ∧ (m 3).wf = true ∧ isUncorrectable ((m 3).readGranules g 1).1 = true := by
  decide +kernel

/-- A lane's ranges that pass at the limits of R229, and one that is a step too narrow. -/
def laneAt (w : Int) : LaneMargin := { pc := 5, lane := 7, read := (-10, w - 10), write := (0, 24), reference := (3, 13) }

theorem witness_StacksJudged :
    let s := atPt 3200000 (stackAs (fun k => { k with state := 2 }) (inMode .ready))
    let early := atPt 3199999 s
    let due : State := { bound .started with stores := { (bound .started).stores with marginDue := true } }
    let x (w : Int) : MarginResult := { stack := 0, lanes := [laneAt w] }
    (s.stack 0).state = 2 ∧ ticksMs 32 ≤ s.since (lookD (s.stack 0).strobePt (36 * 5 + 7) 0) ∧
    early.since (lookD (early.stack 0).strobePt (36 * 5 + 7) 0) < ticksMs 32 ∧ s.dev.mode = .ready ∧ s.dev.bound = false ∧
    due.stores.marginDue = true ∧ (inMode .ready).stores.marginDue = false ∧
    (failCause (x 24) = 0 ∧ failCause (x 23) ≠ 0 ∧ failCause (resultFor [] 0) ≠ 0 ∧ resultFor [x 24] 0 = x 24) ∧
    stacked.dev.mode ≠ .off ∧ stacked.dev.bound = true ∧ stacked.stores.marginDue = false ∧
    (stacked.stack 0).state = 2 ∧ stacked.dev.mode.running = true := by decide +kernel

end Sys2Proof.Tests
end

