-- ==== Sys2Proof/Tests/Witness5.lean ====
section
/-!
SUPPORT. Concrete states and operands that meet the hypotheses of the obligations: links and their training, and the requests that
a device serves.
-/
namespace Sys2Proof.Tests

-- Proofs are checked one after another: many at once take more threads than the check allows.
set_option Elab.async false

open Machine

/-! ### Training -/

/-- Port 0 as given, its link ticket held and every port cabled. -/
def portAs (p : Port) (b : State := inMode .ready) : State :=
  { b with
    links := { b.links with ports := [(0, p)], strapOk := true }, config := { b.config with cabled := 0x7F }
    power := { b.power with held := [{ cls := .link 0, claims := claimsOf (.link 0) }] }, pt := 900000 }

def allGood : Table Channel := (List.range 162).map fun k => (k, { good := true })

/-- A training word of fibre 0, lane 1, with a state seen. -/
def trainWord (seen lane rt : Nat) (fibre : Nat := 0) (port : Nat := 0) (coord : Nat := 0) : BitVec 128 :=
  let n := 0xB5E3 * 2 ^ 112 + port * 2 ^ 109 + fibre * 2 ^ 105 + lane * 2 ^ 100 + seen * 2 ^ 92 + 2 ^ 52 + coord * 2 ^ 34 + rt * 2 ^ 33
  BitVec.ofNat 128 (n + (wordCrc (BitVec.ofNat 128 n)).toNat)

/-- A port in LIGHT whose peer has come as far, or not. -/
theorem witness_LightSeen :
    let s (seen : Nat) := portAs { state := .light, peerSeen := seen }
    (∀ seen ∈ [0, 1], (s seen).trains 0 = true ∧ ((s seen).port 0).state = .light) ∧
    peerAt ((s 1).port 0).peerSeen .light = true ∧ peerAt ((s 0).port 0).peerSeen .light = false ∧
    ((portAs { state := .up }).port 0).state ≠ .light ∧ fibresNeeded 0 ≤ ((List.range (fibresOf 0)).filter (List.range 9).contains).length ∧
    ¬ fibresNeeded 0 ≤ ((List.range (fibresOf 0)).filter (List.range 7).contains).length := by
  decide +kernel

theorem witness_WordsVerify :
    let s (k : Nat) := portAs { state := .lock, fibresLit := [0], channels := [(1, { relocks := k, verified := 3 })] }
    wordOk (trainWord 3 1 0) = true ∧ wordOk (trainWord 3 2 0) = true ∧ wordOk 0 = false ∧ (s 1).trains 0 = true ∧ ((s 1).port 0).state = .lock ∧
    bits (trainWord 3 1 0).toNat 108 105 = 0 ∧ bits (trainWord 3 1 0).toNat 104 100 = 1 ∧ bits (trainWord 3 2 0).toNat 104 100 ≠ 1 ∧
    (((s 1).port 0).chan 0 1).verified < 16 ∧ (((s 1).port 0).chan 0 1).failed = false ∧ (((s 1).port 0).chan 0 1).relocks < 3 ∧
    3 ≤ (((s 3).port 0).chan 0 1).relocks := by decide +kernel

/-- A port with its lit fibres and peer's maps. -/
def goodPort (st : LinkState) : Port :=
  { state := st, fibresLit := List.range 8, channels := allGood, peerFibres := 0xFF, peerMaps := (List.range 8).map fun k => (k, 0xFFFF) }

/-- In LIGHT, the peer as far or not; in LOCK, a word of another fibre; in ALIGN, the last channel and one that is not, the peer as
far or not. -/
theorem witness_WordsGoOn :
    let s := portAs { state := .light, fibresLit := List.range 8 }
    let aligned (left : List Nat) : Table Channel :=
      (List.range 162).map fun k => (k, { aligned := decide (k ≠ 1) && !left.contains k })
    let a (left : List Nat) := portAs { state := .align, fibresLit := List.range 8, channels := aligned left }
    let rest (left : List Nat) : Bool := ((a left).port 0).fibresLit.all fun g => (List.range 18).all fun v =>
      (g == 0 && v == 1) || (((a left).port 0).chan g v).aligned || (((a left).port 0).chan g v).failed
    ((s.port 0).state = .light ∧ s.trains 0 = true ∧ fibresNeeded 0 ≤ (s.port 0).fibresLit.length ∧ wordOk (trainWord 1 1 0) = true ∧
      peerAt 1 .light = true ∧ wordOk (trainWord 0 1 0) = true ∧ peerAt 0 .light = false) ∧
    (wordOk (trainWord 2 1 0 3) = true ∧ bits (trainWord 2 1 0 3).toNat 108 105 ≠ 0) ∧
    (((a []).port 0).state = .align ∧ (a []).trains 0 = true ∧ rest [] = true ∧ rest [5] = false ∧ peerAt 3 .align = true ∧
      peerAt 2 .align = false ∧ wordOk (trainWord 3 1 0) = true ∧ wordOk (trainWord 2 1 0) = true) := by decide +kernel

/-- In MARGIN with its work done and the peer as far, and not. -/
theorem witness_WordsMargin :
    let s := portAs { state := .margin, workDone := true }
    (s.port 0).state = .margin ∧ s.trains 0 = true ∧ (s.port 0).workDone = true ∧ peerAt 4 .margin = true ∧ peerAt 3 .margin = false ∧
    wordOk (trainWord 4 1 0) = true ∧ wordOk (trainWord 3 1 0) = true := by decide +kernel

/-- The port after a word in MAP: maps missing, a transmit set that is not full, and both full with the peer as far or not. -/
theorem witness_WordsMap :
    let had (n : Nat) : Table (BitVec 18) := (List.range n).map fun k => (k, 0xFFFF)
    let s (n : Nat) (map0 : BitVec 18) := portAs { goodPort .map with peerMaps := put (had n) 7 map0 }
    let w (seen : Nat) : BitVec 128 :=
      let n := 0xB5E3 * 2 ^ 112 + seen * 2 ^ 92 + 8 * 2 ^ 88 + 0xFF * 2 ^ 61 + 2 ^ 52
      BitVec.ofNat 128 (n + (wordCrc (BitVec.ofNat 128 n)).toNat)
    let m (t : State) (seen : Nat) : Port := ((t.withPort 0 fun p => { p with peerSeen := seen }).mapWord 0 (w seen).toNat).port 0
    wordOk (w 5) = true ∧ wordOk (w 4) = true ∧ ((s 7 0xFFFF).port 0).state = .map ∧ (s 7 0xFFFF).trains 0 = true ∧
    (s 7 0xFFFF).identOpen = true ∧ (m (s 6 0xFFFF) 5).mapped 0 = false ∧
    (m (s 7 3) 5).mapped 0 = true ∧ (m (s 7 3) 5).txFull 0 = false ∧ (m (s 7 0xFFFF) 5).mapped 0 = true ∧ (m (s 7 0xFFFF) 5).txFull 0 = true ∧
    peerAt 5 .map = true ∧ peerAt 4 .map = false := by decide +kernel

/-- IDENT and UP: with no straps, a peer that is not the one expected, a fast retrain asked for. -/
theorem witness_WordsIdentify :
    let s := portAs { state := .ident }
    (s.trains 0 = true ∧ wordOk (trainWord 6 1 0 0 1) = true ∧ peerAt (bits (trainWord 6 1 0 0 1).toNat 95 92) .ident = true ∧ s.links.strapOk = true) ∧
    (∃ c ∈ List.range 4, s.identCause 0 (trainWord 6 1 0 0 1 c).toNat 0 ≠ 0) ∧
    ({ s with links := { s.links with strapOk := false } } : State).links.strapOk = false ∧
    wordOk (trainWord 6 1 1) = true ∧ bit (trainWord 6 1 1).toNat 33 = true := by
  decide +kernel

theorem witness_WordsIdentified :
    let s (p : Port) : State := { portAs p with config := { (portAs p).config with extentX := 2 } }
    (∀ p ∈ [goodPort .ident, { state := .ident }], ∃ c ∈ List.range 4, (s p).identCause 0 (trainWord 6 1 0 0 1 c).toNat 0 = 0) ∧
    (goodPort .ident).rxFull 0 = true ∧ (goodPort .ident).txFull 0 = true ∧ ({ state := .ident } : Port).rxFull 0 = false := by decide +kernel

/-- Words in a fast retrain, before and after its 9 µs. -/
theorem witness_WordsRetrain : ∀ since ∈ [899200, 899100],
    let s := portAs { goodPort .retrain with retrainSince := BitVec.ofNat 64 since }
    (s.port 0).state = .retrain ∧ wordOk (trainWord 8 1 1) = true ∧ (s.port 0).workDone = false ∧
    (decide (ticksUs 9 ≤ s.since (s.port 0).retrainSince) = decide (since = 899100)) := by decide +kernel

/-- Margins of a channel that passes six steps, one that passes all, one that fails the first and one not reported; a full set with the
peer as far or not, and one that is not full. -/
theorem witness_MarginsTaken :
    let s (ch : Table Channel) (seen : Nat) := portAs { state := .margin, channels := ch, peerSeen := seen, combs := [0] }
    let r : List ChannelMargin := [{ fibre := 0, chan := 4, errors := [0, 1, 2, 3, 4, 1000, 1001] }, { fibre := 0, chan := 5, errors := List.replicate 11 1000 },
      { fibre := 0, chan := 6, errors := [1001] }, { fibre := 1, chan := 6, errors := [] }]
    ((s allGood 4).port 0).state = .margin ∧ (s allGood 4).trains 0 = true ∧ (∀ x ∈ r, x.chan < 18) ∧
    r.Pairwise (fun a b => a.fibre ≠ b.fibre ∨ a.chan ≠ b.chan) ∧ r.map (fun x => marginOf x.errors) = [some 11, some 16, none, none] ∧
    ((s allGood 4).port 0).rxFull 0 = true ∧ ((s [] 4).port 0).rxFull 0 = false ∧ peerAt 4 .margin = true ∧ peerAt 3 .margin = false := by
  decide +kernel

theorem witness_LimitsEnd :
    let s := portAs { state := .lock }
    ∃ lim, trainLimit (s.port 0).state = some lim ∧ lim ≤ s.pt.toNat - (s.port 0).since.toNat ∧ (s.port 0).suspendedLimit = false ∧
      (s.port 0).workDone = false ∧
      ({ s with pt := 1 } : State).pt.toNat - (s.port 0).since.toNat < lim := ⟨_, rfl, by decide +kernel, by decide, by decide, by decide +kernel⟩

/-- A fast retrain at its limit, and a port whose work in MAP is done, with and without its spares of light. -/
theorem witness_LimitsEnd_others :
    let s := portAs { state := .retrain }
    let m := portAs { state := .map, workDone := true }
    trainLimit (s.port 0).state = some 2000 ∧ 2000 ≤ s.pt.toNat - (s.port 0).since.toNat ∧ (s.port 0).state = .retrain ∧
    (trainLimit (m.port 0).state).isSome = true ∧ (m.port 0).workDone = true ∧ (m.port 0).state = .map ∧
    ((s.cabled 0 && s.linksOpen 0) = true ∧ (s.port 0).holdCause = 0 ∧ (s.port 0).combs.isEmpty = false) := by decide +kernel

/-- Ports that send words and ports that send none. -/
theorem witness_WordsSent :
    (∀ st ∈ [LinkState.light, .retrain], ((portAs { state := st }).port 0).state ≠ .down ∧ ((portAs { state := st }).port 0).state ≠ .up ∧
      ((portAs { state := st }).port 0).state ≠ .held) ∧
    ∀ st ∈ [LinkState.down, .up, .held], ((portAs { state := st }).port 0).state = st := by decide +kernel

/-! ### Link frames and triggers -/

/-- A link frame of a type and a SEQ, its CRC right or not. -/
def frameHead (type seq : Nat) : List Byte := List.replicate 256 (5 : Byte) ++ natLe 4 (type * 64 + seq * 256)
def linkFrame (type seq : Nat) (bad : Bool := false) : List Byte := frameHead type seq ++ natLe 4 ((crc32 (frameHead type seq)).toNat + b2n bad)

theorem leNat_append (l m : List Byte) : leNat (l ++ m) = leNat l + 256 ^ l.length * leNat m := by
  induction l with
  | nil => simp [leNat]
  | cons x r ih =>
    rw [List.cons_append, leNat, leNat, ih, List.length_cons, Nat.pow_succ, Nat.mul_right_comm]
    omega

theorem frameHead_length (type seq : Nat) : (frameHead type seq).length = 260 := by
  rw [frameHead, List.length_append, natLe_length, List.length_replicate]

theorem linkFrame_head (type seq : Nat) (bad : Bool) : sub (linkFrame type seq bad) 0 260 = frameHead type seq := by
  rw [sub, linkFrame, List.drop_zero, ← frameHead_length type seq, List.take_left]

/-- The last eight bytes of a frame: its control word below its CRC. -/
theorem linkFrame_tail (type seq : Nat) (bad : Bool) : fld (linkFrame type seq bad) 256 8 =
    (type * 64 + seq * 256) % 256 ^ 4 + 256 ^ 4 * (((crc32 (frameHead type seq)).toNat + b2n bad) % 256 ^ 4) := by
  have h (p m : List Byte) (hp : p.length = 256) (hm : m.length = 8) : sub (p ++ m) 256 8 = m := by
    rw [sub, ← hp, List.drop_left, ← hm, List.take_length]
  rw [linkFrame]
  generalize (crc32 (frameHead type seq)).toNat + b2n bad = c
  rw [frameHead, List.append_assoc, fld, h _ _ List.length_replicate (by rw [List.length_append, natLe_length, natLe_length]), leNat_append,
    natLe_length, leNat_natLe, leNat_natLe]

theorem tail_bits (c : Nat) : let n := (0 * 64 + 4095 * 256) % 256 ^ 4 + 256 ^ 4 * (c % 256 ^ 4)
    bits n 63 32 = c % 2 ^ 32 ∧ bits n 7 6 = 0 ∧ bits n 19 8 = 4095 := by
  simp only [bits]
  omega

theorem linkFrame_length (type seq : Nat) (bad : Bool) : (linkFrame type seq bad).length = 264 := by
  rw [linkFrame, List.length_append, frameHead_length, natLe_length]

/-- A data frame of SEQ 4095 with its CRC right, and one with it wrong. -/
theorem linkFrame_good (f : List Byte) (e : f = linkFrame 0 4095) :
    (crc32 (sub f 0 260)).toNat = bits (fld f 256 8) 63 32 ∧ bits (fld f 256 8) 7 6 = 0 ∧ bits (fld f 256 8) 19 8 = 4095 := by
  rw [e, linkFrame_tail, linkFrame_head]
  have := (crc32 (frameHead 0 4095)).isLt
  generalize (crc32 (frameHead 0 4095)).toNat = c at *
  have t := tail_bits (c + b2n false)
  have hb : b2n false = 0 := rfl
  refine ⟨?_, t.2⟩
  rw [t.1, hb]
  omega

theorem linkFrame_bad (f : List Byte) (e : f = linkFrame 0 4095 true) : ¬ (crc32 (sub f 0 260)).toNat = bits (fld f 256 8) 63 32 := by
  rw [e, linkFrame_tail, linkFrame_head]
  have := (crc32 (frameHead 0 4095)).isLt
  generalize (crc32 (frameHead 0 4095)).toNat = c at *
  intro h
  have hb : b2n true = 1 := rfl
  rw [(tail_bits (c + b2n true)).1, hb] at h
  omega

theorem witness_FramesArrive :
    let s (n : Nat) := portAs { state := .up, lanes := [(0, { rxSeq := n })] }
    ((s 0).port 0).state = .up ∧ 0 < lanesOf 0 ∧ (lookD ((s 4095).port 0).lanes 0 {}).rxSeq = 4095 ∧
    ((portAs { state := .down }).port 0).state ≠ .up := by decide

theorem witness_LanesResend :
    let l : Lane := { txSeq := 3, replay := [(0, [1]), (1, [1]), (2, [1])], resends := 2, progress := 0 }
    let s := portAs { state := .up, lanes := [(0, l)] }
    (s.port 0).state = .up ∧ (lookD (s.port 0).lanes 0 {}).replay = [(0, [1]), (1, [1]), (2, [1])] ∧ (s.port 0).txWaiting = [] ∧
    (lookD (s.port 0).lanes 0 {}).lastRetry = none ∧ 2 * (s.port 0).rtt + 100 ≤ s.pt.toNat - (lookD (s.port 0).lanes 0 {}).progress.toNat ∧
    ({ s with pt := 1 } : State).pt.toNat - (lookD (s.port 0).lanes 0 {}).progress.toNat < 2 * (s.port 0).rtt + 100 := by decide +kernel

/-- Flits of a replay buffer, and frames of a lane. -/
theorem witness_FramesSent :
    let flit : List Byte := List.replicate 256 5
    let l : Lane := { txSeq := 4095, replay := [(4094, flit)], rxSeq := 3, requesting := true }
    flit.length = 256 ∧ (∀ x ∈ l.replay, x.2.length = 256) ∧ l.replay[0]? = some (4094, flit) ∧ (∀ x ∈ [Machine.linkFrame flit 3 4095 4095], x.length = 264) := by
  decide +kernel

/-- Symbols of channel 1 and fibre 0 with FS, of channel 0, and ones that no correction reaches. -/
def sentWord (w : Nat) : List Nat := rsEncode ((32 * w + 1) :: List.replicate 127 0)
theorem witness_CodewordsRead :
    let s (k : Nat) := portAs { state := .up, channels := put allGood 1 { good := true, mismatch := k } }
    ((s 3).port 0).state = .up ∧ (((s 3).port 0).chan 0 1).retired = false ∧ 4 ≤ (((s 3).port 0).chan 0 1).mismatch + 1 ∧
    (((s 2).port 0).chan 0 1).mismatch + 1 < 4 ∧ ((s 3).port 0).laneAt 0 0 1 = some 1 ∧ ((s 3).port 0).laneAt 0 8 1 = none ∧
    (∀ w ∈ [0, 1], (sentWord w).length = 136 ∧ rsDecode ((sentWord w).map (· % 1024)) = some (sentWord w, 0) ∧
      bits ((sentWord w).headD 0) 9 5 = w ∧ bits ((sentWord w).headD 0) 4 1 = 0 ∧ bit ((sentWord w).headD 0) 0 = true) ∧
    (rsDecode ((List.range 136).map (· % 1024))).isSome = false ∧ (List.range 136).length = 136 := by decide +kernel

theorem witness_ChannelsLost :
    let s := portAs { state := .up, channels := put allGood 1 { good := true, window := 66 }, combs := [0, 1] }
    let one := portAs { state := .up, combs := [0] }
    (s.port 0).state = .up ∧ 64 < ((s.port 0).chan 0 1).window ∧ ((s.port 0).chan 0 1).retired = false ∧ ((s.port 0).chan 0 0).window ≤ 64 ∧
    s.dev.mode ≠ .off ∧ s.dev.mode ≠ .standby ∧ bundleLane 0 2 67 = true ∧ bundleLane 0 2 68 = false ∧ bundleLane 0 3 0 = false ∧
    4 ≤ lookD ((portAs { state := .up, bridgeSpares := [(1, 4)] }).port 0).bridgeSpares 1 0 ∧ lookD (s.port 0).bridgeSpares 1 0 < 4 ∧ (s.port 0).combs.filter (· != (s.port 0).active) = [1] ∧
    (one.port 0).combs.filter (· != (one.port 0).active) = [] := by decide +kernel

theorem witness_PortsSettle :
    let p : Port := { goodPort .retrain with peerMaps := (List.range 9).map fun k => (k, 0xFFFF), workDone := true }
    let s := portAs p (bound .started)
    let early := portAs { p with ackEpoch := 3 } (bound .started)
    let often := portAs { p with retrains := List.replicate 5 5 } (bound .started)
    let recent (s : State) := ((s.port 0).retrains.filter fun x => decide (s.pt.toNat - x.toNat ≤ 100000000)).length
    ((s.port 0).state = .retrain ∧ (s.port 0).rxFull 0 = true ∧ (s.port 0).txFull 0 = true ∧ recent s ≤ 4 ∧ (s.port 0).laterTrigger = 0) ∧
    ((s.remap 0).port 0).mapped 0 = true ∧ ((early.remap 0).port 0).mapped 0 = false ∧ ((often.remap 0).port 0).mapped 0 = true ∧
    4 < recent often ∧ (({ state := .retrain } : Port).rxFull 0) = false ∧ edge s.dev.mode .fault = true ∧ s.dev.bound = true ∧
    ((portAs { loopDue := true, state := .map }).port 0).loopDue = true ∧ (portAs {}).dev.bound = false ∧ ((portAs {}).port 0).holdReg = false ∧
    ((portAs { holdReg := true, state := .held, holdCause := 9 }).port 0).holdCause = 9 := by decide +kernel

/-- The maps of a fast retrain are computed once, from 9 µs on. -/
theorem witness_PortsSettle_maps : ∀ x ∈ [(899200, false), (899100, true)],
    let s := portAs { goodPort .retrain with retrainSince := BitVec.ofNat 64 x.1 }
    (s.port 0).workDone = false ∧ decide (ticksUs 9 ≤ s.since (s.port 0).retrainSince) = x.2 := by decide +kernel

theorem witness_CodewordsSent :
    let f := Machine.linkFrame (List.replicate 256 5) 1 0 0
    (∀ x ∈ [f, f], x.length = 264) ∧ 1270 * 0 % 2112 = 0 ∧ 1270 * 1 % 2112 ≠ 0 := by decide +kernel

/-! ### Requests at their destination -/

/-- A device that serves window 3 of station 8: tiles, or memory of object 1. -/
def serving (mem : Bool) (w : Window := { station := 8 }) : State :=
  let s := member (row32 1) { memMode := mem, slots := 2, windowId := 3, object := 1 }
  { s with
    fabric := { s.fabric with table := some twoDevices }, config := { s.config with extentX := 2 }, windows := [(3, w)] }

def request (opc : Byte) (offset : Nat) (payload : List Byte) (window : Nat := 3) (aux : Nat := 0) : Packet :=
  { opc := opc, dst := 0, src := 1, sliceId := 1, windowId := BitVec.ofNat 16 window, offset := BitVec.ofNat 48 offset, payload := payload
    aux := BitVec.ofNat 16 aux }

theorem witness_StoresServed :
    let s := serving true
    let p := request 2 8 [1, 2, 3, 4, 5, 6, 7, 8]
    s.fabric.table.isSome = true ∧ s.mayPerform s.fabric.ordHeld p = true ∧ look s.windows p.windowId.toNat = some { station := 8 } ∧
    (match s.memTarget { station := 8 } 8 8 with
      | .ok o => ((List.range 8).all fun x => (s.place (s.memAddr o 8 + x)).isSome) && (s.memAddr o 8) % 8 == 0
      | .error _ => false) = true ∧ p.badGranules = [] ∧ s.stores.mem.wf = true ∧
    (match s.memTarget { station := 8 } (2 ^ 18) 8 with
      | .ok _ => false
      | .error _ => true) = true ∧ s.dev.bound = true ∧ s.job.any (fun j => decide (j.phase = .started)) = true ∧ s.restore = none ∧
    (s.windowParams { station := 8 }).memMode = true ∧ (request 1 0 [1]).offset.toNat + 1 ≤ s.memSize { station := 8 } ∧
    s.mayPerform s.fabric.ordHeld (request 1 0 [1]) = true ∧ s.stores.cache = [] ∧
    s.memSize { station := 8 } < (request 1 (2 ^ 20) [1]).offset.toNat + 1 :=
  ⟨by decide, by decide, by decide, by decide +kernel, by decide, Memory.write_wf rfl _ _ _, by decide +kernel, by decide, by decide, by decide,
    by decide, by decide +kernel, by decide +kernel, by decide, by decide +kernel⟩

theorem witness_WindowClosed : look { serving true with windows := [] }.windows (request 2 0 [1]).windowId.toNat = none := by decide

theorem witness_TilesReceived :
    let s := serving false
    let last : Window := { station := 8, slots := [(1, { src := some 1, got := [(0, 4192)] })], signalled := 3 }
    let t := serving false last
    let p := request 1 (4256 + 4192) (List.replicate 64 1)
    let x := lookD last.slots 1 {}
    let ok (s : State) (w : Window) : Prop := s.fabric.table.isSome = true ∧ look s.windows 3 = some w ∧ (s.desc 8).isSome = true ∧
      (s.desc 8).map (·.params.memMode) = some false ∧ (s.desc 8).map (·.params.slots) = some 2 ∧ s.stores.mem.wf = true ∧ s.dev.bound = true
    ok s { station := 8 } ∧ ok t last ∧ (∀ z ∈ [s, t], z.mayPerform z.fabric.ordHeld p = true) ∧ p.offset.toNat / 4256 = 1 ∧ p.offset.toNat % 4256 + 64 ≤ 4256 ∧ x.full = false ∧ x.src = some p.src ∧
    (∀ g ∈ x.got, 4192 + 64 ≤ g.1 ∨ g.1 + g.2 ≤ 4192) ∧ ({ x with got := x.got ++ [(4192, 64)] } : SlotState).full = true ∧ x.signalled = false ∧
    last.signalled % 2 = 1 ∧ (lookD last.slots ((last.signalled + 1) % 2) {}).full = false ∧
    ((List.range 64).all fun i => (t.place (t.slotAddr (t.outStream 8 0) 1 + 4192 + i)).isSome) = true ∧ (t.slotAddr (t.outStream 8 0) 1 + 4192) % 8 = 0 ∧
    (∃ g ∈ x.got, g.1 < 64 + 64 ∧ 64 < g.1 + g.2) := by
  refine ⟨⟨by decide, rfl, by decide, by decide, by decide, Memory.write_wf rfl _ _ _, by decide⟩,
    ⟨by decide, rfl, by decide, by decide, by decide, Memory.write_wf rfl _ _ _, by decide⟩, ?_⟩
  decide +kernel

theorem witness_LoadsAndSignals :
    let s := serving true
    let empty : State := { s with stores := {} }
    let g : Packet := { request 6 0 [] 2 3 with pflags := 1 }
    let full := s.withSt 2 fun r => { r with sems := [65535, 4] }
    (match s.memTarget { station := 8 } 0 8 with
      | .ok _ => true
      | .error _ => false) = true ∧
    (match empty.memTarget { station := 8 } 0 8 with
      | .ok o => !((served empty (request 3 0 [] 3 8)).readMem 0 0 (empty.memAddr o 0) 8).2.bad.isEmpty
      | .error _ => false) = true ∧
    s.mayPerform s.fabric.ordHeld (request 3 0 [] 3 8) = true ∧
    g.ord = true ∧ s.mayPerform s.fabric.ordHeld g = true ∧ (s.desc 2).isSome = true ∧ (∀ f ∈ s.cells.semFiles, f.2.queue = []) ∧
    (s.st 2).stopped = false ∧ (s.st 2).finished = false ∧ (s.st 2).waiting = none ∧ (s.st 2).sem 0 + 3 ≤ 65535 ∧ 65535 < (full.st 2).sem 0 + 3 ∧
    full.job.any (fun j => decide (j.phase = .started)) = true := by decide +kernel

/-- The four bytes at the start of the window hold 7; the granule has been written. -/
def sevens : State :=
  let s := serving true
  { s with stores := { s.stores with mem := (({} : Memory).write (s.frameAddr 1 0) (natLe 8 7) []).1 } }

def atomic (opc : Byte) (seq : BitVec 16) : Packet := { request opc 0 (natLe 16 3) 3 0 with seq := seq }

theorem witness_AtomicsApplied :
    let s := sevens
    let p := atomic 4 0
    s.fabric.table.isSome = true ∧ (s.atomState 1).stand 0 = 1 ∧ s.mayPerform s.fabric.ordHeld p = true ∧ p.cmb = false ∧ p.aux.toNat % 16 ≤ 6 ∧
    look s.windows p.windowId.toNat = some { station := 8 } ∧
    (match s.memTarget { station := 8 } 0 4 with
      | .ok o => (s.granReads (s.memAddr o 0) 4).all (·.2 == .clean) && (s.readStore 0 0 (s.memAddr o 0) 4).2.bad.isEmpty &&
        (s.place (s.memAddr o 0)).isSome && s.stores.cache.isEmpty && s.memAddr o 0 / 8 == (s.memAddr o 0 + 4 - 1) / 8
      | .error _ => false) = true := by decide +kernel

theorem witness_AtomicsSeenAndFaulty :
    let s : State := { sevens with fabric := { sevens.fabric with atoms := [(1, { marked := [3], cache := [(3, 7)], stats := [(3, 0)] })] } }
    (s.atomState 1).stand 3 = 2 ∧ lookD (s.atomState 1).stats 3 0 ≠ 4 ∧ (s.atomState 1).stand 0x8000 = 3 ∧ (s.atomState 1).stand 5 ≠ 2 ∧
    s.dev.mode.running = true ∧ s.dev.bound = true := by decide +kernel

/-- A far operation's entry: LOAD, STORE and an add of eight bytes that returns the old value, at the window's start. -/
def farEntry (op : Nat) : List Byte :=
  natLe 1 op ++ natLe 1 0 ++ natLe 1 3 ++ natLe 1 (if 3 ≤ op then 0x10 else 0) ++ natLe 4 0 ++ natLe 2 3 ++ natLe 6 0 ++ natLe 6 0 ++ natLe 10 0 ++ natLe 16 9 ++
    natLe 16 0

theorem witness_FarServed : ∀ op ∈ [1, 2, 4],
    let p := request 8 0 (farEntry op)
    let s := sevens
    s.mayPerform s.fabric.ordHeld p = true ∧ reservedEntry p.payload = false ∧ look s.windows (fld p.payload 8 2) = some { station := 8 } ∧ fld p.payload 0 1 = op ∧
    0x20 + 8 ≤ p.payload.length ∧
    (match s.memTarget { station := 8 } (fld p.payload 0x10 6) 8 with
      | .ok o => (s.granReads (s.memAddr o 0) 8).all (·.2 == .clean) && (s.readStore 0 0 (s.memAddr o 0) 8).2.bad.isEmpty &&
        ((List.range 8).all fun x => (s.place (s.memAddr o 0 + x)).isSome) && s.stores.cache.isEmpty && s.memAddr o 0 / 8 == (s.memAddr o 0 + 8 - 1) / 8
      | .error _ => false) = true := by decide +kernel

/-- A request whose source's writes are not done, one behind it that touches its atom, and one that may be performed. -/
theorem witness_OrderKept :
    let s := serving true
    let late : Packet := { request 2 0 [1] with pflags := 1, wcnt := 9 }
    let now : Packet := { request 6 0 [] 2 1 with pflags := 1 }
    let after : Packet := request 3 0 [] 3 8
    let t : State := { s with fabric := { s.fabric with ordHeld := [late, now] } }
    late.ord = true ∧ s.ordReady late = false ∧ (s.fabric.table.any (fun t => !t.spread) = true ∧ t.fabric.ordHeld.contains late = true ∧
      late.src = after.src ∧ sameAtom late after = true) ∧
    t.mayPerform (t.fabric.ordHeld.take 0) late = false ∧ t.fabric.ordHeld[1]? = some now ∧ now.src = 1 ∧
    t.mayPerform (t.fabric.ordHeld.eraseIdx 1) now = true ∧ now ∉ t.fabric.localIn ∧ now.ord = true := by
  decide +kernel

end Sys2Proof.Tests
end

