-- ==== Sys2Proof/Tests/Witness6.lean ====
section
/-!
SUPPORT. Concrete states and operands that meet the hypotheses of the obligations: the router, the responses, collectives, and
sensors.
-/
namespace Sys2Proof.Tests

-- Proofs are checked one after another: many at once take more threads than the check allows.
set_option Elab.async false

open Machine

/-! ### The router -/

/-- A middle device of three along x: port 0 leads on and port 1 back; port 1 has a flit delivered. -/
def between (st : LinkState) (spread : Bool := true) : State :=
  let s := bound .started
  { s with
    links := { s.links with ports := [(1, { state := st, rxDelivered := [[1]] }), (0, { state := .up }), (2, { state := .down })], strapCoord := 1 }
    config := { s.config with extentX := 3 }, job := some { boundJob .started with replyTo := .fabric 5 false }
    fabric := { s.fabric with table := some { twoDevices with spread := spread, shape := (3, 1, 1) } } }

/-- A packet to a coordinate. -/
def routed (opc : Byte) (dst : Nat) (payload : List Byte := [1, 2]) : Packet :=
  { opc := opc, dst := BitVec.ofNat 18 dst, src := 0, sliceId := 1, windowId := 3, offset := 8, payload := payload
    vc := vcByte ((classOf opc).getD 0) false false false }

def onTable (f : Fabric → Fabric) (s : State) : State := { s with fabric := f s.fabric }

theorem witness_PacketsArrive :
    let s := between .up
    let here := (routed 1 1).restamp
    let on := (routed 1 2).restamp
    let k : SliceTable := { twoDevices with spread := true, shape := (3, 1, 1) }
    let sound (p : Packet) : Prop := p.badHeader = false ∧ p.hchk = p.check ∧ p.cls ≠ 2 ∧ p.fixedBits = []
    (s.port 1).state = .up ∧ sound here ∧ sound on ∧ ({ here with badHeader := true } : Packet).badHeader = true ∧ s.dev.mode.running = true ∧
    s.dev.bound = true ∧ s.fabric.fenced.contains 1 = false ∧ (onTable (fun f => { f with fenced := [1] }) s).fabric.fenced.contains 1 = true ∧
    s.fabric.table = some k ∧ s.inSlice 1 = true ∧ here.sliceId = k.sliceId ∧ classOf here.opc = some here.cls ∧ s.inBox k here.dst = true ∧
    s.inBox k on.dst = true ∧ s.inBox k (routed 1 9).restamp.dst = false ∧ s.route (some k) here.dst here.order = none ∧
    s.route (some k) on.dst on.order = some 0 ∧ look s.fabric.waiting 0 = none ∧ here.badGranules = [] := by decide +kernel

/-- Packets with one corrected granule in the payload, at a port that takes them. -/
theorem witness_GranulesCorrected :
    let s := between .up
    let p : Packet := { routed 1 1 with fixedBits := [(0, 5)] }.restamp
    let m : Packet := { routed 0xC0 1 with fixedBits := [(0, 5)] }.restamp
    p.fixedBits = [(0, 5)] ∧ (s.port 1).state = .up ∧ s.portLive 1 = true ∧ s.fabric.localIn.contains m = false ∧
    s.fabric.localIn.contains { m with fixedBits := [] } = false ∧ Instr.wf (.packetArrival 1 p) = true ∧ Instr.wf (.mgtPacket 1 m) = true := by
  decide +kernel

/-- A packet for this device with an uncorrectable granule in its payload. -/
theorem witness_PacketsPoisoned :
    let s := between .up
    let bad : Packet := { routed 1 1 with badGranules := [0] }.restamp
    bad.badHeader = false ∧ bad.hchk = bad.check ∧ bad.cls ≠ 2 ∧ bad.fixedBits = [] ∧ classOf bad.opc = some bad.cls ∧
    s.inBox { twoDevices with spread := true, shape := (3, 1, 1) } bad.dst = true ∧ bad.badGranules ≠ [] ∧ bad.pflags.getLsbD 2 = false ∧
    s.route s.fabric.table bad.dst bad.order = none := by decide +kernel

theorem witness_PacketsCredited :
    let s := between .up
    let on := (routed 1 2).restamp
    let q : Packet := { on with vc := vcByte on.cls (s.dlAfter on (some 1) 0) on.order on.gnd }
    let spent := onTable (fun f => { f with credits := (List.range 24).map fun c => (c, 32768) }) s
    s.hasCredit 0 q = true ∧ (s.port 0).state ≠ .retrain ∧ s.fabric.fenced.contains 0 = false ∧ spent.hasCredit 0 q = false ∧
    (onTable (fun f => { f with table := none }) s).fabric.table = none := by decide +kernel

/-- Packets of port 0: two of one queue without order between classes, a gondola's packet in its slot, one that waits alone. -/
def gndTable : SliceTable := { twoDevices with spread := true, shape := (3, 1, 1), gondolas := [{ valid := true, dst := 2, share := 1 }] }
def queueing (l : List Packet) (slot : Nat) : State :=
  onTable (fun f => { f with table := some gndTable, waiting := [(0, l)], waitingFrom := [(0, l.map fun _ => 1)], slots := [(0, slot)] }) (between .up)
def gndPacket : Packet := { routed 1 2 with vc := vcByte 0 false false true, gid := 0 }
theorem witness_DeparturesOrdered :
    let l := [routed 1 2, routed 2 2, routed 0x81 2, routed 0xC0 2, gndPacket]
    let at_ (slot : Nat) : State := queueing l slot
    ((at_ 0).nextOut 0).map (·.1) = some 4 ∧ ((at_ 1).nextOut 0).map (·.1) = some 3 ∧
    ((queueing (l.take 3) 1).nextOut 0).map (·.1) = some 2 ∧ ((queueing (l.take 2) 1).nextOut 0).map (·.1) = some 0 ∧
    gndPacket.gnd = true ∧ (at_ 0).slotOwner 0 0 = some 0 ∧ (∀ p ∈ l, p.cls < 3) ∧ ((at_ 0).ready 0).map (·.1) = [0, 2, 3, 4] := by decide +kernel

/-- A packet that waits alone, with credits for it once some come, and with none. -/
theorem witness_DeparturesWait : ∀ given ∈ [0, 32768],
    let p := routed 1 2
    let spent := onTable (fun f => { f with credits := (List.range 24).map fun c => (c, if c = p.channel then 32768 else 0) }) (queueing [p] 1)
    let u := onTable (fun f => { f with credits := put f.credits p.channel (lookD f.credits p.channel 0 - given) }) spent
    lookD spent.fabric.waiting 0 [] = [p] ∧ p.cls < 3 ∧ (spent.port 0).state ≠ .retrain ∧ u.hasCredit 0 p = decide (given = 32768) := by
  decide +kernel

theorem witness_RouterUpkeep :
    let s := between .up
    let down := between .down
    let p (dst seen : Nat) : Packet := { routed 0xC0 dst with wcnt := BitVec.ofNat 16 seen }.restamp
    let ok (s : State) (p : Packet) : Prop := s.fabric.localIn.contains p = false ∧ p.badHeader = false ∧ p.hchk = p.check ∧ p.opc = 0xC0 ∧ p.fixedBits = []
    let load : Combine := { isLoad := true, key := (routed 3 2).loadKey, opened := 0, first := routed 3 2, waiters := [routed 3 2] }
    let atom : Combine := { isLoad := false, key := (routed 4 2).atomKey, opened := 0, first := routed 4 2, waiters := [routed 4 2] }
    let c (pt : Word) : State := { onTable (fun f => { f with combines := [(1, [load, atom])] }) (between .up false) with pt := pt }
    (ok s (p 2 0) ∧ s.portLive 1 = true ∧ s.route none (p 2 0).dst false = some 0 ∧ (s.port 0).state = .up) ∧
    (ok down (p 0 2) ∧ down.portLive 0 = true ∧ down.route none (p 0 2).dst false = some 1 ∧ (down.port 1).state ≠ .up ∧ 2 ≤ (p 0 2).wcnt.toNat) ∧
    lookD s.fabric.waiting 1 [] = [] ∧ ((c 25).combinesOf 1)[0]? = some load ∧ ((c 25).combinesOf 1)[1]? = some atom ∧
    25 ≤ (c 25).pt.toNat - load.opened.toNat ∧ (c 3).pt.toNat - load.opened.toNat < 25 := by decide +kernel

/-! ### Responses -/

def flight (k : OpKind) (refetches : Nat := 0) : FlightOp := { tag := 7, dst := 1, station := 4, kind := k, cmd := 3, refetches := refetches }
def flightOut (n : Nat) : Outst := { kind := .dma, id := 3, open_ := n, signal := some 0, adv := [{ out := false, port := 0, count := 2 }] }
def entryList (rows : Nat) (replies : Table (List Byte)) : OpList :=
  { id := 5, station := 4, outStream := 1, slot := 0, seq := 0, step := 0, rows := rows, cmd := 3, next := rows, replies := replies
    entries := List.replicate rows (natLe 1 1 ++ natLe 1 0 ++ natLe 1 3 ++ natLe 61 0) }

/-- An operation of the copy station in flight. -/
def inFlight (k : OpKind) (n : Nat) (lists : List OpList := []) (refetches : Nat := 0) : State :=
  let s := (serving true).withSt 4 fun r => { r with outstanding := [{ kind := .mm, id := 1, open_ := 1 }, flightOut n], nextId := 4 }
  { s with fabric := { s.fabric with flights := [{ flight .signal with tag := 99 }, flight k refetches], lists := lists } }

/-- The response to it. -/
def response (opc : Byte) (tag : BitVec 16 := 7) : Packet := { opc := opc, dst := 0, src := 1, sliceId := 1, tag := tag }

theorem witness_OperationsEnd : ∀ n ∈ [1, 3],
    let s := inFlight .dmaRemote n
    s.flightFor (response 0x81 8) = none ∧ (response 0x81 8).cmb = false ∧ s.flightFor (response 0x81) = some (flight .dmaRemote) ∧
    (s.st 4).sendQ = [] ∧ Open s 4 ∧ (s.st 4).indexOf 3 = some 1 ∧ (s.st 4).outstanding[1]? = some (flightOut n) ∧
    s.waiters = [] ∧ s.inFlight < 32767 := by
  unfold Open; decide +kernel

theorem witness_EntriesEnd :
    let one := inFlight (.listEntry 5 0) 1 [entryList 1 []]
    let two := inFlight (.far 5 1) 1 [entryList 2 []]
    let l := entryList 1 []
    (one.flightFor (response 0x81) = some (flight (.listEntry 5 0)) ∧ one.fabric.lists = [l] ∧ l.id = 5 ∧ l.station = 4 ∧ l.next = l.rows ∧
      (put l.replies 0 ([] : List Byte)).length = l.rows ∧ (one.st 4).indexOf l.cmd = some 1 ∧ (one.st 4).outstanding[1]? = some (flightOut 1) ∧
      (flightOut 1).open_ = 1 ∧ Open one 4 ∧ one.serviceList = [] ∧ bufferBase ≤ one.slotAddr l.outStream l.slot ∧
      one.slotAddr l.outStream l.slot + frameBytes ≤ bufferBase + 2 ^ 30 ∧ one.waiters = [] ∧ one.inFlight < 32767 ∧ one.slotAddr l.outStream l.slot % 8 = 0) ∧
    (two.waiters = [] ∧ two.inFlight < 32767 ∧ two.fabric.lists = [entryList 2 []] ∧ two.flightFor (response 0x84) = some (flight (.far 5 1)) ∧ (put (entryList 2 []).replies 1 ([] : List Byte)).length ≠ 2) := by
  unfold Open; decide +kernel

theorem witness_ResultsAskedAgain : ∀ r ∈ [0, 2],
    let s := inFlight (.listEntry 5 0) 1 [entryList 1 []] r
    let p : Packet := { response 0x83 with badGranules := [0] }
    s.flightFor p = some (flight (.listEntry 5 0) r) ∧ p.badGranules ≠ [] ∧ s.dev.mode.running = true ∧ s.dev.bound = true := by decide +kernel

theorem witness_DataCombined :
    let p : Packet := { response 0x82 with pflags := 2, dst := 1, src := 2 }
    let w := routed 3 2
    let c : Combine := { isLoad := true, key := w.loadKey, opened := 0, first := { w with tag := 64 }, waiters := [w] }
    let s : State := onTable (fun f => { f with combines := [(1, [c])] }) (between .up false)
    p.cmb = true ∧ c.waiters = [w] ∧ (∃ tag ∈ [64, 65, 7], s.loadEntry { p with tag := BitVec.ofNat 16 tag } = some (1, 0)) ∧
    (s.combinesOf 1)[0]? = some c := by decide +kernel

/-! ### Collectives -/

/-- The collective station of group 2, whose ring has the axes given. -/
def collective (axes : Nat) : State :=
  let s := serving true
  { s with job := s.job.map fun j => { j with
      groups := [{}, {}, { axes := axes, weight := 1 }]
      course := { j.course with stations := j.course.stations.map fun d => if d.id = 5 then
        { d with params := { d.params with group := 2, accFmt := 0x12 }, inPorts := [0], outPorts := [1] } else d } } }

theorem collInputs_one {s v : State} {st i : Nat} {f : List Byte} {ins : Instr} {ok : List Byte → Bool}
    (h : Reads s st (s.slotAddr (s.inStream st i) ((s.st st).inPos i)) f v) (hs : seqOk f ((s.st st).inPos i) = true) (hk : ok f = true) :
    s.collInputs st i 1 .clean ins ok = (v, some [f]) := by
  unfold Reads at h
  simp [State.collInputs, List.range_one, State.readPort, ReadPath.shift, h, hs, hk]

/-- Its input frame holds numbers of format 0x12. -/
def fpHdr : Hdr := row32 0x12
def collecting (axes : Nat) : State := { collective axes with stores := { mem := (({} : Memory).write (streamBase 0) (frame fpHdr) []).1 } }

/-- A paused compute die, and a command of the group in progress. -/
theorem witness_CollectivesWait :
    let s := collecting 1
    let paused : State := { s with
      thermal := { s.thermal with pause := [(0, 8)] }
      job := s.job.map fun j => { j with placement := { j.placement with stations := [(5, { cell := some 5 })] } } }
    let busy : State := { s with relay := { s.relay with cmds := [(2, { kind := .ag, station := 5, serial := 0, step := 0, count := 1 })] } }
    Ready s 5 {} isCollective ∧ (s.ringOf 2).size * 1 < 2 ^ 32 ∧ (∀ x ∈ s.relay.staged, x.group ≠ 2) ∧ lookD paused.thermal.pause 0 0 = 8 ∧
    Ready paused 5 {} isCollective ∧ Ready busy 5 {} isCollective ∧ busy.coll (busy.paramsOf 5).group ≠ none := by unfold Ready; decide +kernel

theorem witness_CollectivesBegin :
    let one := collecting 0
    let two := collecting 1
    (Ready one 5 {} isCollective ∧ lookD one.thermal.pause 0 0 ≠ 8 ∧ (one.paramsOf 5).group = 2 ∧ one.coll 2 = none ∧ one.relay.staged = [] ∧
      (one.ringOf 2).size * 1 = 1 ∧ (one.ringOf 2).axes = [] ∧ (∀ b, b < 3 → (one.ringOf 2).m b < (one.ringOf 2).g b) ∧
      one.collInputs 5 0 1 .clean (.colRs 5 {} 0 0 1 .clean) (fun f => CollKind.rs != .rs || reducible .fp32 f) = (one, some [frame fpHdr])) ∧
    (Ready two 5 {} isCollective ∧ (two.ringOf 2).axes ≠ [] ∧ (∀ b, b < 3 → (two.ringOf 2).m b < (two.ringOf 2).g b) ∧
      two.collInputs 5 0 1 .clean (.colAg 5 {} 0 0 1 .clean) (fun f => CollKind.ag != .rs || reducible .fp32 f) = (two, some [frame fpHdr])) ∧
    (one.serviceList = [] ∧ bufferBase ≤ one.outAddr 5 0 ∧ one.outAddr 5 0 + frameBytes ≤ bufferBase + 2 ^ 30 ∧ one.outAddr 5 0 % 8 = 0) :=
  ⟨⟨by unfold Ready; decide +kernel, by decide, by decide, by decide, rfl, by decide +kernel, by decide +kernel, by decide +kernel,
      collInputs_one (reads_frame 5 rfl rfl) (by decide +kernel) (by decide +kernel)⟩,
    ⟨by unfold Ready; decide +kernel, by decide +kernel, by decide +kernel,
      collInputs_one (reads_frame 5 rfl rfl) (by decide +kernel) (by decide +kernel)⟩, by decide +kernel⟩

theorem witness_DigestsBegin :
    let s := collecting 1
    Ready s 5 {} isCollective ∧ lookD s.thermal.pause 0 0 ≠ 8 ∧ s.coll (s.paramsOf 5).group = none ∧ s.relay.staged = [] ∧ s.relay.tallies = [] ∧
    (s.ringOf 2).axes ≠ [] ∧ (s.entered 5 {}).inFlight < 32768 ∧ (s.paramsOf 5).group = 2 := by
  unfold Ready; decide +kernel

/-- No operation is free: a reader has all of them open. -/
theorem witness_DigestsWait :
    let s := (collecting 1).withSt 6 fun r => { r with outstanding := [{ kind := .dma, id := 0, open_ := 32768, signal := none }] }
    Ready s 5 {} isCollective ∧ lookD s.thermal.pause 0 0 ≠ 8 ∧ s.coll 2 = none ∧ s.relay.staged = [] ∧ s.relay.tallies = [] ∧
    (s.ringOf 2).axes ≠ [] ∧ 32768 ≤ (s.entered 5 {}).inFlight := by
  unfold Ready; decide +kernel

def coll (k : CollKind) (finished : Bool) : Coll :=
  { kind := k, station := 5, serial := 4, step := 3, count := 1, finished := finished, own := 9, tally := [{ digest := 9, count := 1, rank := 0 }] }
def commanded (k : CollKind) (finished : Bool) (axes : Nat := 0) : State :=
  let s := (collective axes).withSt 5 fun r => { r with outstanding := [{ kind := .coll, id := 0, signal := some 0 }] }
  { s with relay := { s.relay with cmds := [(2, coll k finished)], lagAlertUs := 5 } }

theorem witness_CollectivesEnd : ∀ k ∈ [CollKind.rs, .digest],
    let s := commanded k true
    let c := coll k true
    s.coll (s.paramsOf 5).group = some c ∧ s.collAcked c = true ∧ (s.worstOf c).1 < 1000 * s.relay.lagAlertUs.toNat ∧
    c.lag < 1000 * s.relay.lagAlertUs.toNat ∧ c.tally.length ≤ 1 ∧ Open s 5 ∧ (s.st 5).firstOf .coll = some 0 ∧
    (coll k false).finished = false := by unfold Open; decide +kernel

/-- A relay packet's second half of a frame, with the trailer of step 1 of a COL_AG on axis 0. -/
def relayTrailer : List Byte := natLe 4 4 ++ natLe 1 0x61 ++ natLe 1 0 ++ natLe 2 1 ++ natLe 24 0
def relayPart (second : Bool) : Packet :=
  { opc := 0x0B, dst := 0, src := 1, sliceId := 1, windowId := 2, offset := if second then 65536 else 0
    payload := if second then (frame fpHdr).drop 4096 ++ relayTrailer else (frame fpHdr).take 4096 }

theorem relay_frame : (relayPart false).payload ++ (relayPart true).payload.take 160 = frame fpHdr := by
  have hl : (frame fpHdr).length = 4256 := crcOk_length (frame_ok fpHdr)
  show (frame fpHdr).take 4096 ++ ((frame fpHdr).drop 4096 ++ relayTrailer).take 160 = _
  have h : ((frame fpHdr).drop 4096).length = 160 := by rw [List.length_drop, hl]
  rw [show ((frame fpHdr).drop 4096 ++ relayTrailer).take 160 = (frame fpHdr).drop 4096 from by rw [← h, List.take_left], List.take_append_drop]

theorem relay_trailer : (relayPart true).payload.drop 160 = relayTrailer := by
  have hl : (frame fpHdr).length = 4256 := crcOk_length (frame_ok fpHdr)
  have : ((frame fpHdr).drop 4096).length = 160 := by rw [List.length_drop, hl]
  show ((frame fpHdr).drop 4096 ++ relayTrailer).drop 160 = relayTrailer
  rw [← this, List.drop_left]

theorem witness_RelayReceives :
    let s : State := { commanded .ag false 1 with relay := { (commanded .ag false 1).relay with
      staged := [{ src := 1, group := 2, slot := 0, part0 := some (relayPart false) }] } }
    let c := coll .ag false
    s.nvm.levelOk = true ∧ s.nvm.level.toNat + 256 < s.bucket.high.toNat * 256 ∧ s.bucket.high.toNat ≤ 64 ∧ (s.st c.station).stopped = false ∧
    let keys := (s.ringOf 2).recvKeys false 0 c.count false
    s.job.isSome = true ∧ s.dev.bound = true ∧ s.coll 2 = some c ∧ s.relayPaused = false ∧ c.kind ≠ .digest ∧ c.failed = false ∧
    s.dev.mode.running = true ∧ (s.ringOf 2).axes[c.stage]? = some 0 ∧ s.slotAt 2 false (lookD s.relay.recv (ringKey 2 false) 0) = 0 ∧
    0 < s.slotBase 2 + s.slotsOf 2 ∧ s.slotAt 2 true (lookD s.relay.recv (ringKey 2 true) 0) ≠ 0 ∧ c.plus.recv < keys.length ∧
    c.plus.recv / max 1 (keys.length / max 1 ((s.ringOf 2).g 0 - 1)) + 1 = 1 ∧ fld relayTrailer 0 4 = c.serial ∧
    fld relayTrailer 4 1 = c.kind.opk ∧ fld relayTrailer 5 1 = stageByte 0 false ∧ fld relayTrailer 6 2 = 1 ∧ (serving true).coll 2 = none := by
  decide +kernel

/-- COL_RS of a frame this member holds, both its rings' slots taken. -/
def reducing : State :=
  let s := commanded .rs false 1
  { s with
    relay := { s.relay with
      staged := [{ src := 1, group := 2, slot := 0, part0 := some (relayPart false) }]
      cmds := [(2, { coll .rs false with held := [(0, frame fpHdr)] })] }
    fabric := { s.fabric with flights := [0, 1].map fun m =>
      { tag := 40, dst := 1, station := 5, kind := .relay (4 + m), cmd := s.slotAt 2 (m = 1) (lookD s.relay.sent (4 + m) 0) } } }

theorem witness_RelayReduces :
    let keys := (reducing.ringOf 2).recvKeys true 0 1 false
    let c : Coll := { coll .rs false with held := [(0, frame fpHdr)] }
    (reducing.coll 2).map (fun c => (c.kind, c.failed, c.stage, c.plus.recv)) = some (.rs, false, 0, 0) ∧ keys = [0] ∧
    reducing.ringFree 2 false = false ∧ reducing.ringFree 2 true = false ∧ fld (natLe 4 4 ++ natLe 1 0x60 ++ natLe 1 0 ++ natLe 2 1) 4 1 = CollKind.rs.opk ∧
    (combineFrames (reducing.accOf c) (reducing.paramsOf 5).reduce 5 3 (keys.getD 0 0 % 1) (frame fpHdr)
      (lookD c.held (keys.getD 0 0) [])).isSome = true := by decide +kernel

theorem witness_RelaySound : (relayPart false).badGranules = [] ∧ (relayPart true).badGranules = [] ∧
    crcOk ((relayPart false).payload ++ (relayPart true).payload.take 160) = true := ⟨rfl, rfl, by rw [relay_frame]; exact frame_ok fpHdr⟩

theorem witness_TalliesAndAcks :
    let s := serving true
    let r := inFlight (.relay 4) 1
    s.job.isSome = true ∧ s.dev.bound = true ∧ s.coll ((relayPart true).windowId.toNat % 16) = none ∧
    r.waiters = [] ∧ r.inFlight < 32767 ∧ r.flightFor (response 0x85) = some (flight (.relay 4)) ∧ r.coll (4 / 2) = none ∧ r.flightFor (response 0x85 8) = none := by decide +kernel

/-! ### Sensors and steps -/

theorem witness_SensorsRead :
    let s := bound .started
    let x : State := { s with
      boot := { s.boot with done := [8] }, pt := 70000
      config := { s.config with gradients := (List.replicate 5 [(1, 0, 0), (2, 0, 0), (3, 0, 0)]).flatten }
      thermal := { s.thermal with sensors := (List.range 64).map fun i => (i, { t := 3000, est := 3000, badRun := 2, valid := true }) } }
    s.dev.mode ≠ .off ∧ s.dev.mode ≠ .standby ∧ x.checked = true ∧ x.checkable 4 = true ∧ (x.sensor 4).faulty = false ∧
    (x.sensor 4).suspect = false ∧ (x.sensor 4).badRun = 2 ∧ (inMode .off).dev.mode = .off := by decide +kernel

theorem witness_StepsJudged :
    let s := bound .started
    let shown : State := { s with thermal := { s.thermal with stepShown := [(4, 7, 100)] } }
    let active : State := { s with thermal := { s.thermal with stepActive := true, stepLast := 5 }, pt := 100005 }
    shown.thermal.stepShown.find? (·.1 = 4) = some (4, 7, 100) ∧ stepConfirmed 100 [60, 70] = true ∧ stepConfirmed 100 [10, 70] = false ∧
    (s.engine 0).state = 1 ∧ active.thermal.stepActive = true ∧ 100000 ≤ active.pt.toNat - active.thermal.stepLast.toNat ∧ s.thermal.stepActive = false := by decide +kernel

end Sys2Proof.Tests
end

section
/-!
SUPPORT. The whole block: the proofs of what every step keeps, of reset, OFF and the beginning of a boot, of the SAT counters, and of
the writes of registers (R6 to R12, R32, R385, R440, R463).
-/
namespace Sys2Proof.Machine

variable {c : Instr} {s t : State} {v w : Word} {o n : Nat}

/-! ### Reserved encodings (R6, log 43) -/

theorem exec_atom_reserved {p : Packet} (h : reservedFn (p.aux.toNat % 16) = true) :
    exec (.atom p) s = .fault .reservedEncoding := if_pos h

theorem exec_atomF_reserved {p : Packet} (h : reservedFn (p.aux.toNat % 16) = true) :
    exec (.atomF p) s = .fault .reservedEncoding := if_pos h

theorem exec_far_reserved {p : Packet} (h : reservedEntry p.payload = true) :
    exec (.far p) s = .fault .reservedEncoding := if_pos h

/-- Settles O5: each of the three rows asks for a reserved encoding before it does anything. -/
theorem reservedStops : Obligations.ReservedStops := by
  intro p s
  refine ⟨fun h => ?_, exec_far_reserved⟩
  have hr : reservedFn (p.aux.toNat % 16) = true := decide_eq_true h
  exact ⟨exec_atom_reserved hr, exec_atomF_reserved hr⟩

/-! ### What a command keeps -/

/-- A command that is none of the supply and the clock, and no reserved atomic, goes on and keeps what Kept names: the lemma of its
own row says so. -/
theorem exec_goes (c : Instr) (s : State) (hc : Instr.ofSupplyOrClock c = false)
    (ha : ∀ p, c = .atom p ∨ c = .atomF p → reservedFn (p.aux.toNat % 16) = false)
    (hf : ∀ p, c = .far p → reservedEntry p.payload = false) : Goes s (exec c s) := by
  have k : Kept s s := .refl s
  cases c with
  | pwrEnAssert => exact .execPwrEnAssert k
  | pgoodAssert => exact .execPgoodAssert k
  | pgoodTimeout => exact .execPgoodTimeout k
  | pgoodLost => exact .execPgoodLost k
  | drainReqPinAssert => exact .execDrainReqPinAssert k
  | drainReqPinDeassert => exact .execDrainReqPinDeassert k
  | pwrLimitAssert => exact .execPwrLimitAssert k
  | pwrLimitRelease => exact .execPwrLimitRelease k
  | rootPllLoss => exact .execRootPllLoss k ..
  | clockLoss => exact .execClockLoss k ..
  | lockstepMismatch => exact .execLockstepMismatch k ..
  | tripComparator => exact .execTripComparator k ..
  | coldStartStepEnd => exact .execColdStartStepEnd k ..
  | coldStartStepLimit => exact .execColdStartStepLimit k
  | drained => exact .execDrained k
  | drainLimit => exact .execDrainLimit k
  | nop => exact .execNop k ..
  | semWait => exact .execSemWait k ..
  | semSignal => exact .execSemSignal k ..
  | loop => exact .execLoop k ..
  | endLoop => exact .execEndLoop k ..
  | halt => exact .execHalt k ..
  | step => exact .execStep k ..
  | semRemote => exact .execSemRemote k ..
  | mmClear => exact .execMmClear k ..
  | mmRun => exact .execMmRun k ..
  | mmRunCommit => exact .execMmRunCommit k ..
  | arrayRepeat => exact .execArrayRepeat k ..
  | mmDrain => exact .execMmDrain k ..
  | vecOp => exact .execVecOp k ..
  | glLoad => exact .execGlLoad k ..
  | glRun => exact .execGlRun k ..
  | glRunComplete => exact .execGlRunComplete k ..
  | updStep => exact .execUpdStep k ..
  | updFrame => exact .execUpdFrame k ..
  | updStepComplete => exact .execUpdStepComplete k ..
  | cpTiles => exact .execCpTiles k ..
  | operationList => exact .execOperationList k ..
  | cpRemote => exact .execCpRemote k ..
  | colRs => exact .execColRs k ..
  | colAg => exact .execColAg k ..
  | colDigest => exact .execColDigest k ..
  | collectiveComplete => exact .execCollectiveComplete k ..
  | rdTiles => exact .execRdTiles k ..
  | wrTiles => exact .execWrTiles k ..
  | winRelease => exact .execWinRelease k ..
  | signalArrival => exact .execSignalArrival k ..
  | watchdog => exact .execWatchdog k ..
  | tileCrcReread => exact .execTileCrcReread k ..
  | ticketGrant => exact .execTicketGrant k ..
  | rampDownStart => exact .execRampDownStart k ..
  | rampDownComplete => exact .execRampDownComplete k ..
  | ticketRecall => exact .execTicketRecall k ..
  | stackBurstRelease => exact .execStackBurstRelease k ..
  | manifest => exact .execManifest k ..
  | placementJobStart => exact .execPlacementJobStart k
  | placementConfirmation => exact .execPlacementConfirmation k
  | placementGlideLeave => exact .execPlacementGlideLeave k ..
  | placementGlideReturn => exact .execPlacementGlideReturn k ..
  | rotationDue => exact .execRotationDue k ..
  | rotationBoundary => exact .execRotationBoundary k ..
  | rotationTimeout => exact .execRotationTimeout k ..
  | rotationCopyComplete => exact .execRotationCopyComplete k ..
  | cellTestComplete => exact .execCellTestComplete k ..
  | inPlaceTestDue => exact .execInPlaceTestDue k ..
  | fullTest => exact .execFullTest k
  | confirmationComplete => exact .execConfirmationComplete k ..
  | bucketLeak => exact .execBucketLeak k
  | watchRelease => exact .execWatchRelease k
  | heartbeat => exact .execHeartbeat k
  | telemetry => exact .execTelemetry k
  | fastWindow => exact .execFastWindow k ..
  | driftWindow => exact .execDriftWindow k ..
  | shadowRecompute => exact .execShadowRecompute k ..
  | glideRecalTrigger => exact .execGlideRecalTrigger k ..
  | recalibrationComplete => exact .execRecalibrationComplete k ..
  | retrackComplete => exact .execRetrackComplete k ..
  | recalRetry => exact .execRecalRetry k ..
  | glideMapSwitch => exact .execGlideMapSwitch k ..
  | tuningUpdate => exact .execTuningUpdate k ..
  | stackRequest => exact .execStackRequest k ..
  | correctionWriteback => exact .execCorrectionWriteback k ..
  | scratchpadWriteback => exact .execScratchpadWriteback k ..
  | lodgeRequest => exact .execLodgeRequest k ..
  | lodgeFillReturn => exact .execLodgeFillReturn k ..
  | scratchpadScrub => exact .execScratchpadScrub k ..
  | stackScrub => exact .execStackScrub k ..
  | rowTest => exact .execRowTest k ..
  | strobeTracking => exact .execStrobeTracking k ..
  | marginGo => exact .execMarginGo k ..
  | stackFailed => exact .execStackFailed k ..
  | dmaTransactionComplete => exact .execDmaTransactionComplete k ..
  | lightDetected => exact .execLightDetected k ..
  | trainingWord => exact .execTrainingWord k ..
  | marginTest => exact .execMarginTest k ..
  | trainingLimit => exact .execTrainingLimit k ..
  | linkFrame => exact .execLinkFrame k ..
  | linkRetryRequest => exact .execLinkRetryRequest k ..
  | replayTimeout => exact .execReplayTimeout k ..
  | correctedSymbolWindow => exact .execCorrectedSymbolWindow k ..
  | lightLost => exact .execLightLost k ..
  | bridgeLineCheckFail => exact .execBridgeLineCheckFail k ..
  | combFailure => exact .execCombFailure k ..
  | fastRetrainComplete => exact .execFastRetrainComplete k ..
  | loopbackTest => exact .execLoopbackTest k ..
  | hold => exact .execHold k ..
  | retrainGo => exact .execRetrainGo k ..
  | packetArrival => exact .execPacketArrival k ..
  | write => exact .execWrite k ..
  | store => exact .execStore k ..
  | load => exact .execLoad k ..
  | atom p => exact .execAtom k p (ha p (.inl rfl))
  | atomF p => exact .execAtomF k p (ha p (.inr rfl))
  | signal => exact .execSignal k ..
  | refetch => exact .execRefetch k ..
  | far p => exact .execFar k p (hf p rfl)
  | relay => exact .execRelay k ..
  | relayTally => exact .execRelayTally k ..
  | ack => exact .execAck k ..
  | data => exact .execData k ..
  | result => exact .execResult k ..
  | farRsp => exact .execFarRsp k ..
  | relayAck => exact .execRelayAck k ..
  | mgtPacket => exact .execMgtPacket k ..
  | ordPacketRelease => exact .execOrdPacketRelease k ..
  | combineEntryClose => exact .execCombineEntryClose k ..
  | sensorReading => exact .execSensorReading k ..
  | stepConfirmation => exact .execStepConfirmation k ..
  | stepEnd => exact .execStepEnd k
  | regRead => exact .execRegRead k ..
  | regWrite => exact .execRegWrite k ..
  | sliceTable => exact .execSliceTable k ..
  | start => exact .execStart k ..
  | drain => exact .execDrain k ..
  | msgDrainRelease => exact .execMsgDrainRelease k ..
  | fence => exact .execFence k ..
  | suspect => exact .execSuspect k ..
  | pack => exact .execPack k ..
  | image => exact .execImage k ..
  | clearBench => exact .execClearBench k ..
  | clearSparemap => exact .execClearSparemap k ..
  | raiseMinSvn => exact .execRaiseMinSvn k ..
  | debugUnlock => exact .execDebugUnlock k ..
  | messageResponse => exact .execMessageResponse k ..
  | messageResendTimeout => exact .execMessageResendTimeout k ..
  | partialMessageTimeout => exact .execPartialMessageTimeout k ..
  | entdaa => exact .execEntdaa k ..
  | rstdaa => exact .execRstdaa k
  | enec => exact .execEnec k
  | disec => exact .execDisec k
  | getpid => exact .execGetpid k
  | getbcr => exact .execGetbcr k
  | getdcr => exact .execGetdcr k
  | getstatus => exact .execGetstatus k
  | i3cRegisterWrite => exact .execI3cRegisterWrite k ..
  | i3cSetReadPointer => exact .execI3cSetReadPointer k ..
  | i3cPrivateRead => exact .execI3cPrivateRead k
  | i3cMailboxAppend => exact .execI3cMailboxAppend k ..
  | i3cMailboxDiscard => exact .execI3cMailboxDiscard k ..
  | i3cSelectOutbound => exact .execI3cSelectOutbound k ..
  | drainGo => exact .execDrainGo k
  | drainRelease => exact .execDrainRelease k
  | powerdown => exact .execPowerdown k
  | fenceGo => exact .execFenceGo k ..
  | tstGo => exact .execTstGo k ..
  | onDemandTestEnd => exact .execOnDemandTestEnd k ..
  | jrnlSelWrite => exact .execJrnlSelWrite k ..
  | bucketCtlWrite => exact .execBucketCtlWrite k ..
  | poolBudgetWrite => exact .execPoolBudgetWrite k ..
  | limitWWrite => exact .execLimitWWrite k ..
  | satCounterClear => exact .execSatCounterClear k ..
  | registerWrite => exact .execRegisterWrite k ..
  | capacityMapWrite => exact .execCapacityMapWrite k
  | journalFlush => exact .execJournalFlush k ..
  | referenceClockLoss => exact .execReferenceClockLoss k
  | codeword => exact .execCodeword k ..
  | pseudoChannelCommand => exact .execPseudoChannelCommand k ..
  | creditReturn => exact .execCreditReturn k ..
  | resetAssert | standbyPowerLost | standbyEntry | poweredTimeTick => cases hc

/-- A command of that kind that answers a next state keeps the same, since a reserved one answers none. -/
theorem exec_next_kept (hc : Instr.ofSupplyOrClock c = false) (h : exec c s = .next t) : Kept s t := by
  have ha : ∀ p, c = .atom p ∨ c = .atomF p → reservedFn (p.aux.toNat % 16) = false := by
    intro p hp
    refine Bool.eq_false_iff.mpr fun hr => ?_
    rcases hp with rfl | rfl
    · cases h.symm.trans (exec_atom_reserved hr)
    · cases h.symm.trans (exec_atomF_reserved hr)
  have hf : ∀ p, c = .far p → reservedEntry p.payload = false := by
    rintro p rfl
    exact Bool.eq_false_iff.mpr fun hr => by cases h.symm.trans (exec_far_reserved hr)
  obtain ⟨u, hu, k⟩ := exec_goes c s hc ha hf
  cases h.symm.trans hu
  exact k

/-! ### OFF, STANDBY and the tick -/

theorem Safe.withPending (x : Safe s) (q : List Instr) : Safe { s with pending := q } := ⟨x.mem, x.sat, x.level, x.member⟩

theorem Safe.withPt (x : Safe s) (n : Word) : Safe { s with pt := n } := ⟨x.mem, x.sat, x.level, x.member⟩

theorem Safe.enterOff (x : Safe s) : Safe s.enterOff := ⟨rfl, rfl, x.level, rfl⟩

theorem Safe.enterStandby (x : Safe s) (ref : Bool) : Safe (s.enterStandby ref) := ⟨rfl, rfl, x.level, rfl⟩

theorem exec_resetAssert (s : State) : exec .resetAssert s = .next s.enterOff := rfl

theorem exec_standbyPowerLost (s : State) : exec .standbyPowerLost s = .next s.enterOff := rfl

theorem exec_standbyEntry_of_off (h : s.dev.mode = .off) (ref : Bool) : exec (.standbyEntry ref) s = .next (s.enterStandby ref) :=
  if_pos h

theorem exec_standbyEntry_of_not_off (h : s.dev.mode ≠ .off) (ref : Bool) : exec (.standbyEntry ref) s = .next s := if_neg h

theorem exec_poweredTimeTick_of_off (h : s.dev.mode = .off) : exec .poweredTimeTick s = .next s := if_pos h

/-- The tick keeps what the state with PT risen by one has. -/
theorem exec_poweredTimeTick_goes (h : s.dev.mode ≠ .off) :
    Goes { s with pt := s.pt + 1 } (exec .poweredTimeTick s) := by
  have loads : Kept { s with pt := s.pt + 1 } (State.settleLoads { s with pt := s.pt + 1 }) := .settleLoads (.refl _)
  show Goes _ (execPoweredTimeTick s)
  unfold execPoweredTimeTick
  rw [if_neg h]
  -- What the tick counts beside PT stands in wrapping counters, which Kept does not speak of.
  refine Goes.ite (.next (Kept.wrapBy ?_ _ _)) (.next ?_) <;>
    exact .ite (.ite loads (loads.wrapBy _ _)) (.wrapBy (.ite loads (loads.wrapBy _ _)) _ _)

/-! ### Every step keeps the state safe -/

/-- A command that answers a next state keeps the state safe, those of the supply and of the clock among them. -/
theorem exec_next_safe (x : Safe s) (h : exec c s = .next t) : Safe t := by
  by_cases hc : Instr.ofSupplyOrClock c = false
  · exact (exec_next_kept hc h).staysSafe x
  cases c with
  | resetAssert =>
    cases (exec_resetAssert s).symm.trans h
    exact x.enterOff
  | standbyPowerLost =>
    cases (exec_standbyPowerLost s).symm.trans h
    exact x.enterOff
  | standbyEntry ref =>
    by_cases off : s.dev.mode = .off
    · cases (exec_standbyEntry_of_off off ref).symm.trans h
      exact x.enterStandby ref
    · cases (exec_standbyEntry_of_not_off off ref).symm.trans h
      exact x
  | poweredTimeTick =>
    by_cases off : s.dev.mode = .off
    · cases (exec_poweredTimeTick_of_off off).symm.trans h
      exact x
    · obtain ⟨u, hu, k⟩ := exec_poweredTimeTick_goes off
      cases hu.symm.trans h
      exact k.staysSafe (x.withPt _)
  | _ => exact absurd rfl hc

/-- Settles O4: a step idles, or carries out a command on the same state with a shorter queue. -/
theorem stepKeepsSafe : Obligations.StepKeepsSafe := by
  intro s t x h
  unfold step at h
  split at h
  · cases h
    exact x
  · exact exec_next_safe (x.withPending _) h

/-! ### OFF (R7, R32) -/

/-- Settles O7: both rows are the entry to OFF. -/
theorem offKeepsFlash : Obligations.OffKeepsFlash := fun s => ⟨exec_resetAssert s, exec_standbyPowerLost s⟩

/-! ### STANDBY (R8, R37, R462, R465) -/

theorem mem_resetCommands_spareMap (n : Nvm) (e : SpareEntry) :
    e ∈ (resetCommands n).spareMap ↔ e ∈ n.spareMap ∧ ∀ c ∈ n.clearSpares, clears c e = false := by
  simp only [resetCommands, List.mem_filter, Bool.not_eq_true', List.any_eq_false, Bool.not_eq_true]

theorem firstJidx_of_newest {n : Nvm} {e : JEntry} (h : n.journal.getLast? = some e) : firstJidx n = e.jidx + 1025 := by
  unfold firstJidx
  rw [h]

theorem firstJidx_of_empty {n : Nvm} (h : n.journal = []) : firstJidx n = 0 := by
  unfold firstJidx
  rw [h]
  rfl

theorem State.enterStandby_bootCount (s : State) (ref : Bool) :
    (s.enterStandby ref).nvm.bootCount.toNat = min (s.nvm.bootCount.toNat + 1) 0xFFFFFFFF := by
  show (if s.nvm.bootCount = 0xFFFFFFFF then s.nvm.bootCount else s.nvm.bootCount + 1).toNat = _
  split <;> bv_omega

/-- Settles O8: the state after the entry, field by field. -/
theorem standbyBeginsBoot : Obligations.StandbyBeginsBoot := by
  intro s ref off
  refine ⟨s.enterStandby ref, exec_standbyEntry_of_off off ref, ?_⟩
  have count := s.enterStandby_bootCount ref
  have spares := mem_resetCommands_spareMap s.nvm
  have newest : ∀ e, s.nvm.journal.getLast? = some e → firstJidx s.nvm = e.jidx + 1025 := fun _ => firstJidx_of_newest
  have empty : s.nvm.journal = [] → firstJidx s.nvm = 0 := firstJidx_of_empty
  exact ⟨rfl, rfl, count, rfl, spares, rfl, rfl, rfl, rfl, rfl, rfl, rfl, rfl, newest, empty,
    rfl, rfl, rfl, rfl, rfl, rfl, rfl, rfl, rfl⟩

/-! ### SAT counters (R12) -/

theorem bit_toNat (w : Word) (i : Nat) : bit w.toNat i = w.getLsbD i := Nat.testBit_eq_decide_div_mod_eq.symm

theorem satAdd_flagged (h : w.getLsbD 63 = true) (n : Nat) : satAdd w n = (w, false) := by
  unfold satAdd
  rw [bit_toNat, h]
  rfl

theorem satAdd_unflagged (h : w.getLsbD 63 = false) (n : Nat) :
    satAdd w n = if satMax ≤ w.toNat % 2 ^ 48 + n then (BitVec.ofNat 64 (2 ^ 63 + satMax), true)
      else (BitVec.ofNat 64 (w.toNat % 2 ^ 48 + n), false) := by
  unfold satAdd
  rw [bit_toNat, h]
  rfl

/-- With no reserved bit and no flag set, the counter is its count. -/
theorem count_eq_toNat (hr : bits w.toNat 62 48 = 0) (hf : w.getLsbD 63 = false) : w.toNat % 2 ^ 48 = w.toNat := by
  rw [← bit_toNat] at hf
  have := w.isLt
  simp only [bits, bit, decide_eq_false_iff_not] at hr hf
  omega

theorem satAdd_counts (hr : bits w.toNat 62 48 = 0) (hf : w.getLsbD 63 = false) (h : w.toNat + n < satMax) :
    satAdd w n = (BitVec.ofNat 64 (w.toNat + n), false) := by
  rw [satAdd_unflagged hf, count_eq_toNat hr hf, if_neg (Nat.not_le.mpr h)]

theorem satAdd_saturates (hr : bits w.toNat 62 48 = 0) (hf : w.getLsbD 63 = false) (h : satMax ≤ w.toNat + n) :
    satAdd w n = (BitVec.ofNat 64 (2 ^ 63 + satMax), true) := by
  rw [satAdd_unflagged hf, count_eq_toNat hr hf, if_pos h]

@[simp] theorem State.satBy_sat (s : State) (o n : Nat) : (s.satBy o n).sat = put s.sat o (satAdd (lookD s.sat o 0) n).1 := by
  unfold State.satBy
  dsimp only
  split
  · exact (Frame.setEvent (Frame.refl _ _) _ _ rfl : Frame [.mgmt] _ _) .sat (by decide)
  · rfl

theorem State.satBy_event (s : State) (o n : Nat) (h : (satAdd (lookD s.sat o 0) n).2 = true) :
    (s.satBy o n).mgmt.event = s.mgmt.event ||| BitVec.ofNat 6 (2 ^ evSat) := by
  unfold State.satBy
  dsimp only
  rw [if_pos h, State.setEvent_event]

theorem exec_satCounterClear (hm : s.dev.mode ≠ .off) (ho : satOffsets.contains o = true) (hb : s.blockUp o = true) :
    exec (.satCounterClear o v) s = .next (s.clearSat o v) :=
  if_neg (by simp only [hm, ho, hb, reduceCtorEq, or_self, not_false_eq_true])

/-- Settles O19, by the branches of `satAdd`. -/
theorem satCounters : Obligations.SatCounters := by
  refine ⟨fun w n hr => ⟨fun hf => satAdd_flagged hf n, satAdd_counts hr, satAdd_saturates hr⟩,
    fun s o => ⟨?_, fun k hk => ?_, fun full => ?_⟩, fun s o v => exec_satCounterClear⟩
  · rw [State.satBy_sat, lookD_put]
  · rw [State.satBy_sat, lookD_put_ne _ _ _ hk]
  · rw [State.satBy_event s o 1 full, BitVec.getLsbD_or]
    exact Bool.or_true _

/-! ### Registers of the window (R10, R440) -/

theorem State.regAt_event (s : State) : s.regAt 0x20 = some (regOf [(s.mgmt.event.toNat, 0)]) := rfl
theorem State.regAt_alertEn (s : State) : s.regAt 0x28 = some (regOf [(s.mgmt.alertEn.toNat, 0)]) := rfl
theorem State.regAt_imgCtl (s : State) : s.regAt 0x140008 = some (regOf [(b2n s.nvm.preferB, 0)]) := rfl

theorem exec_registerWrite_missed (hm : s.dev.mode ≠ .off) (h : n ≠ 8 ∨ o % 8 ≠ 0 ∨ s.regAt o = none) :
    exec (.registerWrite o n v) s = .next (s.bump oAccessErr) := by
  show execRegisterWrite o n v s = _
  unfold execRegisterWrite State.regWrite
  rw [if_neg hm]
  by_cases hn : n = 8
  · have hmiss : o % 8 ≠ 0 ∨ (s.regAt o).isNone = true :=
      (h.resolve_left (not_not_intro hn)).imp_right Option.isNone_iff_eq_none.mpr
    rw [if_neg (not_not_intro hn), if_pos hmiss]
  · rw [if_pos hn]

theorem exec_registerWrite_at {x : Word} (hm : s.dev.mode ≠ .off) (ha : o % 8 = 0) (hr : s.regAt o = some x)
    (hb : s.blockUp o = true) : exec (.registerWrite o 8 v) s = .next (s.writeAt o v) := by
  show execRegisterWrite o 8 v s = _
  unfold execRegisterWrite State.regWrite
  have hhit : ¬(o % 8 ≠ 0 ∨ (s.regAt o).isNone = true) := by
    rw [hr]
    exact fun h => h.elim (fun k => k ha) Bool.false_ne_true
  rw [if_neg hm, if_neg (not_not_intro rfl), if_neg hhit, if_pos hb]

theorem registerWrites : Parts.RegisterWrites := by
  intro s v hm
  exact ⟨fun o n => exec_registerWrite_missed hm, exec_registerWrite_at hm rfl s.regAt_event rfl,
    exec_registerWrite_at hm rfl s.regAt_alertEn rfl, exec_registerWrite_at hm rfl s.regAt_imgCtl rfl⟩

/-! ### HLT_JRNL_SEL (R463) -/

theorem State.selectEntry_absent {j : BitVec 32} (h : (s.card.buffer ++ s.nvm.journal).find? (·.jidx = j) = none) :
    s.selectEntry j = s.withCard fun c => { c with jrnlSel := j, found := 2, units := 0, window := [] } := by
  unfold State.selectEntry
  dsimp only
  split
  · rename_i e he
    cases h.symm.trans he
  · rfl

theorem State.selectEntry_hit {j : BitVec 32} {e : JEntry} (h : (s.card.buffer ++ s.nvm.journal).find? (·.jidx = j) = some e) :
    s.selectEntry j = s.withCard fun c =>
      if e.crcBad then { c with jrnlSel := j, found := 3, units := 0, window := [] }
      else { c with jrnlSel := j, found := 1, units := unitsOf e.payload, window := padTo 4096 (entryBytes e) } := by
  unfold State.selectEntry
  dsimp only
  split
  · rename_i e' he
    cases h.symm.trans he
    cases hb : e.crcBad
    · rfl
    · rfl
  · rename_i he
    cases h.symm.trans he

theorem State.selectEntry_jrnlSel (s : State) (j : BitVec 32) : (s.selectEntry j).card.jrnlSel = j := by
  unfold State.selectEntry
  dsimp only
  split
  · split <;> rfl
  · rfl

theorem journalSelect : Parts.JournalSelect := by
  intro s v hm
  refine ⟨s.selectEntry (v.setWidth 32), if_neg hm, s.selectEntry_jrnlSel _, fun h => ?_, fun e h hb => ?_, fun e h hb => ?_,
    .selectEntry (.refl _ _) _ rfl⟩
  · rw [State.selectEntry_absent h]
    exact ⟨rfl, rfl⟩
  · rw [State.selectEntry_hit h, hb]
    exact ⟨rfl, rfl⟩
  · rw [State.selectEntry_hit h, hb]
    exact ⟨rfl, rfl, rfl⟩

/-! ### HLT_BUCKET_CTL (R385) -/

theorem inRange_inside {lo hi new old : Nat} (h : lo ≤ new ∧ new ≤ hi) : inRange lo hi new old = new := if_pos h

theorem inRange_outside {lo hi new old : Nat} (h : new < lo ∨ hi < new) : inRange lo hi new old = old :=
  if_neg (by omega)

theorem ofNat_inRange_inside {k lo hi new : Nat} (old : BitVec k) (h : lo ≤ new ∧ new ≤ hi) (hk : hi < 2 ^ k) :
    (BitVec.ofNat k (inRange lo hi new old.toNat)).toNat = new := by
  rw [inRange_inside h, BitVec.toNat_ofNat, Nat.mod_eq_of_lt (by omega)]

theorem ofNat_inRange_outside {k lo hi new : Nat} (old : BitVec k) (h : new < lo ∨ hi < new) :
    BitVec.ofNat k (inRange lo hi new old.toNat) = old := by
  rw [inRange_outside h, BitVec.ofNat_toNat, BitVec.setWidth_eq]

theorem toNat_ofNat_inRange {k lo hi : Nat} (new : Nat) (old : BitVec k) (hk : hi < 2 ^ k) :
    (BitVec.ofNat k (inRange lo hi new old.toNat)).toNat = inRange lo hi new old.toNat := by
  have := old.isLt
  refine Nat.mod_eq_of_lt ?_
  unfold inRange
  split <;> omega

/-- HIGH as a write of HLT_BUCKET_CTL asks for it: the value written, or what the field holds where that is out of range. -/
def askedHigh (b : Bucket) (v : Word) : Nat := inRange 2 64 (fieldAt v 31 24) b.high.toNat

/-- LOW as a write of HLT_BUCKET_CTL asks for it. -/
def askedLow (b : Bucket) (v : Word) : Nat := inRange 0 63 (fieldAt v 23 16) b.low.toNat

/-- HIGH and LOW after the write: those asked for, where LOW is below HIGH. -/
def marksWritten (b : Bucket) (v : Word) : Nat × Nat :=
  if askedLow b v < askedHigh b v then (askedHigh b v, askedLow b v) else (b.high.toNat, b.low.toNat)

theorem State.writeBucket_high (s : State) (v : Word) :
    (s.writeBucket v).bucket.high = BitVec.ofNat 8 (marksWritten s.bucket v).1 := rfl

theorem State.writeBucket_low (s : State) (v : Word) :
    (s.writeBucket v).bucket.low = BitVec.ofNat 8 (marksWritten s.bucket v).2 := rfl

theorem State.writeBucket_taken (h : askedLow s.bucket v < askedHigh s.bucket v) :
    (s.writeBucket v).bucket.high.toNat = askedHigh s.bucket v ∧ (s.writeBucket v).bucket.low.toNat = askedLow s.bucket v := by
  rw [State.writeBucket_high, State.writeBucket_low, marksWritten, if_pos h]
  exact ⟨toNat_ofNat_inRange _ _ (by decide), toNat_ofNat_inRange _ _ (by decide)⟩

theorem State.writeBucket_left (h : askedHigh s.bucket v ≤ askedLow s.bucket v) :
    (s.writeBucket v).bucket.high = s.bucket.high ∧ (s.writeBucket v).bucket.low = s.bucket.low := by
  rw [State.writeBucket_high, State.writeBucket_low, marksWritten, if_neg (Nat.not_lt.mpr h)]
  simp only [BitVec.ofNat_toNat, BitVec.setWidth_eq, and_self]

theorem State.writeBucket_low_lt_high (h : s.bucket.low.toNat < s.bucket.high.toNat) (v : Word) :
    (s.writeBucket v).bucket.low.toNat < (s.writeBucket v).bucket.high.toNat := by
  rcases Nat.lt_or_ge (askedLow s.bucket v) (askedHigh s.bucket v) with lt | ge
  · obtain ⟨hh, hl⟩ := State.writeBucket_taken lt
    rwa [hh, hl]
  · obtain ⟨hh, hl⟩ := State.writeBucket_left ge
    rwa [hh, hl]

theorem bucketControl : Parts.BucketControl := by
  intro s v hm hb
  refine ⟨s.writeBucket v, if_neg hm, rfl, State.writeBucket_low_lt_high hb v,
    fun h1 h2 => ofNat_inRange_inside _ ⟨h1, h2⟩ (by decide), fun h => ofNat_inRange_outside _ (h.imp_left Nat.lt_one_iff.mpr),
    fun h1 h2 => ofNat_inRange_inside _ ⟨h1, h2⟩ (by decide), fun h => ofNat_inRange_outside _ (h.imp_left Nat.lt_one_iff.mpr),
    fun h1 h2 h3 => ?_, fun h1 h2 h3 h4 => ?_, .writeBucket (.refl _ _) _ rfl⟩
  · have high : askedHigh s.bucket v = fieldAt v 31 24 := inRange_inside ⟨h1, h2⟩
    have low : askedLow s.bucket v = fieldAt v 23 16 := inRange_inside ⟨Nat.zero_le _, Nat.le_of_lt_succ (Nat.lt_of_lt_of_le h3 h2)⟩
    have taken := State.writeBucket_taken (by rw [high, low]; exact h3)
    rw [high, low] at taken
    exact taken
  · have high : askedHigh s.bucket v = fieldAt v 31 24 := inRange_inside ⟨h1, h2⟩
    have low : askedLow s.bucket v = fieldAt v 23 16 := inRange_inside ⟨Nat.zero_le _, h3⟩
    exact State.writeBucket_left (by rw [high, low]; exact h4)

/-- Settles O20, from its three parts. -/
theorem controlRegisters : Obligations.ControlRegisters := ⟨registerWrites, journalSelect, bucketControl⟩

/-! ### Reset (R7, R8, R39) -/

theorem State.regAt_satOffset (s : State) (h : o ∈ satOffsets) : s.regAt o = some (lookD s.sat o 0) :=
  if_pos (List.elem_eq_true_of_mem h)

theorem reset_safe : Safe State.reset := ⟨rfl, rfl, rfl, rfl⟩

/-- Settles O1: each register as it reads at reset, and the SAT counters together, since the table of counters is empty. -/
theorem resetValues : Obligations.ResetValues := by
  have counters : ∀ o ∈ satOffsets, State.reset.regAt o = some 0 := fun _ ho => State.reset.regAt_satOffset ho
  exact ⟨rfl, rfl, rfl, rfl, rfl, rfl, rfl, rfl, rfl, rfl, rfl, counters, fun _ _ => rfl, rfl, reset_safe⟩

end Sys2Proof.Machine
end

section
/-!
SUPPORT. The architecture: what every command keeps (R32).
-/
namespace Sys2Proof.Machine

variable {c : Instr} {s : State}

/-- A command of the supply or of the clock goes on, and what waits in the queue waits on. -/
theorem exec_supplyOrClock_pending (hc : Instr.ofSupplyOrClock c = true) : ∃ t, exec c s = .next t ∧ t.pending = s.pending := by
  cases c with
  | resetAssert => exact ⟨_, exec_resetAssert s, rfl⟩
  | standbyPowerLost => exact ⟨_, exec_standbyPowerLost s, rfl⟩
  | standbyEntry ref =>
    by_cases off : s.dev.mode = .off
    · exact ⟨_, exec_standbyEntry_of_off off ref, rfl⟩
    · exact ⟨_, exec_standbyEntry_of_not_off off ref, rfl⟩
  | poweredTimeTick =>
    by_cases off : s.dev.mode = .off
    · exact ⟨_, exec_poweredTimeTick_of_off off, rfl⟩
    · obtain ⟨t, ht, k⟩ := exec_poweredTimeTick_goes off
      exact ⟨t, ht, k.sameQueue⟩
  | _ => exact absurd hc Bool.false_ne_true

/-- Settles O3: the commands of the supply and of the clock keep the queue, and every other keeps what Kept names. -/
theorem commandsGoOn : Obligations.CommandsGoOn := by
  intro c s ha hf
  exact ⟨fun hc => exec_goes c s hc ha hf, exec_supplyOrClock_pending⟩

end Sys2Proof.Machine
end

section
/-!
SUPPORT. What the shared operations of the drains, of the bucket and of the messages leave behind: the ledger's other records, what
the mailboxes hold, the slice table, and the answer to a request of one chunk (R292, R441 to R443, R457).
-/
namespace Sys2Proof.Machine

variable {s t : State}

/-! ### The ledger's other records (R457) -/

theorem ledger_next_ne (h : BitVec 32) : h.toNat % 1024 ≠ (h + 1).toNat % 1024 := by
  rw [BitVec.toNat_add]
  have := h.isLt
  simp only [BitVec.ofNat_eq_ofNat, BitVec.toNat_ofNat]
  omega

theorem State.look_record_ne {k : Nat} (hk : k ≠ s.card.head.toNat % 1024) (code die : Nat) (p : List Byte) :
    look (s.record code die p).card.ledger k = look s.card.ledger k := by
  obtain ⟨hh, hl⟩ := journalAdd_head s.card s.nvm.bootCount s.pt code die p
  generalize hj : journalAdd s.card s.nvm.bootCount s.pt code die p = j at hh hl
  have key (r : LedgerRec) : look (put j.1.ledger (j.1.head.toNat % 1024) r) k = look s.card.ledger k := by
    rw [look_put, hh, hl, if_neg hk.symm]
  unfold State.record
  dsimp only
  split
  · rw [State.setEvent_card, hj]
    exact key _
  · rw [hj]
    exact key _

/-! ### What the mailboxes hold (R443) -/

/-- The management island's part of the state but for MGT_EVENT and the I3C target: messages sent, stored and awaited among it. -/
def Mgmt.mail (m : Mgmt) : Mgmt := { m with event := 0, i3c := {} }

theorem Mgmt.sent_of_mail {m n : Mgmt} (h : m.mail = n.mail) : m.sent = n.sent :=
  show m.mail.sent = n.mail.sent from congrArg Mgmt.sent h

theorem Mgmt.stored_of_mail {m n : Mgmt} (h : m.mail = n.mail) : m.stored = n.stored :=
  show m.mail.stored = n.mail.stored from congrArg Mgmt.stored h

@[simp] theorem State.setEvent_mail (s : State) (i c : Nat) : (s.setEvent i c).mgmt.mail = s.mgmt.mail := by
  unfold State.setEvent
  dsimp only
  split <;> rfl

@[simp] theorem State.satBy_mail (s : State) (o n : Nat) : (s.satBy o n).mgmt.mail = s.mgmt.mail := by
  unfold State.satBy
  dsimp only
  split
  · exact State.setEvent_mail _ _ _
  · rfl

@[simp] theorem State.record_mail (s : State) (code die : Nat) (p : List Byte) : (s.record code die p).mgmt.mail = s.mgmt.mail := by
  unfold State.record
  dsimp only
  split
  · exact State.setEvent_mail _ _ _
  · rfl

@[simp] theorem State.goto_mail (s : State) (m : DevState) : (s.goto m).mgmt.mail = s.mgmt.mail := by
  unfold State.goto
  split
  · exact State.setEvent_mail _ _ _
  · rfl

/-! ### What a chunk that is sent leaves alone (R292, R441) -/

/-- What the router keeps as it carries a chunk away: the mailboxes and the slice table. -/
structure Carried (s t : State) : Prop where
  mail : t.mgmt.mail = s.mgmt.mail
  table : t.fabric.table = s.fabric.table

theorem Carried.trans {u : State} (h : Carried s t) (k : Carried t u) : Carried s u := ⟨k.mail.trans h.mail, k.table.trans h.table⟩

theorem Carried.satBy (s : State) (o n : Nat) : Carried s (s.satBy o n) :=
  ⟨s.satBy_mail o n, congrArg Fabric.table ((Frame.satBy (.refl _ _) o n rfl : Frame [.sat, .mgmt] s _) .fabric (by decide))⟩

theorem State.depart_table (s : State) (port : Nat) (p : Packet) : (s.depart port p).fabric.table = s.fabric.table := by
  have flits (u : State) : (u.handFlits port (flitsOf p)).fabric = u.fabric :=
    (Frame.handFlits (.refl _ _) port _ rfl : Frame [.links, .wrap] u _) .fabric (by decide)
  unfold State.depart
  dsimp only
  split <;> simp only [State.wrapBy_fabric, flits, State.withFabric_fabric]

theorem State.pump_table (s : State) (port fuel : Nat) : (s.pump port fuel).fabric.table = s.fabric.table := by
  induction fuel generalizing s with
  | zero => rfl
  | succ fuel ih =>
    unfold State.pump
    split
    · rfl
    · split
      · rw [ih, State.depart_table]
        rfl
      · rfl

theorem Carried.pump (s : State) (port fuel : Nat) : Carried s (s.pump port fuel) :=
  ⟨congrArg Mgmt.mail ((Frame.pump (.refl _ _) port fuel rfl : Frame [.links, .fabric, .wrap] s _) .mgmt (by decide)),
    s.pump_table port fuel⟩

theorem Carried.enqueue (s : State) (port : Nat) (p : Packet) : Carried s (s.enqueue port p) := by
  unfold State.enqueue
  split
  · exact .satBy s _ _
  · exact ⟨(Carried.pump _ port _).mail, (Carried.pump _ port _).table⟩

theorem Carried.routeMgt (s : State) (inPort : Option Nat) (p : Packet) : Carried s (s.routeMgt inPort p) := by
  have came : Carried s (s.cameBy inPort) := ⟨rfl, rfl⟩
  unfold State.routeMgt
  dsimp only
  split
  · exact .satBy s _ _
  split
  · split
    · exact ⟨rfl, rfl⟩
    · split
      · exact came.trans (.enqueue _ _ _)
      · exact came.trans (.satBy _ _ _)
  · split
    · exact came.trans (.enqueue _ _ _)
    · split
      · exact came.trans (.satBy _ _ _)
      · split
        · exact came.trans (.enqueue _ _ _)
        · exact came.trans (.satBy _ _ _)

/-- A chunk that is sent joins those sent, and is carried away. -/
theorem Carried.sendChunkOf (s : State) (total : Nat) (c : OutMsg) :
    Carried (s.withMgmt fun m => { m with sent := m.sent ++ [c] }) (s.sendChunkOf total c) := by
  unfold State.sendChunkOf
  dsimp only
  split
  · exact ⟨rfl, rfl⟩
  · exact ⟨(Carried.routeMgt _ _ _).mail, (Carried.routeMgt _ _ _).table⟩

@[simp] theorem State.answer_table (s : State) (c : Chunk) (status : Nat) (body : List Byte) :
    (s.answer c status body).fabric.table = s.fabric.table := (Carried.sendChunkOf _ _ _).table

/-! ### A request of one chunk (R441 to R443) -/

/-- A short message as its one chunk. -/
def wholeChunk (m : Msg) (mtype : Nat) : Chunk :=
  { route := m.route, mtype := mtype, mseq := m.mseq, jobId := m.jobId, off := 0, total := m.body.length, body := m.body }

theorem State.receiveMsg_short {m : Msg} (h : m.body.length ≤ 4032) (s : State) (mtype : Nat) :
    s.receiveMsg mtype m = s.receiveChunk (wholeChunk m mtype) := by
  have one : max 1 ((m.body.length + 4031) / 4032) = 1 := by omega
  have whole : sub m.body 0 4032 = m.body := List.take_of_length_le h
  unfold State.receiveMsg
  dsimp only
  rw [one]
  show s.receiveChunk { (wholeChunk m mtype) with body := sub m.body 0 4032 } = _
  rw [whole]
  rfl

theorem bodyPlaced_whole (b : List Byte) : bodyPlaced b.length [(0, b)] = b :=
  splice_whole List.length_replicate

theorem allPlaced_whole (b : List Byte) : allPlaced b.length [(0, b)] = true :=
  decide_eq_true (Nat.le_of_eq (by simp [sortBy, insertBy]))

theorem State.dropPartial_absent {r : Route} (h : ∀ p ∈ s.mgmt.partials, p.route ≠ r) : s.dropPartial r = s := by
  have keep : (s.mgmt.partials.filter fun p => decide (p.route ≠ r)) = s.mgmt.partials :=
    List.filter_eq_self.mpr fun p hp => decide_eq_true (h p hp)
  show ({ s with mgmt := { s.mgmt with partials := s.mgmt.partials.filter fun p => decide (p.route ≠ r) } } : State) = s
  rw [keep]

theorem State.partialOf_absent {c : Chunk} (h : ∀ p ∈ s.mgmt.partials, p.route ≠ c.route) : s.partialOf c = none := by
  refine List.find?_eq_none.mpr fun p hp => ?_
  simp [h p hp]

/-- A request that comes whole is acted on at once, and answered. -/
theorem State.place_whole {m : Msg} (unstarted : ∀ p ∈ s.mgmt.partials, p.route ≠ m.route) (mtype : Nat) :
    s.place_ (wholeChunk m mtype) =
      (s.act mtype m).1.answer (wholeChunk m mtype) (s.act mtype m).2.1 (s.act mtype m).2.2 := by
  have placed : allPlaced (wholeChunk m mtype).total [(0, m.body)] = true := allPlaced_whole m.body
  have body : bodyPlaced (wholeChunk m mtype).total [(0, m.body)] = m.body := bodyPlaced_whole m.body
  have started : s.partialOf (wholeChunk m mtype) = none := State.partialOf_absent unstarted
  have dropped : s.dropPartial (wholeChunk m mtype).route = s := State.dropPartial_absent unstarted
  unfold State.place_
  rw [started, dropped]
  dsimp only [Option.getD_none, List.nil_append]
  refine (if_pos placed).trans ?_
  show ((s.act mtype { m with body := bodyPlaced (wholeChunk m mtype).total [(0, m.body)] }).1.answer (wholeChunk m mtype)
    (s.act mtype { m with body := bodyPlaced (wholeChunk m mtype).total [(0, m.body)] }).2.1
    (s.act mtype { m with body := bodyPlaced (wholeChunk m mtype).total [(0, m.body)] }).2.2) = _
  rw [body]

/-- A fresh request of one chunk is counted, acted on and answered. -/
theorem State.receiveMsg_fresh {mtype status : Nat} {m : Msg} {u : State} {body : List Byte} (f : Fresh s mtype m)
    (short : m.body.length ≤ 4032) (ht : mtype < 0x40) (act : (s.wrapBy oMsgIn 1).act mtype m = (u, status, body)) :
    s.receiveMsg mtype m = u.answer (wholeChunk m mtype) status body := by
  obtain ⟨on, size, unseen, unstarted⟩ := f
  have request : ¬((wholeChunk m mtype).mtype = 0x40 ∨ (wholeChunk m mtype).mtype = 0x41 ∨ (wholeChunk m mtype).mtype = 0x42) := by
    show ¬(mtype = 0x40 ∨ mtype = 0x41 ∨ mtype = 0x42)
    omega
  have unanswered : ((s.wrapBy oMsgIn 1).mgmt.stored.find? fun x => decide (x.route = (wholeChunk m mtype).route) &&
      decide (x.mseq = (wholeChunk m mtype).mseq) && decide (x.chunkOff = (wholeChunk m mtype).off)) = none := by
    refine List.find?_eq_none.mpr fun x hx => ?_
    simp only [Bool.and_eq_true, decide_eq_true_eq, not_and]
    exact fun hr => absurd hr.2 (unseen x hx hr.1)
  have fits : ¬maxBody (wholeChunk m mtype).mtype < (wholeChunk m mtype).total := Nat.not_lt.mpr size
  have inside : ¬(wholeChunk m mtype).total < (wholeChunk m mtype).off + (wholeChunk m mtype).body.length := by
    show ¬m.body.length < 0 + m.body.length
    omega
  rw [State.receiveMsg_short short]
  unfold State.receiveChunk
  dsimp only
  rw [if_neg on, if_neg request, unanswered]
  dsimp only
  rw [if_neg fits, if_neg inside]
  rw [State.place_whole (s := s.wrapBy oMsgIn 1) unstarted mtype, act]

/-- Of a source's stored answers the newest message's stays, however many it has (R443). -/
theorem mem_keepLast_new {l : List Stored} {e : Stored} (new : ∀ x ∈ l, x.route = e.route → x.mseq ≠ e.mseq) :
    e ∈ keepLast (l ++ [e]) e.route := by
  have own : (((l ++ [e]).filter fun x => decide (x.route = e.route)).map (·.mseq)) =
      ((l.filter fun x => decide (x.route = e.route)).map (·.mseq)) ++ [e.mseq] := by
    simp
  have absent : e.mseq ∉ (l.filter fun x => decide (x.route = e.route)).map (·.mseq) := by
    simp only [List.mem_map, List.mem_filter, decide_eq_true_eq, not_exists, not_and, and_imp]
    exact fun x hx hr => new x hx hr
  unfold keepLast
  dsimp only
  refine List.mem_filter.mpr ⟨List.mem_append_right _ (.head _), ?_⟩
  have last : [e.mseq].removeAll ((l.filter fun x => decide (x.route = e.route)).map (·.mseq)) = [e.mseq] :=
    List.filter_eq_self.mpr fun x hx => by
      rw [List.mem_singleton.mp hx]
      simpa using absent
  rw [own, List.eraseDups_append, last]
  generalize ((l.filter fun x => decide (x.route = e.route)).map (·.mseq)) = old at absent
  have kept : e.mseq ∉ (old.eraseDups ++ [e.mseq].eraseDups).take ((old.eraseDups ++ [e.mseq].eraseDups).length - 64) := by
    have one : [e.mseq].eraseDups = [e.mseq] := by rw [List.eraseDups_cons]; rfl
    rw [one, List.length_append, List.length_singleton, List.take_append_of_le_length (by omega)]
    exact fun h => absent (List.mem_eraseDups.mp (List.mem_of_mem_take h))
  simpa using kept

/-- A short request is answered as its one chunk is, where the mailboxes are as the request found them. -/
theorem State.answer_answered {u : State} {mtype : Nat} {m : Msg} (f : Fresh s mtype m) (short : m.body.length ≤ 4032)
    (same : u.mgmt.mail = s.mgmt.mail) (status : Nat) (body : List Byte) :
    Answered (u.answer (wholeChunk m mtype) status body) mtype m status body := by
  obtain ⟨-, -, unseen, -⟩ := f
  have off : lastOff m = 0 := by
    unfold lastOff
    omega
  let a : OutMsg :=
    { dest := m.route, mtype := mtype, resp := true, status := status, mseq := m.mseq, chunkOff := 0, jobId := m.jobId
      body := body, sentPt := u.pt }
  let e : Stored := { route := m.route, mseq := m.mseq, chunkOff := 0, answer := a }
  have mail : (u.answer (wholeChunk m mtype) status body).mgmt.mail =
      ({ u.mgmt with stored := keepLast (u.mgmt.stored ++ [e]) m.route, sent := u.mgmt.sent ++ [a] } : Mgmt).mail :=
    (Carried.sendChunkOf _ _ _).mail
  have stored : (u.answer (wholeChunk m mtype) status body).mgmt.stored = keepLast (u.mgmt.stored ++ [e]) m.route := Mgmt.stored_of_mail mail
  have sent : (u.answer (wholeChunk m mtype) status body).mgmt.sent = u.mgmt.sent ++ [a] := Mgmt.sent_of_mail mail
  have before : u.mgmt.stored = s.mgmt.stored := Mgmt.stored_of_mail same
  refine ⟨a, rfl, rfl, rfl, rfl, rfl, rfl, off.symm, rfl, ?_, ?_⟩
  · rw [sent]
    exact List.mem_append_right _ (.head _)
  · rw [stored, off, before]
    exact mem_keepLast_new (e := e) unseen

/-- What the request changes and what its answer changes, together. -/
theorem Frame.answered {k l : List StatePart} {u : State} (h : Frame k (s.wrapBy oMsgIn 1) u) (hk : covers k l = true)
    (hl : covers answerParts l = true) (c : Chunk) (status : Nat) (body : List Byte) : Frame l s (u.answer c status body) :=
  have counted : Frame l s (s.wrapBy oMsgIn 1) := .wrapBy (.refl _ _) _ _ (covers_trans hl rfl)
  .answer (counted.step hk h) _ _ _ (covers_trans hl rfl)

end Sys2Proof.Machine
end

section
/-!
SUPPORT. Drains: how a drain order begins one, how DRAIN is left, and the statements about them (R23, R32, R34 to R36, R292, R329, R449).
-/
namespace Sys2Proof.Machine

variable {s t : State}

/-! ### A drain order (R23, R36) -/

/-- The device in DRAIN for a reason, its link tickets revoked, before it is asked whether it is a member. -/
def State.drainBegun (s : State) (reason : Nat) : State :=
  let t := (s.goto .drain).withDev fun d => { d with reasons := BitVec.ofNat 8 (2 ^ reason), drainStart := s.pt, drained := false }
  let links := t.power.held.filter fun x => x.cls.num = 4
  (t.revoke 3 links).requestAgain links

theorem DevState.running_cases {m : DevState} (h : m.running = true) : m = .ready ∨ m = .run ∨ m = .watch := by
  cases m with
  | ready => exact .inl rfl
  | run => exact .inr (.inl rfl)
  | watch => exact .inr (.inr rfl)
  | _ => cases h

theorem State.orderDrain_of_running (h : s.dev.mode.running = true) (reason : Nat) :
    s.orderDrain reason =
      if (s.drainBegun reason).dev.bound then s.drainBegun reason else (s.drainBegun reason).completeDrain [] := by
  unfold State.orderDrain
  rcases DevState.running_cases h with h | h | h
  · rw [h]
    rfl
  · rw [h]
    rfl
  · rw [h]
    rfl

theorem State.orderDrain_of_drain (h : s.dev.mode = .drain) (reason : Nat) :
    s.orderDrain reason = (s.withDev fun d => { d with reasons := d.reasons ||| BitVec.ofNat 8 (2 ^ reason) }).leaveDrain := by
  unfold State.orderDrain
  rw [h]

theorem edge_drain_of_running {m : DevState} (h : m.running = true) : edge m .drain = true := by
  rcases DevState.running_cases h with rfl | rfl | rfl <;> rfl

theorem State.drainBegun_dev (h : s.dev.mode.running = true) (reason : Nat) :
    (s.drainBegun reason).dev = s.dev.drains reason s.pt := by
  have gone (u : State) (l : List Ticket) : ((u.revoke 3 l).requestAgain l).dev = u.dev :=
    (Frame.requestAgain (.revoke (.refl _ _) 3 l rfl) l rfl : Frame [.card, .mgmt, .power, .cells, .links, .wrap] u _) .dev (by decide)
  unfold State.drainBegun
  rw [gone, State.withDev_dev, State.goto_dev (edge_drain_of_running h)]
  rfl

theorem State.drainBegun_frame (s : State) (reason : Nat) : Frame drainParts s (s.drainBegun reason) :=
  .requestAgain (.revoke (.withDev (.goto (.refl _ _) _ rfl) _ rfl) _ _ rfl) _ rfl

theorem State.withdrawnAll_frame (s : State) (l : List Ticket) : Frame [.cells, .links] s (l.foldl State.withdrawn s) :=
  .foldl (.refl _ _) fun _ a h => h.withdrawn a rfl

theorem State.requestAgain_frame (s : State) (l : List Ticket) : Frame [.power] s (s.requestAgain l) := .requestAgain (.refl _ _) l rfl

theorem State.revoke_mail (s : State) (cause : Nat) (l : List Ticket) : (s.revoke cause l).mgmt.mail = s.mgmt.mail := by
  have withdrawn (u : State) : (l.foldl State.withdrawn u).mgmt = u.mgmt := u.withdrawnAll_frame l .mgmt (by decide)
  unfold State.revoke
  dsimp only
  split
  · rfl
  · rw [State.record_mail, State.wrapBy_mgmt, withdrawn]
    rfl

theorem State.drainBegun_mail (s : State) (reason : Nat) : (s.drainBegun reason).mgmt.mail = s.mgmt.mail := by
  have again (u : State) (l : List Ticket) : (u.requestAgain l).mgmt = u.mgmt := u.requestAgain_frame l .mgmt (by decide)
  unfold State.drainBegun
  rw [again, State.revoke_mail]
  exact State.goto_mail _ _

theorem State.orderDrain_of_member (h : s.dev.mode.running = true) (hb : s.dev.bound = true) (reason : Nat) :
    s.orderDrain reason = s.drainBegun reason := by
  have bound : (s.drainBegun reason).dev.bound = true := by
    rw [State.drainBegun_dev h]
    exact hb
  rw [State.orderDrain_of_running h, if_pos bound]

/-- A drain order takes a member into DRAIN with its reason alone. -/
theorem State.orderDrain_member (h : s.dev.mode.running = true) (hb : s.dev.bound = true) (reason : Nat) :
    (s.orderDrain reason).dev = s.dev.drains reason s.pt ∧ Frame drainParts s (s.orderDrain reason) ∧
      (s.orderDrain reason).mgmt.mail = s.mgmt.mail := by
  rw [State.orderDrain_of_member h hb]
  exact ⟨State.drainBegun_dev h reason, s.drainBegun_frame reason, s.drainBegun_mail reason⟩

theorem State.drainHold_of_running (h : s.dev.mode.running = true) :
    s.drainHold = (s.withDev fun d => { d with mgtHold := true }).orderDrain drMgt := by
  unfold State.drainHold
  rw [h]
  rfl

theorem State.drainHold_of_drain (h : s.dev.mode = .drain) :
    s.drainHold = (s.withDev fun d => { d with mgtHold := true }).orderDrain drMgt := by
  unfold State.drainHold
  rw [h]
  rfl

/-- A management order does so too, and holds. -/
theorem State.drainHold_member (h : s.dev.mode.running = true) (hb : s.dev.bound = true) :
    s.drainHold.dev = { s.dev.drains drMgt s.pt with mgtHold := true } ∧ Frame drainParts s s.drainHold ∧
      s.drainHold.mgmt.mail = s.mgmt.mail := by
  rw [State.drainHold_of_running h]
  have held : Frame drainParts s (s.withDev fun d => { d with mgtHold := true }) := .withDev (.refl _ _) _ rfl
  obtain ⟨dev, frame, mail⟩ := State.orderDrain_member (s := s.withDev fun d => { d with mgtHold := true }) h hb drMgt
  exact ⟨dev, held.trans frame, mail⟩

theorem mode_ne_off_of_running (h : s.dev.mode.running = true) : s.dev.mode ≠ .off := by
  intro off
  rw [off] at h
  cases h

theorem exec_drainReqPinAssert (h : s.dev.mode ≠ .off) :
    exec .drainReqPinAssert s = .next ((s.withPins fun p => { p with drainReq := true }).orderDrain drPin) := if_neg h

/-! ### The message DRAIN (R449) -/

/-- The order that a REASON of the message places. -/
def State.drainFor (s : State) (b : Byte) : State :=
  if b = 0 then s.drainHold else if b = 1 then s.orderDrain drReform else s.orderDrain drJobend

theorem State.drainMsg_reason {m : Msg} {b : Byte} (hm : m.body = [b]) (hb : b.toNat < 3) : s.drainMsg m = (s.drainFor b, stOk, []) := by
  have cases : b = 0 ∨ b = 1 ∨ b = 2 := by bv_omega
  unfold State.drainMsg
  rw [hm]
  rcases cases with rfl | rfl | rfl
  · rfl
  · rfl
  · rfl

theorem State.drainFor_member (h : s.dev.mode.running = true) (hb : s.dev.bound = true) (b : Byte) :
    (s.drainFor b).dev = (if b = 0 then { s.dev.drains drMgt s.pt with mgtHold := true }
      else if b = 1 then s.dev.drains drReform s.pt else s.dev.drains drJobend s.pt) ∧
    Frame drainParts s (s.drainFor b) ∧ (s.drainFor b).mgmt.mail = s.mgmt.mail := by
  unfold State.drainFor
  split
  · exact State.drainHold_member h hb
  · split
    · exact State.orderDrain_member h hb drReform
    · exact State.orderDrain_member h hb drJobend

theorem drainOrders : Parts.DrainOrders := by
  intro s hr hb
  have on := mode_ne_off_of_running hr
  refine ⟨?_, ?_, ?_, fun m b f hm hlt => ?_⟩
  · have pinned : Frame (.pins :: drainParts) s (s.withPins fun p => { p with drainReq := true }) := .withPins (.refl _ _) _ rfl
    obtain ⟨dev, frame, -⟩ := State.orderDrain_member (s := s.withPins fun p => { p with drainReq := true }) hr hb drPin
    exact ⟨_, exec_drainReqPinAssert on, dev, frame .pins (by decide), pinned.step rfl frame⟩
  · obtain ⟨dev, frame, -⟩ := State.drainHold_member hr hb
    exact ⟨_, rfl, dev, frame⟩
  · obtain ⟨dev, frame, -⟩ := State.orderDrain_member hr hb drPowerdown
    exact ⟨_, rfl, dev, frame⟩
  · have short : m.body.length ≤ 4032 := by simp [hm]
    obtain ⟨dev, frame, mail⟩ := State.drainFor_member (s := s.wrapBy oMsgIn 1) hr hb b
    have got : exec (.drain m) s = .next (((s.wrapBy oMsgIn 1).drainFor b).answer (wholeChunk m 0x13) stOk []) :=
      congrArg Host.Outcome.next (State.receiveMsg_fresh f short (by decide) (State.drainMsg_reason hm hlt))
    have answered (u : State) (c : Chunk) (st : Nat) (l : List Byte) : (u.answer c st l).dev = u.dev :=
      (Frame.answer (.refl _ _) c st l rfl : Frame answerParts u _) .dev (by decide)
    exact ⟨_, got, (answered _ _ _ _).trans dev, State.answer_answered f short mail _ _, frame.answered rfl rfl _ _ _⟩

/-! ### How DRAIN is left (R32, R36) -/

theorem State.leaveDrain_undrained (h : s.dev.drained = false) : s.leaveDrain = s :=
  if_neg fun k => Bool.false_ne_true (h.symm.trans k.2.1)

/-- A further order in DRAIN, before the device is drained, joins those recorded and does nothing else. -/
theorem State.orderDrain_adds (h : s.dev.mode = .drain) (hd : s.dev.drained = false) (reason : Nat) :
    s.orderDrain reason = s.withDev fun d => { d with reasons := d.reasons ||| BitVec.ofNat 8 (2 ^ reason) } := by
  rw [State.orderDrain_of_drain h]
  exact State.leaveDrain_undrained hd

theorem mode_ne_off_of_drain (h : s.dev.mode = .drain) : s.dev.mode ≠ .off := by
  rw [h]
  decide

theorem drainReasonsAdd : Parts.DrainReasonsAdd := by
  intro s h hd
  have pin := State.orderDrain_adds (s := s.withPins fun p => { p with drainReq := true }) h hd drPin
  have held := State.orderDrain_adds (s := s.withDev fun d => { d with mgtHold := true }) h hd drMgt
  have down := State.orderDrain_adds h hd drPowerdown
  refine ⟨?_, ?_, congrArg Host.Outcome.next down⟩
  · rw [exec_drainReqPinAssert (mode_ne_off_of_drain h), pin]
    rfl
  · show Host.Outcome.next s.drainHold = _
    rw [State.drainHold_of_drain h, held]
    rfl

/-- Settles O11, from its two parts. -/
theorem drainsBegin : Obligations.DrainsBegin := ⟨drainOrders, drainReasonsAdd⟩

/-- A device that has drained and is a member no more. -/
structure Drained (s : State) : Prop where
  mode : s.dev.mode = .drain
  done : s.dev.drained = true
  unbound : s.dev.bound = false

/-- None of the reasons that decide where DRAIN is left for (R36). -/
structure Undecided (d : Device) : Prop where
  silent : d.has drSilent = false
  floor : d.has drFloor = false
  powerdown : d.has drPowerdown = false

theorem State.leaveDrain_of_drained (h : Drained s) :
    s.leaveDrain =
      if s.dev.has drSilent || s.dev.has drFloor then s.clearTable.enterBenched
      else if s.dev.has drPowerdown then s.clearTable.enterStandbyDown
      else if s.orderInForce then s
      else if s.nvm.watchRecord then s.clearTable.enterWatch s.bucket.testDue
      else s.clearTable.goto .ready := if_pos ⟨h.mode, h.done, h.unbound⟩

theorem State.leaveDrain_powerdown (h : Drained s) (hs : s.dev.has drSilent = false) (hf : s.dev.has drFloor = false)
    (hp : s.dev.has drPowerdown = true) : s.leaveDrain = s.clearTable.enterStandbyDown := by
  rw [State.leaveDrain_of_drained h, hs, hf, hp]
  rfl

theorem State.leaveDrain_held (h : Drained s) (u : Undecided s.dev) (ho : s.orderInForce = true) : s.leaveDrain = s := by
  rw [State.leaveDrain_of_drained h, u.silent, u.floor, u.powerdown, ho]
  rfl

theorem State.leaveDrain_ready (h : Drained s) (u : Undecided s.dev) (ho : s.orderInForce = false) (hw : s.nvm.watchRecord = false) :
    s.leaveDrain = s.clearTable.goto .ready := by
  rw [State.leaveDrain_of_drained h, u.silent, u.floor, u.powerdown, ho, hw]
  rfl

theorem reason_clear {b m : Byte} {i : Nat} (h : b &&& m = 0) (hm : m.getLsbD i = true) : b.getLsbD i = false := by
  have bit := congrArg (BitVec.getLsbD · i) h
  simpa [hm] using bit

theorem Undecided.of_reasons {d : Device} (h : d.reasons &&& 0x54 = 0) : Undecided d :=
  ⟨reason_clear h rfl, reason_clear h rfl, reason_clear h rfl⟩

/-- DRAIN left for READY: the slice table is cleared, and the transition takes place. -/
theorem State.leaveDrain_gone (h : Drained s) (u : Undecided s.dev) (ho : s.orderInForce = false) (hw : s.nvm.watchRecord = false) :
    s.leaveDrain.dev = { s.dev with mode := .ready, prev := .drain } ∧ s.leaveDrain.fabric.table = none ∧ s.leaveDrain.windows = [] ∧
      s.leaveDrain.mgmt.mail = s.mgmt.mail ∧ Frame [.dev, .mgmt, .fabric, .windows] s s.leaveDrain := by
  have allowed : edge s.clearTable.dev.mode .ready = true := by
    show edge s.dev.mode .ready = true
    rw [h.mode]
    rfl
  have moved := State.goto_dev allowed
  have rest := s.clearTable.goto_frame .ready
  have fabric : (s.clearTable.goto .ready).fabric = s.clearTable.fabric := rest .fabric (by decide)
  have windows : (s.clearTable.goto .ready).windows = s.clearTable.windows := rest .windows (by decide)
  rw [State.leaveDrain_ready h u ho hw]
  refine ⟨moved.trans ?_, congrArg Fabric.table fabric, windows, s.clearTable.goto_mail .ready, .goto (.clearTable (.refl _ _) rfl) _ rfl⟩
  show ({ s.dev with mode := .ready, prev := s.dev.mode } : Device) = _
  rw [h.mode]

theorem exec_drainReqPinDeassert (h : s.dev.mode ≠ .off) :
    exec .drainReqPinDeassert s = .next (s.withPins fun p => { p with drainReq := false }).leaveDrain := if_neg h

theorem State.drainRelease_of_drain (h : s.dev.mode = .drain) :
    s.drainRelease = (s.withDev fun d => { d with mgtHold := false }).leaveDrain := by
  unfold State.drainRelease
  dsimp only [State.withDev_dev]
  rw [h]

theorem State.releaseMsg_empty {m : Msg} (h : m.body = []) : s.releaseMsg m = (s.drainRelease, stOk, []) := by
  unfold State.releaseMsg
  rw [h]
  rfl

/-- A release of the management order ends a drain that nothing else holds. -/
theorem State.drainRelease_gone (h : Drained s) (u : Undecided s.dev) (hp : s.pins.drainReq = false) (hd : s.dev.debugHold = false)
    (hw : s.nvm.watchRecord = false) :
    s.drainRelease.dev = { s.dev with mode := .ready, prev := .drain, mgtHold := false } ∧ s.drainRelease.fabric.table = none ∧
      s.drainRelease.windows = [] ∧ s.drainRelease.mgmt.mail = s.mgmt.mail ∧ Frame [.dev, .mgmt, .fabric, .windows] s s.drainRelease := by
  let r := s.withDev fun d => { d with mgtHold := false }
  have free : r.orderInForce = false := by
    show (s.pins.drainReq || false || s.dev.debugHold) = false
    rw [hp, hd]
    rfl
  obtain ⟨dev, table, windows, mail, frame⟩ :=
    State.leaveDrain_gone (s := r) ⟨h.mode, h.done, h.unbound⟩ ⟨u.silent, u.floor, u.powerdown⟩ free hw
  have released : Frame [.dev, .mgmt, .fabric, .windows] s r := .withDev (.refl _ _) _ rfl
  rw [State.drainRelease_of_drain h.mode]
  exact ⟨dev, table, windows, mail, released.trans frame⟩

/-- Settles O12: each release leaves the device without an order, so that DRAIN is left for READY. -/
theorem drainReleases : Obligations.DrainReleases := by
  intro s hm hd hb hdebug hr hw
  have drained : Drained s := ⟨hm, hd, hb⟩
  have undecided : Undecided s.dev := .of_reasons hr
  refine ⟨fun hmgt => ?_, fun hpin => ?_, fun m f hbody hpin => ?_⟩
  · let r := s.withPins fun p => { p with drainReq := false }
    have free : r.orderInForce = false := by
      show (false || s.dev.mgtHold || s.dev.debugHold) = false
      rw [hmgt, hdebug]
      rfl
    have pinned : Frame [.dev, .pins, .mgmt, .fabric, .windows] s r := .withPins (.refl _ _) _ rfl
    obtain ⟨dev, table, windows, -, frame⟩ := State.leaveDrain_gone (s := r) ⟨hm, hd, hb⟩ undecided free hw
    have mode : r.leaveDrain.dev.mode = .ready := by rw [dev]
    have prev : r.leaveDrain.dev.prev = .drain := by rw [dev]
    exact ⟨_, exec_drainReqPinDeassert (mode_ne_off_of_drain hm), ⟨mode, prev, table, windows⟩, frame .pins (by decide),
      pinned.step rfl frame⟩
  · obtain ⟨dev, table, windows, -, frame⟩ := State.drainRelease_gone drained undecided hpin hdebug hw
    exact ⟨_, rfl, ⟨by rw [dev], by rw [dev], table, windows⟩, by rw [dev], frame⟩
  · let u := s.wrapBy oMsgIn 1
    have short : m.body.length ≤ 4032 := by simp [hbody]
    obtain ⟨dev, table, windows, mail, frame⟩ :=
      State.drainRelease_gone (s := u) ⟨hm, hd, hb⟩ undecided hpin hdebug hw
    have got : exec (.msgDrainRelease m) s = .next (u.drainRelease.answer (wholeChunk m 0x14) stOk []) :=
      congrArg Host.Outcome.next (State.receiveMsg_fresh f short (by decide) (State.releaseMsg_empty hbody))
    have answered : Frame answerParts u.drainRelease (u.drainRelease.answer (wholeChunk m 0x14) stOk []) := .answer (.refl _ _) _ _ _ rfl
    have dev' : (u.drainRelease.answer (wholeChunk m 0x14) stOk []).dev = { s.dev with mode := .ready, prev := .drain, mgtHold := false } :=
      (answered .dev (by decide)).trans dev
    have windows' : (u.drainRelease.answer (wholeChunk m 0x14) stOk []).windows = [] := (answered .windows (by decide)).trans windows
    have table' : (u.drainRelease.answer (wholeChunk m 0x14) stOk []).fabric.table = none := (State.answer_table _ _ _ _).trans table
    exact ⟨_, got, by rw [dev'], by rw [dev'], by rw [dev'], table', windows', State.answer_answered f short mail _ _,
      frame.answered rfl rfl _ _ _⟩

end Sys2Proof.Machine
end

section
/-!
SUPPORT. The end of a drain: membership ends, and after 200 ms in any case (R32, R34 to R36, R329, R476).
-/
namespace Sys2Proof.Machine

variable {s t : State}

/-! ### What leaving DRAIN keeps (R36) -/

theorem State.leaveDrain_cases (s : State) :
    s.leaveDrain = s ∨ s.leaveDrain = s.clearTable.enterBenched ∨ s.leaveDrain = s.clearTable.enterStandbyDown ∨
      s.leaveDrain = s.clearTable.enterWatch s.bucket.testDue ∨ s.leaveDrain = s.clearTable.goto .ready := by
  by_cases h : s.dev.mode = .drain ∧ s.dev.drained = true ∧ s.dev.bound = false
  · rw [State.leaveDrain_of_drained ⟨h.1, h.2.1, h.2.2⟩]
    split
    · exact .inr (.inl rfl)
    split
    · exact .inr (.inr (.inl rfl))
    split
    · exact .inl rfl
    split
    · exact .inr (.inr (.inr (.inl rfl)))
    · exact .inr (.inr (.inr (.inr rfl)))
  · exact .inl (if_neg h)

/-- What every way out of DRAIN keeps: the reasons, the end of the drain and of membership, the ledger, and that no station and
no operation is left. -/
structure LeftAs (s t : State) : Prop where
  reasons : t.dev.reasons = s.dev.reasons
  drained : t.dev.drained = s.dev.drained
  bound : t.dev.bound = s.dev.bound
  ledger : t.card.ledger = s.card.ledger
  stations : s.cells.stations = [] → t.cells.stations = []
  flights : s.fabric.flights = [] → t.fabric.flights = []

theorem LeftAs.refl (s : State) : LeftAs s s := ⟨rfl, rfl, rfl, rfl, id, id⟩

theorem LeftAs.trans {u : State} (h : LeftAs s t) (k : LeftAs t u) : LeftAs s u :=
  ⟨k.reasons.trans h.reasons, k.drained.trans h.drained, k.bound.trans h.bound, k.ledger.trans h.ledger,
    fun x => k.stations (h.stations x), fun x => k.flights (h.flights x)⟩

theorem LeftAs.clearTable (s : State) : LeftAs s s.clearTable := ⟨rfl, rfl, rfl, rfl, id, id⟩

theorem LeftAs.goto (s : State) (m : DevState) : LeftAs s (s.goto m) := by
  by_cases h : edge s.dev.mode m = true
  · have dev := State.goto_dev h
    have rest := s.goto_frame m
    have card : (s.goto m).card = s.card := rest .card (by decide)
    have cells : (s.goto m).cells = s.cells := rest .cells (by decide)
    have fabric : (s.goto m).fabric = s.fabric := rest .fabric (by decide)
    refine ⟨?_, ?_, ?_, ?_, ?_, ?_⟩ <;> simp only [dev, card, cells, fabric, imp_self]
  · have stays : s.goto m = s := if_neg h
    rw [stays]
    exact .refl s

theorem LeftAs.enterBenched (s : State) : LeftAs s s.enterBenched := by
  unfold State.enterBenched
  split
  · obtain ⟨reasons, drained, bound, ledger, stations, flights⟩ := LeftAs.goto s .benched
    exact ⟨reasons, drained, bound, ledger, stations, flights⟩
  · exact .refl s

theorem LeftAs.enterWatch (s : State) (test : Bool) : LeftAs s (s.enterWatch test) := by
  obtain ⟨reasons, drained, bound, ledger, stations, flights⟩ := LeftAs.goto s .watch
  unfold State.enterWatch
  split
  · split
    · exact ⟨reasons, drained, bound, ledger, stations, flights⟩
    · exact ⟨reasons, drained, bound, ledger, stations, flights⟩
  · exact .refl s

theorem LeftAs.enterStandbyDown (s : State) : LeftAs s s.enterStandbyDown := by
  unfold State.enterStandbyDown
  split
  · obtain ⟨reasons, drained, bound, ledger, -, -⟩ := LeftAs.goto s .standby
    exact ⟨reasons, drained, bound, ledger, fun _ => rfl, fun _ => rfl⟩
  · exact .refl s

theorem State.leaveDrain_leftAs (s : State) : LeftAs s s.leaveDrain := by
  have cleared := LeftAs.clearTable s
  rcases s.leaveDrain_cases with e | e | e | e | e <;> rw [e]
  · exact .refl s
  · exact cleared.trans (.enterBenched _)
  · exact cleared.trans (.enterStandbyDown _)
  · exact cleared.trans (.enterWatch _ _)
  · exact cleared.trans (.goto _ _)

/-! ### The device is drained (R34, R35) -/

/-- The device as its drain's end is reported, still a member. -/
def State.drainReported (s : State) (outstanding : List Byte) : State :=
  let t := s.withDev fun d => { d with drained := true }
  if t.dev.bound then t.report 0x45 (item 8 t.mgtState.toNat ++ outstanding) true else t

theorem State.completeDrain_eq (s : State) (outstanding : List Byte) :
    s.completeDrain outstanding = (s.drainReported outstanding).endMembership.leaveDrain := rfl

theorem State.drainReported_dev (s : State) (outstanding : List Byte) :
    (s.drainReported outstanding).dev = { s.dev with drained := true } := by
  have told : Frame [.mgmt, .links, .fabric, .sat, .wrap] (s.withDev fun d => { d with drained := true }) (s.drainReported outstanding) :=
    .ite (.report (.refl _ _) _ _ _ rfl) (.refl _ _)
  exact told .dev (by decide)

theorem State.drainReported_frame (s : State) (outstanding : List Byte) :
    Frame [.dev, .mgmt, .links, .fabric, .sat, .wrap] s (s.drainReported outstanding) :=
  have done : Frame [.dev, .mgmt, .links, .fabric, .sat, .wrap] s (s.withDev fun d => { d with drained := true }) := .withDev (.refl _ _) _ rfl
  .ite (.report done _ _ _ rfl) done

/-- The device once membership has ended, before DRAIN is left. -/
def State.drainEnded (s : State) (outstanding : List Byte) : State := (s.drainReported outstanding).endMembership

theorem State.drainEnded_dev (s : State) (outstanding : List Byte) :
    (s.drainEnded outstanding).dev = { s.dev with drained := true, bound := false } := by
  show ({ (s.drainReported outstanding).dev with bound := false } : Device) = _
  rw [State.drainReported_dev]

theorem State.drainEnded_frame (s : State) (outstanding : List Byte) :
    Frame [.dev, .power, .cells, .glide, .fabric, .restore, .relay, .job, .mgmt, .links, .sat, .wrap] s (s.drainEnded outstanding) :=
  .endMembership (.step (.refl _ _) rfl (s.drainReported_frame outstanding)) rfl

/-- However DRAIN is left, the end of the drain has ended membership, with its stations and operations, and the ledger stands. -/
theorem State.completeDrain_ends (s : State) (outstanding : List Byte) :
    (s.completeDrain outstanding).dev.reasons = s.dev.reasons ∧ (s.completeDrain outstanding).dev.drained = true ∧
      (s.completeDrain outstanding).dev.bound = false ∧ (s.completeDrain outstanding).card.ledger = s.card.ledger ∧
      (s.completeDrain outstanding).cells.stations = [] ∧ (s.completeDrain outstanding).fabric.flights = [] := by
  obtain ⟨reasons, drained, bound, ledger, stations, flights⟩ := (s.drainEnded outstanding).leaveDrain_leftAs
  rw [State.drainEnded_dev] at reasons drained bound
  have card : (s.drainEnded outstanding).card = s.card := s.drainEnded_frame outstanding .card (by decide)
  rw [card] at ledger
  exact ⟨reasons, drained, bound, ledger, stations rfl, flights rfl⟩

theorem exec_drained_of_isDrained (h : s.dev.mode = .drain) (hd : s.dev.drained = false) (hi : s.isDrained = true) :
    exec .drained s = .next (s.completeDrain []) := if_pos ⟨h, hd, hi⟩

theorem reason_set {b : Byte} {i : Nat} (h : b &&& BitVec.twoPow 8 i ≠ 0) : b.getLsbD i = true := by
  refine Bool.of_not_eq_false fun k => h ?_
  rw [BitVec.and_twoPow, k]
  rfl

/-- Power-down from DRAIN: STANDBY with ZH_PWR_EN deasserted for good, without memory, tables or job. -/
theorem State.enterStandbyDown_of_drain (h : s.dev.mode = .drain) :
    s.enterStandbyDown.dev = { s.dev with mode := .standby, prev := .drain, mgtHold := false } ∧
      s.enterStandbyDown.pins = { s.pins with pwrEn := false, pwrEnSpent := true } ∧ s.enterStandbyDown.stores.mem = {} ∧
      s.enterStandbyDown.job = none := by
  have moved : (s.goto .standby).dev = { s.dev with mode := .standby, prev := .drain } := by
    rw [State.goto_dev (by rw [h]; rfl), h]
  have pins : (s.goto .standby).pins = s.pins := s.goto_frame .standby .pins (by decide)
  unfold State.enterStandbyDown
  rw [if_pos h]
  refine ⟨?_, ?_, rfl, rfl⟩
  · show ({ (s.goto .standby).dev with mgtHold := false } : Device) = _
    rw [moved]
  · show ({ (s.goto .standby).pins with pwrEn := false, pwrEnSpent := true } : Pins) = _
    rw [pins]

theorem Frame.stores_same {l : List StatePart} (h : Frame l s t) (hs : .stores ∉ l) (hm : .mem ∉ l) : t.stores = s.stores :=
  calc t.stores
    _ = { ({ t.stores with mem := {} } : Stores) with mem := t.stores.mem } := rfl
    _ = { ({ s.stores with mem := {} } : Stores) with mem := s.stores.mem } := by rw [show _ = _ from h .stores hs, show _ = _ from h .mem hm]

theorem drainedEndsMembership : Parts.DrainedEndsMembership := by
  intro s hm hd hi hr
  have dev := s.drainEnded_dev []
  have rest := s.drainEnded_frame []
  have pins : (s.drainEnded []).pins = s.pins := rest .pins (by decide)
  have nvm : (s.drainEnded []).nvm = s.nvm := rest .nvm (by decide)
  have pt : (s.drainEnded []).pt = s.pt := rest .pt (by decide)
  have ended : Drained (s.drainEnded []) := ⟨by rw [dev]; exact hm, by rw [dev], by rw [dev]⟩
  have silent : (s.drainEnded []).dev.has drSilent = false := by
    rw [dev]
    exact reason_clear hr rfl
  have floor : (s.drainEnded []).dev.has drFloor = false := by
    rw [dev]
    exact reason_clear hr rfl
  refine ⟨fun ho hp => ?_, fun hp => ?_⟩
  · have powerdown : (s.drainEnded []).dev.has drPowerdown = false := by
      rw [dev]
      exact reason_clear hp rfl
    have order : (s.drainEnded []).orderInForce = true := by
      show ((s.drainEnded []).pins.drainReq || (s.drainEnded []).dev.mgtHold || (s.drainEnded []).dev.debugHold) = true
      rw [pins, dev]
      exact ho
    have stays : s.completeDrain [] = s.drainEnded [] := State.leaveDrain_held ended ⟨silent, floor, powerdown⟩ order
    have stores : (s.drainEnded []).stores = s.stores := rest.stores_same (by decide) (by decide)
    refine ⟨_, exec_drained_of_isDrained hm hd hi, ?_⟩
    rw [stays]
    exact ⟨dev, rfl, rfl, rfl, stores, nvm, pt⟩
  · have powerdown : (s.drainEnded []).dev.has drPowerdown = true := by
      rw [dev]
      exact reason_set hp
    have leaves : s.completeDrain [] = (s.drainEnded []).clearTable.enterStandbyDown :=
      State.leaveDrain_powerdown ended silent floor powerdown
    have cleared : Frame [.fabric, .windows] (s.drainEnded []) (s.drainEnded []).clearTable := .clearTable (.refl _ _) rfl
    have down : Frame [.dev, .pins, .clocks, .mgmt, .power, .cells, .stores, .glide, .links, .fabric, .windows, .restore, .relay, .job,
        .freeIdx, .mem] (s.drainEnded []) (s.drainEnded []).clearTable.enterStandbyDown :=
      .enterStandbyDown (.step (.refl _ _) rfl cleared) rfl
    obtain ⟨dev', pins', mem, job⟩ := State.enterStandbyDown_of_drain (s := (s.drainEnded []).clearTable) ended.mode
    refine ⟨_, exec_drained_of_isDrained hm hd hi, ?_⟩
    rw [leaves, dev', pins', mem, job]
    exact ⟨rfl, rfl, ended.unbound, rfl, rfl, rfl, rfl, (down .nvm (by decide)).trans nvm, (down .pt (by decide)).trans pt⟩

/-! ### The limit of a drain (R35, R329) -/

/-- What is under way given up, and the reason recorded, before event 0x55 is. -/
def State.drainAborted (s : State) : State :=
  (s.abandonConfirmation.abortedDst.foldl State.undefineObject s.abandonConfirmation).withDev fun d =>
    { d with reasons := d.reasons ||| BitVec.ofNat 8 (2 ^ drIncomplete) }

theorem exec_drainLimit_of_due (h : s.dev.mode = .drain) (hd : s.dev.drained = false) (hl : 20000000 ≤ s.pt.toNat - s.dev.drainStart.toNat)
    (hi : s.isDrained = false) :
    exec .drainLimit s = .next ((s.drainAborted.record 0x55 0xFF s.drainAborted.outstandingBody).dropTickets.completeDrain
      s.drainAborted.outstandingBody) := if_pos ⟨h, hd, hl, hi⟩

theorem State.drainAborted_frame (s : State) : Frame [.dev, .card, .mgmt, .cells, .stores, .freeIdx, .mem] s s.drainAborted :=
  .withDev (.foldl (.abandonConfirmation (.refl _ _) rfl) fun _ _ h => h.undefineObject _ rfl) _ rfl

theorem State.drainAborted_reasons (s : State) : s.drainAborted.dev.reasons = s.dev.reasons ||| 0x80 := by
  have given : Frame [.card, .mgmt, .cells, .stores, .freeIdx, .mem] s
      (s.abandonConfirmation.abortedDst.foldl State.undefineObject s.abandonConfirmation) :=
    .foldl (.abandonConfirmation (.refl _ _) rfl) fun _ _ h => h.undefineObject _ rfl
  exact congrArg (fun d : Device => d.reasons ||| 0x80) (given .dev (by decide))

theorem drainLimitAborts : Parts.DrainLimitAborts := by
  intro s hm hd hlimit hi
  let a := s.drainAborted
  let u := (a.record 0x55 0xFF a.outstandingBody).dropTickets
  have noted : Frame [.card, .mgmt, .power] a u := .dropTickets (.record (.refl _ _) _ _ _ rfl) rfl
  have dropped : Frame [.power] (a.record 0x55 0xFF a.outstandingBody) u := .dropTickets (.refl _ _) rfl
  have ended : Frame [.dev, .pins, .clocks, .nvm, .card, .mgmt, .power, .cells, .bucket, .stores, .glide, .links, .fabric, .windows, .restore,
      .relay, .job, .sat, .wrap, .freeIdx, .mem] u (u.completeDrain a.outstandingBody) := .completeDrain (.refl _ _) _ rfl
  have dev : u.dev = a.dev := noted .dev (by decide)
  have card : u.card = (a.record 0x55 0xFF a.outstandingBody).card := dropped .card (by decide)
  have apt : a.pt = s.pt := s.drainAborted_frame .pt (by decide)
  have pt : (u.completeDrain a.outstandingBody).pt = s.pt := (ended .pt (by decide)).trans ((noted .pt (by decide)).trans apt)
  obtain ⟨-, r, stands, code, -, time⟩ := a.record_recorded 0x55 0xFF a.outstandingBody
  obtain ⟨reasons, drained, bound, ledger, stations, flights⟩ := u.completeDrain_ends a.outstandingBody
  rw [dev] at reasons
  rw [card] at ledger
  have logged : Logged s (u.completeDrain a.outstandingBody) 0x55 :=
    ⟨a.card.head.toNat % 1024, r, (congrArg (look · _) ledger).trans stands, code, time.trans apt⟩
  exact ⟨_, exec_drainLimit_of_due hm hd hlimit hi, reasons.trans s.drainAborted_reasons, drained, bound, stations, flights, pt, logged⟩

/-- Settles O13, from its two parts. -/
theorem drainsEnd : Obligations.DrainsEnd := ⟨drainedEndsMembership, drainLimitAborts⟩

end Sys2Proof.Machine
end

section
/-!
SUPPORT. A new capacity map, the journal's flush, and on-demand tests (R22, R434, R462, R464).
-/
namespace Sys2Proof.Machine

variable {s t : State}

/-! ### Masks and tables -/

theorem bit_eq_testBit (n i : Nat) : bit n i = n.testBit i := Nat.testBit_eq_decide_div_mod_eq.symm

/-- A bit that is clear is set by adding its weight, and no other bit changes. -/
theorem testBit_add_two_pow {m j : Nat} (h : m.testBit j = false) (i : Nat) : (m + 2 ^ j).testBit i = (m.testBit i || i == j) := by
  have clear : m % 2 ^ (j + 1) = m % 2 ^ j := by
    have bit : m / 2 ^ j % 2 = 0 := by
      rw [Nat.testBit_eq_decide_div_mod_eq, decide_eq_false_iff_not] at h
      omega
    rw [Nat.mod_pow_succ, bit, Nat.mul_zero, Nat.add_zero]
  have low : m % 2 ^ j < 2 ^ j := Nat.mod_lt _ (Nat.two_pow_pos j)
  have parts : m = 2 ^ (j + 1) * (m / 2 ^ (j + 1)) + m % 2 ^ j := by
    rw [← clear]
    exact (Nat.div_add_mod m _).symm
  generalize m / 2 ^ (j + 1) = q at parts
  generalize m % 2 ^ j = r at parts low
  have sum : m + 2 ^ j = 2 ^ (j + 1) * q + (2 ^ j * 1 + r) := by omega
  rw [sum, parts, Nat.testBit_two_pow_mul_add q (by omega), Nat.testBit_two_pow_mul_add q (by omega), Nat.testBit_two_pow_mul_add 1 low]
  rcases Nat.lt_trichotomy i j with lt | rfl | gt
  · simp [lt, Nat.lt_succ_of_lt lt, Nat.ne_of_lt lt]
  · simp [Nat.testBit_lt_two_pow low]
  · simp [Nat.not_lt.mpr (Nat.succ_le_of_lt gt), Nat.ne_of_gt gt]

theorem bit_maskOf (l : List Nat) (i : Nat) : (maskOf l).testBit i = l.contains i := by
  suffices fold : ∀ m : Nat, (l.foldl (fun m i => if bit m i then m else m + 2 ^ i) m).testBit i = (m.testBit i || l.contains i) by
    simpa [maskOf] using fold 0
  induction l with
  | nil => simp
  | cons j r ih =>
    intro m
    rw [List.foldl_cons, ih, List.contains_cons]
    by_cases set : m.testBit j = true
    · have listed : bit m j = true := (bit_eq_testBit m j).trans set
      rw [if_pos listed]
      by_cases e : i = j
      · simp [e, set]
      · simp [beq_eq_false_iff_ne.mpr e]
    · have clear : bit m j ≠ true := fun h => set ((bit_eq_testBit m j).symm.trans h)
      rw [if_neg clear, testBit_add_two_pow (Bool.eq_false_iff.mpr set), Bool.or_assoc]

/-- A mask as a register of w bits holds it: a listed unit among the first w has its bit set. -/
theorem getLsbD_maskOf {w i : Nat} (h : i < w) (l : List Nat) : (BitVec.ofNat w (maskOf l)).getLsbD i = l.contains i := by
  rw [BitVec.getLsbD_ofNat, bit_maskOf]
  simp [h]

theorem look_map_of_mem {α : Type} {l : List Nat} {k : Nat} (h : k ∈ l) (f : Nat → α) : look (l.map fun c => (c, f c)) k = some (f k) := by
  induction l with
  | nil => cases h
  | cons c r ih =>
    rw [List.map_cons, look]
    split
    case isTrue e => rw [e]
    case isFalse e => exact ih ((List.mem_cons.mp h).resolve_left (Ne.symm e))

/-! ### The capacity map (R464) -/

/-- The map that is written, with the engines' registers as they publish them. -/
def State.mapWritten (s : State) (engineReg predN : Nat → Word) : CapMap :=
  { gen := s.cap.gen + 1, writing := false, belowFloor := s.belowFloor, ports := BitVec.ofNat 7 (maskOf s.portsFull)
    engines := BitVec.ofNat 4 (maskOf s.enginesIn), stackSet := BitVec.ofNat 12 (maskOf s.stacksIn), lodge := s.lodgeIn
    ranks := clusterSites.map fun c => (c, s.ranks c), clusterRegs := clusterSites.map fun c => (c, s.clusterReg c)
    engineRegs := (List.range 4).map fun n => (n, engineReg n), predN := (List.range 4).map fun n => (n, predN n) }

theorem State.writeMap_eq (s : State) (engineReg predN : Nat → Word) :
    let t := State.setEvent { s with cap := s.mapWritten engineReg predN } evCapacity 0
    s.writeMap engineReg predN = if t.hltCapacity.toNat / 2 ^ 16 = s.hltCapacity.toNat / 2 ^ 16 then t
      else t.record 0x19 0xFF (item 8 t.hltCapacity.toNat) := rfl

theorem State.record_cap (s : State) (code die : Nat) (p : List Byte) : (s.record code die p).cap = s.cap :=
  (Frame.record (.refl _ _) code die p rfl : Frame [.card, .mgmt] s _) .cap (by decide)

theorem State.writeMap_cap (s : State) (engineReg predN : Nat → Word) : (s.writeMap engineReg predN).cap = s.mapWritten engineReg predN := by
  have set : (State.setEvent { s with cap := s.mapWritten engineReg predN } evCapacity 0).cap = s.mapWritten engineReg predN :=
    (Frame.setEvent (.refl _ _) _ _ rfl : Frame [.mgmt] { s with cap := s.mapWritten engineReg predN } _) .cap (by decide)
  rw [State.writeMap_eq]
  split
  · exact set
  · rw [State.record_cap]
    exact set

/-- A bit of MGT_EVENT that is set stays set as an event is recorded. -/
theorem State.record_event_stays {i : Nat} (h : s.mgmt.event.getLsbD i = true) (code die : Nat) (p : List Byte) :
    (s.record code die p).mgmt.event.getLsbD i = true := by
  unfold State.record
  dsimp only
  split
  · rw [State.setEvent_event, BitVec.getLsbD_or]
    exact Bool.or_eq_true_iff.mpr (.inl h)
  · exact h

theorem State.writeMap_event (s : State) (engineReg predN : Nat → Word) : (s.writeMap engineReg predN).mgmt.event.getLsbD 1 = true := by
  have set : (State.setEvent { s with cap := s.mapWritten engineReg predN } evCapacity 0).mgmt.event.getLsbD 1 = true := by
    rw [State.setEvent_event, BitVec.getLsbD_or]
    exact Bool.or_true _
  rw [State.writeMap_eq]
  split
  · exact set
  · exact State.record_event_stays set _ _ _

theorem exec_capacityMapWrite (h : s.dev.mode ≠ .off) (k : s.dev.mode ≠ .standby) : exec .capacityMapWrite s = .next s.writeMapNow := by
  show execCapacityMapWrite s = _
  unfold execCapacityMapWrite
  split
  · contradiction
  · contradiction
  · rfl

theorem capacityMap : Parts.CapacityMap := by
  intro s h k
  have cap : s.writeMapNow.cap = s.mapWritten s.capEngine s.predN := s.writeMap_cap _ _
  refine ⟨_, exec_capacityMapWrite h k, ?_⟩
  rw [cap]
  refine ⟨rfl, rfl, rfl, fun m hm => getLsbD_maskOf hm _, fun n hn => getLsbD_maskOf hn _, fun n hn => getLsbD_maskOf hn _, fun c hc => ?_,
    s.writeMap_event _ _, .writeMapNow (.refl _ _) rfl⟩
  exact congrArg (Option.getD · 0) (look_map_of_mem (List.mem_range.mpr hc) s.ranks)

/-! ### The journal (R462) -/

theorem fitRing_suffix (l : List JEntry) : fitRing l <:+ l := by
  induction l with
  | nil => exact List.suffix_refl []
  | cons e r ih =>
    unfold fitRing
    split
    · exact List.suffix_refl _
    · exact ih.trans (List.suffix_cons e r)

theorem fitRing_fits (l : List JEntry) : bufUnits (fitRing l) ≤ journalRoom := by
  induction l with
  | nil => exact Nat.zero_le _
  | cons e r ih =>
    unfold fitRing
    split
    case isTrue h => exact h
    case isFalse => exact ih

theorem fitRing_of_fits {l : List JEntry} (h : bufUnits l ≤ journalRoom) : fitRing l = l := by
  cases l with
  | nil => rfl
  | cons e r => exact if_pos h

theorem exec_journalFlush_of_due (h : s.dev.mode ≠ .off) (hd : s.card.flushDue = true) (ok : Bool) :
    exec (.journalFlush ok) s = .next (if ok then s.flush else s.flushFails) := by
  show execJournalFlush ok s = _
  unfold execJournalFlush
  rw [if_neg h, hd]
  rfl

theorem State.flushFails_buffer (s : State) : s.flushFails.card.buffer = s.card.buffer := by
  have kept : (s.setEvent evJournalErr 0).card = s.card := s.setEvent_card _ _
  unfold State.flushFails
  rw [State.withCard_card, kept]
  split <;> rfl

theorem State.flushFails_event (s : State) : s.flushFails.mgmt.event.getLsbD 4 = true := by
  show (s.setEvent evJournalErr 0).mgmt.event.getLsbD 4 = true
  rw [State.setEvent_event, BitVec.getLsbD_or]
  exact Bool.or_true _

theorem journalFlush : Parts.JournalFlush := by
  intro s h hd
  have fails : Frame [.card, .mgmt] s s.flushFails := .flushFails (.refl _ _) rfl
  exact ⟨⟨s.flush, exec_journalFlush_of_due h hd true, rfl, rfl, fitRing_suffix _, fitRing_fits _, fitRing_of_fits, rfl, rfl,
      .flush (.refl _ _) rfl⟩,
    s.flushFails, exec_journalFlush_of_due h hd false, s.flushFails_buffer, fails .nvm (by decide), s.flushFails_event, fails⟩

/-! ### On-demand tests (R434) -/

/-- The value that the row TST_GO writes to TST_CTL: GO, with its target. -/
def goWord (k : Nat) : Word := BitVec.ofNat 64 (k % 16 * 2 ^ 12 + 1)

theorem goWord_toNat (k : Nat) : (goWord k).toNat = k % 16 * 2 ^ 12 + 1 := Nat.mod_eq_of_lt (by omega)

theorem goWord_target {k : Nat} (h : k < 16) : fieldAt (goWord k) 15 12 = k := by
  unfold fieldAt bits
  rw [goWord_toNat]
  omega

theorem goWord_bit (k i : Nat) (hi : i < 12) : (goWord k).getLsbD i = decide (i = 0) := by
  rw [← bit_toNat, goWord_toNat, bit_eq_testBit, Nat.mul_comm, Nat.testBit_two_pow_mul_add _ (by decide)]
  rw [if_pos hi]
  exact Bool.eq_iff_iff.mpr (Nat.testBit_one_eq_true_iff_self_eq_zero.trans decide_eq_true_iff.symm)

theorem exec_tstGo {k : Nat} (hk : 1 ≤ k ∧ k ≤ 5 ∨ k = 15) (h : s.dev.mode ≠ .off) :
    exec (.tstGo k) s = .next (s.withTest fun t => { t with target := BitVec.ofNat 4 k }).testGo := by
  have ok : targetOk k = true := by
    simp only [targetOk, Bool.or_eq_true, Bool.and_eq_true, decide_eq_true_eq]
    exact hk
  have go : s.writeTstCtl (goWord k) = (s.withTest fun t => { t with target := BitVec.ofNat 4 k }).testGo := by
    unfold State.writeTstCtl
    rw [goWord_target (by omega), goWord_bit k 0 (by decide), goWord_bit k 3 (by decide), goWord_bit k 2 (by decide)]
    simp [ok]
  show execTstGo k s = _
  unfold execTstGo
  rw [if_neg h]
  exact congrArg Host.Outcome.next go

theorem State.testGo_starts (h : (s.dev.mode = .ready ∨ s.dev.mode = .watch) ∧ s.dev.bound = false) :
    s.testGo = s.withTest fun t => { t with running := true } := if_pos h

theorem State.testGo_refuses (h : ¬((s.dev.mode = .ready ∨ s.dev.mode = .watch) ∧ s.dev.bound = false)) :
    s.testGo = s.withTest fun t => { t with refused := true } := if_neg h

/-! ### The end of the tests (R425, R434) -/

theorem State.revoke_ledger (s : State) (cause : Nat) (l : List Ticket) {k : Nat} (hk : k ≠ s.card.head.toNat % 1024) :
    look (s.revoke cause l).card.ledger k = look s.card.ledger k := by
  have withdrawn (u : State) : (l.foldl State.withdrawn u).card = u.card := u.withdrawnAll_frame l .card (by decide)
  unfold State.revoke
  dsimp only
  split
  · rfl
  · rw [State.look_record_ne (by rw [State.wrapBy_card, withdrawn]; exact hk), State.wrapBy_card, withdrawn]
    rfl

theorem State.drainBegun_ledger (s : State) (reason : Nat) {k : Nat} (hk : k ≠ s.card.head.toNat % 1024) :
    look (s.drainBegun reason).card.ledger k = look s.card.ledger k := by
  have again (u : State) (l : List Ticket) : (u.requestAgain l).card = u.card := u.requestAgain_frame l .card (by decide)
  have moved : (s.goto .drain).card = s.card := s.goto_frame .drain .card (by decide)
  unfold State.drainBegun
  rw [again, State.revoke_ledger _ _ _ (by rw [State.withDev_card, moved]; exact hk), State.withDev_card, moved]

/-- A drain order records at most one event, so that every record but the oldest stands. -/
theorem State.orderDrain_ledger (s : State) (reason : Nat) {k : Nat} (hk : k ≠ s.card.head.toNat % 1024) :
    look (s.orderDrain reason).card.ledger k = look s.card.ledger k := by
  by_cases hr : s.dev.mode.running = true
  · rw [State.orderDrain_of_running hr]
    split
    · exact s.drainBegun_ledger reason hk
    · obtain ⟨-, -, -, ledger, -, -⟩ := (s.drainBegun reason).completeDrain_ends []
      rw [ledger]
      exact s.drainBegun_ledger reason hk
  · by_cases hd : s.dev.mode = .drain
    · rw [State.orderDrain_of_drain hd, (State.leaveDrain_leftAs _).ledger]
      rfl
    · unfold State.orderDrain
      split
      case h_1 h | h_2 h | h_3 h => exact absurd (by rw [h]; rfl) hr
      case h_4 h => exact absurd h hd
      all_goals rfl

theorem State.checkFloor_ledger (s : State) {k : Nat} (hk : k ≠ s.card.head.toNat % 1024) :
    look s.checkFloor.card.ledger k = look s.card.ledger k := by
  unfold State.checkFloor
  split
  · exact s.orderDrain_ledger drFloor hk
  · rfl

theorem State.checkFloor_above (h : s.belowFloor = false) : s.checkFloor = s := by
  unfold State.checkFloor
  rw [h, Bool.and_false]
  rfl

/-- The state once the failures of the tests are handled, with the tests' end counted. -/
def State.testsEnded (s : State) (l : List SelfTestFail) : State :=
  ((l.foldl State.demandFail s).withTest fun t => { t with running := false }).wrapBy (oTst 0x1100) 1

/-- The payload of event 0x87. -/
def State.testsBody (s : State) (l : List SelfTestFail) : List Byte :=
  item 1 (s.testsEnded l).test.target.toNat ++ [Config.itemCode 0x87 1 0] ++ item 4 l.length

theorem exec_onDemandTestEnd_of_running (h : s.test.running = true) (l : List SelfTestFail) :
    exec (.onDemandTestEnd l) s = .next ((s.testsEnded l).record 0x87 0xFF (s.testsBody l)).checkFloor := if_pos h

theorem State.testsEnded_pt (s : State) (l : List SelfTestFail) : (s.testsEnded l).pt = s.pt := by
  have failed : Frame [.dev, .pins, .clocks, .boot, .nvm, .card, .mgmt, .test, .power, .cells, .bucket, .stores, .glide, .links, .fabric,
      .windows, .restore, .relay, .job, .sat, .wrap, .freeIdx, .mem] s (l.foldl State.demandFail s) :=
    .foldl (.refl _ _) fun _ f h => h.demandFail f rfl
  exact failed .pt (by decide)

theorem belowFloor_same (cells : t.cells = s.cells) (stores : t.stores = s.stores) (boot : t.boot = s.boot) (config : t.config = s.config)
    (links : t.links = s.links) : t.belowFloor = s.belowFloor := by
  unfold State.belowFloor State.cellsActive State.ranks State.goodSlots State.cluster State.pcell State.stacksIn State.stack State.cabled
    State.portFull State.port
  rw [cells, stores, boot, config, links]

theorem onDemandTests : Parts.OnDemandTests := by
  refine ⟨fun s k hk h => ⟨fun may => ?_, fun mayNot => ?_⟩, fun s l h => ?_, fun s h floor => ?_⟩
  · rw [exec_tstGo hk h, State.testGo_starts (s := s.withTest _) may]
    rfl
  · rw [exec_tstGo hk h, State.testGo_refuses (s := s.withTest _) mayNot]
    rfl
  · let u := (s.testsEnded l).record 0x87 0xFF (s.testsBody l)
    obtain ⟨head, r, stands, code, -, time⟩ := (s.testsEnded l).record_recorded 0x87 0xFF (s.testsBody l)
    have checked : Frame [.dev, .pins, .clocks, .nvm, .card, .mgmt, .power, .cells, .bucket, .stores, .glide, .links, .fabric, .windows,
        .restore, .relay, .job, .sat, .wrap, .freeIdx, .mem] u u.checkFloor := .checkFloor (.refl _ _) rfl
    have recorded : Frame [.card, .mgmt] (s.testsEnded l) u := .record (.refl _ _) _ _ _ rfl
    have test : u.checkFloor.test = (s.testsEnded l).test := (checked .test (by decide)).trans (recorded .test (by decide))
    have old : (s.testsEnded l).card.head.toNat % 1024 ≠ u.card.head.toNat % 1024 := by
      rw [head]
      exact ledger_next_ne _
    have logged : Logged s u.checkFloor 0x87 := ⟨_, r, (u.checkFloor_ledger old).trans stands, code, time.trans (s.testsEnded_pt l)⟩
    exact ⟨_, exec_onDemandTestEnd_of_running h l, by rw [test]; rfl, logged⟩
  · let u := (s.testsEnded []).record 0x87 0xFF (s.testsBody [])
    have recorded : Frame [.card, .mgmt] (s.testsEnded []) u := .record (.refl _ _) _ _ _ rfl
    have above : u.belowFloor = false := by
      rw [← floor]
      exact belowFloor_same (recorded .cells (by decide)) (recorded.stores_same (by decide) (by decide)) (recorded .boot (by decide))
        (recorded .config (by decide)) (recorded .links (by decide))
    have stays : u.checkFloor = u := State.checkFloor_above above
    have test : u.test = { s.test with running := false } := recorded .test (by decide)
    have wrap : u.wrap = upd s.wrap (oTst 0x1100) 0 (· + 1) := recorded .wrap (by decide)
    have ended : Frame [.test, .card, .mgmt, .wrap] s (s.testsEnded []) := .wrapBy (.withTest (.refl _ _) _ rfl) _ _ rfl
    have event : Recorded s u 0x87 := (s.testsEnded []).record_recorded 0x87 0xFF (s.testsBody [])
    refine ⟨_, exec_onDemandTestEnd_of_running h [], ?_⟩
    rw [show ((s.testsEnded []).record 0x87 0xFF (s.testsBody [])).checkFloor = u from stays, wrap]
    exact ⟨test, event, lookD_put _ _ _ _, ended.step rfl recorded⟩

/-- Settles O22, from its three parts. -/
theorem mapTestsJournal : Obligations.MapTestsJournal := ⟨capacityMap, journalFlush, onDemandTests⟩

end Sys2Proof.Machine
end

section
/-!
SUPPORT. The transient bucket: LEVEL leaks, WATCH is left, and a suspect notice raises LEVEL (R32, R37, R363 to R365, R375).
-/
namespace Sys2Proof.Machine

variable {s t : State}

/-! ### A new LEVEL (R363, R364) -/

theorem State.levelHigh_iff (s : State) : s.levelHigh = true ↔ s.bucket.high.toNat * 256 ≤ s.nvm.level.toNat := decide_eq_true_iff

theorem State.levelTo_nvm (s : State) (lv : Nat) : (s.levelTo lv).nvm = { s.nvm with level := BitVec.ofNat 16 lv } := rfl

/-- Since when LEVEL has been below LOW, once it is lv (R365). -/
def State.belowSince (s : State) (lv : Nat) : Option Word :=
  if lv < s.bucket.low.toNat * 256 then (if s.bucket.belowLowSince.isSome then s.bucket.belowLowSince else some s.pt) else none

theorem State.levelTo_bucket (s : State) (lv : Nat) : (s.levelTo lv).bucket = { s.bucket with belowLowSince := s.belowSince lv } := by
  unfold State.belowSince
  by_cases low : lv < s.bucket.low.toNat * 256
  · rw [if_pos low]
    exact congrArg (fun x => ({ s.bucket with belowLowSince := x } : Bucket)) (if_pos (decide_eq_true low))
  · rw [if_neg low]
    exact congrArg (fun x => ({ s.bucket with belowLowSince := x } : Bucket)) (if_neg fun h => low (of_decide_eq_true h))

/-- A LEVEL that does not rise crosses nothing. -/
theorem State.setLevel_falls {lv : Nat} (h : lv ≤ s.nvm.level.toNat) (cause : Nat) : s.setLevel lv cause = s.levelTo lv := by
  have level : (s.levelTo lv).nvm.level.toNat = lv := by
    rw [State.levelTo_nvm]
    exact Nat.mod_eq_of_lt (Nat.lt_of_le_of_lt h s.nvm.level.isLt)
  unfold State.setLevel
  refine if_neg fun crossing => ?_
  simp only [Bool.and_eq_true, Bool.not_eq_true', Bool.eq_false_iff, ne_eq, State.levelHigh_iff] at crossing
  obtain ⟨low, high⟩ := crossing
  rw [level] at high
  exact low (Nat.le_trans high h)

/-! ### LEVEL leaks (R364) -/

/-- The leak of 1/256 point, which takes so many ticks, is taken up. -/
def State.leakTaken (s : State) (step : Nat) : State := s.withBucket fun b => { b with leakSince := b.leakSince + BitVec.ofNat 64 step }

/-- LEVEL has fallen by 1/256 point, where it was not zero. -/
def State.leaked (s : State) (step : Nat) : State :=
  if s.nvm.level = 0 then s.leakTaken step else (s.leakTaken step).levelTo (s.nvm.level.toNat - 1)

theorem State.leaked_of_zero (h : s.nvm.level = 0) (step : Nat) : s.leaked step = s.leakTaken step := if_pos h

theorem State.leaked_of_level (h : s.nvm.level ≠ 0) (step : Nat) : s.leaked step = (s.leakTaken step).levelTo (s.nvm.level.toNat - 1) :=
  if_neg h

theorem State.leaked_nvm (s : State) (step : Nat) : (s.leaked step).nvm = { s.nvm with level := BitVec.ofNat 16 (s.nvm.level.toNat - 1) } := by
  by_cases zero : s.nvm.level = 0
  · have same : BitVec.ofNat 16 (s.nvm.level.toNat - 1) = s.nvm.level := by
      rw [zero]
      rfl
    rw [State.leaked_of_zero zero, same]
    rfl
  · rw [State.leaked_of_level zero]
    rfl

/-- Of the bucket only the two times change. -/
theorem State.leaked_bucket (s : State) (step : Nat) : (s.leaked step).bucket = { s.bucket with
    leakSince := s.bucket.leakSince + BitVec.ofNat 64 step
    belowLowSince := if s.nvm.level = 0 then s.bucket.belowLowSince else s.belowSince (s.nvm.level.toNat - 1) } := by
  by_cases zero : s.nvm.level = 0
  · rw [State.leaked_of_zero zero, if_pos zero]
    rfl
  · rw [State.leaked_of_level zero, State.levelTo_bucket, if_neg zero]
    rfl

theorem State.leaked_leakSince (s : State) (step : Nat) :
    (s.leaked step).bucket.leakSince = s.bucket.leakSince + BitVec.ofNat 64 step := by rw [State.leaked_bucket]

theorem State.leaked_belowLowSince (h : s.nvm.level ≠ 0) (step : Nat) :
    (s.leaked step).bucket.belowLowSince = s.belowSince (s.nvm.level.toNat - 1) := by
  rw [State.leaked_bucket, if_neg h]

theorem State.leaked_rest (s : State) (step : Nat) :
    ∀ b, b = (s.leaked step).bucket →
      ({ b with leakSince := s.bucket.leakSince, belowLowSince := s.bucket.belowLowSince } : Bucket) = s.bucket := by
  rintro _ rfl
  rw [State.leaked_bucket]

theorem State.leaked_frame (s : State) (step : Nat) : Frame [.nvm, .bucket] s (s.leaked step) :=
  have taken : Frame [.nvm, .bucket] s (s.leakTaken step) := .withBucket (.refl _ _) _ rfl
  .ite taken (.levelTo taken _ rfl)

/-- What BUCKET_LEAK makes of the state once the leak is taken up, for any number of ticks: the kernel would count out the product that
stands for it. -/
theorem State.leaked_eq (s : State) (step : Nat) :
    (let u := s.withBucket fun b => { b with leakSince := b.leakSince + BitVec.ofNat 64 step }
      if u.nvm.level = 0 then .next u else .next (u.setLevel (u.nvm.level.toNat - 1) 0) : Out) = .next (s.leaked step) := by
  have falls : (s.leakTaken step).setLevel (s.nvm.level.toNat - 1) 0 = (s.leakTaken step).levelTo (s.nvm.level.toNat - 1) :=
    State.setLevel_falls (Nat.sub_le _ _) 0
  by_cases zero : s.nvm.level = 0
  · rw [State.leaked_of_zero zero]
    exact if_pos zero
  · rw [State.leaked_of_level zero, ← falls]
    exact if_neg zero

theorem ticksH_eq (n : Nat) : ticksH n = n * 360000000000 := rfl

theorem exec_bucketLeak_early (h : s.pt.toNat - s.bucket.leakSince.toNat < ticksH s.bucket.leakH.toNat / 256) :
    exec .bucketLeak s = .next s := by
  show execBucketLeak s = _
  unfold execBucketLeak
  exact if_pos (.inr h)

theorem exec_bucketLeak_due (hm : s.dev.mode ≠ .off)
    (h : ticksH s.bucket.leakH.toNat / 256 ≤ s.pt.toNat - s.bucket.leakSince.toNat) :
    exec .bucketLeak s = .next (s.leaked (ticksH s.bucket.leakH.toNat / 256)) := by
  have due : ¬(s.dev.mode = .off ∨ s.since s.bucket.leakSince < ticksH s.bucket.leakH.toNat / 256) :=
    fun k => k.elim hm (Nat.not_lt.mpr h)
  show execBucketLeak s = _
  unfold execBucketLeak
  exact (if_neg due).trans (s.leaked_eq _)

theorem bucketLeaks : Parts.BucketLeaks := by
  intro s hm
  rw [← ticksH_eq]
  exact ⟨exec_bucketLeak_early, fun h => ⟨_, exec_bucketLeak_due hm h, s.leaked_nvm _, s.leaked_leakSince _,
    fun level => s.leaked_belowLowSince level _, s.leaked_rest _, s.leaked_frame _⟩⟩

/-! ### WATCH is left (R365) -/

theorem State.released_iff (s : State) : s.released = true ↔ s.cells.fullTestPassed = true ∧ ∃ x, s.bucket.belowLowSince = some x ∧
    s.bucket.releaseH.toNat * 360000000000 ≤ s.pt.toNat - x.toNat := by
  unfold State.released
  rw [Bool.and_eq_true, Option.any_eq_true]
  simp only [decide_eq_true_eq]
  rfl

theorem watchReleases : Parts.WatchReleases := by
  intro s hm
  refine ⟨fun ok => ?_, fun no => if_neg fun h => no (s.released_iff.mp h.2)⟩
  let u := s.withNvm fun n => { n with watchRecord := false }
  let target : DevState := if s.dev.bound then .run else .ready
  have allowed : edge u.dev.mode target = true := by
    show edge s.dev.mode (if s.dev.bound then .run else .ready) = true
    rw [hm]
    split <;> rfl
  have rest := u.goto_frame target
  have left : exec .watchRelease s = .next (u.goto target) := if_pos ⟨hm, s.released_iff.mpr ok⟩
  have dev : (u.goto target).dev = { s.dev with mode := target, prev := .watch } := by
    rw [State.goto_dev allowed, ← hm]
    rfl
  have erased : Frame [.dev, .nvm, .mgmt] s u := .withNvm (.refl _ _) _ rfl
  exact ⟨_, left, dev, rest .nvm (by decide), erased.step rfl rest⟩

/-! ### LEVEL crosses HIGH (R364) -/

/-- What the state decides at a crossing may keep LEVEL, the scorecard and the mailboxes. -/
structure LevelKept (s t : State) : Prop where
  level : t.nvm.level = s.nvm.level
  card : t.card = s.card
  mail : t.mgmt.mail = s.mgmt.mail

theorem LevelKept.refl (s : State) : LevelKept s s := ⟨rfl, rfl, rfl⟩

theorem LevelKept.testAgain (s : State) : LevelKept s s.testAgain := by
  have changed : Frame [.cells, .bucket] s s.testAgain := .testAgain (.refl _ _) rfl
  exact ⟨congrArg Nvm.level (changed .nvm (by decide)), changed .card (by decide), congrArg Mgmt.mail (changed .mgmt (by decide))⟩

theorem LevelKept.enterWatch (s : State) (test : Bool) : LevelKept s (s.enterWatch test) := by
  have moved := s.goto_frame .watch
  have nvm : (s.goto .watch).nvm = s.nvm := moved .nvm (by decide)
  have kept : LevelKept s ((s.goto .watch).withNvm fun n => { n with watchRecord := true }) :=
    ⟨show (s.goto .watch).nvm.level = _ by rw [nvm], moved .card (by decide), s.goto_mail .watch⟩
  unfold State.enterWatch
  split
  · split
    · exact ⟨kept.level, kept.card, kept.mail⟩
    · exact kept
  · exact .refl s

theorem State.crossed_keeps (s : State) (cause : Nat) : LevelKept (s.noteCrossing cause) (s.crossed cause) := by
  unfold State.crossed
  dsimp only
  split
  case h_1 | h_2 => exact .enterWatch _ _
  case h_3 => exact .testAgain _
  case h_4 | h_5 | h_6 => exact ⟨rfl, rfl, rfl⟩
  case h_7 => exact .refl _

theorem State.noteCrossing_frame (s : State) (cause : Nat) : Frame [.card, .mgmt, .sat] s (s.noteCrossing cause) :=
  .noteCrossing (.refl _ _) cause rfl

theorem State.noteCrossing_mail (s : State) (cause : Nat) : (s.noteCrossing cause).mgmt.mail = s.mgmt.mail := by
  unfold State.noteCrossing
  rw [State.record_mail, State.satBy_mail]

theorem State.noteCrossing_ledger (s : State) (cause : Nat) {k : Nat} (hk : k ≠ s.card.head.toNat % 1024) :
    look (s.noteCrossing cause).card.ledger k = look s.card.ledger k := by
  have bumped : (s.bump oBucketHigh).card = s.card := (Frame.bump (.refl _ _) _ rfl : Frame [.sat, .mgmt] s _) .card (by decide)
  unfold State.noteCrossing
  rw [State.look_record_ne (by rw [bumped]; exact hk), bumped]

theorem State.crossed_of_ready_or_run (h : s.dev.mode = .ready ∨ s.dev.mode = .run) (cause : Nat) :
    s.crossed cause = (s.noteCrossing cause).enterWatch true := by
  have mode : (s.noteCrossing cause).dev.mode = s.dev.mode := congrArg Device.mode (s.noteCrossing_frame cause .dev (by decide))
  unfold State.crossed
  dsimp only
  rw [mode]
  rcases h with h | h
  · rw [h]
  · rw [h]

/-- A new LEVEL is taken whatever it brings about; the mailboxes stay, and at most one event is recorded. -/
theorem State.setLevel_takes (s : State) (lv cause : Nat) :
    (s.setLevel lv cause).nvm.level = BitVec.ofNat 16 lv ∧ (s.setLevel lv cause).mgmt.mail = s.mgmt.mail ∧
      ∀ k, k ≠ s.card.head.toNat % 1024 → look (s.setLevel lv cause).card.ledger k = look s.card.ledger k := by
  unfold State.setLevel
  dsimp only
  split
  · let u := s.levelTo lv
    obtain ⟨level, card, mail⟩ := u.crossed_keeps cause
    have nvm : (u.noteCrossing cause).nvm = u.nvm := u.noteCrossing_frame cause .nvm (by decide)
    refine ⟨level.trans (congrArg Nvm.level nvm), mail.trans (u.noteCrossing_mail cause), fun k hk => ?_⟩
    rw [card]
    exact u.noteCrossing_ledger cause hk
  · exact ⟨rfl, rfl, fun _ _ => rfl⟩

/-- LEVEL that comes to HIGH in READY or RUN takes the device to WATCH, with the record and a full field test (R32, R37, R364). -/
theorem State.setLevel_watches (hm : s.dev.mode = .ready ∨ s.dev.mode = .run) (low : s.levelHigh = false) {lv : Nat} (hl : lv < 2 ^ 16)
    (high : s.bucket.high.toNat * 256 ≤ lv) (cause : Nat) :
    (s.setLevel lv cause).dev = { s.dev with mode := .watch, prev := s.dev.mode } ∧ (s.setLevel lv cause).nvm.watchRecord = true ∧
      (s.setLevel lv cause).cells.fullTest = some s.untested := by
  let u := s.levelTo lv
  let n := u.noteCrossing cause
  have crossing : (!s.levelHigh && u.levelHigh) = true := by
    have above : u.levelHigh = true := u.levelHigh_iff.mpr (Nat.le_trans high (Nat.le_of_eq (Nat.mod_eq_of_lt hl).symm))
    rw [low, above]
    rfl
  have dev : n.dev = s.dev := u.noteCrossing_frame cause .dev (by decide)
  have cells : n.cells = s.cells := u.noteCrossing_frame cause .cells (by decide)
  have allowed : edge n.dev.mode .watch = true := by
    rw [dev]
    rcases hm with h | h
    · rw [h]
      rfl
    · rw [h]
      rfl
  have moved : (n.goto .watch).dev = { s.dev with mode := .watch, prev := s.dev.mode } := by rw [State.goto_dev allowed, dev]
  have watched : (n.goto .watch).cells = s.cells := (n.goto_frame .watch .cells (by decide)).trans cells
  have crosses : s.setLevel lv cause = ((n.goto .watch).withNvm fun m => { m with watchRecord := true }).startFullTest :=
    calc s.setLevel lv cause
      _ = u.crossed cause := if_pos crossing
      _ = n.enterWatch true := State.crossed_of_ready_or_run (s := u) hm cause
      _ = _ := if_pos allowed
  rw [crosses]
  refine ⟨moved, rfl, ?_⟩
  show some (State.untested _) = some s.untested
  unfold State.untested State.pcell
  show some ((List.range 2176).filter fun p => !(lookD (n.goto .watch).cells.pcells p {}).faulty) = _
  rw [watched]

/-! ### A suspect notice (R363, R375) -/

/-- The notice is recorded and counted. -/
def State.suspectNoted (s : State) (m : Msg) : State := (s.record 0x17 0xFF m.body).bump oSuspect

/-- LEVEL is raised to HIGH; where it was there in WATCH, another full field test starts (log 40). -/
def State.suspectRaised (s : State) (m : Msg) : State :=
  let t := (s.suspectNoted m).raiseHigh 0x17
  if s.levelHigh && t.dev.mode == .watch then t.testAgain else t

theorem State.suspectNotice_noted {m : Msg} (h : m.body.length = 7) : s.suspectNotice m = (s.suspectRaised m, stOk, []) :=
  if_neg (not_not_intro h)

theorem State.suspectNoted_frame (s : State) (m : Msg) : Frame [.card, .mgmt, .sat] s (s.suspectNoted m) :=
  .bump (.record (.refl _ _) _ _ _ rfl) _ rfl

theorem State.suspectNoted_mail (s : State) (m : Msg) : (s.suspectNoted m).mgmt.mail = s.mgmt.mail := by
  unfold State.suspectNoted
  rw [State.satBy_mail, State.record_mail]

theorem State.suspectNoted_recorded (s : State) (m : Msg) : Recorded s (s.suspectNoted m) 0x17 := by
  have counted : (s.suspectNoted m).card = (s.record 0x17 0xFF m.body).card :=
    (Frame.bump (.refl _ _) _ rfl : Frame [.sat, .mgmt] (s.record 0x17 0xFF m.body) _) .card (by decide)
  have event := s.record_recorded 0x17 0xFF m.body
  unfold Recorded at event ⊢
  rw [counted]
  exact event

theorem State.suspectRaised_frame (s : State) (m : Msg) :
    Frame [.dev, .nvm, .card, .mgmt, .cells, .bucket, .sat] s (s.suspectRaised m) :=
  have raised : Frame [.dev, .nvm, .card, .mgmt, .cells, .bucket, .sat] s ((s.suspectNoted m).raiseHigh 0x17) :=
    .raiseHigh (.step (.refl _ _) rfl (s.suspectNoted_frame m)) _ rfl
  .ite (.testAgain raised rfl) raised

/-- Another full field test or not, LEVEL, the scorecard and the mailboxes are as the raise left them. -/
theorem State.suspectRaised_keeps (s : State) (m : Msg) : LevelKept ((s.suspectNoted m).raiseHigh 0x17) (s.suspectRaised m) := by
  unfold State.suspectRaised
  dsimp only
  split
  · exact .testAgain _
  · exact .refl _

theorem levelAtHigh_lt (s : State) : s.levelAtHigh < 2 ^ 16 := by
  have := s.nvm.level.isLt
  have := s.bucket.high.isLt
  unfold State.levelAtHigh
  omega

theorem State.suspectRaised_spec (s : State) (m : Msg) :
    (s.suspectRaised m).nvm.level.toNat = s.levelAtHigh ∧ (s.suspectRaised m).mgmt.mail = s.mgmt.mail ∧
      ∃ r, look (s.suspectRaised m).card.ledger (s.card.head.toNat % 1024) = some r ∧ r.code = 0x17 ∧ r.pt = s.pt := by
  let n := s.suspectNoted m
  have noted := s.suspectNoted_frame m
  have same : n.levelAtHigh = s.levelAtHigh := by
    unfold State.levelAtHigh
    rw [show n.nvm = s.nvm from noted .nvm (by decide), show n.bucket = s.bucket from noted .bucket (by decide)]
  obtain ⟨head, r, stands, code, -, time⟩ := s.suspectNoted_recorded m
  obtain ⟨level, mail, ledger⟩ := n.setLevel_takes n.levelAtHigh 0x17
  obtain ⟨level', card', mail'⟩ := s.suspectRaised_keeps m
  have old : s.card.head.toNat % 1024 ≠ n.card.head.toNat % 1024 := by
    rw [head]
    exact ledger_next_ne _
  refine ⟨?_, mail'.trans (mail.trans (s.suspectNoted_mail m)), r, ?_, code, time⟩
  · rw [level', show (n.raiseHigh 0x17).nvm.level = _ from level, same]
    exact Nat.mod_eq_of_lt (levelAtHigh_lt s)
  · rw [card']
    exact (ledger _ old).trans stands

/-- Below HIGH in READY or RUN, a notice takes the device to WATCH. -/
theorem State.suspectRaised_watches (hm : s.dev.mode = .ready ∨ s.dev.mode = .run)
    (low : s.nvm.level.toNat < s.bucket.high.toNat * 256) (m : Msg) :
    (s.suspectRaised m).dev = { s.dev with mode := .watch, prev := s.dev.mode } ∧ (s.suspectRaised m).nvm.watchRecord = true ∧
      (s.suspectRaised m).cells.fullTest = some s.untested := by
  let n := s.suspectNoted m
  have noted := s.suspectNoted_frame m
  have dev : n.dev = s.dev := noted .dev (by decide)
  have nvm : n.nvm = s.nvm := noted .nvm (by decide)
  have bucket : n.bucket = s.bucket := noted .bucket (by decide)
  have cells : n.cells = s.cells := noted .cells (by decide)
  have below : s.levelHigh = false := Bool.eq_false_iff.mpr fun h => Nat.not_le.mpr low (s.levelHigh_iff.mp h)
  have belowThen : n.levelHigh = false := by
    rw [← below]
    unfold State.levelHigh
    rw [nvm, bucket]
  have untested : n.untested = s.untested := by
    unfold State.untested State.pcell
    rw [cells]
  have once : s.suspectRaised m = n.setLevel n.levelAtHigh 0x17 := if_neg (by rw [below]; exact Bool.false_ne_true)
  have watches := State.setLevel_watches (s := n) (by rw [dev]; exact hm) belowThen (levelAtHigh_lt n) (Nat.le_max_right _ _) 0x17
  rw [once, ← dev, ← untested]
  exact watches

theorem suspectRaises : Parts.SuspectRaises := by
  intro s m f hlen
  let u := s.wrapBy oMsgIn 1
  let t := (u.suspectRaised m).answer (wholeChunk m 0x16) stOk []
  have short : m.body.length ≤ 4032 := by omega
  have got : exec (.suspect m) s = .next t :=
    congrArg Host.Outcome.next (State.receiveMsg_fresh f short (by decide) (State.suspectNotice_noted hlen))
  have answered : Frame answerParts (u.suspectRaised m) t := .answer (.refl _ _) _ _ _ rfl
  have nvm : t.nvm = (u.suspectRaised m).nvm := answered .nvm (by decide)
  have card : t.card = (u.suspectRaised m).card := answered .card (by decide)
  have dev : t.dev = (u.suspectRaised m).dev := answered .dev (by decide)
  have cells : t.cells = (u.suspectRaised m).cells := answered .cells (by decide)
  obtain ⟨level, mail, ledger⟩ := u.suspectRaised_spec m
  refine ⟨t, got, by rw [nvm]; exact level, by rw [card]; exact ledger, State.answer_answered f short mail _ _, fun low hm => ?_,
    (u.suspectRaised_frame m).answered rfl rfl _ _ _⟩
  obtain ⟨watch, record, test⟩ := State.suspectRaised_watches (s := u) hm low m
  rw [dev, nvm, cells, watch]
  exact ⟨rfl, rfl, rfl, record, test⟩

/-- Settles O45, from its three parts. -/
theorem bucketAndWatch : Obligations.BucketAndWatch := ⟨bucketLeaks, watchReleases, suspectRaises⟩

end Sys2Proof.Machine
end

section
/-!
SUPPORT. The rules for one engine, for tickets and for events, and the upkeep of an engine: drift windows, tuning, map switches and
retries (R173, R178, R188, R193 to R196).
-/
namespace Sys2Proof.Machine

variable {s t u v : State} {n st : Nat} {e : Engine}

theorem Frame.weaken {k l : List StatePart} (h : Frame k s t) (hl : covers k l = true) : Frame l s t := (Frame.refl l s).step hl h

/-! ### One engine as changed -/

@[simp] theorem State.engine_withEngine (s : State) (n : Nat) (f : Engine → Engine) : (s.withEngine n f).engine n = f (s.engine n) :=
  lookD_put _ _ _ _

theorem State.engine_withEngine_ne (s : State) {k : Nat} (h : k ≠ n) (f : Engine → Engine) : (s.withEngine n f).engine k = s.engine k :=
  lookD_put_ne _ _ _ h

theorem State.engine_of_glide (h : t.glide = s.glide) (k : Nat) : t.engine k = s.engine k :=
  congrArg (fun g : Glide => lookD g.engines k {}) h

/-- A change of one engine, after steps that left Glide alone. -/
theorem OnlyEngine.withEngine (h : t.glide = s.glide) (n : Nat) (f : Engine → Engine) : OnlyEngine s (t.withEngine n f) n (f (s.engine n)) := by
  refine ⟨?_, fun k hk => ?_, ?_⟩
  · rw [State.engine_withEngine, State.engine_of_glide h]
  · rw [State.engine_withEngine_ne t hk, State.engine_of_glide h]
  · show ({ t.glide with engines := [], leaving := [], returning := [], barred := [] } : Glide) = _
    rw [h]

/-- A step that leaves Glide alone. -/
theorem OnlyEngine.same (h : OnlyEngine s t n e) (k : u.glide = t.glide) : OnlyEngine s u n e := by
  obtain ⟨own, others, rest⟩ := h
  exact ⟨(State.engine_of_glide k n).trans own, fun j hj => (State.engine_of_glide k j).trans (others j hj), by rw [k, rest]⟩

/-- A further change of the same engine. -/
theorem OnlyEngine.trans {e' : Engine} (h : OnlyEngine s t n e) (k : OnlyEngine t u n e') : OnlyEngine s u n e' := by
  obtain ⟨-, others, rest⟩ := h
  obtain ⟨own', others', rest'⟩ := k
  exact ⟨own', fun j hj => (others' j hj).trans (others j hj), rest'.trans rest⟩

theorem OnlyEngine.andThen (h : OnlyEngine s t n e) (f : Engine → Engine) : OnlyEngine s (t.withEngine n f) n (f e) := by
  have k : OnlyEngine t (t.withEngine n f) n (f (t.engine n)) := .withEngine rfl n f
  rw [h.1] at k
  exact h.trans k

/-- An engine joins those that leave, or those that return. -/
theorem OnlyEngine.noted (h : OnlyEngine s t n e) (leaving returning : List Nat) :
    OnlyEngine s (t.withGlide fun g => { g with leaving := leaving, returning := returning }) n e := h

/-- A change of a station's map slot on the engine. -/
theorem OnlyEngine.withSlot (h : OnlyEngine s t n e) (st : Nat) (f : MapSlot → MapSlot) :
    OnlyEngine s (t.withSlot n st f) n { e with slots := e.slots.map fun m => if m.station = st then f m else m } := h.andThen _

theorem State.paramsOf_of_job (h : t.job = s.job) (st : Nat) : t.paramsOf st = s.paramsOf st := by
  unfold State.paramsOf State.desc State.course
  rw [h]

/-! ### Tickets (R390) -/

theorem State.release_released (s : State) (c : TicketClass) : Released s (s.release c) c := ⟨rfl, rfl⟩

theorem State.request_asked (s : State) (c : TicketClass) : Asked s (s.request c) c := by
  unfold Asked State.request
  by_cases known : (s.power.queue.any (·.cls = c) || s.power.held.any (·.cls = c)) = true
  · rw [if_pos known, if_pos known]
    exact ⟨rfl, rfl⟩
  · rw [if_neg known, if_neg known]
    exact ⟨rfl, rfl, rfl⟩

/-! ### Events (R457) -/

/-- An event is recorded between steps that leave the scorecard and PT alone. -/
theorem Recorded.of_card {code : Nat} (h : Recorded u v code) (before : u.card = s.card) (time : u.pt = s.pt) (after : t.card = v.card) :
    Recorded s t code := by
  unfold Recorded at h ⊢
  rwa [after, ← before, ← time]

theorem Recorded.logged {code : Nat} (h : Recorded s t code) : Logged s t code := by
  obtain ⟨-, r, stands, is, -, time⟩ := h
  exact ⟨_, r, stands, is, time⟩

/-! ### Drift windows (R193, R194) -/

/-- An engine after a drift window of a station's map, with ENOB_sys and the drift margin found. -/
def Engine.measured (e : Engine) (st : Nat) (sys model : Int) : Engine :=
  { e with
    measValid := true, measSys := publish sys, delta := sys - model
    slots := e.slots.map fun x => if x.station = st then { x with driftWindows := 0, repeats := [] } else x }

theorem exec_driftWindow_due {m : MapSlot} {g : GlideW} (hm : (s.engine n).slots.find? (·.station = st) = some m)
    (hg : (s.st st).glW = some g) (serves : (s.engine n).state = 1) (due : 4096 ≤ m.driftWindows) :
    let sys := enobSys g (s.paramsOf st).rows (m.repeats.map (·.2))
    let model := modelSys (s.engine n).resident (s.calAge n) (s.exc n)
    exec (.driftWindow n st) s = .next ((s.withEngine n fun e =>
      { e with measValid := true, measSys := publish sys, delta := sys - model }).withSlot n st fun m =>
        { m with driftWindows := 0, repeats := [] }) := by
  show execDriftWindow n st s = _
  unfold execDriftWindow
  dsimp only
  rw [hm, hg]
  exact if_pos ⟨serves, due⟩

theorem driftWindow_measures {m : MapSlot} {g : GlideW} (hm : (s.engine n).slots.find? (·.station = st) = some m)
    (hg : (s.st st).glW = some g) (serves : (s.engine n).state = 1) (due : 4096 ≤ m.driftWindows) :
    ∃ t, exec (.driftWindow n st) s = .next t ∧
      OnlyEngine s t n ((s.engine n).measured st (enobSys g (s.paramsOf st).rows (m.repeats.map (·.2)))
        (modelSys (s.engine n).resident (s.calAge n) (s.exc n))) ∧ Frame [.glide] s t :=
  ⟨_, exec_driftWindow_due hm hg serves due, (OnlyEngine.withEngine rfl n _).withSlot st _, .withSlot (.withEngine (.refl _ _) _ _ rfl) _ _ _ rfl⟩

/-! ### Tuning (R188) -/

theorem exec_tuningUpdate_running (hz : (s.engine n).state ≠ 0) (hd : (s.engine n).state ≠ 6) :
    exec (.tuningUpdate n) s = .next (s.withEngine n fun e => { e with bias := s.biases n }) :=
  if_neg (not_or.mpr ⟨hz, hd⟩)

/-! ### Map switches (R173, R178) -/

theorem exec_glideMapSwitch_due (serves : (s.engine n).state = 1) (balanced : (s.engine n).mode = 1) (due : s.switchDue n = true)
    (next : s.nextStation n = some st) : exec (.glideMapSwitch n) s = .next (s.applyMap n st) := by
  show execGlideMapSwitch n s = _
  unfold execGlideMapSwitch
  dsimp only
  rw [if_pos ⟨serves, balanced, due⟩, next]

/-- A map applied to a balanced engine takes the other polarity. -/
theorem State.applyMap_balanced (balanced : (s.engine n).mode = 1) : OnlyEngine s (s.applyMap n st) n { s.engine n with
    applied := some st, appliedPt := s.pt, switchPt := s.pt, servedSince := 0, polarity := !(s.engine n).polarity } := by
  have k : OnlyEngine s (s.applyMap n st) n { s.engine n with
      applied := some st, appliedPt := s.pt, switchPt := s.pt, servedSince := 0
      polarity := if (s.engine n).mode = 1 then !(s.engine n).polarity else (s.engine n).polarity } :=
    (OnlyEngine.withEngine rfl n _).andThen _
  rwa [if_pos balanced] at k

/-! ### Retries (R196) -/

theorem exec_recalRetry_due (waits : (s.engine n).state = 5) (due : 360000000000 ≤ s.pt.toNat - (s.engine n).failSince.toNat) :
    exec (.recalRetry n) s = .next ((s.withEngine n fun e => { e with state := 3 }).requestCal n) := by
  have hour : ticksH 1 ≤ s.since (s.engine n).failSince := by
    rw [ticksH_eq, Nat.one_mul]
    exact due
  exact if_pos ⟨waits, hour⟩

theorem State.requestCal_asks (h : s.calTicket n = false) : s.requestCal n = s.request (.glideCal n) :=
  if_neg (Bool.eq_false_iff.mp h)

theorem recalRetry_asks (waits : (s.engine n).state = 5) (due : 360000000000 ≤ s.pt.toNat - (s.engine n).failSince.toNat)
    (without : s.calTicket n = false) : ∃ t, exec (.recalRetry n) s = .next t ∧ OnlyEngine s t n { s.engine n with state := 3 } ∧
      Asked s t (.glideCal n) ∧ Frame [.glide, .power] s t := by
  let u := s.withEngine n fun e => { e with state := 3 }
  have asks : u.requestCal n = u.request (.glideCal n) := State.requestCal_asks without
  have power : Frame [.power] u (u.request (.glideCal n)) := .request (.refl _ _) _ rfl
  have glide : (u.request (.glideCal n)).glide = u.glide := power .glide (by decide)
  have changed : OnlyEngine s u n { s.engine n with state := 3 } := .withEngine rfl n _
  refine ⟨_, exec_recalRetry_due waits due, ?_⟩
  rw [show (s.withEngine n _).requestCal n = u.request (.glideCal n) from asks]
  exact ⟨changed.same glide, u.request_asked _, .request (.withEngine (.refl _ _) _ _ rfl) _ rfl⟩

/-- Settles O30, from the four rows. -/
theorem engineUpkeep : Obligations.EngineUpkeep := by
  intro s n
  refine ⟨fun st m g => driftWindow_measures, fun hz hd => ?_, fun st serves balanced due next => ?_, recalRetry_asks⟩
  · exact ⟨_, exec_tuningUpdate_running hz hd, .withEngine rfl n _, .withEngine (.refl _ _) _ _ rfl⟩
  · exact ⟨_, exec_glideMapSwitch_due serves balanced due next, State.applyMap_balanced balanced, .applyMap (.refl _ _) _ _ rfl⟩

end Sys2Proof.Machine
end

section
/-!
SUPPORT. An engine leaves service, recalibrates or retracks, and comes back (R163, R186, R195, R196, R201).
-/
namespace Sys2Proof.Machine

variable {s t : State} {n code : Nat} {c : GlideCal}

/-! ### Departure (R192, R195) -/

/-- An engine in service as it leaves, for a full recalibration or a retrack. -/
def Engine.left (e : Engine) (code : Nat) (full : Bool) : Engine :=
  { e with state := 2, lastLeave := BitVec.ofNat 8 code, fullRecal := full, retrackFor := if full then 0 else code }

/-- The payload of the event of a departure. -/
def State.leaveBody (s : State) (n code : Nat) : List Byte :=
  item 1 n ++ item 1 code ++ item 8 (s.predN n).toNat ++ item 8 (s.predDReg n).toNat

theorem State.leaveService_serving (serves : (s.engine n).state = 1) (code : Nat) (full : Bool) :
    s.leaveService n code full = ((s.record 0x40 (dieGlide n) (s.leaveBody n code)).withEngine n fun e => e.left code full).withGlide
      fun g => { g with leaving := g.leaving ++ [n] } :=
  if_pos (.inl serves)

theorem State.record_glide (s : State) (code die : Nat) (p : List Byte) : (s.record code die p).glide = s.glide :=
  (Frame.record (.refl _ _) code die p rfl : Frame [.card, .mgmt] s _) .glide (by decide)

/-- An engine in service leaves it with an event, and the placer is told. -/
theorem State.leaveService_leaves (serves : (s.engine n).state = 1) (code : Nat) (full : Bool) :
    OnlyEngine s (s.leaveService n code full) n ((s.engine n).left code full) ∧
    (s.leaveService n code full).glide.leaving = s.glide.leaving ++ [n] ∧ Recorded s (s.leaveService n code full) 0x40 := by
  have glide := s.record_glide 0x40 (dieGlide n) (s.leaveBody n code)
  have event := s.record_recorded 0x40 (dieGlide n) (s.leaveBody n code)
  rw [State.leaveService_serving serves]
  refine ⟨(OnlyEngine.withEngine glide n _).noted _ _, ?_, event.of_card rfl rfl rfl⟩
  rw [← glide]
  rfl

theorem exec_glideRecalTrigger_holds (h : s.triggerHolds n code = true) :
    exec (.glideRecalTrigger n code) s = .next (s.leaveService n code true) := if_pos h

/-! ### Retrack (R196, R201) -/

/-- An engine that is back in service from a retrack. -/
def Engine.retracked (e : Engine) : Engine := { e with state := 1, retrackFor := 0, retrackDue := false, oocSince := none }

/-- The state once the engine is back. -/
def State.retracked (s : State) (n : Nat) : State :=
  (((s.withEngine n fun e => { e with retrackDue := false, oocSince := none }).withEngine n fun e =>
    { e with state := 1, retrackFor := 0 }).release (.glideCal n)).withGlide fun g => { g with returning := g.returning ++ [n] }

/-- The forecast of a station asks for the engine's temperature, age and margin alone. -/
theorem State.forecastOk_interval (s : State) (n st : Nat) :
    (s.withEngine n fun e => { e with retrackDue := false, oocSince := none }).forecastOk n st = s.forecastOk n st := by
  let u := s.withEngine n fun e => { e with retrackDue := false, oocSince := none }
  have engine : u.engine n = { s.engine n with retrackDue := false, oocSince := none } := s.engine_withEngine n _
  have slope : u.slope n = s.slope n := by
    unfold State.slope
    rw [engine]
    rfl
  have age : u.calAge n = s.calAge n := by
    unfold State.calAge
    rw [engine]
    rfl
  show u.forecastOk n st = _
  unfold State.forecastOk
  rw [engine, slope, age]
  rfl

theorem exec_retrackComplete_ok (retracks : (s.engine n).state = 4) (ticket : s.calTicket n = true)
    (ok : ∀ st ∈ (s.engine n).stations ++ (s.engine n).moved, s.forecastOk n st = true) :
    exec (.retrackComplete n) s = .next (s.retracked n) := by
  have all : ((s.engine n).stations ++ (s.engine n).moved).all
      ((s.withEngine n fun e => { e with retrackDue := false, oocSince := none }).forecastOk n) = true := by
    refine List.all_eq_true.mpr fun st hst => ?_
    rw [State.forecastOk_interval]
    exact ok st hst
  show execRetrackComplete n s = _
  unfold execRetrackComplete
  dsimp only
  rw [if_pos ⟨retracks, ticket⟩, if_pos all]
  rfl

theorem State.retracked_returns (s : State) (n : Nat) :
    OnlyEngine s (s.retracked n) n (s.engine n).retracked ∧ (s.retracked n).glide.returning = s.glide.returning ++ [n] ∧
    Released s (s.retracked n) (.glideCal n) ∧ Frame [.glide, .power] s (s.retracked n) := by
  have back : OnlyEngine s ((s.withEngine n fun e => { e with retrackDue := false, oocSince := none }).withEngine n fun e =>
      { e with state := 1, retrackFor := 0 }) n (s.engine n).retracked := (OnlyEngine.withEngine rfl n _).andThen _
  exact ⟨back.noted _ _, rfl, State.release_released _ _,
    .withGlide (.release (.withEngine (.withEngine (.refl _ _) _ _ rfl) _ _ rfl) _ rfl) _ rfl⟩

theorem engineLeavesAndReturns : Parts.EngineLeavesAndReturns := by
  intro s n
  refine ⟨fun code holds serves => ?_, fun retracks ticket ok => ⟨_, exec_retrackComplete_ok retracks ticket ok, s.retracked_returns n⟩⟩
  obtain ⟨left, told, event⟩ := State.leaveService_leaves serves code true
  exact ⟨_, exec_glideRecalTrigger_holds holds, left, told, event, .leaveService (.refl _ _) _ _ _ rfl⟩

/-! ### Recalibration (R186, R195, R196) -/

/-- An engine that has passed its verification at a PT, with T_cal. -/
def Engine.verified (e : Engine) (pt : Word) (tCal : Int) : Engine :=
  { e with
    state := 1, streak := 0, calPt := pt, tCal := tCal, delta := 0, measValid := false, measSys := 0
    fullRecal := false, retrackFor := 0, retrackDue := false, oocSince := none, applied := none
    shadowRecs := e.shadowRecs.map fun r => (r.1, { passStep := r.2.passStep }) }

/-- The state once verification has passed and its event is recorded. -/
def State.verified (s : State) (c : GlideCal) : State :=
  ((s.withEngine c.engine fun e => e.verified s.pt ((s.engineSum c.engine).fdiv 8)).bump (oGld c.engine 0x100)).record 0x41 (dieGlide c.engine)
    (item 1 c.engine ++ item 2 (publish c.enob) ++ itemS 2 ((s.engineSum c.engine).fdiv 8))

/-- An engine that has failed its verification at a PT: it repeats it, waits an hour, or is out of service for good. -/
def Engine.rejected (e : Engine) (pt : Word) : Engine :=
  if 6 ≤ e.streak + 1 then { e with state := 6, streak := e.streak + 1 }
  else if (e.streak + 1) % 2 = 0 then { e with state := 5, streak := e.streak + 1, failSince := pt }
  else { e with streak := e.streak + 1 }

/-- The state once verification has failed and its event is recorded. -/
def State.rejected (s : State) (c : GlideCal) : State :=
  (s.bump (oGld c.engine 0x108)).record 0x42 (dieGlide c.engine)
    (item 1 c.engine ++ item 2 (publish c.enob) ++ item 4 ((s.engine c.engine).streak + 1))

theorem State.calibrated_passes (h : verifyOk (s.engine c.engine) c.enob = true) :
    s.calibrated c = ((s.verified c).release (.glideCal c.engine)).withGlide fun g => { g with returning := g.returning ++ [c.engine] } :=
  if_pos h

theorem State.calibrated_fails (h : verifyOk (s.engine c.engine) c.enob = false) :
    s.calibrated c =
      if 6 ≤ (s.engine c.engine).streak + 1 then
        ((s.rejected c).withEngine c.engine fun e => { e with state := 6, streak := (s.engine c.engine).streak + 1 }).release (.glideCal c.engine)
      else if ((s.engine c.engine).streak + 1) % 2 = 0 then
        ((s.rejected c).withEngine c.engine fun e =>
          { e with state := 5, streak := (s.engine c.engine).streak + 1, failSince := (s.rejected c).pt }).release (.glideCal c.engine)
      else (s.rejected c).withEngine c.engine fun e => { e with streak := (s.engine c.engine).streak + 1 } :=
  if_neg (Bool.eq_false_iff.mp h)

theorem State.verified_bumped (s : State) (c : GlideCal) :
    Frame [.sat, .mgmt] (s.withEngine c.engine fun e => e.verified s.pt ((s.engineSum c.engine).fdiv 8))
      ((s.withEngine c.engine fun e => e.verified s.pt ((s.engineSum c.engine).fdiv 8)).bump (oGld c.engine 0x100)) :=
  .bump (.refl _ _) _ rfl

theorem State.verified_glide (s : State) (c : GlideCal) :
    (s.verified c).glide = (s.withEngine c.engine fun e => e.verified s.pt ((s.engineSum c.engine).fdiv 8)).glide :=
  (State.record_glide _ _ _ _).trans (s.verified_bumped c .glide (by decide))

theorem State.verified_power (s : State) (c : GlideCal) : (s.verified c).power = s.power :=
  (.record (.bump (.withEngine (.refl _ _) _ _ rfl) _ rfl) _ _ _ rfl : Frame [.glide, .sat, .mgmt, .card] s (s.verified c)) .power (by decide)

theorem State.verified_recorded (s : State) (c : GlideCal) : Recorded s (s.verified c) 0x41 :=
  (State.record_recorded _ _ _ _).of_card (s.verified_bumped c .card (by decide)) (s.verified_bumped c .pt (by decide)) rfl

theorem State.rejected_glide (s : State) (c : GlideCal) : (s.rejected c).glide = s.glide :=
  (.record (.bump (.refl _ _) _ rfl) _ _ _ rfl : Frame [.sat, .mgmt, .card] s (s.rejected c)) .glide (by decide)

theorem State.rejected_recorded (s : State) (c : GlideCal) : Recorded s (s.rejected c) 0x42 :=
  have bumped : Frame [.sat, .mgmt] s (s.bump (oGld c.engine 0x108)) := .bump (.refl _ _) _ rfl
  (State.record_recorded _ _ _ _).of_card (bumped .card (by decide)) (bumped .pt (by decide)) rfl

theorem exec_recalibrationComplete_ends (recalibrates : (s.engine c.engine).state = 3) (ticket : s.calTicket c.engine = true)
    (steady : s.thermal.stepActive = false) : exec (.recalibrationComplete c) s = .next (s.calibrated c) :=
  if_pos ⟨recalibrates, ticket, steady⟩

/-- A verification that passes. -/
theorem State.calibrated_returns (ok : verifyOk (s.engine c.engine) c.enob = true) :
    OnlyEngine s (s.calibrated c) c.engine ((s.engine c.engine).verified s.pt ((s.engineSum c.engine).fdiv 8)) ∧
    (s.calibrated c).glide.returning = s.glide.returning ++ [c.engine] ∧ Released s (s.calibrated c) (.glideCal c.engine) ∧
    Recorded s (s.calibrated c) 0x41 := by
  have back : OnlyEngine s (s.verified c) c.engine ((s.engine c.engine).verified s.pt ((s.engineSum c.engine).fdiv 8)) :=
    (OnlyEngine.withEngine rfl c.engine _).same (s.verified_glide c)
  have released : Released s ((s.verified c).release (.glideCal c.engine)) (.glideCal c.engine) := by
    unfold Released
    rw [← s.verified_power c]
    exact State.release_released _ _
  rw [State.calibrated_passes ok]
  refine ⟨back.noted _ _, ?_, released, (s.verified_recorded c).of_card rfl rfl rfl⟩
  show (s.verified c).glide.returning ++ [c.engine] = _
  rw [s.verified_glide c]
  rfl

/-- A verification that fails changes its engine as the number of failures in a row asks for. -/
theorem State.calibrated_rejects (bad : verifyOk (s.engine c.engine) c.enob = false) :
    OnlyEngine s (s.calibrated c) c.engine ((s.engine c.engine).rejected (s.rejected c).pt) ∧ Recorded s (s.calibrated c) 0x42 := by
  have changed (f : Engine → Engine) : OnlyEngine s ((s.rejected c).withEngine c.engine f) c.engine (f (s.engine c.engine)) :=
    .withEngine (s.rejected_glide c) c.engine f
  rw [State.calibrated_fails bad]
  unfold Engine.rejected
  by_cases sixth : 6 ≤ (s.engine c.engine).streak + 1
  · rw [if_pos sixth, if_pos sixth]
    exact ⟨changed _, s.rejected_recorded c⟩
  rw [if_neg sixth, if_neg sixth]
  by_cases second : ((s.engine c.engine).streak + 1) % 2 = 0
  · rw [if_pos second, if_pos second]
    exact ⟨changed _, s.rejected_recorded c⟩
  · rw [if_neg second, if_neg second]
    exact ⟨changed _, s.rejected_recorded c⟩

theorem Engine.rejected_streak (e : Engine) (pt : Word) : (e.rejected pt).streak = e.streak + 1 := by
  unfold Engine.rejected
  split
  · rfl
  · split <;> rfl

theorem Engine.rejected_state {e : Engine} (h : e.state = 3) (pt : Word) :
    (e.rejected pt).state = if 6 ≤ e.streak + 1 then 6 else if (e.streak + 1) % 2 = 0 then 5 else 3 := by
  unfold Engine.rejected
  split
  · rfl
  · split
    · rfl
    · exact h

theorem recalibration : Parts.Recalibration := by
  intro s c recalibrates ticket steady
  have run := exec_recalibrationComplete_ends recalibrates ticket steady
  refine ⟨fun ok => ?_, fun bad => ?_⟩
  · obtain ⟨back, told, released, event⟩ := State.calibrated_returns ok
    exact ⟨_, run, back, told, released, event, .calibrated (.refl _ _) _ rfl⟩
  · obtain ⟨⟨own, others, -⟩, event⟩ := State.calibrated_rejects bad
    refine ⟨_, run, ?_, ?_, event, others, .calibrated (.refl _ _) _ rfl⟩
    · rw [own, Engine.rejected_streak]
    · rw [own, Engine.rejected_state recalibrates]

/-- Settles O32, from its two parts. -/
theorem engineRecalibration : Obligations.EngineRecalibration := ⟨engineLeavesAndReturns, recalibration⟩

end Sys2Proof.Machine
end

section
/-!
SUPPORT. The windows of a Glide engine: fast windows of pilots, and windows of shadow frames (R100, R190 to R193, R197).
-/
namespace Sys2Proof.Machine

variable {s t u : State} {n st : Nat} {e : Engine} {checks : List ArrayFail} {fail : ArrayFail} {more : List ArrayFail}

/-! ### Failed checks (R100) -/

theorem State.stopOnFail_passed (h : failsOf checks = []) (st p : Nat) (i : Instr) : s.stopOnFail st p i checks = s := by
  unfold State.stopOnFail
  rw [h]

theorem State.stopOnFail_failed (h : failsOf checks = fail :: more) (st p : Nat) (i : Instr) :
    s.stopOnFail st p i checks = (s.withSt st fun r => { r with failed := some (i, fail) }).checkEvents p (fail :: more) 0 := by
  unfold State.stopOnFail
  rw [h]

theorem State.checkEvents_frame (s : State) (p : Nat) (l : List ArrayFail) (attempt : Nat) :
    Frame [.card, .mgmt] s (s.checkEvents p l attempt) := .checkEvents (.refl _ _) p l attempt rfl

/-- The last failed check of a list stands in the ledger. -/
theorem State.checkEvents_logged (s : State) (p attempt : Nat) (f : ArrayFail) (l : List ArrayFail) :
    Logged s (s.checkEvents p (f :: l) attempt) 0x10 := by
  induction l generalizing s f with
  | nil => exact (show Recorded s (s.checkEvent p f attempt) 0x10 from s.record_recorded _ _ _).logged
  | cons g r ih =>
    obtain ⟨k, x, stands, is, time⟩ := ih (s.checkEvent p f attempt) g
    have same : (s.checkEvent p f attempt).pt = s.pt :=
      (Frame.checkEvent (.refl _ _) p f attempt rfl : Frame [.card, .mgmt] s _) .pt (by decide)
    exact ⟨k, x, stands, is, time.trans same⟩

theorem State.st_of_cells (h : t.cells = s.cells) (k : Nat) : t.st k = s.st k := congrArg (fun c : Cells => lookD c.stations k {}) h

/-- A station whose command's check failed: it stops with the command and the first failure, which is recorded; other stations and what
Glide holds are as they were. -/
theorem State.stopOnFail_stops (h : failsOf checks = fail :: more) (st p : Nat) (i : Instr) :
    (s.stopOnFail st p i checks).st st = { s.st st with failed := some (i, fail) } ∧
    (∀ k, k ≠ st → (s.stopOnFail st p i checks).st k = s.st k) ∧ Logged s (s.stopOnFail st p i checks) 0x10 ∧
    Frame [.cells, .card, .mgmt] s (s.stopOnFail st p i checks) := by
  rw [State.stopOnFail_failed h]
  have cells : ((s.withSt st fun r => { r with failed := some (i, fail) }).checkEvents p (fail :: more) 0).cells =
      (s.withSt st fun r => { r with failed := some (i, fail) }).cells := State.checkEvents_frame _ _ _ _ .cells (by decide)
  exact ⟨(State.st_of_cells cells st).trans (s.st_withSt st _), fun k hk => (State.st_of_cells cells k).trans (s.st_withSt_ne _ hk),
    State.checkEvents_logged _ p 0 fail more, .checkEvents (.withSt (.refl _ _) _ _ rfl) _ _ _ rfl⟩

/-! ### Fast windows (R190 to R193) -/

/-- An engine after a fast window of a station's map: pilots and samples of the slot are what the next window of the map begins with. -/
def Engine.windowed (e : Engine) (st rows : Nat) (codes : List (List Int)) (pilots : Nat) (samples : List PilotSample) : Engine :=
  { e with
    pilotNext := (e.pilotNext + codes.length) % 64
    slots := e.slots.map fun x => if x.station = st then
      { (if codes.length = 256 then x.noteDrift (windowSamples e.pilotNext rows codes) else x) with pilots := pilots, samples := samples } else x }

/-- The state once the codes of a fast window have been taken: they are counted, the pilots go on, and a whole window counts for the
drift window. -/
def State.taken (s : State) (n st : Nat) (codes : List (List Int)) : State :=
  let u := (s.wrapBy (oGld n 0x208) codes.length).withEngine n fun e => { e with pilotNext := (e.pilotNext + codes.length) % 64 }
  if codes.length = 256 then u.withSlot n st fun m => m.noteDrift (windowSamples (s.engine n).pilotNext (s.paramsOf st).rows codes) else u

/-- The state once the station's slot has what the next window of its map begins with. -/
def State.windowed (s : State) (n st : Nat) (codes : List (List Int)) (pilots : Nat) (samples : List PilotSample) : State :=
  (s.taken n st codes).withSlot n st fun m => { m with pilots := pilots, samples := samples }

theorem State.taken_frame (s : State) (n st : Nat) (codes : List (List Int)) : Frame [.glide, .wrap] s (s.taken n st codes) :=
  have counted : Frame [.glide, .wrap] s ((s.wrapBy (oGld n 0x208) codes.length).withEngine n fun e =>
      { e with pilotNext := (e.pilotNext + codes.length) % 64 }) := .withEngine (.wrapBy (.refl _ _) _ _ rfl) _ _ rfl
  .ite (.withSlot counted _ _ _ rfl) counted

theorem State.windowed_frame (s : State) (n st : Nat) (codes : List (List Int)) (pilots : Nat) (samples : List PilotSample) :
    Frame [.glide, .wrap] s (s.windowed n st codes pilots samples) := .withSlot (s.taken_frame n st codes) _ _ _ rfl

/-- Two changes of a station's slot one after the other, of which the first leaves it the station's. -/
theorem map_slots {f g : MapSlot → MapSlot} (hf : ∀ x, (f x).station = x.station) (l : List MapSlot) (st : Nat) :
    (l.map fun x => if x.station = st then f x else x).map (fun x => if x.station = st then g x else x) =
      l.map fun x => if x.station = st then g (f x) else x := by
  rw [List.map_map]
  refine List.map_congr_left fun x _ => ?_
  by_cases own : x.station = st
  · simp only [Function.comp_apply, own, if_true, hf]
  · simp only [Function.comp_apply, own, if_false]

theorem State.windowed_engine (s : State) (n st : Nat) (codes : List (List Int)) (pilots : Nat) (samples : List PilotSample) :
    OnlyEngine s (s.windowed n st codes pilots samples) n ((s.engine n).windowed st (s.paramsOf st).rows codes pilots samples) := by
  have counted : OnlyEngine s ((s.wrapBy (oGld n 0x208) codes.length).withEngine n fun e =>
      { e with pilotNext := (e.pilotNext + codes.length) % 64 }) n
      { s.engine n with pilotNext := ((s.engine n).pilotNext + codes.length) % 64 } := .withEngine rfl n _
  unfold State.windowed State.taken Engine.windowed
  by_cases whole : codes.length = 256
  · simp only [whole, if_true] at counted ⊢
    have k := (counted.withSlot st fun m => m.noteDrift (windowSamples (s.engine n).pilotNext (s.paramsOf st).rows codes)).withSlot st
      fun m => { m with pilots := pilots, samples := samples }
    dsimp only at k
    rwa [map_slots (f := fun m => m.noteDrift _) (fun _ => rfl)] at k
  · simp only [whole, if_false] at counted ⊢
    exact counted.withSlot st _

theorem State.fastFloor_windowed (s : State) (n st : Nat) (codes : List (List Int)) (pilots : Nat) (samples : List PilotSample) :
    (s.windowed n st codes pilots samples).fastFloor n st = s.fastFloor n st := by
  unfold State.fastFloor
  rw [(s.windowed_engine n st codes pilots samples).1, State.paramsOf_of_job (s.windowed_frame n st codes pilots samples .job (by decide))]
  rfl

/-- A fast window of a map in service: it is too short to judge, or it is judged. -/
theorem exec_fastWindow_serving {m : MapSlot} {g : GlideW} (hm : (s.engine n).slots.find? (·.station = st) = some m)
    (hg : (s.st st).glW = some g) (serves : (s.engine n).state = 1) (codes : List (List Int)) :
    let taken := codes.take 256
    let all := m.samples ++ windowSamples (s.engine n).pilotNext (s.paramsOf st).rows taken
    let judged := s.windowed n st taken 0 []
    exec (.fastWindow n st codes) s =
      if m.pilots + taken.length < 32 then .next (s.windowed n st taken (m.pilots + taken.length) all)
      else if judged.fastFloor n st ≤ enobOf (pilotMean g (judged.paramsOf st).rows all) then .next (judged.passWindow n st)
      else .next ((judged.bump (oGld n 0x110)).leaveService n 3 false) := by
  show execFastWindow n st codes s = _
  unfold execFastWindow
  dsimp only
  rw [hm, hg]
  exact if_pos (.inl serves)

/-- A window that passes guards the GL_RUN commands whose slots are past; PT and the engines say which these are. -/
theorem State.passWindow_guards (s : State) (n st : Nat) :
    (s.passWindow n st).st st = { s.st st with
      held := (s.st st).held.map fun h => if h.engine = some n && h.issued && !s.sampling n h then { h with windowPassed := true } else h } ∧
    ∀ k, k ≠ st → (s.passWindow n st).st k = s.st k :=
  ⟨s.st_withSt st _, fun _ hk => s.st_withSt_ne _ hk⟩

theorem State.sampling_of_pt (h : t.pt = s.pt) (n : Nat) : t.sampling n = s.sampling n := by
  unfold State.sampling
  rw [h]

theorem fastWindows : Parts.FastWindows := by
  intro s n st codes m g e hm hg serves taken l all seen after ok
  have run := exec_fastWindow_serving hm hg serves codes
  let judged := s.windowed n st taken 0 []
  have frame : Frame [.glide, .wrap] s judged := s.windowed_frame n st taken 0 []
  have engine : OnlyEngine s judged n (after 0 []) := s.windowed_engine n st taken 0 []
  have meets : judged.fastFloor n st ≤ enobOf (pilotMean g (judged.paramsOf st).rows all) ↔ ok := by
    rw [s.fastFloor_windowed n st taken 0 [], State.paramsOf_of_job (frame .job (by decide))]
  refine ⟨fun short => ?_, fun long passes => ?_, fun long fails => ?_⟩
  · exact ⟨_, run.trans (if_pos short), s.windowed_engine n st taken _ _, s.windowed_frame n st taken _ _⟩
  · obtain ⟨guarded, others⟩ := judged.passWindow_guards n st
    have cells : judged.cells = s.cells := frame .cells (by decide)
    refine ⟨_, run.trans ((if_neg (Nat.not_lt.mpr long)).trans (if_pos (meets.mpr passes))), engine, ?_, fun k hk => ?_,
      .passWindow (frame.weaken rfl) _ _ rfl⟩
    · rw [guarded, State.st_of_cells cells, State.sampling_of_pt (frame .pt (by decide))]
    · rw [others k hk, State.st_of_cells cells]
  · have bumped : Frame [.glide, .wrap, .sat, .mgmt] s (judged.bump (oGld n 0x110)) := .bump (frame.weaken rfl) _ rfl
    have noted : (judged.bump (oGld n 0x110)).glide = judged.glide :=
      (Frame.bump (.refl _ _) _ rfl : Frame [.sat, .mgmt] judged _) .glide (by decide)
    have own : (judged.bump (oGld n 0x110)).engine n = after 0 [] := (engine.same noted).1
    have serving : ((judged.bump (oGld n 0x110)).engine n).state = 1 := by
      rw [own]
      exact serves
    obtain ⟨⟨left, -, -⟩, told, event⟩ := State.leaveService_leaves serving 3 false
    refine ⟨_, run.trans ((if_neg (Nat.not_lt.mpr long)).trans (if_neg fun h => fails (meets.mp h))), congrArg Engine.state left,
      congrArg Engine.lastLeave left, congrArg Engine.fullRecal left, ?_,
      event.of_card (bumped .card (by decide)) (bumped .pt (by decide)) rfl, .leaveService (bumped.weaken rfl) _ _ _ rfl⟩
    rw [told]
    exact List.mem_append_right _ (List.mem_singleton_self n)

/-! ### Shadow frames (R197) -/

/-- The state once the oldest shadow frame has been taken and counted. -/
def State.shadowTaken (s : State) (n : Nat) (rest : List ShadowFrame) : State :=
  (s.withEngine n fun e => { e with shadows := rest }).wrapBy (oGld n 0x218) 1

/-- The state once what a shadow frame shows has joined the engine's last 16. -/
def State.statTaken (s : State) (n : Nat) (rest : List ShadowFrame) (x : ShadowStat) : State :=
  (s.shadowTaken n rest).withEngine n fun e => { e with lastStats := (e.lastStats ++ [x]).drop (e.lastStats.length - 15) }

/-- An engine with what a shadow frame shows in its last 16 and in the window of the frame's station. -/
def Engine.shown (e : Engine) (st : Nat) (rest : List ShadowFrame) (x : ShadowStat) : Engine :=
  { e with
    shadows := rest, lastStats := (e.lastStats ++ [x]).drop (e.lastStats.length - 15)
    shadowRecs := upd e.shadowRecs st {} fun r => { r with window := r.window ++ [x] } }

theorem State.shadowTaken_engine (s : State) (n : Nat) (rest : List ShadowFrame) :
    OnlyEngine s (s.shadowTaken n rest) n { s.engine n with shadows := rest } := OnlyEngine.withEngine rfl n _

theorem State.shadowTaken_frame (s : State) (n : Nat) (rest : List ShadowFrame) : Frame [.glide, .wrap] s (s.shadowTaken n rest) :=
  .wrapBy (.withEngine (.refl _ _) _ _ rfl) _ _ rfl

/-- The state once a shadow frame has joined its station's window. -/
def State.shown (s : State) (n st : Nat) (rest : List ShadowFrame) (x : ShadowStat) : State :=
  (s.statTaken n rest x).withShadow n st fun r => { r with window := r.window ++ [x] }

theorem State.statTaken_engine (s : State) (n : Nat) (rest : List ShadowFrame) (x : ShadowStat) : OnlyEngine s (s.statTaken n rest x) n
    { s.engine n with shadows := rest, lastStats := ((s.engine n).lastStats ++ [x]).drop ((s.engine n).lastStats.length - 15) } :=
  (s.shadowTaken_engine n rest).andThen _

theorem State.shown_engine (s : State) (n st : Nat) (rest : List ShadowFrame) (x : ShadowStat) :
    OnlyEngine s (s.shown n st rest x) n ((s.engine n).shown st rest x) := (s.statTaken_engine n rest x).andThen _

theorem State.shown_frame (s : State) (n st : Nat) (rest : List ShadowFrame) (x : ShadowStat) : Frame [.glide, .wrap] s (s.shown n st rest x) :=
  .withShadow (.withEngine (s.shadowTaken_frame n rest) _ _ rfl) _ _ _ rfl

/-- What the engine then has in the window of the frame's station. -/
theorem Engine.shown_record (e : Engine) (st : Nat) (rest : List ShadowFrame) (x : ShadowStat) :
    lookD (e.shown st rest x).shadowRecs st {} =
      { lookD e.shadowRecs st {} with window := (lookD e.shadowRecs st {}).window ++ [x] } := lookD_put _ _ _ _

theorem exec_shadowRecompute_failed {f : ShadowFrame} {rest : List ShadowFrame} {cell : Nat} (hf : (s.engine n).shadows = f :: rest)
    (running : (s.st f.station).failed = none) (host : s.cellOf f.station = some cell) (h : failsOf checks = fail :: more) :
    exec (.shadowRecompute { unit := n, checks := checks }) s = .next ((s.shadowTaken n rest).stopOnFail f.station
      ((s.shadowTaken n rest).physical cell) (.shadowRecompute { unit := n, checks := checks }) checks) := by
  have host' : ((s.withEngine n fun e => { e with shadows := rest }).wrapBy (oGld n 0x218) 1).cellOf f.station = some cell := host
  show execShadowRecompute { unit := n, checks := checks } s = _
  unfold execShadowRecompute
  dsimp only
  rw [hf]
  dsimp only
  rw [if_neg (by rw [running]; exact Bool.false_ne_true), h, host']
  rfl

/-- A shadow frame whose window is still short of 16 frames. -/
theorem exec_shadowRecompute_passed {f : ShadowFrame} {rest : List ShadowFrame} (hf : (s.engine n).shadows = f :: rest)
    (running : (s.st f.station).failed = none) (h : failsOf checks = []) (bound : (s.engine n).stations.contains f.station = true)
    (short : (lookD (s.engine n).shadowRecs f.station {}).window.length < 15) :
    exec (.shadowRecompute { unit := n, checks := checks }) s =
      .next (s.shown n f.station rest (shadowStat (s.paramsOf f.station) f)) := by
  let x := shadowStat (s.paramsOf f.station) f
  have bound' : ((s.statTaken n rest x).engine n).stations.contains f.station = true := by
    rw [(s.statTaken_engine n rest x).1]
    exact bound
  have short' : ¬ 16 ≤ (lookD ((s.shown n f.station rest x).engine n).shadowRecs f.station {}).window.length := by
    rw [(s.shown_engine n f.station rest x).1, Engine.shown_record]
    show ¬ 16 ≤ ((lookD (s.engine n).shadowRecs f.station {}).window ++ [x]).length
    rw [List.length_append, List.length_singleton]
    omega
  show execShadowRecompute { unit := n, checks := checks } s = _
  unfold execShadowRecompute
  dsimp only
  rw [hf]
  dsimp only
  rw [if_neg (by rw [running]; exact Bool.false_ne_true), h]
  exact (if_pos bound').trans (if_neg short')

theorem shadowRecompute : Parts.ShadowRecompute := by
  intro s n cell f rest checks hf running host e x
  refine ⟨fun passed bound short => ?_, fun fail more failed => ?_⟩
  · obtain ⟨own, others, -⟩ := s.shown_engine n f.station rest x
    refine ⟨_, exec_shadowRecompute_passed hf running passed bound short, congrArg Engine.shadows own, congrArg Engine.lastStats own, ?_,
      others, s.shown_frame n f.station rest x⟩
    rw [own, Engine.shown_record]
  · let u := s.shadowTaken n rest
    have frame : Frame [.glide, .wrap] s u := s.shadowTaken_frame n rest
    obtain ⟨stopped, others, logged, kept⟩ :=
      State.stopOnFail_stops (s := u) failed f.station (u.physical cell) (.shadowRecompute { unit := n, checks := checks })
    refine ⟨_, exec_shadowRecompute_failed hf running host failed, (s.shadowTaken_engine n rest).same (kept .glide (by decide)),
      stopped, others, logged, (frame.weaken rfl).step rfl kept⟩

/-- Settles O31, from its two parts. -/
theorem glideWindows : Obligations.GlideWindows := ⟨fastWindows, shadowRecompute⟩

end Sys2Proof.Machine
end

section
/-!
SUPPORT. A read of memory leaves the stations as they are: what it records are events, counts, corrections and points, and of the cells
it changes only what a physical cell or a field test holds (R120, R205, R366).
-/
namespace Sys2Proof.Machine

variable {s t u : State}

/-- Two states agree in the stations at run. -/
def SameStations (s t : State) : Prop := t.cells.stations = s.cells.stations

theorem SameStations.refl (s : State) : SameStations s s := rfl

theorem SameStations.trans (h : SameStations s t) (k : SameStations t u) : SameStations s u := Eq.trans k h

theorem SameStations.st (h : SameStations s t) (k : Nat) : t.st k = s.st k := congrArg (fun l : Table StationRt => lookD l k {}) h

/-- A step that leaves the cells alone. -/
theorem SameStations.step {l : List StatePart} (h : SameStations s t) (k : Frame l t u) (hl : .cells ∉ l) : SameStations s u :=
  h.trans (congrArg Cells.stations (k .cells hl))

theorem SameStations.ite {c : Prop} [Decidable c] (h : SameStations s t) (k : SameStations s u) : SameStations s (if c then t else u) := by
  split
  · exact h
  · exact k

theorem SameStations.foldl {α : Type} {f : State → α → State} (h : SameStations s t) (hf : ∀ u a, SameStations u (f u a)) (l : List α) :
    SameStations s (l.foldl f t) := by
  induction l generalizing t with
  | nil => exact h
  | cons a r ih => exact ih (h.trans (hf t a))

theorem SameStations.withPCell (h : SameStations s t) (p : Nat) (f : PCell → PCell) : SameStations s (t.withPCell p f) := h

theorem SameStations.record (h : SameStations s t) (code die : Nat) (p : List Byte) : SameStations s (t.record code die p) :=
  h.step (.record (.refl [.card, .mgmt] _) code die p rfl) (by decide)

theorem SameStations.bump (h : SameStations s t) (o : Nat) : SameStations s (t.bump o) :=
  h.step (.bump (.refl [.sat, .mgmt] _) o rfl) (by decide)

/-! ### The transient bucket (R363, R364) -/

theorem sameStations_startFullTest (s : State) : SameStations s s.startFullTest := rfl

theorem sameStations_enterWatch (s : State) (test : Bool) : SameStations s (s.enterWatch test) := by
  have watching : SameStations s ((s.goto .watch).withNvm fun n => { n with watchRecord := true }) :=
    (SameStations.refl s).step (.withNvm (.goto (.refl _ _) .watch rfl) _ rfl : Frame [.dev, .mgmt, .nvm] s _) (by decide)
  exact .ite (.ite (watching.trans (sameStations_startFullTest _)) watching) (.refl s)

theorem sameStations_testAgain (s : State) : SameStations s s.testAgain := by
  unfold State.testAgain
  split
  · exact .ite (.refl s) (sameStations_startFullTest s)
  · exact sameStations_startFullTest s

theorem sameStations_crossed (s : State) (cause : Nat) : SameStations s (s.crossed cause) := by
  have noted : SameStations s (s.noteCrossing cause) :=
    (SameStations.refl s).step (.noteCrossing (.refl _ _) cause rfl : Frame [.card, .mgmt, .sat] s _) (by decide)
  unfold State.crossed
  dsimp only
  split
  · exact noted.trans (sameStations_enterWatch _ true)
  · exact noted.trans (sameStations_enterWatch _ true)
  · exact noted.trans (sameStations_testAgain _)
  · exact noted
  · exact noted
  · exact noted
  · exact noted

theorem sameStations_addPoints (s : State) (pts cause : Nat) : SameStations s (s.addPoints pts cause) := by
  have level : SameStations s (s.levelTo (s.levelPlus pts)) := rfl
  exact .ite (level.trans (sameStations_crossed _ cause)) level

/-! ### Reads (R203, R205, R222) -/

theorem sameStations_lineCorrected (s : State) (cell off : Nat) : SameStations s (s.lineCorrected cell off) := by
  unfold State.lineCorrected
  dsimp only
  split
  · exact .record (.withPCell (.withPCell (.refl s) _ _) _ _) _ _ _
  · exact .withPCell (.refl s) _ _

theorem sameStations_granEvent (s : State) (pass : Option Nat) (a : Nat) (p : Place) (z : ZRead) :
    SameStations s (s.granEvent pass a p z) := by
  have event (code : Nat) (b : List Byte) : SameStations s (s.record code p.die b) := .record (.refl s) code p.die b
  cases z with
  | clean => exact .refl s
  | poisoned => exact .refl s
  | corrected b =>
    cases p with
    | stack l => exact .bump (event _ _) _
    | lodge i off => exact .bump (event _ _) _
    | buffer c off => exact event _ _
    | scratch c off => exact (event _ _).trans (sameStations_lineCorrected _ c off)
  | uncorrectable z =>
    cases p with
    | stack l => exact .bump (event _ _) _
    | lodge i off => exact (SameStations.bump (event _ _) _).trans (sameStations_addPoints _ 2 0x21)
    | buffer c off => exact (event _ _).trans (sameStations_addPoints _ 2 0x21)
    | scratch c off => exact (event _ _).trans (sameStations_addPoints _ 2 0x21)

theorem sameStations_granEvents (s : State) (pass : Option Nat) (zs : List (Nat × ZRead)) : SameStations s (s.granEvents pass zs) := by
  refine .foldl (.refl s) (fun u z => ?_) zs
  split
  · exact sameStations_granEvent u pass _ _ _
  · exact .refl u

theorem sameStations_noteRead (s : State) (die unit a len : Nat) (pass : Option Nat) (gs : List (Nat × ZRead)) :
    SameStations s (s.noteRead die unit a len pass gs) := by
  have counted (u : State) (p : Place) : SameStations u (u.countBytes p 0x200 len) :=
    (SameStations.refl u).step (.countBytes (.refl _ _) p _ _ rfl : Frame [.wrap] u _) (by decide)
  have bad (b : Nat) : SameStations s (s.badAccess die unit b) :=
    (SameStations.refl s).step (.badAccess (.refl _ _) die unit b rfl : Frame [.card, .mgmt, .sat] s _) (by decide)
  have found (b : State) (h : SameStations s b) (zs : List (Nat × ZRead)) : SameStations s (b.granEvents pass zs) :=
    h.trans (sameStations_granEvents b pass zs)
  unfold State.noteRead
  dsimp only
  split
  · refine (found _ ?_ _).trans (counted _ _)
    split
    · exact bad _
    · exact .refl s
  · refine found _ ?_ _
    split
    · exact bad _
    · exact .refl s

theorem sameStations_readStore (s : State) (die unit a len : Nat) : SameStations s (s.readStore die unit a len).1 :=
  sameStations_noteRead s die unit a len none _

theorem sameStations_fetchUnit (s : State) (die unit u : Nat) : SameStations s (s.fetchUnit die unit u).1 :=
  (sameStations_readStore (s.wrapBy 0x08F208 1) die unit (256 * u) 256).step (.install (.refl [.stores] _) _ rfl) (by decide)

theorem sameStations_readUnit (s : State) (die unit a len : Nat) : SameStations s (s.readUnit die unit a len).1 := by
  unfold State.readUnit
  dsimp only
  split
  · split
    · exact ((SameStations.refl s).step (.refetch (.refl [.card, .mgmt, .stores, .sat] _) _ _ rfl) (by decide)).trans
        (sameStations_fetchUnit _ die unit _)
    · exact (SameStations.refl s).step (.cacheEvents (.install (.wrapBy (.refl [.wrap, .stores, .card, .mgmt, .sat] _) _ _ rfl) _ rfl) _ _ _ rfl)
        (by decide)
  · exact sameStations_fetchUnit s die unit _

theorem sameStations_readHere (s : State) (die unit a len : Nat) : SameStations s (s.readHere die unit a len).1 := by
  unfold State.readHere
  dsimp only
  split
  · exact (sameStations_readStore s die unit a len).step (.countNarrow (.refl [.wrap] _) _ _ _ _ rfl) (by decide)
  · exact sameStations_readStore s die unit a len

theorem sameStations_readUnits (die unit a : Nat) (l : List (Nat × Nat)) (p : State × MemRead) :
    SameStations p.1 (l.foldl (fun (p : State × MemRead) q =>
      let rd := p.1.readUnit die unit q.1 q.2
      (rd.1, { bytes := p.2.bytes ++ rd.2.bytes, bad := p.2.bad ++ rd.2.bad.map (· + (q.1 / 8 - a / 8)) })) p).1 := by
  induction l generalizing p with
  | nil => exact .refl p.1
  | cons q r ih => exact (sameStations_readUnit p.1 die unit q.1 q.2).trans (ih _)

theorem sameStations_readMem (s : State) (die unit a len : Nat) : SameStations s (s.readMem die unit a len).1 := by
  unfold State.readMem
  split
  · exact sameStations_readUnits die unit a _ (s, { bytes := [], bad := [] })
  · exact sameStations_readHere s die unit a len

/-- A frame that verifies leaves its station too as it was. -/
theorem Reads.sameStations {st a : Nat} {f : List Byte} (h : Reads s st a f t) : SameStations s t := by
  have read := sameStations_readMem s (s.dieOf st) (s.unitOf st) a frameBytes
  unfold Reads State.readFrame State.frameOf at h
  dsimp only at h
  split at h
  · cases h
    exact read
  · cases h

/-- What the read of a frame may change. -/
theorem Reads.frame {st a : Nat} {f : List Byte} (h : Reads s st a f t) :
    Frame [.dev, .nvm, .card, .mgmt, .cells, .bucket, .stores, .fabric, .sat, .wrap] s t := by
  have k : Frame [.dev, .nvm, .card, .mgmt, .cells, .bucket, .stores, .fabric, .sat, .wrap] s (s.readFrame st a .clean).state :=
    .readFrame (.refl _ _) st a .clean rfl
  rwa [h] at k

end Sys2Proof.Machine
end

section
/-!
SUPPORT. GL_RUN_COMPLETE: a frame as written, and the completion of the oldest GL_RUN of a station (R49, R61, R65, R180, R183, R197).
-/
namespace Sys2Proof.Machine

variable {s t w : State} {st n i o cell : Nat} {h : HeldRun} {rest : List HeldRun} {out : Outst} {f : List Byte} {r : StationRt}
variable {checks : List ArrayFail} {fail : ArrayFail} {more : List ArrayFail}

/-! ### Frames as written (R53, R57) -/

theorem padTo_length (n : Nat) (l : List Byte) : (padTo n l).length = n := by
  rw [padTo, List.length_append, List.length_take, List.length_replicate]
  omega

theorem hdrBytes_length (x : Hdr) : (hdrBytes x).length = 28 := by simp only [hdrBytes, List.length_append, natLe_length]

theorem mkFrame_length (fm : Fmt) (tflags rows cols producer stream seq step : Nat) (vs : List Num) (rnd : Rnd) (seed : Nat)
    (arrays : Bool) : (mkFrame fm tflags rows cols producer stream seq step vs rnd seed arrays).length = frameBytes := by
  refine signFrame_length ?_
  simp only [List.length_append, hdrBytes_length, natLe_length, padTo_length, frameBytes]

theorem State.glFrame_length (hf : s.glFrame st h = some (o, f)) : f.length = frameBytes := by
  unfold State.glFrame at hf
  split at hf
  · dsimp only at hf
    split at hf
    · cases hf
      exact mkFrame_length _ _ _ _ _ _ _ _ _ _ _ _
    · cases hf
  · cases hf

/-- A frame written to a slot that memory holds. -/
theorem State.writePort_wrote {pos : Nat} (hf : f.length = frameBytes) (mapped : s.mapped (s.slotAddr (s.outStream st o) pos) frameBytes)
    (aligned : s.slotAddr (s.outStream st o) pos % 8 = 0) (wf : s.stores.mem.wf = true) :
    Wrote s (s.writePort st o pos f) (s.slotAddr (s.outStream st o) pos) f := by
  have whole : f.length % 8 = 0 := by rw [hf, frameBytes]
  have some : f ≠ [] := fun e => by cases e; cases hf
  exact State.writeMem_wrote _ _ (hf ▸ mapped) aligned whole some wf

/-! ### Completion (R49, R65) -/

theorem Open.of_station {x y : State} (ho : Open x st) (h : y.cells.stations = put x.cells.stations st r) (halted : r.halted = (x.st st).halted) :
    Open y st := by
  have own : y.st st = r := by
    unfold State.st
    rw [h, lookD_put]
  rcases ho with goes | ⟨p, hp, other, waits⟩
  · exact .inl (by rw [own, halted, goes])
  · exact .inr ⟨p, h ▸ mem_put_ne _ hp other, other, waits⟩

theorem Moves.noted {q : StationRt} {sig : List SignalMsg} (m : Moves s t st q sig) (r : StationRt) :
    Moves (s.noted r) (t.noted r) st q sig := by
  unfold State.noted
  split
  · exact m.withJob _
  · exact m

/-- A completion after work that changed its station alone. -/
theorem Completed.after {q : StationRt} (m : Moves s t st q []) (k : Completed t w st r i out) : Completed s w st r i out := by
  unfold Completed at k ⊢
  rw [m.signalsOf] at k
  exact (m.noted _).trans k

theorem State.completeKind_completed {k : OutKind} (ho : Open s st) (hi : (s.st st).firstOf k = some i)
    (hout : (s.st st).outstanding[i]? = some out) : Completed s (s.completeKind st k) st (s.st st) i out := by
  unfold State.completeKind
  rw [hi]
  exact State.complete_completed ho hout

theorem Moves.frame {q : StationRt} {sig : List SignalMsg} (m : Moves s t st q sig) : Frame [.cells] s t := by
  rw [m.rest]
  exact (Frame.refl _ s).withCells (fun c => { c with stations := t.cells.stations, signals := c.signals ++ sig }) rfl

/-- What a completion leaves alone beside the station. -/
theorem Completed.frame (k : Completed s t st r i out) : Frame [.cells, .job] s t := by
  have noted : Frame [.cells, .job] s (s.noted (r.completes i out).settled) := .ite (.withJob (.refl _ _) _ rfl) (.refl _ _)
  exact noted.step rfl (Moves.frame k)

theorem Completed.others (k : Completed s t st r i out) : ∀ j, j ≠ st → t.st j = s.st j := by
  intro j hj
  refine (Moves.others k j hj).trans ?_
  unfold State.noted
  split <;> rfl

/-! ### The oldest GL_RUN of a station completes (R183) -/

/-- The state once the oldest GL_RUN has left those held. -/
def State.unheld (s : State) (st : Nat) (rest : List HeldRun) : State := s.withSt st fun r => { r with held := rest }

theorem State.unheld_moves (s : State) (st : Nat) (rest : List HeldRun) :
    Moves s (s.unheld st rest) st { s.st st with held := rest } [] := .withSt s st _

theorem State.unheld_completed (ho : Open s st) (hi : (s.st st).firstOf .glide = some i) (hout : (s.st st).outstanding[i]? = some out) :
    Completed (s.unheld st rest) ((s.unheld st rest).completeKind st .glide) st { s.st st with held := rest } i out := by
  have own : (s.unheld st rest).st st = { s.st st with held := rest } := (s.unheld_moves st rest).own
  have goes : Open (s.unheld st rest) st := ho.of_station rfl rfl
  have k := State.completeKind_completed (s := s.unheld st rest) (k := .glide) goes (by rw [own]; exact hi) (by rw [own]; exact hout)
  rwa [own] at k

theorem State.glComplete_cell (held : (s.st st).held = h :: rest) (hf : s.glFrame st h = some (o, f)) (cells : h.engine = none) :
    s.glComplete st = ((s.writePort st o h.posOut f).unheld st rest).completeKind st .glide := by
  unfold State.glComplete
  rw [held]
  dsimp only
  rw [hf, cells]
  rfl

theorem State.glComplete_engine (held : (s.st st).held = h :: rest) (hf : s.glFrame st h = some (o, f)) (engine : h.engine = some n) :
    s.glComplete st = (((s.writePort st o h.posOut f).unheld st rest).countGlFrame n st h).completeKind st .glide := by
  unfold State.glComplete
  rw [held]
  dsimp only
  rw [hf, engine]
  rfl

/-- What the count of an engine's frame, and the event of one out of calibration, leave. -/
theorem State.frameCounted_glide (s : State) (n : Nat) (h : HeldRun) (b : List Byte) :
    (if h.ooc then ((s.wrapBy (oGld n 0x210) 1).bump (oGld n 0x120)).record 0x45 (dieGlide n) b else s.wrapBy (oGld n 0x210) 1).glide =
      s.glide := by
  have counted : Frame [.wrap, .sat, .mgmt, .card] s (s.wrapBy (oGld n 0x210) 1) := .wrapBy (.refl _ _) _ _ rfl
  exact (Frame.ite (.record (.bump counted _ rfl) _ _ _ rfl) counted) .glide (by decide)

/-- A frame of an engine is counted, on that engine alone. -/
theorem State.countGlFrame_engine (s : State) (n st : Nat) (h : HeldRun) :
    ∃ e, OnlyEngine s (s.countGlFrame n st h) n e ∧ e.runCount = (s.engine n).runCount + 1 :=
  ⟨_, .withEngine (s.frameCounted_glide n h _) n _, rfl⟩

/-! ### GL_RUN_COMPLETE -/

theorem exec_glRunComplete_ready (held : (s.st st).held = h :: rest) (host : s.cellOf st = some cell) (running : (s.st st).failed = none)
    (ready : h.ready = true) : exec (.glRunComplete { unit := st, checks := checks }) s = .next (s.glComplete st) := by
  show execGlRunComplete { unit := st, checks := checks } s = _
  unfold execGlRunComplete
  dsimp only
  rw [held, host]
  dsimp only
  rw [if_neg (by rw [running]; exact fun x => Bool.false_ne_true x.1), if_pos ready]

theorem State.arraysGo_running (h : s.arrayPhase cell = .running) (st : Nat) : s.arraysGo st cell = (s, true) := by
  unfold State.arraysGo
  rw [h]

/-- A GL_RUN that has moved to its host cell runs there (R100, R163). -/
theorem exec_glRunComplete_moved (held : (s.st st).held = h :: rest) (host : s.cellOf st = some cell) (running : (s.st st).failed = none)
    (cells : h.engine = none) (waits : h.issued = false) (arrays : s.arrayPhase cell = .running) :
    exec (.glRunComplete { unit := st, checks := checks }) s =
      if (failsOf checks).isEmpty then .next (s.glComplete st)
      else .next ((s.withSt st fun r => { r with held := { h with issued := true } :: rest }).stopOnFail st (s.physical cell) h.instr checks) := by
  have notReady : ¬ h.ready = true := by
    unfold HeldRun.ready
    rw [cells, waits]
    exact Bool.false_ne_true
  show execGlRunComplete { unit := st, checks := checks } s = _
  unfold execGlRunComplete
  dsimp only
  rw [held, host]
  dsimp only
  rw [if_neg (by rw [running]; exact fun x => Bool.false_ne_true x.1), if_neg notReady, cells, State.arraysGo_running arrays]
  rfl

/-- The rows that complete. -/
theorem glRunComplete_cell (goes : Open s st) (held : (s.st st).held = h :: rest) (host : s.cellOf st = some cell)
    (running : (s.st st).failed = none) (hf : s.glFrame st h = some (o, f)) (hi : (s.st st).firstOf .glide = some i)
    (hout : (s.st st).outstanding[i]? = some out) (mapped : s.mapped (s.slotAddr (s.outStream st o) h.posOut) frameBytes)
    (aligned : s.slotAddr (s.outStream st o) h.posOut % 8 = 0) (wf : s.stores.mem.wf = true) (cells : h.engine = none)
    (can : h.issued = true ∨ s.arrayPhase cell = .running ∧ failsOf checks = []) :
    ∃ w t, exec (.glRunComplete { unit := st, checks := checks }) s = .next t ∧
      Wrote s w (s.slotAddr (s.outStream st o) h.posOut) f ∧ Completed w t st { s.st st with held := rest } i out := by
  let w := s.writePort st o h.posOut f
  have wrote : Wrote s w (s.slotAddr (s.outStream st o) h.posOut) f := State.writePort_wrote (State.glFrame_length hf) mapped aligned wf
  have same : w.cells = s.cells := wrote.rest .cells (by decide)
  have station : w.st st = s.st st := State.st_of_cells same st
  have goesOn : Open w st := by
    unfold Open
    rw [same, station]
    exact goes
  have completed : Completed w ((w.unheld st rest).completeKind st .glide) st { w.st st with held := rest } i out :=
    (State.unheld_completed goesOn (by rw [station]; exact hi) (by rw [station]; exact hout)).after (w.unheld_moves st rest)
  rw [station] at completed
  refine ⟨w, _, ?_, wrote, completed⟩
  rw [← State.glComplete_cell held hf cells]
  by_cases issued : h.issued = true
  · have ready : h.ready = true := by
      unfold HeldRun.ready
      rw [cells]
      exact issued
    exact exec_glRunComplete_ready held host running ready
  · obtain ⟨arrays, passed⟩ := can.resolve_left issued
    have run := exec_glRunComplete_moved (checks := checks) held host running cells (Bool.eq_false_iff.mpr issued) arrays
    rw [passed] at run
    exact run

theorem glRunComplete_fails (held : (s.st st).held = h :: rest) (host : s.cellOf st = some cell) (running : (s.st st).failed = none)
    (cells : h.engine = none) (waits : h.issued = false) (arrays : s.arrayPhase cell = .running) (failed : failsOf checks = fail :: more) :
    ∃ t, exec (.glRunComplete { unit := st, checks := checks }) s = .next t ∧
      t.st st = { s.st st with held := { h with issued := true } :: rest, failed := some (h.instr, fail) } ∧
      (∀ k, k ≠ st → t.st k = s.st k) ∧ Logged s t 0x10 ∧ Frame [.cells, .card, .mgmt] s t := by
  let u := s.withSt st fun r => { r with held := { h with issued := true } :: rest }
  have run := exec_glRunComplete_moved (checks := checks) held host running cells waits arrays
  rw [if_neg (by rw [failed]; exact Bool.false_ne_true)] at run
  obtain ⟨stopped, others, logged, kept⟩ := State.stopOnFail_stops (s := u) failed st (s.physical cell) h.instr
  refine ⟨_, run, ?_, fun k hk => (others k hk).trans (s.st_withSt_ne _ hk), logged, (Frame.withSt (.refl _ _) _ _ rfl).trans kept⟩
  rw [stopped, show u.st st = _ from s.st_withSt st _]

theorem glRunComplete_engine (goes : Open s st) (held : (s.st st).held = h :: rest) (host : s.cellOf st = some cell)
    (running : (s.st st).failed = none) (hf : s.glFrame st h = some (o, f)) (hi : (s.st st).firstOf .glide = some i)
    (hout : (s.st st).outstanding[i]? = some out) (mapped : s.mapped (s.slotAddr (s.outStream st o) h.posOut) frameBytes)
    (aligned : s.slotAddr (s.outStream st o) h.posOut % 8 = 0) (wf : s.stores.mem.wf = true) (engine : h.engine = some n)
    (ready : h.ready = true) :
    ∃ w t, exec (.glRunComplete { unit := st, checks := checks }) s = .next t ∧
      Wrote s w (s.slotAddr (s.outStream st o) h.posOut) f ∧ t.stores = w.stores ∧
      t.st st = (({ s.st st with held := rest } : StationRt).completes i out).settled ∧ (∀ k, k ≠ st → t.st k = s.st k) ∧
      (t.engine n).runCount = (s.engine n).runCount + 1 ∧ ∀ k, k ≠ n → t.engine k = s.engine k := by
  let w := s.writePort st o h.posOut f
  let y := (w.unheld st rest).countGlFrame n st h
  have wrote : Wrote s w (s.slotAddr (s.outStream st o) h.posOut) f := State.writePort_wrote (State.glFrame_length hf) mapped aligned wf
  have same : w.cells = s.cells := wrote.rest .cells (by decide)
  have glide : w.glide = s.glide := wrote.rest .glide (by decide)
  have counted : Frame [.card, .mgmt, .glide, .sat, .wrap] (w.unheld st rest) y := .countGlFrame (.refl _ _) n st h rfl
  have held' : y.cells = (w.unheld st rest).cells := counted .cells (by decide)
  have station : y.st st = { s.st st with held := rest } := by
    rw [State.st_of_cells held', (w.unheld_moves st rest).own, State.st_of_cells same]
  have goesOn : Open y st := by
    refine Open.of_station goes (r := { s.st st with held := rest }) ?_ rfl
    rw [held', ← State.st_of_cells same st, ← same]
    rfl
  have completed := State.completeKind_completed (k := .glide) goesOn (by rw [station]; exact hi) (by rw [station]; exact hout)
  have kept := completed.frame
  have engines : (y.completeKind st .glide).glide = y.glide := kept .glide (by decide)
  obtain ⟨e, ⟨own, others, -⟩, more⟩ := (w.unheld st rest).countGlFrame_engine n st h
  refine ⟨w, y.completeKind st .glide, ?_, wrote, ?_, ?_, fun k hk => ?_, ?_, fun k hk => ?_⟩
  · rw [← State.glComplete_engine held hf engine]
    exact exec_glRunComplete_ready held host running ready
  · exact (kept.stores_same (by decide) (by decide)).trans (counted.stores_same (by decide) (by decide))
  · rw [← station]
    exact Moves.own completed
  · rw [completed.others k hk, State.st_of_cells held', (w.unheld_moves st rest).others k hk, State.st_of_cells same]
  · rw [State.engine_of_glide engines, own, more]
    exact congrArg (fun e : Engine => e.runCount + 1) (State.engine_of_glide glide n)
  · rw [State.engine_of_glide engines, others k hk]
    exact State.engine_of_glide glide k

/-- Settles O29: on cells with its checks in or run there now, on cells where a check fails, and on an engine. -/
theorem glideCompletes : Obligations.GlideCompletes := by
  intro s st i o cell h rest out f checks goes held host running hf hi hout a mapped aligned wf
  exact ⟨glRunComplete_cell goes held host running hf hi hout mapped aligned wf,
    fun cells waits arrays fail more => glRunComplete_fails held host running cells waits arrays,
    fun n => glRunComplete_engine goes held host running hf hi hout mapped aligned wf⟩

end Sys2Proof.Machine
end

section
/-!
SUPPORT. GL_RUN: on cells exact products, on an engine its sampled codes (R162, R174, R178, R180 to R183).
-/
namespace Sys2Proof.Machine

variable {s t u v : State} {st n i o fmt cell : Nat} {cf : Common} {rnd : Rnd} {adc : List (List (List Int))} {f : List Byte} {g : GlideW}
variable {sh : Fmt × Fmt × Nat × Nat × Nat} {r : StationRt} {sig : List SignalMsg}
variable {checks : List ArrayFail} {fail : ArrayFail} {more : List ArrayFail}

/-! ### What a change of one station leaves -/

theorem Moves.cellOf (m : Moves s t st r sig) (k : Nat) : t.cellOf k = s.cellOf k := by
  rw [m.rest]
  rfl

theorem Moves.engineOf (m : Moves s t st r sig) (k : Nat) : t.engineOf k = s.engineOf k := by
  rw [m.rest]
  rfl

theorem Moves.paramsOf (m : Moves s t st r sig) (k : Nat) : t.paramsOf k = s.paramsOf k := by
  rw [m.rest]
  rfl

theorem Moves.arrayPhase (m : Moves s t st r sig) (k : Nat) : t.arrayPhase k = s.arrayPhase k := by
  rw [m.rest]
  rfl

theorem Moves.glide (m : Moves s t st r sig) : t.glide = s.glide := m.frame .glide (by decide)

theorem Moves.pt (m : Moves s t st r sig) : t.pt = s.pt := m.frame .pt (by decide)

theorem Moves.canIssue (m : Moves s t st r sig) {k : Nat} (hk : k ≠ st) (ok : Kind → Bool) : t.canIssue k ok = s.canIssue k ok := by
  unfold State.canIssue
  rw [m.others k hk, m.rest]
  rfl

theorem Moves.nextWord (m : Moves s t st r sig) {k : Nat} (hk : k ≠ st) : t.nextWord k = s.nextWord k := by
  unfold State.nextWord
  have course : t.course = s.course := by
    rw [m.rest]
    rfl
  rw [m.desc, m.others k hk, course]

/-- Whether another station has a GL_RUN ready. -/
theorem Moves.runReady (m : Moves s t st r sig) {k : Nat} (hk : k ≠ st) : t.runReady k = s.runReady k := by
  unfold State.runReady
  rw [m.nextWord hk, m.canIssue hk, m.others k hk]

theorem Moves.engine (m : Moves s t st r sig) (k : Nat) : t.engine k = s.engine k := State.engine_of_glide m.glide k

/-- The station that an engine would switch to is another than the one whose map is applied. -/
theorem Moves.nextStation (m : Moves s t st r sig) (applied : (s.engine n).applied = some st) : t.nextStation n = s.nextStation n := by
  have same : ((s.engine n).slots.filter fun m => (s.engine n).applied != some m.station && t.runReady m.station) =
      (s.engine n).slots.filter fun m => (s.engine n).applied != some m.station && s.runReady m.station := by
    refine List.filter_congr fun x _ => ?_
    by_cases own : x.station = st
    · rw [applied, own, bne_self_eq_false, Bool.false_and, Bool.false_and]
    · rw [m.runReady own]
  unfold State.nextStation
  rw [m.engine]
  dsimp only
  rw [same]

/-! ### An engine that takes a GL_RUN (R173, R178, R387) -/

theorem State.engineReady_spec (h : s.engineReady n st = true) : s.holds (.glideUser n) = true ∧ (s.engine n).applied = some st := by
  simp only [State.engineReady, Bool.and_eq_true, decide_eq_true_eq] at h
  obtain ⟨⟨⟨⟨⟨⟨-, ticket⟩, applied⟩, -⟩, -⟩, -⟩, -⟩ := h
  exact ⟨ticket, applied⟩

theorem Moves.engineReady (m : Moves s t st r sig) (h : s.engineReady n st = true) : t.engineReady n st = true := by
  have power : t.power = s.power := m.frame .power (by decide)
  have thermal : t.thermal = s.thermal := m.frame .thermal (by decide)
  unfold State.engineReady State.shareOver State.holds State.since at h ⊢
  rw [m.engine, m.nextStation (State.engineReady_spec ‹_›).2, power, thermal, m.pt]
  exact h

theorem Moves.mapStale (m : Moves s t st r sig) (n : Nat) : t.mapStale n = s.mapStale n := by
  unfold State.mapStale State.since
  rw [m.engine, m.pt]

theorem State.engineTakes_ready (ready : s.engineReady n st = true) (fresh : s.mapStale n = false) : s.engineTakes n st = (s, true) := by
  have goes : s.engineGo n st = (s, true) := if_pos (State.engineReady_spec ready).1
  unfold State.engineTakes
  rw [goes]
  dsimp only
  rw [fresh, ready]
  rfl

/-! ### The work of GL_RUN (R180 to R183) -/

/-- What a GL_RUN holds until it completes. -/
def glideEntry (cf : Common) (i o : Nat) : Outst := { kind := .glide, adv := advances cf [i] [o] 1, signal := signalOf cf }

/-- A GL_RUN as its station holds it, with its results. -/
def StationRt.runOf (r : StationRt) (x : Instr) (o : Nat) (f : List Byte) (ys : List (List (Option Rat))) (pt : Word) : HeldRun :=
  { instr := x, engine := none, xframe := f, ys := ys, posOut := r.outPos o, step := r.stepNo, pt := pt }

/-- The state once a command has issued and its GL_RUN is held. -/
def State.holding (s : State) (st : Nat) (o : Outst) (h : HeldRun) : State :=
  (s.issue st [o]).withSt st fun r => { r with held := r.held ++ [h] }

theorem State.holding_moves (s : State) (st : Nat) (o : Outst) (h : HeldRun) :
    Moves s (s.holding st o h) st { (s.st st).issued [o] with held := (s.st st).held ++ [h] } [] := by
  have twice : s.holding st o h = s.withSt st fun r => { r.issued [o] with held := r.held ++ [h] } :=
    s.withSt_withSt st (fun r => r.issued [o]) fun r => { r with held := r.held ++ [h] }
  rw [twice]
  exact .withSt s st _

/-- The work of a GL_RUN on cells, from the frame read to the checks. -/
theorem State.glRun_cell (w : (s.st st).glW = some g) (host : s.cellOf st = some cell) (room : (s.st st).held.length < 2)
    (cells : s.engineOf st = none) (arrays : s.arrayPhase cell = .running) (reads : Reads s st (s.inAddr st i) f v)
    (order : seqOk f ((s.st st).inPos i) = true) (shape : glShape f fmt (s.paramsOf st).rows (s.paramsOf st).cols = some sh) :
    let x := Instr.glRun st cf i o fmt rnd adc .clean checks
    s.glRun st cf i o fmt rnd adc .clean checks =
      (v.holding st (glideEntry cf i o) ((s.st st).runOf x o f ((xRows f (s.paramsOf st)).map (cellVector g (s.paramsOf st).rows)) v.pt)).stopOnFail
        st (v.physical cell) x checks := by
  have read : s.readPort st i ((s.st st).inPos i) .clean = { state := v, frame := some f } := reads
  unfold State.glRun
  simp only [w, host, if_neg (Nat.not_le.mpr room), cells, State.arraysGo_running arrays, read, order, shape, Bool.not_true, Bool.false_eq_true, if_false]
  rfl

/-- The work of a GL_RUN on an engine, from the frame read to the samples counted. -/
theorem State.glRun_engine (w : (s.st st).glW = some g) (host : s.cellOf st = some cell) (room : (s.st st).held.length < 2)
    (engine : s.engineOf st = some n) (takes : s.engineTakes n st = (s, true)) (reads : Reads s st (s.inAddr st i) f v)
    (order : seqOk f ((s.st st).inPos i) = true) (shape : glShape f fmt (s.paramsOf st).rows (s.paramsOf st).cols = some sh) :
    let x := Instr.glRun st cf i o fmt rnd adc .clean checks
    let h := sampleRun ((s.st st).runOf x o f ((xRows f (s.paramsOf st)).map (cellVector g (s.paramsOf st).rows)) v.pt) g (s.paramsOf st) adc n v.pt
    s.glRun st cf i o fmt rnd adc .clean checks = (v.holding st (glideEntry cf i o) h).sampled n st g h adc := by
  have read : s.readPort st i ((s.st st).inPos i) .clean = { state := v, frame := some f } := reads
  unfold State.glRun
  simp only [w, host, if_neg (Nat.not_le.mpr room), engine, takes, read, order, shape, Bool.not_true, Bool.false_eq_true, if_false]
  rfl

/-- An engine counts its service of a GL_RUN that it samples, on that engine alone. -/
theorem State.sampled_engine (s : State) (n st : Nat) (g : GlideW) (h : HeldRun) (adc : List (List (List Int))) :
    ∃ e, OnlyEngine s (s.sampled n st g h adc) n e ∧ e.servedSince = (s.engine n).servedSince + 1 ∧
      e.servedCount = (s.engine n).servedCount + 1 :=
  have counted (k : Nat) : Frame [.wrap, .sat, .mgmt] s ((s.wrapBy (oGld n 0x200) h.slots).satBy (oGld n 0x130) k) :=
    .satBy (.wrapBy (.refl _ _) _ _ rfl) _ _ rfl
  ⟨_, .withEngine (counted _ .glide (by decide)) n _, rfl, rfl⟩

theorem exec_glRun_ready (noneDiscarded : (s.st st).discarded = none) (ready : Ready s st cf isGlide) :
    exec (.glRun st cf i o fmt rnd adc .clean checks) s = .next ((s.entered st cf).glRun st cf i o fmt rnd adc .clean checks) := by
  show execGlRun st cf i o fmt rnd adc .clean checks s = _
  unfold execGlRun
  rw [noneDiscarded]
  exact congrArg Host.Outcome.next (State.gate_ready ready _)

/-- Settles O28: the work on the state in which WE is settled, whose reads leave the station as it was. -/
theorem glideRuns : Obligations.GlideRuns := by
  intro s st cf i o fmt cell rnd adc f g sh v ready r u p w noneDiscarded host room reads order shape checks x used q onCell onEngine
  have entered : Moves s u st r [] := s.entered_moves st cf
  have own : u.st st = r := entered.own
  have kept := reads.sameStations
  have frame := reads.frame
  have pt : v.pt = s.pt := (frame .pt (by decide)).trans entered.pt
  have glide : v.glide = s.glide := (frame .glide (by decide)).trans entered.glide
  have station : v.st st = r := (kept.st st).trans own
  have run := exec_glRun_ready (i := i) (o := o) (fmt := fmt) (rnd := rnd) (adc := adc) (checks := checks) noneDiscarded ready
  have host' : u.cellOf st = some cell := (entered.cellOf st).trans host
  have params : u.paramsOf st = p := entered.paramsOf st
  rw [← own] at w room order
  rw [← params] at shape
  refine ⟨fun cells arrays => ?_, fun n engine takes fresh => ?_⟩
  · have work := State.glRun_cell (cf := cf) (o := o) (rnd := rnd) (adc := adc) (checks := checks) w host' room ((entered.engineOf st).trans cells)
      ((entered.arrayPhase cell).trans arrays) reads order shape
    have holds := v.holding_moves st (glideEntry cf i o) (r.runOf x o f ((xRows f p).map (cellVector g p.rows)) s.pt)
    rw [own, params, pt] at work
    rw [station] at holds
    rw [run]
    dsimp only at work
    rw [work]
    refine ⟨fun passed => ⟨_, congrArg _ (State.stopOnFail_passed passed _ _ _), holds⟩, fun fail more failed => ?_⟩
    have stops := Moves.withSt (v.holding st (glideEntry cf i o) (r.runOf x o f ((xRows f p).map (cellVector g p.rows)) s.pt)) st
      fun r => { r with failed := some (x, fail) }
    rw [holds.own] at stops
    exact ⟨_, _, congrArg _ (State.stopOnFail_failed failed _ _ _), holds.trans stops, State.checkEvents_logged _ _ 0 fail more,
      State.checkEvents_frame _ _ _ 0⟩
  · have work := State.glRun_engine (cf := cf) (o := o) (rnd := rnd) (adc := adc) (checks := checks) w host' room ((entered.engineOf st).trans engine)
      (State.engineTakes_ready (entered.engineReady takes) ((entered.mapStale n).trans fresh)) reads order shape
    rw [own, params, pt] at work
    dsimp only at work
    let h := sampleRun (r.runOf x o f ((xRows f p).map (cellVector g p.rows)) s.pt) g p adc n s.pt
    have holds := v.holding_moves st (glideEntry cf i o) h
    rw [station] at holds
    have sampled : Frame [.mgmt, .glide, .sat, .wrap] (v.holding st (glideEntry cf i o) h)
        ((v.holding st (glideEntry cf i o) h).sampled n st g h adc) := .sampled (.refl _ _) n st g h adc rfl
    have cells := sampled .cells (by decide)
    obtain ⟨e, ⟨served, others, -⟩, since, count⟩ := (v.holding st (glideEntry cf i o) h).sampled_engine n st g h adc
    have engines (k : Nat) : (v.holding st (glideEntry cf i o) h).engine k = s.engine k := State.engine_of_glide (holds.glide.trans glide) k
    refine ⟨_, run.trans (congrArg _ work), ?_, fun k hk => ?_, ?_, ?_, fun k hk => ?_, (holds.frame.weaken rfl).step rfl sampled⟩
    · exact (State.st_of_cells cells st).trans holds.own
    · rw [State.st_of_cells cells, holds.others k hk, kept.st, entered.others k hk]
    · rw [served, since, engines]
    · rw [served, count, engines]
    · rw [others k hk, engines]

end Sys2Proof.Machine
end
